-- ==== Sys2Proof/Word.lean ====
section
/-! DEFINITION. The word types of the Svethild X8: bytes of memory, 32-bit register words (R441). -/
namespace Sys2Proof

/-- One byte. -/
abbrev Byte := BitVec 8
/-- One 32-bit register word (R441). -/
abbrev Word := BitVec 32

end Sys2Proof
end

