-- ==== Sys2Proof/Syntax.lean ====
section
/-! DEFINITION. The commands of the Svethild X8: one constructor of `Instr` per row of spec/opcode_table.json,
with the operands the spec's rule gives that row. Inputs that the module measures (voltages, temperatures, eye
margins, resistances, outcomes of training and of self-test) are operands of the row that reads them. -/
namespace Sys2Proof

/-- Where a Chembe packet came from: a host port with source address and UDP port (R409), or a side-band
endpoint (R469). -/
inductive Src where
  | host (port addr udp : Nat)
  | side (eid : Nat)
  deriving DecidableEq, Repr

/-- What an MCTP message says beside its packet (R466, R468): the tag owner's bit, the message tag, the integrity check bit
and the enterprise number. A host port's datagram has none, and then it counts for nothing. -/
structure Mctp where
  owner : Bool := true
  tag : Nat := 0
  check : Bool := false
  iana : Nat := 61283
  deriving DecidableEq, Repr

/-- The Chembe header of a command that passed R407's first checks (Table 12.2); `chembeOf` gives the packet's other fields.
`rsvClear` says that every reserved header field is 0, `lenOk` that LENGTH matches the opcode's fields and every reserved
parameter is 0 (R408). -/
structure Hdr where
  src : Src
  version : Nat
  seq : Nat
  tag : Nat
  session : Nat
  status : Nat
  rsvClear : Bool
  lenOk : Bool
  /-- The message that carries the packet on the side-band. -/
  mctp : Mctp := {}
  deriving DecidableEq, Repr

/-- A datagram on the Chembe port, or a Chembe packet of the side-band, that a check of R407 may discard. -/
structure RawPacket where
  src : Src
  bytes : List Byte
  deriving DecidableEq, Repr

/-- A packet on a host port that is neither ARP, Neighbor Discovery nor an echo request (R405): the port, its VLAN identifier,
its destination address, and its UDP destination port where it is UDP. -/
structure Stray where
  port : Nat
  vlan : Nat
  v6 : Bool
  dst : Nat
  udp : Option Nat
  deriving DecidableEq, Repr

/-- The Quill header (Table 10.4); `rsvClear` says its reserved fields are 0. -/
structure QHdr where
  qver : Nat
  fabric : Bool
  signal : Bool
  nak : Bool
  vc : Bool
  poison : Bool
  rsvClear : Bool
  srcRole : Nat
  srcList : Nat
  dst : Nat
  lines : Nat
  fmt : Nat
  lseq : Nat
  lack : Nat
  step : Nat
  mseq : Nat
  dstTid : Nat
  arg : Nat
  deriving DecidableEq, Repr

/-- A Quill frame as a port receives it: the port; the channel's peer role; whether its destination address is a group
address (R358), and the frame then belongs to a channel of that group; whether its FCS is good and its FEC decode succeeded,
and the codewords that the decode corrected (R345); the header and the payload bytes (R341). -/
structure QFrame where
  port : Nat
  peer : Nat
  group : Bool
  fcs : Bool
  fec : Bool
  corrected : Nat
  h : QHdr
  payload : List Byte
  deriving DecidableEq, Repr

/-- The intake header (Table 12.7) of a datagram on the intake port. -/
structure IntakeHdr where
  magic : Nat
  version : Nat
  kind : Nat
  frag : Nat
  sampleSeq : Nat
  sampleBytes : Nat
  fragCount : Nat
  sflags : Nat
  rows : Nat
  rsv : Nat
  deriving DecidableEq, Repr

/-- One problem's part of an activation row (R49): element codes, the scale bytes of its blocks, and the A40 sums that
enter with it (R29; empty for +0). -/
structure LaneRow where
  codes : List Nat
  scales : List Nat
  entry : List Nat
  deriving DecidableEq, Repr

/-- One row offered to a Leaf's west Feed: for each problem of the Leaf its part, none where its valid bit is 0 (R49), and
the swap marker (R21). -/
structure FeedRow where
  lanes : List (Option LaneRow)
  marker : Bool
  deriving DecidableEq, Repr

/-- A parity mismatch in the arrays (R54, R55): physical Leaf, Plank row, physical Plank column, whether it lies in the
shared parts of the Leaf, and where the walk of R121 stood: group set, streamed row, column tile, contraction pass. For a
ROOT stroke the set is the block (R309). -/
structure ArrayFault where
  leaf : Nat
  row : Nat
  col : Nat
  shared : Bool
  set : Nat
  line : Nat
  tile : Nat
  pass : Nat
  deriving DecidableEq, Repr

/-- A Desk whose stroke runs (R309, R133), and the array fault that strikes it meanwhile, if any (R54, R55). -/
structure Struck where
  desk : Nat
  fault : Option ArrayFault
  deriving DecidableEq, Repr

/-- What MERGE_WRITE brings to a line (Table 7.1): 128 bytes and the mask of those that it writes. -/
structure MaskedLine where
  mask : Nat
  data : List Byte
  deriving DecidableEq, Repr

/-- One end of a channel (R343): the local port and the role of the peer. -/
structure ChanEnd where
  port : Nat
  peer : Nat
  deriving DecidableEq, Repr

/-- Who reads a line (Table 6.3): an engine of the module by its code (Table 5.4), or a management access. -/
inductive Reader where
  | engine (code : Nat)
  | management
  deriving DecidableEq, Repr

/-- The commands. -/
inductive Instr where
  -- Chembe session, register and lock commands (R409 to R418, R442 to R453)
  | hello (h : Hdr) (version firstSeq : Nat)
  | claim (h : Hdr) (alt : Nat)
  | release (h : Hdr)
  | ping (h : Hdr) (data : List Byte)
  | regRead (h : Hdr) (addr count : Nat)
  | regWrite (h : Hdr) (addr : Nat) (value : Word)
  | regWritePair (h : Hdr) (addr : Nat) (value : Word)
  | lock (h : Hdr) (cls : Nat)
  | unlock (h : Hdr) (cls : Nat)
  -- memory and state commands (R420 to R423, R430)
  | memRead (h : Hdr) (addr bytes mflags : Nat)
  | memWrite (h : Hdr) (addr mflags : Nat) (data : List Byte)
  | memAtomic (h : Hdr) (addr op operand comparand : Nat)
  | scrub (h : Hdr) (base bytes sflags : Nat)
  | digest (h : Hdr) (base bytes : Nat)
  | stateRead (h : Hdr) (offset bytes : Nat)
  | stateWrite (h : Hdr) (offset : Nat) (data : List Byte)
  -- folio and job commands (R424 to R429)
  | folioData (h : Hdr) (offset : Nat) (data : List Byte)
  | loadFolio (h : Hdr) (imageBytes : Nat) (digest : List Byte)
  | start (h : Hdr) (firstStep steps : Nat)
  | stop (h : Hdr) (mode : Nat)
  | setStepSize (h : Hdr) (tagStep value : Nat)
  | setSeed (h : Hdr) (seed : Nat)
  | jobStatus (h : Hdr)
  | routeWrite (h : Hdr) (bank offset : Nat) (data : List Byte)
  | routeArm (h : Hdr) (armStep : Nat)
  -- survival commands (R394 to R399, R367)
  | seal (h : Hdr) (step : Nat)
  | restore (h : Hdr) (step : Nat)
  | adopt (h : Hdr) (role step : Nat)
  | confirm (h : Hdr) (step : Nat)
  | partner2 (h : Hdr) (role : Nat)
  -- events, reports, power (R416, R419, R517, R518, R507)
  | eventAck (h : Hdr) (seq : Nat)
  | eventMask (h : Hdr) (mask : Nat)
  | stepReport (h : Hdr) (step first : Nat)
  | powerStatus (h : Hdr)
  | powerSet (h : Hdr) (mode target : Nat)
  | mainPower (h : Hdr) (on : Nat)
  -- privileged commands (Table 14.7)
  | fwStage (h : Hdr) (offset final : Nat) (data : List Byte)
  | fwCommit (h : Hdr) (version : Nat)
  | idRotate (h : Hdr)
  | eraseAll (h : Hdr) (confirm : Nat)
  | debugUnlock (h : Hdr) (arm : Nat)
  | testMode (h : Hdr) (arm : Nat)
  | sealAck (h : Hdr)
  | attest (h : Hdr) (nonce : List Byte) (part offset : Nat)
  | opcodeUnknown (h : Hdr) (opcode : Nat)
  -- datagrams and host ports (R405, R407, R409, R412, R416, R417)
  | chembeRefused (packet : RawPacket)
  | arp (port targetIp senderIp senderMac : Nat)
  | neighborDiscovery (port targetIp senderIp senderMac : Nat)
  | echoRequest (port : Nat) (v6 : Bool) (targetIp senderIp : Nat) (data : List Byte)
  | sessionTimeout (side : Bool) (session : Nat)
  | commandDone (index : Nat)
  | eventResend (side : Bool)
  | hLinkDown (port : Nat)
  | hostPortTrain (port lanes : Nat)
  -- timeouts and register writes with rows of their own (R450, R453, R457, R231, R331)
  | lockTimeout (mgmt : Bool)
  | guardTimeout (block : Nat)
  | warmReset (h : Hdr)
  | blockReset (h : Hdr) (block : Nat)
  | evacReq (h : Hdr) (cab lchan : Nat)
  | snap (h : Hdr)
  | clear (h : Hdr)
  -- power, pins, start-up (chapter 15)
  | coldStart (vinMv feedId slotId : Nat)
  | escritoireReady (ohms : Option Nat)
  | mainOnStart
  | ready (planks : List (Nat × Nat × Nat × Nat)) (drawers : List (Nat × Nat))
  | standbyLoss (vinMv : Nat)
  | pwrEnRise
  | pwrEnFall
  | resetN (lowNs : Nat)
  | resetNRelease (feedId slotId : Nat)
  | undervolt (vinMv : Nat)
  | overvolt (vinMv lastedNs : Nat)
  | powerFail (vinMv lastedNs : Nat)
  | gaspRailsOff
  | thermTrip (cause : Nat)
  | feedWarn (asserted : Bool) (lastedNs : Nat)
  | heartbeat (secretary : Nat)
  | mainLost
  | vloopStep (powerW : Nat)
  | gateUpdate (powerW : Nat)
  -- presence, seal, staging (R473 to R482)
  | presence (lowNs : Nat)
  | presenceStrapped
  | presenceWindowExpiry
  | sealSample (ohms : Option Nat)
  | fwStageTimeout
  -- side-band protocols (R466 to R472)
  | entdaa (address : Nat)
  | setnewda (address : Nat)
  | getpid
  | getbcr
  | getdcr
  | getstatus
  | getmwl
  | getmrl
  | rstdaa
  | setEndpointId (op eid : Nat)
  | getEndpointId
  | getEndpointUuid
  | getMctpVersionSupport (msgType : Nat)
  | getMessageTypeSupport
  | getVendorDefinedMsgSupport (selector : Nat)
  | getPdrRepositoryInfo
  | getPdr (handle : Nat)
  | getSensorReading (sensor : Nat) (reading : Int)
  | getStateSensorReadings (sensor : Nat)
  | setEventReceiver (eid : Nat)
  | platformEventMessage (sensor : Nat) (reading : Int)
  -- the arrays (chapter 1, R198)
  | wave (desk leaf : Nat) (slotFree : Bool) (parity : Option (Nat × Nat))
  | weightRowLoad (desk leaf : Nat) (codes : List Nat)
  | broadcastRow (desk : Nat) (lanes : List FeedRow)
  | tie (element : Nat)
  | tieForced (element : Nat)
  | leafRateWindow (desk leaf rate tj : Nat)
  -- descriptors (R176 to R183)
  | nop (engine : Nat)
  | mm (desk : Nat) (fault : Option ArrayFault)
  | ew (desk : Nat)
  | row (desk : Nat)
  | gather (desk : Nat)
  | scatter (desk : Nat)
  | root (run : Struck)
  | strokeDone (desk : Nat)
  | tableWait (run : Struck)
  | copy (dma : Nat)
  | fill (dma : Nat)
  | tableLoad (dma : Nat)
  | slotSet (dma : Nat)
  | intakeTake (dma : Nat)
  | takeWait (dma : Nat)
  | dmaDone (dma : Nat)
  | actReplay (dma : Nat)
  | replayRestart (dma : Nat)
  | qwrite (list : Nat)
  | qadd (list : Nat)
  | qmcast (list : Nat)
  | update (nib : Nat)
  | sparseUpdate (nib : Nat)
  | stepSizeStale
  | nibBarrier
  | stepEnd
  | stepTimeout
  | confirmHold
  -- the Sideboard (Table 7.1)
  | lineRead (reader : Reader) (addr : Nat)
  | lineWrite (addr : Nat) (data : List Byte) (poison : Bool)
  | mergeWrite (addr : Nat) (bytes : MaskedLine)
  | exactAdd (addr fmt code : Nat) (poison : Bool)
  | resWait (slice : Nat)
  | fetchAdd (addr operand : Nat)
  | swap (addr operand : Nat)
  | cmpSwap (addr operand comparand : Nat)
  | maxU (addr operand : Nat)
  | minU (addr operand : Nat)
  | sbdWriteback (addr : Nat)
  -- the Cabinets (chapter 6)
  | grantSlot (cab : Nat) (demand : Bool)
  | bgUrgent (cab cls : Nat)
  | bgOverdue (cab cls : Nat)
  | refresh (cab die : Nat)
  | refreshRateRead (cab rate temp : Nat)
  | scrubPass (cab : Nat) (badSpares : List Nat)
  | scrubLine (cab : Nat)
  | scrubLate (cab : Nat)
  | eyeSample (cab : Nat) (margins : List (Nat × Nat))
  | prepare (cab : Nat) (passed : Bool)
  | migrate (cab : Nat) (targetLost : Bool)
  | retraining (cab drawer : Nat) (passed : Bool)
  | pauseSlice (cab : Nat) (last : Bool) (margin : Nat)
  | hardFail (cab drawer : Nat)
  | rebuild (cab : Nat)
  -- the Quill fabric (chapter 10)
  | portTrain (port lanes : Nat)
  | qHello (port role peerPort mac credits0 credits1 : Nat)
  | qEqAdapt (port margin lane : Nat)
  | qRetrain (port lanes : Nat) (alignmentLost : Bool)
  | qLinkDown (port lanes : Nat)
  | handover (dead : ChanEnd) (lastLseq : Nat)
  | ackTimeout (port peer : Nat)
  | ackSend (port peer : Nat)
  | ack (frame : QFrame)
  | qFrameWrite (frame : QFrame)
  | qFrameAdd (frame : QFrame)
  | qFrameMcast (frame : QFrame)
  | qFrameClose (frame : QFrame)
  | delivery (srcRole srcList dst : Nat) (group : Bool) (mseq : Nat)
  | report (frame : QFrame)
  | readReq (frame : QFrame)
  | readResp (frame : QFrame)
  -- survival frames (Table 11.5) and the risk estimator
  | pair (frame : QFrame)
  | map (frame : QFrame)
  | rideCopy (frame : QFrame)
  | echo (frame : QFrame)
  | input (frame : QFrame)
  | mark (frame : QFrame)
  | gasp (frame : QFrame)
  | gaspTimeout (ownerLost : Bool)
  | riskSample
  -- the sample intake (R432 to R438)
  | fragment (port : Nat) (prio : Nat) (h : IntakeHdr) (payload : List Byte)
  | gap (port : Nat) (prio : Nat) (h : IntakeHdr) (payload : List Byte)
  | intakePause
  | intakeRttSample (port lastFrameNs : Nat)
  | intakeThreshMove
  -- drops, bad frames, PFC, PLDM type 0, rail faults
  | datagramDrop (packet : Stray)
  | badFrame (frame : QFrame) (ethertypeOk : Bool) (qtype : Nat)
  | pfcFrame (port prio quanta : Nat)
  | messagingControlAndDiscovery (command : Nat)
  | mainRailFault
  deriving DecidableEq, Repr

end Sys2Proof
end

