-- ==== Sys2Proof/Machine/Bytes.lean ====
section
/-! DEFINITION. Little-endian fields (R13), bit fields, and the sparse lists in which State holds memories and
register files. -/
namespace Sys2Proof.Machine

/-- The `n` low bytes of `v`, least significant first (R13). -/
def le : Nat → Nat → List Byte
  | 0, _ => []
  | n + 1, v => BitVec.ofNat 8 v :: le n (v / 256)

/-- The number that little-endian bytes hold (R13). -/
def leNat : List Byte → Nat
  | [] => 0
  | b :: bs => b.toNat + 256 * leNat bs

/-- The `n` low bytes of `v`, most significant first (network order, R13). -/
def be (n v : Nat) : List Byte := (le n v).reverse

/-- `n` bytes of zero. -/
def zeros (n : Nat) : List Byte := List.replicate n 0

/-- The list cut or padded with zeros to `n` bytes. -/
def fit (n : Nat) (bs : List Byte) : List Byte := bs.take n ++ zeros (n - bs.length)

/-- `n` bytes at offset `o`; bytes past the end read 0. -/
def slice (bs : List Byte) (o n : Nat) : List Byte := fit n ((bs.drop o).take n)

/-- The little-endian field of `n` bytes at offset `o`. -/
def fld (bs : List Byte) (o n : Nat) : Nat := leNat ((bs.drop o).take n)

/-- `bs` with the bytes from offset `o` replaced by `new`. -/
def patch (bs : List Byte) (o : Nat) (new : List Byte) : List Byte :=
  fit o bs ++ new ++ bs.drop (o + new.length)

/-- Bits `hi` to `lo` of `v`. -/
def bits (v hi lo : Nat) : Nat := v / 2 ^ lo % 2 ^ (hi + 1 - lo)

/-- Bit `i` of `v`. -/
def bit (v i : Nat) : Bool := v / 2 ^ i % 2 == 1

/-- `v` with bits `hi` to `lo` replaced by `f`. -/
def setBits (v hi lo f : Nat) : Nat :=
  v / 2 ^ (hi + 1) * 2 ^ (hi + 1) + f % 2 ^ (hi + 1 - lo) * 2 ^ lo + v % 2 ^ lo

/-- `v` with bit `i` set. -/
def orBit (v i : Nat) : Nat := setBits v i i 1

/-- `v` with bit `i` clear. -/
def clearBit (v i : Nat) : Nat := setBits v i i 0

/-- 1 for true, 0 for false. -/
def b2n (b : Bool) : Nat := if b then 1 else 0

/-- A two's complement field of `w` bits as an integer. -/
def toSigned (w v : Nat) : Int := if v % 2 ^ w < 2 ^ (w - 1) then (v % 2 ^ w : Nat) else (v % 2 ^ w : Nat) - (2 ^ w : Nat)

/-- An integer as a two's complement field of `w` bits. -/
def ofSigned (w : Nat) (i : Int) : Nat := (i % (2 ^ w : Nat)).toNat

/-- Smallest multiple of `m` at or above `v`. -/
def roundUp (v m : Nat) : Nat := (v + m - 1) / m * m

/-- ceil(a / b). -/
def ceilDiv (a b : Nat) : Nat := (a + b - 1) / b

/-- The list with element `i` changed by `f`. -/
def modifyAt {α : Type} : List α → Nat → (α → α) → List α
  | [], _, _ => []
  | a :: l, 0, f => f a :: l
  | a :: l, i + 1, f => a :: modifyAt l i f

/-! ## Sparse lists -/

/-- What key `k` holds: the listed value, or `d k` where `k` is not listed. -/
def spGet {α : Type} (d : Nat → α) : List (Nat × α) → Nat → α
  | [], k => d k
  | (j, v) :: m, k => if j = k then v else spGet d m k

/-- `m` with `v` at key `k`, in canonical form: keys rising, no entry equal to what an unlisted key reads as. -/
def spSet {α : Type} [DecidableEq α] (d : Nat → α) : List (Nat × α) → Nat → α → List (Nat × α)
  | [], k, v => if v = d k then [] else [(k, v)]
  | (j, w) :: m, k, v =>
    if j < k then (j, w) :: spSet d m k v
    else if j = k then (if v = d k then m else (k, v) :: m)
    else if v = d k then (j, w) :: m else (k, v) :: (j, w) :: m

/-- `m` without the keys from `lo` to below `hi`. -/
def spClear {α : Type} (m : List (Nat × α)) (lo hi : Nat) : List (Nat × α) :=
  m.filter fun p => p.1 < lo || hi ≤ p.1

/-- The canonical form of a sparse list. -/
def spWf {α : Type} [DecidableEq α] (d : Nat → α) (m : List (Nat × α)) : Bool :=
  decide (m.Pairwise fun a b => a.1 < b.1) && m.all fun p => decide (p.2 ≠ d p.1)

/-- Consecutive values from key `k`. -/
def spGetN {α : Type} (d : Nat → α) (m : List (Nat × α)) (k n : Nat) : List α :=
  (List.range n).map fun i => spGet d m (k + i)

/-- Consecutive values written from key `k`. -/
def spSetN {α : Type} [DecidableEq α] (d : Nat → α) : List (Nat × α) → Nat → List α → List (Nat × α)
  | m, _, [] => m
  | m, k, v :: vs => spSetN d (spSet d m k v) (k + 1) vs

end Sys2Proof.Machine
end

