-- ==== Sys2Proof/Machine/Keccak.lean ====
section
/-! DEFINITION. SHAKE256 of FIPS 202, which the spec takes by reference (R374, R425, R482). The permutation is written
from the five step mappings of FIPS 202 section 3.2: its constants are computed here by the walks that define them. -/
namespace Sys2Proof.Machine

/-- A state array of FIPS 202 section 3.1.2: five planes (by y) of five lanes (by x). -/
abbrev Planes := List (List (BitVec 64))

/-- The lane of sheet `x` in plane `y`, both taken modulo 5. -/
def Planes.at5 (p : Planes) (x y : Nat) : BitVec 64 := (p.getD (y % 5) []).getD (x % 5) 0

/-- The state array whose lane of sheet x in plane y is `f x y`. -/
def planes (f : Nat → Nat → BitVec 64) : Planes :=
  (List.range 5).map fun y => (List.range 5).map fun x => f x y

/-- The walk of rho over the lanes (section 3.2.2): from (1, 0), the lane met at step t turns by (t + 1)(t + 2) / 2; each
next lane is (y, 2 x + 3 y). Sheet, plane and turn of the lanes met. -/
def rhoWalk : Nat → Nat → Nat → Nat → List (Nat × Nat × Nat)
  | 0, _, _, _ => []
  | n + 1, t, x, y => (x, y, (t + 1) * (t + 2) / 2 % 64) :: rhoWalk n (t + 1) y ((2 * x + 3 * y) % 5)

/-- How far each lane turns, plane by plane; the lane that the walk does not meet does not turn. -/
def rhoTurns : List (List Nat) :=
  (List.range 5).map fun y => (List.range 5).map fun x =>
    match (rhoWalk 24 0 1 0).find? fun w => w.1 == x && w.2.1 == y with
    | some w => w.2.2
    | none => 0

/-- The shift register of iota (section 3.2.5): eight bits, tapped at 0, 4, 5 and 6. -/
def rcShift (r : Nat) : Nat := if r < 128 then 2 * r else (2 * r - 256) ^^^ 0x71

/-- The constant of one round: the register's output at its seven next steps, at the bits 2^j - 1; and the register after
them. -/
def rcOf : List Nat → Nat → Nat × Nat
  | [], r => (0, r)
  | j :: js, r => let (c, r') := rcOf js (rcShift r); (c + r % 2 * 2 ^ (2 ^ j - 1), r')

/-- The constants of `n` rounds from a register. -/
def rcList : Nat → Nat → List Nat
  | 0, _ => []
  | n + 1, r => let (c, r') := rcOf (List.range 7) r; c :: rcList n r'

/-- theta: each lane takes the parities of the column before its own and of the turned column after it. -/
def theta (p : Planes) : Planes :=
  let par := (List.range 5).map fun x => p.foldl (fun v row => v ^^^ row.getD x 0) 0
  planes fun x y => p.at5 x y ^^^ par.getD ((x + 4) % 5) 0 ^^^ (par.getD ((x + 1) % 5) 0).rotateLeft 1

/-- rho and pi: lanes turn, then the lane of sheet x + 3 y in plane x comes to sheet x of plane y. -/
def rhoPi (p : Planes) : Planes :=
  let turned := planes fun x y => (p.at5 x y).rotateLeft ((rhoTurns.getD y []).getD x 0)
  planes fun x y => turned.at5 (x + 3 * y) x

/-- chi: within each plane. -/
def chi (p : Planes) : Planes := planes fun x y => p.at5 x y ^^^ (p.at5 (x + 2) y &&& ~~~ p.at5 (x + 1) y)

/-- iota: the round's constant enters lane (0, 0). -/
def iota (c : Nat) (p : Planes) : Planes := modifyAt p 0 fun row => modifyAt row 0 fun l => l ^^^ BitVec.ofNat 64 c

/-- Keccak-p[1600, 24]: 24 rounds. -/
def keccakP (p : Planes) : Planes := (rcList 24 1).foldl (fun p c => iota c (chi (rhoPi (theta p)))) p

/-- Bytes of a state array as section 3.1.3 orders them: plane by plane, each lane little-endian (R13). -/
def Planes.bytes (p : Planes) : List Byte := p.flatten.flatMap fun l => le 8 l.toNat

/-- A state array with the bytes of one block of the rate added to it. -/
def Planes.add (p : Planes) (blk : List Byte) : Planes :=
  planes fun x y => p.at5 x y ^^^ BitVec.ofNat 64 (fld blk (8 * (x + 5 * y)) 8)

/-- The sponge's input phase: `n` blocks of 136 bytes. -/
def spongeIn : Nat → List Byte → Planes → Planes
  | 0, _, p => p
  | n + 1, m, p => spongeIn n (m.drop 136) (keccakP (p.add (m.take 136)))

/-- The sponge's output phase: `n` bytes, at most 136 from each of `fuel` permutations. -/
def spongeOut : Nat → Nat → Planes → List Byte
  | 0, _, _ => []
  | fuel + 1, n, p => p.bytes.take (min n 136) ++ (if n ≤ 136 then [] else spongeOut fuel (n - 136) (keccakP p))

/-- SHAKE256 with `n` bytes of output: the message, the suffix 1111 with pad10*1 up to a whole number of blocks. -/
def shake256 (msg : List Byte) (n : Nat) : List Byte :=
  let blocks := msg.length / 136 + 1
  let last := modifyAt (modifyAt (zeros (136 * blocks - msg.length)) 0 fun b => b ^^^ 0x1F)
    (136 * blocks - msg.length - 1) fun b => b ^^^ 0x80
  spongeOut (n / 136 + 1) n (spongeIn blocks (msg ++ last) (planes fun _ _ => 0))

end Sys2Proof.Machine
end

