-- ==== Sys2Proof/Machine/Num.lean ====
section
/-! DEFINITION. Exact values, the eight formats, rounding, the stochastic-rounding generator and block scales
(chapter 2). A value is exact until `roundQ` narrows it. -/
namespace Sys2Proof.Machine

/-- An exact value: NaN, an infinity, or (-1)^neg × m × 2^e. Zero keeps its sign. -/
inductive XV where
  | nan
  | inf (neg : Bool)
  | fin (neg : Bool) (m : Nat) (e : Int)
  deriving DecidableEq, Repr

/-- +0. -/
def XV.zero : XV := .fin false 0 0

/-- Is the value ±0? -/
def XV.isZero : XV → Bool
  | .fin _ 0 _ => true
  | _ => false

/-- Is the value finite? -/
def XV.isFin : XV → Bool
  | .fin _ _ _ => true
  | _ => false

/-- Sign bit; NaN counts as positive. -/
def XV.isNeg : XV → Bool
  | .nan => false
  | .inf n => n
  | .fin n _ _ => n

/-- Negation. -/
def XV.negate : XV → XV
  | .nan => .nan
  | .inf n => .inf !n
  | .fin n m e => .fin (!n) m e

/-- Magnitude. -/
def XV.abs : XV → XV
  | .nan => .nan
  | .inf _ => .inf false
  | .fin _ m e => .fin false m e

/-- An integer times 2^e; an exact zero is +0. -/
def XV.ofInt (i : Int) (e : Int) : XV := .fin (decide (i < 0)) i.natAbs e

/-- A natural number. -/
def XV.ofNat (n : Nat) : XV := .fin false n 0

/-- Signed significand of a finite value. -/
def XV.sig : XV → Int
  | .fin n m _ => if n then -(m : Int) else m
  | _ => 0

/-- Exponent of the significand of a finite value. -/
def XV.expo : XV → Int
  | .fin _ _ e => e
  | _ => 0

/-- 2^k for k at or above 0. -/
def pow2 (k : Int) : Nat := 2 ^ k.toNat

/-- Exact sum of finite values, exact zero to +0 unless both are -0; IEEE 754 for the rest (R89, R91). -/
def XV.add : XV → XV → XV
  | .nan, _ => .nan
  | _, .nan => .nan
  | .inf a, .inf b => if a = b then .inf a else .nan
  | .inf a, _ => .inf a
  | _, .inf b => .inf b
  | .fin a m e, .fin b n f =>
    let g := min e f
    let s : Int := (if a then -1 else 1) * ((m * pow2 (e - g) : Nat) : Int)
      + (if b then -1 else 1) * ((n * pow2 (f - g) : Nat) : Int)
    if s = 0 then .fin (a && b) 0 0 else .ofInt s g

/-- Exact difference. -/
def XV.sub (x y : XV) : XV := x.add y.negate

/-- Exact product; zero times infinity is NaN. -/
def XV.mul : XV → XV → XV
  | .nan, _ => .nan
  | _, .nan => .nan
  | .inf a, y => if y.isZero then .nan else .inf (a != y.isNeg)
  | x, .inf b => if x.isZero then .nan else .inf (x.isNeg != b)
  | .fin a m e, .fin b n f => .fin (a != b) (m * n) (e + f)

/-- The value times 2^k. -/
def XV.scale (x : XV) (k : Int) : XV :=
  match x with
  | .fin n m e => .fin n m (e + k)
  | y => y

/-- x < y among non-NaN values. -/
def XV.lt : XV → XV → Bool
  | .nan, _ => false
  | _, .nan => false
  | .inf a, .inf b => a && !b
  | .inf a, _ => a
  | _, .inf b => !b
  | x, y => decide ((x.sub y).sig < 0)

/-- Equal as numbers: +0 equals -0, NaN equals nothing. -/
def XV.eqv : XV → XV → Bool
  | .nan, _ => false
  | _, .nan => false
  | .inf a, .inf b => a == b
  | .inf _, _ => false
  | _, .inf _ => false
  | x, y => (x.sub y).sig == 0

/-- floor_log2 of n / d × 2^e, both nonzero. -/
def floorLog2Q (n d : Nat) (e : Int) : Int :=
  let k : Int := (Nat.log2 n : Int) - Nat.log2 d
  -- n / d lies in [2^(k-1), 2^(k+1))
  (if n * pow2 (-k) < d * pow2 k then k - 1 else k) + e

/-- floor_log2 of a finite nonzero value. -/
def XV.floorLog2 : XV → Int
  | .fin _ m e => (Nat.log2 m : Int) + e
  | _ => 0

/-- Integer square root, by bits from 2^k down. -/
def isqrtGo : Nat → Nat → Nat → Nat
  | 0, n, r => if (r + 1) * (r + 1) ≤ n then r + 1 else r
  | k + 1, n, r =>
    let t := r + 2 ^ (k + 1)
    isqrtGo k n (if t * t ≤ n then t else r)

/-- floor of the square root. -/
def isqrt (n : Nat) : Nat := isqrtGo (Nat.log2 n / 2 + 1) n 0

/-! ## Formats (Tables 2.1 to 2.3) -/

/-- The format codes of Table 2.1. -/
abbrev fA40 : Nat := 0
abbrev fF32 : Nat := 1
abbrev fW24 : Nat := 2
abbrev fBF16 : Nat := 3
abbrev fE5M2 : Nat := 4
abbrev fE4M3 : Nat := 5
abbrev fINT8 : Nat := 6
abbrev fE2M1 : Nat := 7

/-- Is the format block-scaled (Table 2.1)? -/
def fmtBlocked (f : Nat) : Bool := decide (4 ≤ f)

/-- Fraction bits p (Table 2.1); 6 for INT8. -/
def fmtP (f : Nat) : Nat := [29, 23, 14, 7, 2, 3, 6, 1].getD f 0

/-- Exponent field width. -/
def fmtE (f : Nat) : Nat := [10, 8, 9, 8, 5, 4, 0, 2].getD f 0

/-- Bias. -/
def fmtBias (f : Nat) : Int := ([511, 127, 255, 127, 15, 7, 0, 1] : List Int).getD f 0

/-- Exponent of the smallest normal (Table 2.2). -/
def fmtEmin (f : Nat) : Int := 1 - fmtBias f

/-- emax of Table 2.2. -/
def fmtEmax (f : Nat) : Int := ([511, 127, 255, 127, 15, 8, 0, 2] : List Int).getD f 0

/-- Largest finite value of Table 2.2 as m × 2^e. -/
def fmtMax (f : Nat) : XV :=
  match f with
  | 5 => .fin false 14 5
  | 6 => .fin false 127 (-6)
  | _ => .fin false (2 ^ (fmtP f + 1) - 1) (fmtEmax f - fmtP f)

/-- Width of a code in bits (Table 2.1). -/
def fmtWidth (f : Nat) : Nat := [40, 32, 24, 16, 8, 8, 8, 4].getD f 0

/-- Bytes of an element in storage (Table 2.1); 0 for E2M1, two of which share a byte. -/
def fmtBytes (f : Nat) : Nat := [8, 4, 3, 2, 1, 1, 1, 0].getD f 0

/-- Elements of a block by its code (Table 2.4); 1 when unblocked. -/
def blkSize (c : Nat) : Nat := [1, 16, 32, 64, 128].getD c 1

/-- Code of the sign bit. -/
def signCode (f : Nat) (neg : Bool) : Nat := if neg then 2 ^ (fmtWidth f - 1) else 0

/-- Canonical NaN code (Table 2.3, R67); 0 where the format has none. -/
def nanCode (f : Nat) : Nat :=
  [0x7FF0000000, 0x7FC00000, 0x7FE000, 0x7FC0, 0x7E, 0x7F, 0, 0].getD f 0

/-- Code of an infinity (Table 2.3); the NaN code in E4M3 (R79). -/
def infCode (f : Nat) (neg : Bool) : Nat :=
  if f = 5 then 0x7F else if 6 ≤ f then 0
  else signCode f neg + (2 ^ fmtE f - 1) * 2 ^ fmtP f

/-- Value of an element code (R62 to R64), without a block scale. -/
def decode (f c : Nat) : XV :=
  if f = 6 then .ofInt (toSigned 8 c) (-6)
  else
    let p := fmtP f
    let neg := bit c (fmtWidth f - 1)
    let ef := c / 2 ^ p % 2 ^ fmtE f
    let fr := c % 2 ^ p
    let top := 2 ^ fmtE f - 1
    if f = 5 ∧ ef = top ∧ fr = 7 then .nan
    else if f ≤ 4 ∧ ef = top then (if fr = 0 then .inf neg else .nan)
    else if ef = 0 then .fin neg fr (fmtEmin f - p)
    else .fin neg (2 ^ p + fr) (ef - fmtBias f - p)

/-- Code of q × 2^u in the format, where q < 2^(p+1) or q = 2^(p+1) after a carry (R77's `encode`). -/
def encodeQ (f : Nat) (neg : Bool) (q : Nat) (u : Int) : Nat :=
  if f = 6 then ofSigned 8 (if neg then -(q : Int) else q)
  else
    let p := fmtP f
    let (q, u) := if q = 2 ^ (p + 1) then (2 ^ p, u + 1) else (q, u)
    if q < 2 ^ p then signCode f neg + q
    else signCode f neg + (u + p + fmtBias f).toNat * 2 ^ p + (q - 2 ^ p)

/-- A rounding mode: RNE, or SR with the word that the element's key draws (R77, R81). -/
inductive Rnd where
  | rne
  | sr (word : Nat)
  deriving DecidableEq, Repr

/-- Does the discarded part r / d round the magnitude up? `odd` says that q is odd (R77). -/
def roundsUp (mode : Rnd) (r d : Nat) (odd : Bool) : Bool :=
  match mode with
  | .rne => decide (d < 2 * r) || (decide (2 * r = d) && odd)
  | .sr w => decide (2 ^ 32 ≤ r * 2 ^ 32 / d + w)

/-- R77 on the exact finite value (-1)^neg × n / d × 2^e: the code, and whether the value clamped. -/
def roundQ (f : Nat) (mode : Rnd) (neg : Bool) (n d : Nat) (e : Int) : Nat × Bool :=
  if n = 0 then (if f = 6 then 0 else signCode f neg, false)
  else
    let u : Int := if f = 6 then -6 else max (floorLog2Q n d e) (fmtEmin f) - fmtP f
    -- value / u = n × 2^(e - u) / d
    let num := n * pow2 (e - u)
    let den := d * pow2 (u - e)
    let q := num / den
    let r := num % den
    let q := if roundsUp mode r den (q % 2 = 1) then q + 1 else q
    match fmtMax f with
    | .fin _ mm me =>
      let clamps := decide (mm * pow2 (me - u) < q * pow2 (u - me))
      if clamps then (encodeQ f neg mm me, true) else (encodeQ f neg q u, false)
    | _ => (0, false)

/-- Encoding of any value (R77 to R79): the code, saturations counted, and whether it counts as non-finite. -/
def encodeXV (f : Nat) (mode : Rnd) (x : XV) : Nat × Nat × Nat :=
  match x with
  | .nan => (nanCode f, 0, 1)
  | .inf n => (infCode f n, 0, 1)
  | .fin n m e => let (c, s) := roundQ f mode n m 1 e; (c, b2n s, 0)

/-- A value rounded to a format and read back. -/
def roundXV (f : Nat) (x : XV) : XV := decode f (encodeXV f .rne x).1

/-- round_a40 (R89): an exact zero rounds to +0. -/
def roundA40 (x : XV) : XV := if x.isZero then .zero else roundXV fA40 x

/-- The quotient x / y rounded to a format in RNE; IEEE 754 for the non-finite cases. Answers the value and whether
it clamped. -/
def divRound (f : Nat) (x y : XV) : XV × Bool :=
  match x, y with
  | .nan, _ => (.nan, false)
  | _, .nan => (.nan, false)
  | .inf _, .inf _ => (.nan, false)
  | .inf a, y => (.inf (a != y.isNeg), false)
  | x, .inf b => (.fin (x.isNeg != b) 0 0, false)
  | .fin a m e, .fin b n g =>
    if n = 0 then (if m = 0 then .nan else .inf (a != b), false)
    else let (c, s) := roundQ f .rne (a != b) m n (e - g); (decode f c, s)

/-- The square root rounded to a format in RNE: √(-0) is -0, the root of a negative value is NaN. -/
def sqrtRound (f : Nat) (x : XV) : XV :=
  match x with
  | .nan => .nan
  | .inf n => if n then .nan else .inf false
  | .fin n m e =>
    if m = 0 then .fin n 0 0
    else if n then .nan
    else
      -- m × 2^e = m' × 2^(2h); isqrt with 128 further bits and a sticky bit rounds as the exact root does
      let h := e / 2 - 64
      let m' := m * pow2 (e - 2 * h)
      let r := isqrt m'
      let s := if r * r = m' then 2 * r else 2 * r + 1
      decode f (roundQ f .rne false s 1 (h - 1)).1

/-! ## Stochastic rounding (R81, R82) -/

/-- Rotate a 32-bit word left. -/
def rotl32 (x n : Nat) : Nat := (x * 2 ^ n + x / 2 ^ (32 - n)) % 2 ^ 32

/-- One round of R81's loop over (x0, x1, x2, x3). -/
def srRound (k0 k1 : Nat) (x : Nat × Nat × Nat × Nat) (rc : Nat) : Nat × Nat × Nat × Nat :=
  let M := 2 ^ 32
  let x0 := (x.1 + k0 + rc) % M
  let x1 := (x.2.1 + k1) % M
  let x0 := (x0 + x1) % M
  let x3 := rotl32 (x.2.2.2 ^^^ x0) 16
  let x2 := (x.2.2.1 + x3) % M
  let x1 := rotl32 (x1 ^^^ x2) 12
  let x0 := (x0 + x1) % M
  let x3 := rotl32 (x3 ^^^ x0) 8
  let x2 := (x2 + x3) % M
  let x1 := rotl32 (x1 ^^^ x2) 7
  (x0, x1, x2, x3)

/-- sr_word of R81. -/
def srWord (seed tid idx step : Nat) : Nat :=
  let x := [0x9E3779B9, 0x3C6EF372, 0xDAA66D2B, 0x78DDE6E4].foldl
    (srRound (seed % 2 ^ 32) (seed / 2 ^ 32 % 2 ^ 32))
    (idx % 2 ^ 32, idx / 2 ^ 32 % 2 ^ 32, tid % 2 ^ 32, step % 2 ^ 32)
  x.1 ^^^ x.2.2.1

/-! ## Block scales (R69 to R76) -/

/-- Value of an element under its block's scale byte (R69, R70); `blk` 0 means unblocked. -/
def readElem (f blk code scale : Nat) : XV :=
  if blk = 0 then decode f code
  else if scale = 0xFF then .nan
  else (decode f code).scale ((scale : Int) - 127)

/-- What writing counts: saturations and non-finite values (R73, R77, R79). -/
structure Counts where
  sat : Nat
  nonfin : Nat
  deriving DecidableEq, Repr

/-- The largest magnitude of the finite values. -/
def amax (xs : List XV) : XV :=
  xs.foldl (fun a x => if x.isFin && a.lt x.abs then x.abs else a) .zero

/-- encode_block of R73: the scale byte, the codes, and the counts. Each value comes with its rounding mode. -/
def encodeBlock (f : Nat) (xs : List (XV × Rnd)) : Nat × List Nat × Counts :=
  let nf := (xs.filter fun x => !x.1.isFin).length
  if 0 < nf ∧ 6 ≤ f then (0xFF, xs.map fun _ => 0, ⟨0, nf⟩)
  else
    let a := amax (xs.map Prod.fst)
    let e : Int := if a.isZero then 0 else
      let e := a.floorLog2 - fmtEmax f
      if (fmtMax f).lt (a.scale (-e)) then e + 1 else e
    let sat := decide (127 < e)
    let e := max (-127) (min 127 e)
    let one := fun (x : XV × Rnd) =>
      match x.1 with
      | .nan => (nanCode f, 0)
      | .inf n => (infCode f n, 0)
      | .fin n m k =>
        let y := XV.fin n m (k - e)
        if sat && (fmtMax f).lt y.abs then
          ((encodeXV f .rne (if n then (fmtMax f).negate else fmtMax f)).1, 1)
        else let (c, s, _) := encodeXV f x.2 y; (c, s)
    let r := xs.map one
    ((e + 127).toNat, r.map Prod.fst, ⟨(r.map Prod.snd).sum, nf⟩)

/-! ## In-block sums and stations (R85 to R93) -/

/-- The exact sum of products, with IEEE 754 rules for the non-finite ones (R85, R91). -/
def exactSum (ps : List XV) : XV := ps.foldl XV.add .zero

/-- window_sum of R86; non-finite products follow R91. -/
def windowSum (ps : List XV) : XV :=
  if ps.any fun p => !p.isFin then exactSum ps
  else
    let nz := ps.filter fun p => !p.isZero
    match nz with
    | [] => .zero
    | p :: rest =>
      let top := rest.foldl (fun t q => max t q.floorLog2) p.floorLog2
      let g := top - 63
      .ofInt ((nz.map fun q => (if q.isNeg then -1 else 1) *
        ((q.sig.natAbs * pow2 (q.expo - g) / pow2 (g - q.expo) : Nat) : Int)).sum) g

/-- station of R88. -/
def station (acc blockSum : XV) (sa sb : Int) : XV := roundA40 (acc.add (blockSum.scale (sa + sb)))

/-- Truncation toward zero to BF16 (R92). -/
def truncBF16 (x : XV) : XV :=
  match x with
  | .fin n m e =>
    if m = 0 then x
    else
      let u := max ((Nat.log2 m : Int) + e) (fmtEmin fBF16) - 7
      .fin n (m * pow2 (e - u) / pow2 (u - e)) u
  | y => y

/-- hi and lo of R92. -/
def splitHi (x : XV) : XV := truncBF16 x
def splitLo (x : XV) : XV := if x.isFin then truncBF16 (x.sub (truncBF16 x)) else .zero

end Sys2Proof.Machine
end

