-- ==== Sys2Proof/Config.lean ====
section
/-! DEFINITION. What the spec leaves open: free values with no body. Nothing in Lean can evaluate them, so a
statement holds for every value they could have. Each is applied to the counter `State.free` or to the operands it
depends on. -/
namespace Sys2Proof

/-- DESIGN CHOICE (log 3). The n-th free value that the module draws: entropy (R485, R486), session numbers (R409),
the port that a frame takes among equals (R349), the winner of a tie (R198). No result bit depends on one (R8). -/
opaque Config.freeNat : Nat → Nat

/-- DESIGN CHOICE (log 3). The n-th free byte string of the given length: nonces and seeds (R485, R486). -/
opaque Config.freeBytes : Nat → Nat → List Byte

/-- DESIGN CHOICE (log 3). The count that a semaphore takes when a module's peers drive it past 16 bits: by semaphore and
the number of increments. Only operands of the job enter it (R4). -/
opaque Config.openSem : Nat → Nat → Nat

/-- DESIGN CHOICE (log 3). The bytes that TABLE_LOAD or SLOT_SET reads where a line is marked: by address and length. Only
operands of the job enter them (R4). -/
opaque Config.openBytes : Nat → Nat → List Byte

/-- DESIGN CHOICE (log 3). Does a block of ROOT with a marked element meet the test of R309: by its elements, F32 codes,
none where marked, and by p and the code of EPS. Only operands of the job enter it (R4). -/
opaque Config.openRoot : List (List (Option Nat)) → Nat → Nat → Bool

/-- DESIGN CHOICE (log 93). Where the centre of a read eye lies from a setting (R230): by Cabinet, setting (physical
Drawer, or 128 + 16 × Drawer + lane) and time: 0 here, 1 above, 2 below, modulo 3. It affects timing only. -/
opaque Config.eyeStep : Nat → Nat → Nat → Nat

/-- DESIGN CHOICE (log 82). Occurrences of an event, or entries into a state, whose moments the spec leaves to the implementation's
timing: by event code (Table 9.3) and nanosecond. No result depends on them (R332). -/
opaque Config.openCount : Nat → Nat → Nat

/-- DESIGN CHOICE (log 82). Instances of such a state in a nanosecond, by event code and nanosecond. -/
opaque Config.openState : Nat → Nat → Nat

/-- DESIGN CHOICE (log 82). FEC codewords of a host port from one received frame to the next: 0 corrected, 1 uncorrectable; port,
number of the frame (R461). -/
opaque Config.hostFec : Nat → Nat → Nat → Nat

/-- DESIGN CHOICE (log 84). Does a board that tripped the module still drive THERM_TRIP_N low: by time (R502). -/
opaque Config.boardTrips : Nat → Bool

/-- UNVERIFIED (log 6). ML-DSA-65 key generation of FIPS 204 from a 32-byte seed (R485): the public key. -/
opaque Config.mldsaPublic : List Byte → List Byte

/-- UNVERIFIED (log 6). ML-DSA-65 signature of FIPS 204: seed of the key, context string, message
(R487, R489). -/
opaque Config.mldsaSign : List Byte → List Byte → List Byte → List Byte

/-- UNVERIFIED (log 6). ML-DSA-65 verification under boot ROM key 0 to 3 (R482): key index, context, message,
signature. -/
opaque Config.romVerify : Nat → List Byte → List Byte → List Byte → Bool

/-- DESIGN CHOICE (log 31). Bytes of a side-band answer whose values the spec does not give: by answer (1 GETSTATUS,
2 GETMWL, 3 GETMRL, 4 endpoint type and medium bytes, 5 UUID, 6 MCTP versions, 7 vendor command set, 8 repository times
and sizes, 9 the rest of a PDR, 10 the rest of a PLDM Type 0 answer) and operand. -/
opaque Config.sideBytes : Nat → Nat → List Byte

/-- The key K that the Escritoire derives from its physical unclonable function through the helper data in flash (R486),
32 bytes. -/
opaque Config.pufKey : List Byte → List Byte

/-- DESIGN CHOICE (log 115). The X.509 certificate with which Odvate endorses a public key at commissioning (R485). -/
opaque Config.endorsed : List Byte → List Byte

end Sys2Proof
end

