-- ==== Sys2Proof/Machine/State.lean ====
section
/-! DEFINITION. Everything the spec gives the Svethild X8 to hold, as plain data, and the machine after reset. Each
field's docstring cites the rule that names it; INVENTORY.md lists the same fields. -/
namespace Sys2Proof.Machine

/-- A step fault of the model: only what the spec says cannot exist. -/
inductive Fault where
  /-- Raised by a Sideboard or Cabinet command whose line address lies outside the decoded range (R211, R213: no
  descriptor can reach a Cabinet with such an address). Safe: the model stops where the hardware has no such step. -/
  | undecodedAddress (addr : Nat)
  deriving DecidableEq, Repr

/-- Why a command has no meaning. -/
inductive Refusal where
  /-- Raised by an arm of `exec` that has no meaning yet. Safe. -/
  | notModelled (mnemonic : String)
  deriving DecidableEq, Repr

/-! ## What the module sends -/

/-- A Chembe reply packet (R406). -/
structure Reply where
  dst : Src
  op : Nat
  tag : Nat
  session : Nat
  status : Nat
  /-- FLAGS.ACCEPTED (R412). -/
  accepted : Bool
  params : List Byte
  /-- Message tag of the request, on the side-band (R468); the tag owner's bit is clear. -/
  msgTag : Nat := 0
  deriving DecidableEq, Repr

/-- The Ethernet header of a Quill frame (Table 10.3): destination and source address as 48-bit integers, priority and
VLAN identifier in switched topology, EtherType. -/
structure Ether where
  dst : Nat
  src : Nat
  tag : Option (Nat × Nat)
  etype : Nat
  deriving DecidableEq, Repr

/-- One thing the module sends. -/
inductive Out where
  /-- A Chembe reply to the source of its command (R406, R417). -/
  | reply (r : Reply)
  /-- An EVENT packet (R416): carrier, the host port it leaves on, the destination address or EID, the session, the
  sequence number in TAG, and the parameters. -/
  | event (side : Bool) (port dest session tag : Nat) (params : List Byte)
  /-- A Quill frame (R340, R341): port, Ethernet header, TYPE of Table 10.5, Quill header, payload. -/
  | quill (port : Nat) (e : Ether) (qtype : Nat) (h : QHdr) (payload : List Byte)
  /-- A CTRL frame (Table 10.5): port, Ethernet header, Quill header, payload; `kind` is the model's tag of its purpose
  (log 12): 1 HELLO, 2 equaliser steering, 3 handover. -/
  | ctrl (port kind : Nat) (e : Ether) (h : QHdr) (payload : List Byte)
  /-- A PFC frame on a host port (R437): port, priority, quanta. -/
  | pfc (port prio quanta : Nat)
  /-- An answer of Table 12.1 on a host port: 0 ARP, 1 Neighbor Discovery, 2 ICMP echo, 3 ICMPv6 echo. -/
  | net (port kind ownIp peerIp : Nat) (data : List Byte)
  /-- An answer on I3C to a common command code (R466), or an in-band interrupt (R467). -/
  | i3c (ccc : Nat) (data : List Byte)
  /-- An answer to an MCTP control request (R466): command code, completion code, data. -/
  | mctp (command completion : Nat) (data : List Byte)
  /-- A PLDM answer, or a PlatformEventMessage (R472): type, command, completion code, data. -/
  | pldm (type command completion : Nat) (data : List Byte)
  deriving DecidableEq, Repr

/-! ## Pins, power and flash -/

/-- Levels of the input pins that last beyond a row (Table 15.6). The straps, PRESENCE_N's low time, the seal loop and
THERM_TRIP_N reach the module as operands of the rows that read them. -/
structure Pins where
  /-- PWR_EN high. -/
  pwrEn : Bool
  /-- RESET_N high. -/
  resetN : Bool
  deriving DecidableEq, Repr

/-- How a start-up began (Table 15.9a, R508, R511, R515). -/
inductive StartKind where
  | cold | warm | fromHold
  deriving DecidableEq, Repr

/-- The main side (R507, R508, R511). -/
inductive MainSide where
  | off
  | starting (kind : StartKind)
  | on
  | hold
  deriving DecidableEq, Repr

/-- The main switch of the Escritoire (R507). -/
inductive MainSwitch where
  | off | on | hold
  deriving DecidableEq, Repr

/-- The last-gasp sequence (R397): when POWER_FAIL was found, the lowest input seen, and the job state that its record
takes. -/
structure GaspRun where
  since : Nat
  lowestMv : Nat
  jobState : Nat
  deriving DecidableEq, Repr

/-- Power state (chapter 15). -/
structure Power where
  /-- Input voltage in mV (R491). -/
  vinMv : Nat
  /-- Standby rails up (R494). -/
  standby : Bool
  /-- Time of this standby power-up (Tables 14.6 and 14.9). -/
  upSince : Nat
  main : MainSide
  switch : MainSwitch
  /-- Main rails good (MAIN_OK, Table 15.6). -/
  mainOk : Bool
  /-- When the main rails last went off (R507: 100 ms). -/
  railsOffAt : Option Nat
  /-- Time and cause of the last hardware trip (R501, R502). -/
  trip : Option (Nat × Nat)
  /-- Over-voltage holds the main side off (R492). -/
  overvolt : Bool
  /-- VIN below 48.0 V since (R492). -/
  below48Since : Option Nat
  gasp : Option GaspRun
  /-- A last gasp has run for the present loss of the input, which ends at 33.0 V (R397, R512). -/
  gasped : Bool
  /-- Gate level g, 0 to 14 (R498). -/
  gate : Nat
  /-- Raising of VDD_ARRAY forbidden since entries 2, 3 and 4 of Table 15.3 acted. -/
  barHot : Bool
  barMem : Bool
  barCap : Bool
  /-- Evaluations of the loop since the last step down for MEM_HOT (one per 1 ms). -/
  memSteps : Nat
  /-- Coolant inlet above 40 °C has been reported (Table 15.11). -/
  coolantHot : Bool
  /-- Highest 1 ms average since the last POWER_STATUS (Table 15.10). -/
  peakStatus : Nat
  /-- Strokes of the last 1 ms: Desk, start and end (R498). -/
  busy : List (Nat × Nat × Nat)
  /-- Timestamp counter (R330): runs while the main side is on, warm starting, or in HOLD. -/
  timeOn : Bool
  deriving DecidableEq, Repr

/-- The configuration record (R2, R405, R508). -/
structure ConfigRec where
  /-- MAC address of host port 0 and 1, first octet most significant (R13). -/
  mac0 : Nat
  mac1 : Nat
  ipv40 : Nat
  ipv41 : Nat
  ipv60 : Nat
  ipv61 : Nat
  /-- IPv4 prefix lengths and gateways, IPv6 gateways (R405): nothing that the module sends depends on them. -/
  prefix40 : Nat
  prefix41 : Nat
  gate40 : Nat
  gate41 : Nat
  gate60 : Nat
  gate61 : Nat
  vlan : Nat
  chembePort : Nat
  /-- Priority of Chembe traffic (R462). -/
  chembePrio : Option Nat
  /-- Serial, 16 bytes, and ordering code 0 or 1 with its text (R3, HELLO). -/
  serial : List Byte
  order : Nat
  orderCode : List Byte
  manufacturer : Nat
  /-- Base MAC of the Quill ports (R340). -/
  quillMac : Nat
  /-- Enabled Quill ports, one bit each (Table 15.7). -/
  quillPorts : Nat
  /-- Presets of CD and RW fields: window address and word (R508). -/
  presets : List (Nat × Word)
  /-- The record's bytes, for CONFIG_DIGEST (Table 14.9). -/
  bytes : List Byte
  deriving DecidableEq, Repr

/-- A firmware slot (R482): the writes into it, newest first. -/
abbrev Slot := List (Nat × List Byte)

/-- A wrapped identity seed (R486). -/
structure Identity where
  nonce : List Byte
  c : List Byte
  tag : List Byte
  /-- The public key, rebuilt at each start. -/
  pubKey : List Byte
  deriving DecidableEq, Repr

/-- Flash (R2, R17, R236, R414, R476 to R488, R512). -/
structure Flash where
  config : ConfigRec
  /-- Failed Planks: Desk, Leaf, row, column (R17). -/
  planks : List (Nat × Nat × Nat × Nat)
  /-- Repair record: Cabinet, logical channel, physical Drawer that serves it (R236). -/
  drawerMap : List (Nat × Nat × Nat)
  /-- Cabinet and physical Drawer that failed for good (R236). -/
  drawerFailed : List (Nat × Nat)
  slot0 : Slot
  slot1 : Slot
  /-- Active slot, 0 or 1; a committed trial; starts of the trial that have not reached READY (R483). -/
  active : Nat
  trial : Bool
  trialStarts : Nat
  svnFloor : Nat
  keyFloor : Nat
  /-- Seal log: records of Table 14.6 and whether each is acknowledged; next SEQ; overflow count. -/
  sealLog : List (List Byte × Bool)
  sealSeq : Nat
  sealOverflow : Nat
  sealBreaks : Nat
  sealAcks : Nat
  /-- Recorded breaks that await SEAL_ACK (R477): bit 0 an open loop, bit 1 a shifted resistance. -/
  sealBreak : Nat
  /-- Standby power-ups since commissioning. -/
  cycle : Nat
  /-- R_b in ohms (R476). -/
  baseline : Nat
  powerLog : List (List Byte)
  /-- A power-log record awaits POWER_RESTORED (Table 15.11). -/
  restorePending : Bool
  /-- Commissioned: R_b recorded and the identity generated (R476, R485); the helper data of the physical unclonable
  function (R486). -/
  commissioned : Bool
  helper : List Byte
  identity : Option Identity
  pendingId : Option Identity
  /-- Rotation certificates, oldest first (R487). -/
  rotations : List (List Byte)
  certificate : List Byte
  /-- Owner address and ALT_ADDR (R414, R513). -/
  owner : Option (Nat × Nat)
  armDebug : Bool
  armTest : Bool
  deriving DecidableEq, Repr

/-! ## Escritoire -/

/-- Firmware staging (R482): the session it belongs to and the time of its last FW_STAGE. -/
structure Staging where
  src : Src
  session : Nat
  last : Nat
  deriving DecidableEq, Repr

/-- The Escritoire (R464 to R489). -/
structure Escritoire where
  ready : Bool
  /-- ROM recovery runs because both slots failed (R484). -/
  recovery : Bool
  /-- Slot whose image runs, and whether it runs as a trial (R483). -/
  running : Option Nat
  onTrial : Bool
  heartbeatAt : Nat
  /-- Presence window: open until this time (R474), and the strapped state (R473). -/
  windowEnd : Option Nat
  strapped : Bool
  /-- Consecutive bad samples of the seal loop and their kind: 1 open, 3 shifted (R476). -/
  sealBad : Nat
  sealBadKind : Nat
  /-- The loop was seen to open, under power, while the Escritoire was not ready (R494). -/
  sealLatch : Bool
  /-- Loop resistance at the last sample; none when open. -/
  sealOhms : Option Nat
  i3cAddr : Option Nat
  eid : Option Nat
  /-- The side-band event receiver (R471): whether EVENT_MASK named it, and its EID. -/
  receiver : Option (Bool × Nat)
  staging : Option Staging
  /-- A verified image is staged in the inactive slot (R482), and a commit was made (R483). -/
  verified : Bool
  /-- Nonce and bytes of the last attestation report (R489). -/
  report : Option (List Byte × List Byte)
  debug : Bool
  test : Bool
  /-- Last side of each numeric threshold and last value of each state sensor: sensor and value (R472). -/
  sensors : List (Nat × Int)
  deriving DecidableEq, Repr

/-! ## Register window and Chembe -/

/-- What the register window keeps besides the registers (R449, R450, R453, R454). -/
structure Window where
  /-- First halves of guarded pairs: block base, offset, value, management master?, time (R450). -/
  guard : List (Nat × Nat × Word × Bool × Nat)
  /-- HI words latched by a read of LO: master, address of HI, word (R449). -/
  latched : List (Bool × Nat × Word)
  /-- Last write of a register: address, master, time (R454). -/
  lastWrite : List (Nat × Bool × Nat)
  /-- A reset that GLB_RESET_REQ asked for and that begins after the reply: kind, block, management master? (R457). -/
  resetDue : Option (Nat × Nat × Bool)
  /-- Time of the last command of the host and of the management master (R453). -/
  lastHost : Nat
  lastMgmt : Nat
  deriving DecidableEq, Repr

/-- A Chembe session (R409, R410). -/
structure Session where
  src : Src
  num : Nat
  /-- H. -/
  high : Nat
  /-- Accepted sequence numbers of the last 256. -/
  accepted : List Nat
  /-- Cached replies by sequence number. -/
  cache : List (Nat × Reply)
  lastHeard : Nat
  deriving DecidableEq, Repr

/-- A deferred command (R412): accepted and not yet reported by COMMAND_DONE. -/
structure Deferred where
  src : Src
  session : Nat
  seq : Nat
  tag : Nat
  op : Nat
  /-- Final status and reply parameters once its work has ended. -/
  result : Option (Nat × List Byte)
  /-- Operand that an unfinished command waits on. -/
  arg : Nat
  /-- First address and length of the memory that the command covers (R421); length 0 for none. -/
  base : Nat
  bytes : Nat
  deriving DecidableEq, Repr

/-- A queued event (R416). -/
structure QEvent where
  code : Nat
  step : Nat
  time : Nat
  body : List Byte
  /-- Its sequence number, once sent. -/
  seq : Option Nat
  /-- A COMMAND_DONE of the owner: address and session of its command (R412). -/
  dest : Option (Nat × Nat) := none
  deriving DecidableEq, Repr

/-- An event queue: one for the host owner, one for the side-band receiver (R416, R471). -/
structure EventQueue where
  items : List QEvent
  next : Nat
  mask : Nat
  lastSend : Nat
  deriving DecidableEq, Repr

/-- Chembe state. -/
structure Chembe where
  sessions : List Session
  deferred : List Deferred
  /-- Memory commands that wait (R421, R447). -/
  held : List Instr
  host : EventQueue
  side : EventQueue
  /-- Host port of the owner's most recent command (R417). -/
  ownerPort : Nat
  deriving DecidableEq, Repr

/-! ## Memory and Sideboard -/

/-- DRAM, Inkwell and what stands in their check bits. Each list is sparse and in canonical form. -/
structure Mem where
  /-- Bytes by local address (R211); the copy of a line on the target Drawer of a migration at the address plus
  2^48 (R232). Unlisted: 0 (R218). -/
  dram : List (Nat × Byte)
  /-- Per line: stored check word XOR the right check word of the stored bytes (R219 to R221). Unlisted: 0, GOOD,
  or LOST on a Drawer of `lost`. -/
  check : List (Nat × Word)
  /-- Drawers whose lines the Cabinet has lost: Cabinet, logical Drawer, and the addresses between which they lie
  (R239). Their unlisted check words read as LOST. -/
  lost : List (Nat × Nat × Nat × Nat)
  /-- Logical Drawers without a working physical one: Cabinet, logical Drawer, and the first group whose lines have no
  home; between a hard failure and its rebuild (R239). -/
  dead : List (Nat × Nat × Nat)
  /-- Guard class per 2 MiB page: 1 DETECT. Unlisted: 0, CORRECT (R217). -/
  cls : List (Nat × Nat)
  /-- Inkwell bytes by Desk × 2^28 + offset (R186). Unlisted: 0 (log 5). -/
  ink : List (Nat × Byte)
  /-- Inkwell lines that hold poison (R131), by the same key. -/
  inkPoison : List (Nat × Bool)
  /-- Wrong SECDED bits of an Inkwell word: 1 or 2 (R459). -/
  inkErr : List (Nat × Nat)
  /-- DRAM in self-refresh (R246), and the Cabinets held there below 0 °C (R245), one bit each. -/
  selfRefresh : Bool
  coldStacks : Nat
  deriving DecidableEq, Repr

/-- The outcome of decoding a line (R222). -/
inductive LineOutcome where
  | good | poison | lost | corrected | failed
  deriving DecidableEq, Repr

/-- A line held in its slice (R250, R252). -/
structure SLine where
  addr : Nat
  data : List Byte
  outcome : LineOutcome
  dirty : Bool
  deriving DecidableEq, Repr

/-- A Reservoir accumulator (Table 7.2); SUM in units of 2^-149. -/
structure Acc40 where
  sum : Int
  count : Nat
  nan : Bool
  pinf : Bool
  ninf : Bool
  poison : Bool
  deriving DecidableEq, Repr

/-- An open line (R259): format 1 F32 or 3 BF16, one accumulator per element; `bad` marks a double-bit error in an
accumulator (Table 7.8). -/
structure OpenLine where
  addr : Nat
  fmt : Nat
  accs : List Acc40
  bad : Bool
  /-- Did all its adds come from Nibs (R388)? -/
  nibs : Bool
  deriving DecidableEq, Repr

/-- What sent an exact add, and so is held back while it waits (R264). -/
inductive AddSrc where
  /-- A command of the table: nothing of the module is held. -/
  | command
  /-- An engine, by its code (Table 5.4). -/
  | engine (code : Nat)
  /-- An ADD frame: port, peer, virtual channel, LSEQ, and the slots of the receive buffer that it keeps. -/
  | frame (port peer : Nat) (vc : Bool) (lseq slots : Nat)
  deriving DecidableEq, Repr

/-- An exact add that waits for slots (R264). -/
structure WaitAdd where
  addr : Nat
  fmt : Nat
  code : Nat
  poison : Bool
  src : AddSrc
  deriving DecidableEq, Repr

/-- The Sideboard (chapter 7). -/
structure Sbd where
  /-- Lines held, the one held longest first (R248). -/
  lines : List SLine
  /-- Dirty lines and the time since when each waits for its write-back (R243). -/
  dirtyAt : List (Nat × Nat)
  openLines : List OpenLine
  waiting : List WaitAdd
  /-- Far copies: role, remote local address, data (R254). -/
  far : List (Nat × Nat × List Byte)
  /-- Wrong SECDED bits of a held word, by address (R251). -/
  err : List (Nat × Nat)
  /-- What the last LINE_READ or word operation of the table returned (Table 7.1): the line with its outcome, or the old
  word with the outcome of its line. -/
  answer : Option (Nat × LineOutcome × List Byte)
  deriving DecidableEq, Repr

/-- A Cabinet, besides its registers (chapter 6). -/
structure Cab where
  /-- Evacuation triggers that wait (R233). -/
  queue : List Nat
  /-- Consecutive low eye samples per physical Drawer (R231). -/
  low : List (Nat × Nat)
  /-- Corrected lines: logical Drawer and time (R231). -/
  ce : List (Nat × Nat)
  /-- Pause retrain: logical Drawer, slices done, and end of the last slice (R238). -/
  pause : Option (Nat × Nat × Nat)
  /-- Times of the waiting requests of SCRUB, WRITEBACK, RIDE, TELEMETRY, the oldest first (R243); those of WRITEBACK are
  the dirty lines of the slice (`Sbd.dirtyAt`). -/
  asks : List (List Nat)
  /-- Classes that are urgent and overdue, one bit each. -/
  urgent : Nat
  overdue : Nat
  /-- The last 16 grants: did the slot go to an urgent class? Newest first. -/
  grants : List Bool
  /-- A refresh is due (R244). -/
  refreshDue : Bool
  /-- Start of the running scrub pass, next line's logical Drawer within the group, and whether the pass runs. -/
  passStart : Nat
  passChan : Nat
  passOn : Bool
  /-- The running pass has been found late (R226). -/
  passLate : Bool
  /-- Time of the last eye sample; per physical Drawer the receive reference, and per lane (16 × Drawer + lane) the deskew,
  in steps from where training left them (R230). Unlisted: 0. -/
  eyeAt : Nat
  vref : List (Nat × Int)
  deskew : List (Nat × Int)
  /-- Hard-failure rebuilds, one after the other: logical Drawer, spare, watermark (R239). -/
  rebuild : List (Nat × Nat × Nat)
  /-- Physical Drawers that have become DEGRADED since the map was loaded, and whether they still are (R238, R240). -/
  degraded : List (Nat × Bool)
  deriving DecidableEq, Repr

/-! ## Arrays -/

/-- One place of a west Feed's buffer: the swap marker (R21) and a row, or a bubble (R49). -/
structure FeedSlot where
  marker : Bool
  row : Option LaneRow
  deriving DecidableEq, Repr

/-- A row, or a row pair, in flight. -/
structure Flying where
  /-- Native mode: waves until it leaves (R40). -/
  left : Nat
  /-- ELASTIC mode, per Plank of the problem, row by row: 0 not yet there, 1 to 64 the cells crossed, 65 passed on (R34). -/
  place : List (List Nat)
  /-- Its output sums in A40, row by row. -/
  sums : List (List Nat)
  deriving DecidableEq, Repr

/-- The lane of one problem of a Leaf (R49): its Feed buffer, up to 64 rows (R26), the waves that the row now entering
still takes (Table 1.2), and its rows in flight, oldest first. -/
structure Lane where
  feed : List FeedSlot
  sub : Nat
  flight : List Flying
  deriving DecidableEq, Repr

/-- A physical Leaf (chapter 1). -/
structure Leaf where
  /-- Activity level, accumulator and step count of R38. -/
  level : Nat
  acc : Nat
  stepCount : Nat
  /-- Waves with no valid row in or out (R39). -/
  idle : Nat
  /-- The lanes of the four problems that a Leaf can hold; a shape uses the first 1, 2 or 4 (Table 1.9). -/
  lanes : List Lane
  /-- Rows written into the back planes (R27), whether the tile is complete (R22), and the front planes (R21). A row
  is 512 element codes, and behind them the scale bytes of the blocks that they lie in, one per column. -/
  back : List (List Nat)
  backFull : Bool
  front : List (List Nat)
  /-- The rows that the Blotter captured last. -/
  drained : List (List Nat)
  /-- Rows of sums that have left into the chain link and that the next Leaf has not taken (Table 1.8). -/
  link : List (List (List Nat))
  /-- Formats and block code of the operands that the sequencer set for the Leaf, and ELASTIC. -/
  fmtA : Nat
  fmtB : Nat
  blk : Nat
  elastic : Bool
  /-- Problems that share the Leaf (R49), and columns in use: 256 in NARROW (R50). -/
  problems : Nat
  width : Nat
  /-- Reversed reading (R31). -/
  reversed : Bool
  /-- Chain links (R29, R45, R123): sums enter from the Leaf before it in the ring, and leave to the next. -/
  chainIn : Bool
  chainOut : Bool
  /-- The last wave found no free output slot (Table 1.8). -/
  held : Bool
  /-- The Desk broadcast waits for this Leaf's Feed buffer (R26). -/
  waits : Bool
  /-- Logical Plank row and column of the Planks that performed ballast in the last wave (R40, R44, R50). -/
  ballast : List (Nat × Nat)
  deriving DecidableEq, Repr

/-! ## Folio and engines -/

/-- A section of the loaded image (R169). -/
structure Section where
  typ : Nat
  eng : Nat
  count : Nat
  bytes : List Byte
  deriving DecidableEq, Repr

/-- A loaded folio: header, sections as the loader left them (R190), digest (R197), elided descriptors as engine and
index (R163). -/
structure Folio where
  hdr : List Byte
  secs : List Section
  digest : List Byte
  elided : List (Nat × Nat)
  deriving DecidableEq, Repr

/-- A completion record before it is written (Table 3.7). -/
structure Rec where
  status : Nat
  flags : Nat
  m : Nat
  n : Nat
  k : Nat
  poison : Nat
  kind : Nat
  deriving DecidableEq, Repr

/-- An INTAKE_TAKE under way (R434): rows written, lines of them written as poison, samples taken and skipped, numbers passed over as gaps, NEXT when it
began, and whether its capacity was passed, so that it skips to the next BATCH_END. -/
structure Take where
  rows : Nat
  poison : Nat
  taken : Nat
  skipped : Nat
  gaps : Nat
  first : Nat
  short : Bool
  deriving DecidableEq, Repr

/-- Where an engine stands with the descriptor at its list position. -/
inductive Phase where
  /-- Not started. -/
  | idle
  /-- Work done; record and signal come next (R134). -/
  | done (r : Rec)
  /-- A stroke held for its table version, or a TABLE_LOAD for the strokes bound to its bank (R139). -/
  | heldTable
  /-- An INTAKE_TAKE held for a sample (R434). -/
  | heldSample (t : Take)
  /-- A DMA descriptor stopped for replay of a tensor (R158), or waiting for one that runs (R159). -/
  | stopped (tid : Nat)
  /-- A Nib that ended a pass and waits at the barrier (R280). -/
  | atBarrier (pass : Nat) (r : Rec)
  /-- A Quill descriptor whose frames have left, with its message number (R268, R351). -/
  | sent (mseq : Nat) (r : Rec)
  deriving DecidableEq, Repr

/-- An engine of Table 5.4. -/
structure Eng where
  code : Nat
  pos : Nat
  phase : Phase
  /-- When the descriptor started. -/
  since : Nat
  deriving DecidableEq, Repr

/-- A function-table bank (R136, R138): image, version, order of writing (0 empty). -/
structure Bank where
  version : Nat
  image : List Byte
  order : Nat
  deriving DecidableEq, Repr

/-- A replay in progress or queued (R158, R159): tensor, and the next descriptor of its segment for Desk 0, Desk 1
and the DMA replay list; `dma` runs the last of these. -/
structure Replay where
  tid : Nat
  pos0 : Nat
  pos1 : Nat
  posD : Nat
  dma : Nat
  /-- Replay descriptors of Desk 0, Desk 1 and the DMA list whose work is done and whose completion comes next. -/
  done0 : Option Rec
  done1 : Option Rec
  doneD : Option Rec
  deriving DecidableEq, Repr

/-- Standing weights of a Desk (R123, R144): tensor, plans, runtime K and N, shape, and the tiles that stand in the cells: the
rows of W as they were read, each element with its mark, its code and its scale byte. -/
structure Standing where
  tid : Nat
  kPlan : Nat
  nPlan : Nat
  k : Nat
  n : Nat
  shape : Nat
  rows : List (List (Bool × Nat × Nat))
  deriving DecidableEq, Repr

/-- Counts of one gauge in the running step (Table 9.1). -/
structure GaugeAcc where
  gauge : Nat
  written : Nat
  zero : Nat
  sat : Nat
  nonfin : Nat
  loss : Nat
  emin : Int
  emax : Int
  deriving DecidableEq, Repr

/-- What the Nibs hold of one layer in the step (R286, R302, R322). -/
structure LayerAcc where
  layer : Nat
  e : Nat
  z : Nat
  updated : Bool
  /-- P_now as F32 bits, where a SPARSE_ROWS layer or a decay made one (R302). -/
  pnow : Nat
  deriving DecidableEq, Repr

/-- Everything of the running folio but memory. -/
structure Job where
  /-- Semaphores: count by index; unlisted: INIT of the folio (R176). -/
  sems : List (Nat × Nat)
  /-- Semaphores raised in this step at a scope narrower than FABRIC (R270). -/
  narrow : List Nat
  /-- Shape slots (R107). -/
  slots : List (Nat × Nat)
  /-- Banks 0 and 1 of the 16 tables at 2 × table + bank (R138). -/
  banks : List Bank
  /-- Table writes so far, for the order of banks. -/
  tableClock : Nat
  engines : List Eng
  replays : List Replay
  /-- Tensors in which a failed line stopped a descriptor and whose replay is not queued yet, in the order of finding, each with
  the engine that found it (R158, R159). -/
  found : List (Nat × Nat)
  /-- Replays per tensor in this step (R161). -/
  replayCount : List (Nat × Nat)
  /-- Records written into the replay record area (R160). -/
  replayRecs : Nat
  /-- Strokes bound to a bank: engine code and 2 × table + bank (R139). -/
  bound : List (Nat × Nat)
  standing0 : Option Standing
  standing1 : Option Standing
  gauges : List GaugeAcc
  layers : List LayerAcc
  /-- Layers in which a scan pass found a non-finite or poisoned element (R297). -/
  scanHits : List Nat
  deriving DecidableEq, Repr

/-- A step's report (R419, Table 12.3): step, status, flags, step size, duration, INTAKE_NEXT, digest, lateness. -/
structure Report where
  step : Nat
  status : Nat
  flags : Nat
  size : Nat
  duration : Nat
  next : Nat
  digest : List Byte
  late : List Int
  deriving DecidableEq, Repr

/-- The run of the job (R424 to R428, R303, R304). -/
structure Run where
  lastFault : Nat
  /-- Steps left; none: until STOP. -/
  stepsLeft : Option Nat
  /-- STOP BOUNDARY is pending, or SAFE is to be entered at the boundary with this cause (R240). -/
  stopAtEnd : Bool
  safeAtEnd : Option Nat
  /-- The step has begun and its lists run (R173). -/
  stepOn : Bool
  stepStart : Nat
  /-- First fault of the running step: status, unit, address (R366, R428). -/
  fault : Option (Nat × Nat × Nat)
  /-- First non-void status of a record of the step (R428). -/
  firstStatus : Nat
  /-- SFLAGS gathered in the step (Table 12.3). -/
  sflags : Nat
  /-- Completion times of micro-batch end descriptors: engine, index, offset in ns (R202). -/
  ends : List (Nat × Nat × Nat)
  reports : List Report
  /-- Seed that the running job took at START (R82). -/
  seed : Nat
  /-- Pending step sizes: tag, F32 bits (R303). -/
  pendingSteps : List (Nat × Nat)
  /-- The Nibs hold for the step size since (R304). -/
  holdSince : Option Nat
  /-- The first Nib descriptor waits for a confirmation (R392). -/
  confirmWait : Bool
  /-- The step that ended void and has not been started again (R359, R366). -/
  halted : Option Nat
  /-- Steps whose STEP_DONE waits for the partner's acknowledgement (R367), oldest first. -/
  unreported : List Nat
  deriving DecidableEq, Repr

/-! ## The Quill fabric (chapter 10) -/

/-- A frame on its way out: QTYPE of Table 10.5, header, payload, and when it was last sent. -/
structure TxFrame where
  qtype : Nat
  h : QHdr
  payload : List Byte
  sentAt : Nat
  deriving DecidableEq, Repr

/-- What one member has acknowledged and returned on a channel to a group (log 13): its role, its last LACK, and the slots
of VC0 and VC1 that it has freed. -/
structure Member where
  role : Nat
  lack : Nat
  freed0 : Nat
  freed1 : Nat
  deriving DecidableEq, Repr

/-- A channel (R343): the local port, the peer's role, and both directions of the link. In switched topology a group has
channels of its own (log 13): `groupPeer` and `memberPeer` number their peers. -/
structure Chan where
  port : Nat
  peer : Nat
  /-- MAC address of the peer's port, from its HELLO; the group address of a channel to a group. -/
  mac : Nat
  /-- On a channel to a group: the members heard from, and the slots that all of them have freed. -/
  members : List Member
  freed0 : Nat
  freed1 : Nat
  /-- Next LSEQ to send, and next LSEQ expected. -/
  txNext : Nat
  rxNext : Nat
  /-- Credits held, and the allotment per virtual channel (R344). -/
  credit0 : Nat
  credit1 : Nat
  allot0 : Nat
  allot1 : Nat
  /-- Sent and not acknowledged, oldest first (R345). -/
  unacked : List TxFrame
  /-- Frames that wait for credits. -/
  waiting : List TxFrame
  /-- A frame was discarded since the last accepted one (R345). -/
  nakSent : Bool
  /-- Frames received since the last ACK, slots freed since then, and when the first of them came (R344). -/
  sinceAck : Nat
  free0 : Nat
  free1 : Nat
  ackDue : Option Nat
  /-- Has the HELLO exchange that opens the channel had this side's HELLO, and the peer's (R343)? -/
  said : Bool
  heard : Bool
  deriving DecidableEq, Repr

/-- A Quill port besides its registers. -/
structure QPort where
  /-- Consecutive samples below RETRAIN_MARGIN (R338). -/
  lowMargin : Nat
  /-- Times of the resends of the last 1 ms (Table 10.6). -/
  resends : List Nat
  /-- Link up and no HELLO yet, since (Table 10.6). -/
  helloSince : Option Nat
  /-- The module at the other end in a torus, as the base MAC address that its HELLO gives (R337). -/
  partner : Option Nat
  /-- The port trains again, and the SPEED code that it had (Table 10.6). -/
  retrain : Option Nat
  /-- Paused by a PFC frame until (R339), and what waits for the end of the pause or of a retrain, oldest first. -/
  pausedUntil : Nat
  stalled : List Out
  /-- Has the port sent job frames in the step; MAP and COPY bytes, and all bytes, that it has sent in the step (R362). -/
  jobSent : Bool
  rideBytes : Nat
  allBytes : Nat
  deriving DecidableEq, Repr

/-- A message that this module sent in the step (R348 to R352). -/
structure TxMsg where
  list : Nat
  dst : Nat
  group : Bool
  mseq : Nat
  tid : Nat
  first : Nat
  bytes : Nat
  /-- Receivers that have not reported (R351). -/
  left : Nat
  deriving DecidableEq, Repr

/-- A message that is open or waits for its turn (R350), with the port of its last frame. -/
structure RxMsg where
  port : Nat
  srcRole : Nat
  srcList : Nat
  dst : Nat
  group : Bool
  mseq : Nat
  lines : Nat
  /-- From its CLOSE: lines, REMOTE_SEM, SIGNAL. -/
  close : Option (Nat × Nat × Bool)
  fabric : Bool
  deriving DecidableEq, Repr

/-- A read of remote memory under way (R355): role, first line and number of lines asked for. -/
structure Fetch where
  role : Nat
  addr : Nat
  lines : Nat
  /-- READ_REQs that are not answered whole: number, next line, lines still to come. -/
  reqs : List (Nat × Nat × Nat)
  /-- Lines received: address, data, marked. -/
  got : List (Nat × List Byte × Bool)
  deriving DecidableEq, Repr

/-- The fabric besides its registers. -/
structure Quill where
  ports : List QPort
  chans : List Chan
  /-- Next MSEQ of a stream: list, destination, group. -/
  streams : List (Nat × Nat × Bool × Nat)
  sent : List TxMsg
  /-- Next MSEQ to deliver of a stream: source role, list, destination, group. -/
  delivered : List (Nat × Nat × Nat × Bool × Nat)
  rx : List RxMsg
  /-- MCAST messages whose CLOSE has not passed in a torus: source role, list, group, number, step (log 22). -/
  passing : List (Nat × Nat × Nat × Nat × Nat)
  /-- Frames of later steps, with TYPE and whether they go to a group (R353). -/
  held : List (Nat × Bool × QFrame)
  /-- Frames of a dead channel that await a handover: dead port, peer, unacknowledged frames, frames never sent (R347). -/
  handover : List (Nat × Nat × List TxFrame × List TxFrame)
  fetches : List Fetch
  bank0 : List Byte
  bank1 : List Byte
  deriving DecidableEq, Repr

/-! ## Survival (chapter 11) -/

/-- Where a range of the shard stands (R385 to R388): not copied; being copied; copied in a step whose confirmation is
awaited; in replay mode; found with a LOST or FAILED line, and not copied again before the step has been replayed (R393). -/
inductive RangeState where
  | unsent
  | copying (next : Nat)
  | sent (step : Nat)
  | replay
  | failed
  deriving DecidableEq, Repr

/-- A range: the layer it serves, its image lines as stretches of first line and count, its state, and the last step
that copied or echoed a line of it before it landed. -/
structure Rng where
  layer : Option Nat
  lines : List (Nat × Nat)
  state : RangeState
  touched : Option Nat
  deriving DecidableEq, Repr

/-- A write into the shard that the partner must hear of (R385, R388): image line, data, marked. -/
structure Echo where
  line : Nat
  data : List Byte
  marked : Bool
  deriving DecidableEq, Repr

/-- A staged frame of the ward (R387): kind of Table 11.5, ARG, the line of the stage half that holds its payload, and,
of a MARK, the payload itself, which the header's staging state holds too (R377). -/
structure Staged where
  kind : Nat
  arg : Nat
  slot : Option Nat
  data : List Byte
  deriving DecidableEq, Repr

/-- A staged step of the ward: its step, the stage half that it has (R377), the lines taken there, its frames in stream order,
and the COPY and ECHO lines of the step written into the image on arrival. -/
structure Stage where
  step : Nat
  half : Option Nat
  lines : Nat
  frames : List Staged
  copied : Nat
  echoed : Nat
  deriving DecidableEq, Repr

/-- A RESTORE or ADOPT under way (R395, R399): the step whose end the image must stand at, whether it adopts, and whether
the leaves have been asked for. -/
structure Recover where
  step : Nat
  adopt : Bool
  asked : Bool
  deriving DecidableEq, Repr

/-- The survival path besides its registers. -/
structure Survival where
  /-- Shard regions: base, bytes, image offset (R372); image length. -/
  shard : List (Nat × Nat × Nat)
  imageLen : Nat
  /-- Own follow: map lines sent, ranges, level sent. -/
  mapSent : Nat
  ranges : List Rng
  /-- Lines of the shard written in this step by a writer other than a Nib, and echoes that have not left. -/
  written : List Nat
  echoes : List Echo
  /-- Addresses sent as INPUT in this step (R388), and the counts of COPY, ECHO and INPUT lines sent. -/
  inputs : List Nat
  copyCount : Nat
  echoCount : Nat
  inputCount : Nat
  /-- Last step in which each leaf of the image was written (R395). -/
  leaves : List (Nat × Nat)
  /-- Leaves of the image written since they were hashed last (R295, R375); none: all of them. -/
  due : Option (List Nat)
  /-- Steps completed with results: step and the image's digest. -/
  done : List (Nat × List Byte)
  /-- The second partner's role (R396). -/
  partner2 : Option Nat
  /-- PAIR frames received, by role (R376). -/
  pairs : List (Nat × List Byte)
  /-- Risk level last sent to the partner. -/
  levelSent : Nat
  /-- Next MSEQ of the RIDE stream of a source role, and RIDE frames that came before their turn (R385, R387). -/
  rideNext : List (Nat × Nat)
  rideHeld : List QFrame
  /-- The ward: map lines received by line offset, staged steps. -/
  wardMap : List (Nat × List Byte)
  stages : List Stage
  /-- Ranges of the ward in replay mode, and those landed at an unconfirmed step: step, ranges as bits. -/
  wardReplay : Nat
  wardLanded : List (Nat × Nat)
  /-- Risk level of the ward, when its GASP came, and a seal that waits: step and kind. -/
  wardLevel : Nat
  wardGasp : Option Nat
  sealWait : Option (Nat × Nat)
  /-- Seal record of the ward: role, step, image length, digest, kind (R394). -/
  record : Option (Nat × Nat × Nat × List Byte × Nat)
  /-- Step of a seal at CALM for which the own follow runs until it is COMPLETE (R394). -/
  sealFollow : Option Nat
  /-- The ward of a Bench that is a second partner (R396). -/
  wardOf : Option Nat
  /-- The ward's PAIR frame (R400), the digest of its last applied STEP_END (R389), and the partner's ID_TAG as last heard. -/
  wardPair : List Byte
  wardTold : List Byte
  /-- The newest MARK LATCH of the ward: step, value, stale (R305, R399). -/
  wardLatch : List Byte
  partnerTag : Option Nat
  recover : Option Recover
  deriving DecidableEq, Repr

/-- The risk estimator's memory (R379 to R381). -/
structure Risk where
  /-- Times of corrected errors and retransmitted frames of the last second, and of uncorrectable errors and retrains
  of the last 60 s, each with its count. -/
  ce : List (Nat × Nat)
  retx : List (Nat × Nat)
  ue : List (Nat × Nat)
  trains : List (Nat × Nat)
  /-- Input voltages of the last second, and the last time FEED_WARN_N was asserted. -/
  vins : List (Nat × Nat)
  feedWarnAt : Option Nat
  /-- r stays low enough to fall since (R381). -/
  lowSince : Option Nat
  deriving DecidableEq, Repr

/-! ## Sample intake (chapter 12) -/

/-- A sample that the intake holds (R433): header fields, the ring lines reserved for it as stretches of first and last line,
and the fragments that have arrived. -/
structure Sample where
  seq : Nat
  bytes : Nat
  fragCount : Nat
  sflags : Nat
  rows : Nat
  place : List (Nat × Nat)
  frags : List Nat
  deriving DecidableEq, Repr

/-- The intake besides its registers. -/
structure Intake where
  samples : List Sample
  /-- Declared gaps: first number, last number. -/
  gaps : List (Nat × Nat)
  /-- Free bytes of the ring. -/
  free : Nat
  /-- When the last pause began and when the last XOFF left (R437, R438); how many pauses there have been; ports that carried
  frames since the last one began, and ports whose round trip of it is still to be measured, one bit each; and when the last frame
  came on each port before its first 2 µs without one. -/
  pausedAt : Option Nat
  xoffAt : Nat
  pauses : Nat
  carried : Nat
  due : Nat
  tail0 : Nat
  tail1 : Nat
  /-- Round trips of each port measured in the last 16 pauses, each with its pause. -/
  rtt0 : List (Nat × Nat)
  rtt1 : List (Nat × Nat)
  /-- INTAKE_TAKEs done in the step, and the newest line of the take log (R463). -/
  takes : Nat
  /-- Takes whose work has ended and whose log entry comes after their record: engine and figures. -/
  ended : List (Nat × Take)
  logLine : List Byte
  deriving DecidableEq, Repr

/-! ## The module -/

/-- Everything the module holds. -/
structure State where
  /-- Commands that wait, first in, first out. -/
  pending : List Instr
  /-- Nanoseconds since the beginning (log 2). -/
  time : Nat
  /-- Free values drawn so far (log 3). -/
  free : Nat
  /-- Everything sent, oldest first. -/
  out : List Out
  pins : Pins
  power : Power
  flash : Flash
  esc : Escritoire
  /-- Registers that differ from their Reset column: window address and word, addresses rising (R441). -/
  regs : List (Nat × Word)
  win : Window
  chembe : Chembe
  mem : Mem
  sbd : Sbd
  /-- Cabinets 0 to 15. -/
  cabs : List Cab
  /-- Physical Leaves: Desk × 4 + Leaf. -/
  leaves : List Leaf
  /-- TURN bits of the mutual-exclusion elements: element, loser + 1; unlisted 0, clear (R199). -/
  turns : List (Nat × Nat)
  folio : Option Folio
  job : Job
  run : Run
  quill : Quill
  svl : Survival
  risk : Risk
  intake : Intake
  /-- Frames received on each host port since its registers were reset (R461). -/
  hostFrames : List Nat
  deriving DecidableEq, Repr

/-- The configuration record that reset assumes (log 4). -/
def ConfigRec.blank : ConfigRec :=
  { mac0 := 0, mac1 := 0, ipv40 := 0, ipv41 := 0, ipv60 := 0, ipv61 := 0, prefix40 := 0, prefix41 := 0,
    gate40 := 0, gate41 := 0, gate60 := 0, gate61 := 0, vlan := 0, chembePort := 47328,
    chembePrio := none, serial := List.replicate 16 0, order := 0,
    orderCode := List.replicate 16 0, manufacturer := 0, quillMac := 0, quillPorts := 0, presets := [], bytes := [] }

/-- An empty event queue with every event enabled (R416). -/
def EventQueue.empty : EventQueue := { items := [], next := 0, mask := 2 ^ 64 - 1, lastSend := 0 }

/-- A Cabinet at reset. -/
def Cab.reset : Cab :=
  { queue := [], low := [], ce := [], pause := none, asks := [[], [], [], []], urgent := 0, overdue := 0,
    grants := [], refreshDue := false, passStart := 0, passChan := 0, passOn := false, passLate := false, eyeAt := 0,
    vref := [], deskew := [], rebuild := [], degraded := [] }

/-- The Sideboard empty. -/
def Sbd.reset : Sbd :=
  { lines := [], dirtyAt := [], openLines := [], waiting := [], far := [], err := [], answer := none }

/-- A parked Leaf (R38); planes hold nothing, which reads as zero (R23, log 1). -/
def Leaf.parked : Leaf :=
  { level := 0, acc := 7, stepCount := 0, idle := 0, lanes := List.replicate 4 ⟨[], 0, []⟩, back := [], backFull := false,
    front := [], drained := [], link := [], fmtA := 6, fmtB := 6, blk := 1, elastic := false, problems := 1, width := 512,
    reversed := false, chainIn := false, chainOut := false, held := false, waits := false, ballast := [] }

/-- The engines of Table 5.4 that run lists. -/
def engineCodes : List Nat :=
  [0, 1] ++ (List.range 32).map (0x10 + ·) ++ (List.range 8).map (0x30 + ·) ++ (List.range 16).map (0x40 + ·)

/-- Every engine at the head of its list. -/
def freshEngines : List Eng := engineCodes.map fun c => { code := c, pos := 0, phase := .idle, since := 0 }

/-- No job. -/
def Job.empty : Job :=
  { sems := [], narrow := [], slots := [], banks := List.replicate 32 ⟨0, [], 0⟩, tableClock := 0,
    engines := freshEngines, replays := [], found := [], replayCount := [], replayRecs := 0, bound := [], standing0 := none, standing1 := none,
    gauges := [], layers := [], scanHits := [] }

/-- No run. -/
def Run.empty : Run :=
  { lastFault := 0, stepsLeft := none, stopAtEnd := false, safeAtEnd := none, stepOn := false, stepStart := 0,
    fault := none, firstStatus := 0, sflags := 0, ends := [], reports := [], seed := 0, pendingSteps := [],
    holdSince := none, confirmWait := false, halted := none, unreported := [] }

/-- A Quill port at reset. -/
def QPort.reset : QPort :=
  { lowMargin := 0, resends := [], helloSince := none, partner := none, retrain := none, pausedUntil := 0, stalled := [],
    jobSent := false, rideBytes := 0, allBytes := 0 }

/-- The fabric at reset. -/
def Quill.reset : Quill :=
  { ports := List.replicate 24 .reset, chans := [], streams := [], sent := [], delivered := [], rx := [], passing := [], held := [],
    handover := [], fetches := [], bank0 := [], bank1 := [] }

/-- The survival path at reset. -/
def Survival.reset : Survival :=
  { shard := [], imageLen := 0, mapSent := 0, ranges := [], written := [], echoes := [], inputs := [], copyCount := 0,
    echoCount := 0, inputCount := 0, leaves := [], due := none, done := [], partner2 := none, pairs := [], levelSent := 0,
    rideNext := [], rideHeld := [],
    wardMap := [], wardLatch := [], stages := [], wardReplay := 0, wardLanded := [], wardLevel := 0, wardGasp := none, sealWait := none,
    record := none, sealFollow := none, wardOf := none,
    wardPair := [], wardTold := [], partnerTag := none, recover := none }

/-- The risk estimator at reset. -/
def Risk.reset : Risk :=
  { ce := [], retx := [], ue := [], trains := [], vins := [], feedWarnAt := none, lowSince := none }

/-- The intake at reset. -/
def Intake.reset : Intake :=
  { samples := [], gaps := [], free := 0, pausedAt := none, xoffAt := 0, pauses := 0, carried := 0, due := 0, tail0 := 0, tail1 := 0, rtt0 := [], rtt1 := [],
    takes := 0, ended := [], logLine := List.replicate 128 0xFF }

/-- The module right after reset: no input voltage yet, every register at its Reset column. -/
def State.reset : State :=
  { pending := [], time := 0, free := 0, out := [],
    pins := { pwrEn := false, resetN := true },
    power := { vinMv := 0, standby := false, upSince := 0, main := .off, switch := .on, mainOk := false,
               railsOffAt := none, trip := none, overvolt := false, below48Since := none, gasp := none, gasped := false, gate := 0,
               barHot := false, barMem := false, barCap := false, memSteps := 0, coolantHot := false,
               peakStatus := 0, busy := [], timeOn := false },
    flash := { config := .blank, planks := [], drawerMap := [], drawerFailed := [], slot0 := [], slot1 := [],
               active := 0, trial := false, trialStarts := 0, svnFloor := 0, keyFloor := 0, sealLog := [],
               sealSeq := 0, sealOverflow := 0, sealBreaks := 0, sealAcks := 0, sealBreak := 0, cycle := 0,
               baseline := 0, powerLog := [], restorePending := false, commissioned := false, helper := [], identity := none,
               pendingId := none, rotations := [],
               certificate := [], owner := none, armDebug := false, armTest := false },
    esc := { ready := false, recovery := false, running := none, onTrial := false, heartbeatAt := 0,
             windowEnd := none, strapped := false, sealBad := 0, sealBadKind := 0,
             sealLatch := false, sealOhms := none, i3cAddr := none, eid := none, receiver := none, staging := none,
             verified := false, report := none, debug := false, test := false, sensors := [] },
    regs := [],
    win := { guard := [], latched := [], lastWrite := [], resetDue := none, lastHost := 0, lastMgmt := 0 },
    chembe := { sessions := [], deferred := [], held := [], host := .empty, side := .empty, ownerPort := 0 },
    mem := { dram := [], check := [], lost := [], dead := [], cls := [], ink := [], inkPoison := [], inkErr := [], selfRefresh := false,
             coldStacks := 0 },
    sbd := .reset,
    cabs := List.replicate 16 .reset, leaves := List.replicate 8 .parked, turns := [],
    folio := none, job := .empty, run := .empty, quill := .reset, svl := .reset, risk := .reset, intake := .reset, hostFrames := [0, 0] }

end Sys2Proof.Machine
end

