-- ==== Sys2Proof/Machine/Packet.lean ====
section
/-! DEFINITION. The bytes of Chembe packets (R406, R408, R416, Tables 12.2, 12.4, 14.7) and of the MCTP messages that carry
them on the side-band (R466, R468). -/
namespace Sys2Proof.Machine

/-! ## The header (Table 12.2) -/

/-- MAGIC. -/
abbrev chembeMagic : Nat := 0x45424D43

/-- The 32 bytes of a header, and the parameters after it. -/
def chembePacket (version flags op tag seq status session : Nat) (params : List Byte) : List Byte :=
  le 4 chembeMagic ++ le 1 version ++ le 1 flags ++ le 2 op ++ le 4 tag ++ le 4 seq ++ le 4 params.length ++ le 2 status
    ++ le 2 session ++ zeros 8 ++ params

/-- A reply: FLAGS.REPLY, FLAGS.ACCEPTED, SEQUENCE 0. -/
def Reply.packet (r : Reply) : List Byte :=
  chembePacket 1 (1 + 4 * b2n r.accepted) r.op r.tag 0 r.status r.session r.params

/-- An event: OPCODE 0x0600, FLAGS.EVENT, its number in TAG, SEQUENCE 0 (R416). -/
def eventPacket (session tag : Nat) (params : List Byte) : List Byte := chembePacket 1 2 0x0600 tag 0 0 session params

/-- Does R407 discard a datagram, whatever sessions are open: short, MAGIC, LENGTH, FLAGS.REPLY or FLAGS.EVENT? -/
def malformed (bytes : List Byte) : Bool :=
  decide (bytes.length < 32) || fld bytes 0 4 != chembeMagic || fld bytes 0x10 4 != bytes.length - 32
    || bit (fld bytes 5 1) 0 || bit (fld bytes 5 1) 1

/-! ## Commands (Tables 12.4 and 14.7) -/

/-- OPCODE and parameters of a command, its fields packed in the order of its table with the sizes that it gives and its
reserved fields 0 (R408). -/
def chembeOf : Instr → Option (Hdr × Nat × List Byte)
  | .hello h v f => some (h, 0x0000, le 2 v ++ zeros 2 ++ le 4 f)
  | .claim h a => some (h, 0x0001, be 16 a)
  | .release h => some (h, 0x0002, [])
  | .ping h d => some (h, 0x0003, d)
  | .regRead h a n => some (h, 0x0100, le 4 a ++ le 4 n)
  | .regWrite h a v => some (h, 0x0101, le 4 a ++ le 4 v.toNat)
  | .regWritePair h a v => some (h, 0x0102, le 4 a ++ le 4 v.toNat)
  | .lock h c => some (h, 0x0103, le 4 c)
  | .unlock h c => some (h, 0x0104, le 4 c)
  | .memRead h a n m => some (h, 0x0200, le 8 a ++ le 4 n ++ le 4 m)
  | .memWrite h a m d => some (h, 0x0201, le 8 a ++ le 4 m ++ zeros 4 ++ d)
  | .memAtomic h a o x c => some (h, 0x0202, le 8 a ++ le 4 o ++ zeros 4 ++ le 8 x ++ le 8 c)
  | .scrub h b n m => some (h, 0x0203, le 8 b ++ le 8 n ++ le 4 m)
  | .digest h b n => some (h, 0x0204, le 8 b ++ le 8 n)
  | .stateRead h o n => some (h, 0x0205, le 4 o ++ le 4 n)
  | .stateWrite h o d => some (h, 0x0206, le 4 o ++ zeros 4 ++ d)
  | .folioData h o d => some (h, 0x0300, le 8 o ++ d)
  | .loadFolio h n d => some (h, 0x0301, le 8 n ++ fit 32 d)
  | .start h t n => some (h, 0x0302, le 4 t ++ le 4 n)
  | .stop h m => some (h, 0x0303, le 4 m)
  | .setStepSize h t v => some (h, 0x0304, le 4 t ++ le 4 v)
  | .setSeed h v => some (h, 0x0305, le 8 v)
  | .jobStatus h => some (h, 0x0306, [])
  | .routeWrite h b o d => some (h, 0x0400, le 4 b ++ le 4 o ++ d)
  | .routeArm h t => some (h, 0x0401, le 4 t)
  | .seal h t => some (h, 0x0500, le 4 t)
  | .restore h t => some (h, 0x0501, le 4 t)
  | .adopt h r t => some (h, 0x0502, le 2 r ++ zeros 2 ++ le 4 t)
  | .confirm h t => some (h, 0x0503, le 4 t)
  | .partner2 h r => some (h, 0x0504, le 2 r ++ zeros 2)
  | .eventAck h q => some (h, 0x0601, le 4 q)
  | .eventMask h m => some (h, 0x0602, le 8 m)
  | .stepReport h t f => some (h, 0x0603, le 4 t ++ le 4 f)
  | .powerStatus h => some (h, 0x0700, [])
  | .powerSet h m t => some (h, 0x0701, le 4 m ++ le 4 t)
  | .mainPower h o => some (h, 0x0702, le 4 o)
  | .fwStage h o f d => some (h, 0x0F00, le 4 o ++ le 4 f ++ d)
  | .fwCommit h v => some (h, 0x0F01, le 4 v)
  | .idRotate h => some (h, 0x0F02, [])
  | .eraseAll h c => some (h, 0x0F03, le 4 c)
  | .debugUnlock h a => some (h, 0x0F04, le 4 a)
  | .testMode h a => some (h, 0x0F05, le 4 a)
  | .sealAck h => some (h, 0x0F06, [])
  | .attest h n p o => some (h, 0x0F07, fit 32 n ++ le 4 p ++ le 4 o)
  | _ => none

/-- The opcodes of Table 12.4 that a sender may use: EVENT is sent by the X8 only. -/
def opcodes : List Nat :=
  [0x0000, 0x0001, 0x0002, 0x0003] ++ (List.range 5).map (0x0100 + ·) ++ (List.range 7).map (0x0200 + ·)
    ++ (List.range 7).map (0x0300 + ·) ++ [0x0400, 0x0401] ++ (List.range 5).map (0x0500 + ·) ++ [0x0601, 0x0602, 0x0603]
    ++ (List.range 3).map (0x0700 + ·) ++ (List.range 8).map (0x0F00 + ·)

/-- The packet of a command whose header and parameters are in form. -/
def commandPacket (h : Hdr) (op : Nat) (params : List Byte) : List Byte :=
  chembePacket h.version 0 op h.tag h.seq h.status h.session params

/-! ## MCTP (Table 14.1, R468) -/

/-- Odvate's IANA enterprise number. -/
abbrev ianaNumber : Nat := 0xEF63

/-- The MCTP message that carries a Chembe packet. -/
def mctpMessage (packet : List Byte) : List Byte := 0x7F :: be 4 ianaNumber ++ packet

/-- A message cut into transmission units of at most 64 bytes; `n` bounds their number. -/
def mctpUnits : Nat → List Byte → List (List Byte)
  | 0, _ => []
  | n + 1, m => if m.isEmpty then [] else m.take 64 :: mctpUnits n (m.drop 64)

/-- The mandatory data byte with which an in-band interrupt announces a pending read of MCTP (R466, R467): the value of
DSP0233, PRESUMED (log 85). -/
abbrev ibiByte : List Byte := [0xAE]

/-- Is a packet carried as its carrier requires: on the side-band in a message with the tag owner's bit, without the
integrity check and with Odvate's number (R466, R468)? -/
def carried (h : Hdr) : Bool :=
  match h.src with
  | .host _ _ _ => true
  | .side _ => h.mctp.owner && !h.mctp.check && h.mctp.iana == ianaNumber

/-- What a thing sent puts on its carrier: the UDP payload on a host port, the transmission units on the side-band. -/
def Out.carrier : Out → List (List Byte)
  | .reply r =>
    match r.dst with
    | .host _ _ _ => [r.packet]
    | .side _ => mctpUnits 128 (mctpMessage r.packet)
  | .event false _ _ session tag params => [eventPacket session tag params]
  | .event true _ _ session tag params => mctpUnits 128 (mctpMessage (eventPacket session tag params))
  | _ => []

end Sys2Proof.Machine
end

