-- ==== Sys2Proof/Machine/RegMap.lean ====
section
/-! DEFINITION. The register window: every register and field of Tables 1.16, 6.x, 7.x, 8.x, 9.4 to 9.7, 10.x, 11.x
and 13.5 to 13.14, with access code and Reset column (R441, R444, R445). Bits that no field names are RSV. -/
namespace Sys2Proof.Machine

/-- Access codes of Table 0.5. RSV is what no field names. -/
inductive Acc where
  | RW | RO | WO | W1C | RWA | CD | GP
  deriving DecidableEq, Repr

/-- A field of a register: bits, access, Reset column. -/
structure FieldDef where
  hi : Nat
  lo : Nat
  acc : Acc
  reset : Nat
  deriving DecidableEq, Repr

/-- A register, or `count` registers `stride` bytes apart, at an offset of its block. `isLo` says that its name ends
in _LO (R449). -/
structure RegDef where
  off : Nat
  stride : Nat
  count : Nat
  isLo : Bool
  fields : List FieldDef
  deriving DecidableEq, Repr

/-- A block of Table 13.1, or `count` blocks `stride` bytes apart. `enable` says that its CTRL has an ENABLE field
(R446). -/
structure BlockDef where
  base : Nat
  stride : Nat
  count : Nat
  enable : Bool
  regs : List RegDef
  deriving DecidableEq, Repr

/-- A named field of the window: register address and bits. -/
structure Fld where
  addr : Nat
  hi : Nat
  lo : Nat
  deriving DecidableEq, Repr

/-- Registers of GLB. -/
def regsGLB : List RegDef :=
  [-- ID
   ⟨0x0, 0, 1, false, [⟨15, 0, .RO, 0x5808⟩, ⟨19, 16, .RO, 0x1⟩, ⟨21, 20, .RO, 0x0⟩]⟩,
   -- FW_VERSION
   ⟨0x4, 0, 1, false, [⟨31, 0, .RO, 0x0⟩]⟩,
   -- CONTRACT
   ⟨0x8, 0, 1, false, [⟨15, 0, .RO, 0x0⟩]⟩,
   -- STATE
   ⟨0xC, 0, 1, false, [⟨2, 0, .RO, 0x0⟩, ⟨3, 3, .RO, 0x0⟩, ⟨4, 4, .RO, 0x0⟩, ⟨31, 16, .RO, 0x0⟩]⟩,
   -- STATUS
   ⟨0x10, 0, 1, false, [⟨0, 0, .W1C, 0x0⟩, ⟨1, 1, .W1C, 0x0⟩, ⟨2, 2, .W1C, 0x0⟩, ⟨3, 3, .W1C, 0x0⟩, ⟨4, 4, .RO, 0x0⟩]⟩,
   -- CFG_IGNORED_ADDR
   ⟨0x14, 0, 1, false, [⟨23, 0, .RO, 0x0⟩, ⟨24, 24, .RO, 0x0⟩]⟩,
   -- GUARD_ADDR
   ⟨0x18, 0, 1, false, [⟨23, 0, .RO, 0x0⟩, ⟨24, 24, .RO, 0x0⟩]⟩,
   -- COLLISION_ADDR
   ⟨0x1C, 0, 1, false, [⟨23, 0, .RO, 0x0⟩, ⟨24, 24, .RO, 0x0⟩]⟩,
   -- LOCK
   ⟨0x20, 0, 1, false, [⟨5, 0, .RO, 0x0⟩, ⟨13, 8, .RO, 0x0⟩]⟩,
   -- LOCK_CTRL
   ⟨0x24, 0, 1, false, [⟨7, 0, .RW, 0x3C⟩, ⟨23, 8, .RW, 0x3E8⟩]⟩,
   -- ALERT_EN
   ⟨0x28, 0, 1, false, [⟨8, 0, .RWA, 0x1FF⟩]⟩,
   -- ALERT_SRC
   ⟨0x2C, 0, 1, false, [⟨8, 0, .W1C, 0x0⟩]⟩,
   -- RESET_REQ
   ⟨0x40, 0, 1, false, [⟨3, 0, .GP, 0x0⟩, ⟨15, 8, .GP, 0x0⟩]⟩,
   -- STEP
   ⟨0x50, 0, 1, false, [⟨31, 0, .RO, 0x0⟩]⟩]

/-- Registers of PWR. -/
def regsPWR : List RegDef :=
  [-- CTRL
   ⟨0x0, 0, 1, false, [⟨0, 0, .RW, 0x1⟩, ⟨1, 1, .RW, 0x0⟩]⟩,
   -- TARGET
   ⟨0x4, 0, 1, false, [⟨15, 0, .RW, 0x5DC⟩, ⟨27, 16, .RW, 0x73A⟩]⟩,
   -- STATUS
   ⟨0x8, 0, 1, false, [⟨0, 0, .RO, 0x1⟩, ⟨1, 1, .RO, 0x0⟩, ⟨2, 2, .RO, 0x0⟩, ⟨3, 3, .RO, 0x0⟩, ⟨4, 4, .RO, 0x0⟩, ⟨5, 5, .W1C, 0x0⟩, ⟨6, 6, .W1C, 0x0⟩, ⟨7, 7, .RO, 0x0⟩, ⟨8, 8, .RO, 0x0⟩]⟩,
   -- VIN
   ⟨0xC, 0, 1, false, [⟨15, 0, .RO, 0x0⟩, ⟨31, 16, .RO, 0x0⟩]⟩,
   -- DRAW
   ⟨0x10, 0, 1, false, [⟨15, 0, .RO, 0x0⟩, ⟨31, 16, .RO, 0x0⟩]⟩,
   -- VDD
   ⟨0x14, 0, 1, false, [⟨15, 0, .RO, 0x0⟩, ⟨31, 16, .RO, 0x0⟩]⟩,
   -- TEMP
   ⟨0x18, 0, 1, false, [⟨15, 0, .RO, 0x0⟩, ⟨31, 16, .RO, 0x0⟩]⟩,
   -- STRAPS
   ⟨0x1C, 0, 1, false, [⟨3, 0, .RO, 0x0⟩, ⟨9, 4, .RO, 0x0⟩]⟩]

/-- Registers of SEC. -/
def regsSEC : List RegDef :=
  [-- STATUS
   ⟨0x0, 0, 1, false, [⟨0, 0, .RO, 0x0⟩, ⟨1, 1, .RO, 0x0⟩, ⟨2, 2, .RO, 0x0⟩, ⟨3, 3, .RO, 0x0⟩, ⟨4, 4, .RO, 0x0⟩, ⟨5, 5, .RO, 0x0⟩, ⟨6, 6, .RO, 0x0⟩, ⟨7, 7, .RO, 0x0⟩, ⟨31, 16, .RO, 0x0⟩]⟩,
   -- FW_RUNNING
   ⟨0x4, 0, 1, false, [⟨31, 0, .RO, 0x0⟩]⟩,
   -- FW_STAGED
   ⟨0x8, 0, 1, false, [⟨31, 0, .RO, 0x0⟩]⟩,
   -- ID_TAG
   ⟨0xC, 0, 1, false, [⟨31, 0, .RO, 0x0⟩]⟩]

/-- Registers of GAU. -/
def regsGAU : List RegDef :=
  [-- CTRL
   ⟨0x0, 0, 1, false, [⟨0, 0, .CD, 0x1⟩]⟩,
   -- STATUS
   ⟨0x4, 0, 1, false, [⟨0, 0, .W1C, 0x0⟩, ⟨1, 1, .W1C, 0x0⟩, ⟨31, 16, .RO, 0x0⟩]⟩,
   -- ALARM_LAYER
   ⟨0x8, 0, 1, false, [⟨15, 0, .RO, 0xFFFF⟩]⟩,
   -- ALARM_STEP
   ⟨0xC, 0, 1, false, [⟨31, 0, .RO, 0xFFFFFFFF⟩]⟩,
   -- LAYER_SEL
   ⟨0x10, 0, 1, false, [⟨15, 0, .RW, 0x0⟩]⟩,
   -- LAYER_STATE
   ⟨0x14, 0, 1, false, [⟨7, 0, .RO, 0x0⟩, ⟨15, 8, .RO, 0x0⟩, ⟨31, 16, .RO, 0x0⟩]⟩]

/-- Registers of CNT. -/
def regsCNT : List RegDef :=
  [-- CTRL
   ⟨0x0, 0, 1, false, [⟨0, 0, .RW, 0x0⟩, ⟨1, 1, .WO, 0x0⟩, ⟨2, 2, .WO, 0x0⟩, ⟨3, 3, .RW, 0x0⟩]⟩,
   -- OVF_LO
   ⟨0x8, 0, 1, true, [⟨31, 0, .W1C, 0x0⟩]⟩,
   -- OVF_HI
   ⟨0xC, 0, 1, false, [⟨31, 0, .W1C, 0x0⟩]⟩,
   -- TIME_LO
   ⟨0x10, 0, 1, true, [⟨31, 0, .RO, 0x0⟩]⟩,
   -- TIME_HI
   ⟨0x14, 0, 1, false, [⟨31, 0, .RO, 0x0⟩]⟩,
   -- SNAP_TIME_LO
   ⟨0x18, 0, 1, true, [⟨31, 0, .RO, 0x0⟩]⟩,
   -- SNAP_TIME_HI
   ⟨0x1C, 0, 1, false, [⟨31, 0, .RO, 0x0⟩]⟩,
   -- SNAP_STEP
   ⟨0x20, 0, 1, false, [⟨31, 0, .RO, 0xFFFFFFFF⟩]⟩,
   -- SEL
   ⟨0x100, 4, 64, false, [⟨7, 0, .CD, 0x0⟩, ⟨8, 8, .CD, 0x0⟩, ⟨9, 9, .CD, 0x0⟩, ⟨10, 10, .CD, 0x0⟩, ⟨12, 11, .CD, 0x3⟩, ⟨15, 13, .CD, 0x7⟩, ⟨20, 16, .CD, 0x1F⟩, ⟨26, 21, .CD, 0x3F⟩]⟩,
   -- VAL_LO
   ⟨0x200, 8, 64, true, [⟨31, 0, .RO, 0x0⟩]⟩,
   -- VAL_HI
   ⟨0x204, 8, 64, false, [⟨15, 0, .RO, 0x0⟩]⟩,
   -- SNAPV_LO
   ⟨0x400, 8, 64, true, [⟨31, 0, .RO, 0x0⟩]⟩,
   -- SNAPV_HI
   ⟨0x404, 8, 64, false, [⟨15, 0, .RO, 0x0⟩]⟩]

/-- Registers of RSK. -/
def regsRSK : List RegDef :=
  [-- CTRL
   ⟨0x0, 0, 1, false, [⟨0, 0, .RW, 0x0⟩, ⟨3, 1, .CD, 0x3⟩, ⟨15, 8, .CD, 0x3C⟩, ⟨16, 16, .RW, 0x0⟩, ⟨18, 17, .RW, 0x0⟩]⟩,
   -- STATUS
   ⟨0x4, 0, 1, false, [⟨1, 0, .RO, 0x0⟩, ⟨2, 2, .RO, 0x0⟩, ⟨3, 3, .RO, 0x0⟩, ⟨4, 4, .W1C, 0x0⟩, ⟨31, 16, .RO, 0x0⟩]⟩,
   -- THRESH
   ⟨0x8, 0, 1, false, [⟨7, 0, .CD, 0x20⟩, ⟨15, 8, .CD, 0x60⟩, ⟨23, 16, .CD, 0xA0⟩, ⟨31, 24, .CD, 0x10⟩]⟩,
   -- HOST
   ⟨0xC, 0, 1, false, [⟨7, 0, .RW, 0x0⟩]⟩,
   -- WEIGHT_LO
   ⟨0x10, 0, 1, true, [⟨7, 0, .CD, 0x20⟩, ⟨15, 8, .CD, 0x80⟩, ⟨23, 16, .CD, 0x30⟩, ⟨31, 24, .CD, 0x40⟩]⟩,
   -- WEIGHT_HI
   ⟨0x14, 0, 1, false, [⟨7, 0, .CD, 0x20⟩, ⟨15, 8, .CD, 0xC0⟩, ⟨23, 16, .CD, 0x40⟩, ⟨31, 24, .CD, 0xFF⟩]⟩,
   -- NORM
   ⟨0x18, 0, 1, false, [⟨15, 0, .CD, 0x3E8⟩, ⟨31, 16, .CD, 0x2710⟩]⟩,
   -- INPUT
   ⟨0x20, 4, 8, false, [⟨7, 0, .RO, 0x0⟩]⟩]

/-- Registers of DSK. -/
def regsDSK : List RegDef :=
  [-- CTRL
   ⟨0x0, 0, 1, false, [⟨0, 0, .RW, 0x0⟩, ⟨1, 1, .CD, 0x0⟩]⟩,
   -- ROT_CTRL
   ⟨0x4, 0, 1, false, [⟨1, 0, .CD, 0x1⟩, ⟨3, 2, .CD, 0x0⟩, ⟨11, 4, .CD, 0x18⟩]⟩,
   -- ROT_STATUS
   ⟨0x8, 0, 1, false, [⟨1, 0, .RO, 0x0⟩, ⟨31, 16, .RO, 0x0⟩]⟩,
   -- PLANK_MAP
   ⟨0x10, 4, 4, false, [⟨3, 0, .RO, 0xF⟩, ⟨7, 4, .RO, 0xF⟩, ⟨11, 8, .RO, 0xF⟩, ⟨15, 12, .RO, 0xF⟩, ⟨19, 16, .RO, 0xF⟩, ⟨23, 20, .RO, 0xF⟩, ⟨27, 24, .RO, 0xF⟩, ⟨31, 28, .RO, 0xF⟩]⟩,
   -- ARRAY_STATUS
   ⟨0x20, 0, 1, false, [⟨0, 0, .W1C, 0x0⟩, ⟨1, 1, .RO, 0x0⟩, ⟨3, 2, .RO, 0x0⟩, ⟨6, 4, .RO, 0x0⟩, ⟨10, 7, .RO, 0x0⟩, ⟨14, 11, .RO, 0xF⟩, ⟨31, 16, .RO, 0x0⟩]⟩,
   -- LEAF_RATE
   ⟨0x30, 4, 4, false, [⟨15, 0, .RO, 0x0⟩, ⟨31, 16, .RO, 0x0⟩]⟩]

/-- Registers of INK. -/
def regsINK : List RegDef :=
  [-- CTRL
   ⟨0x0, 0, 1, false, [⟨0, 0, .RW, 0x0⟩]⟩,
   -- STATUS
   ⟨0x4, 0, 1, false, [⟨0, 0, .W1C, 0x0⟩, ⟨1, 1, .W1C, 0x0⟩]⟩,
   -- CE_COUNT
   ⟨0x8, 0, 1, false, [⟨31, 0, .RO, 0x0⟩]⟩,
   -- UE_ADDR
   ⟨0xC, 0, 1, false, [⟨27, 0, .RO, 0x0⟩, ⟨28, 28, .RO, 0x0⟩]⟩]

/-- Registers of DMA. -/
def regsDMA : List RegDef :=
  [-- CTRL
   ⟨0x0, 0, 1, false, [⟨0, 0, .RW, 0x0⟩]⟩,
   -- STATUS
   ⟨0x4, 0, 1, false, [⟨0, 0, .W1C, 0x0⟩, ⟨1, 1, .W1C, 0x0⟩]⟩,
   -- BUSY
   ⟨0x8, 0, 1, false, [⟨31, 0, .RO, 0x0⟩]⟩,
   -- STOPPED
   ⟨0xC, 0, 1, false, [⟨31, 0, .RO, 0x0⟩]⟩,
   -- REPLAY_COUNT
   ⟨0x10, 0, 1, false, [⟨31, 0, .RO, 0x0⟩]⟩]

/-- Registers of SBD. -/
def regsSBD : List RegDef :=
  [-- CTRL
   ⟨0x0, 0, 1, false, [⟨0, 0, .RW, 0x0⟩, ⟨3, 1, .CD, 0x2⟩]⟩,
   -- STATUS
   ⟨0x4, 0, 1, false, [⟨0, 0, .W1C, 0x0⟩, ⟨1, 1, .W1C, 0x0⟩, ⟨2, 2, .W1C, 0x0⟩, ⟨3, 3, .W1C, 0x0⟩, ⟨11, 8, .RO, 0x0⟩]⟩,
   -- SCOPE_MISMATCH
   ⟨0x8, 0, 1, false, [⟨31, 0, .RO, 0x0⟩]⟩,
   -- RES
   ⟨0x40, 4, 16, false, [⟨15, 0, .RO, 0x0⟩, ⟨31, 16, .RO, 0x0⟩]⟩]

/-- Registers of CAB. -/
def regsCAB : List RegDef :=
  [-- CTRL
   ⟨0x0, 0, 1, false, [⟨0, 0, .RW, 0x0⟩, ⟨1, 1, .CD, 0x1⟩, ⟨2, 2, .CD, 0x1⟩, ⟨12, 8, .CD, 0x4⟩, ⟨23, 16, .CD, 0x10⟩]⟩,
   -- STATUS
   ⟨0x4, 0, 1, false, [⟨0, 0, .RO, 0x0⟩, ⟨1, 1, .RO, 0x0⟩, ⟨2, 2, .RO, 0x0⟩, ⟨3, 3, .RO, 0x0⟩, ⟨4, 4, .RO, 0x0⟩, ⟨5, 5, .W1C, 0x0⟩, ⟨6, 6, .W1C, 0x0⟩, ⟨7, 7, .W1C, 0x0⟩, ⟨10, 8, .RO, 0x4⟩, ⟨15, 11, .RO, 0x0⟩, ⟨31, 16, .RO, 0x0⟩]⟩,
   -- EVAC_REQ
   ⟨0x8, 0, 1, false, [⟨5, 0, .GP, 0x0⟩, ⟨8, 8, .GP, 0x0⟩]⟩,
   -- EVAC_STATUS
   ⟨0x10, 0, 1, false, [⟨5, 0, .RO, 0x0⟩, ⟨7, 6, .RO, 0x0⟩, ⟨14, 8, .RO, 0x0⟩, ⟨22, 16, .RO, 0x0⟩, ⟨27, 24, .RO, 0x0⟩]⟩,
   -- EVAC_WMARK
   ⟨0x14, 0, 1, false, [⟨23, 0, .RO, 0x0⟩]⟩,
   -- EYE_CTRL
   ⟨0x18, 0, 1, false, [⟨7, 0, .CD, 0x20⟩, ⟨15, 8, .CD, 0x1⟩, ⟨23, 16, .RO, 0x0⟩, ⟨30, 24, .RO, 0x0⟩]⟩,
   -- TEMP
   ⟨0x1C, 0, 1, false, [⟨15, 0, .RO, 0x0⟩, ⟨19, 16, .RO, 0x0⟩]⟩,
   -- PATIENCE_SCRUB
   ⟨0x20, 0, 1, false, [⟨23, 0, .CD, 0x186A0⟩]⟩,
   -- PATIENCE_WB
   ⟨0x24, 0, 1, false, [⟨23, 0, .CD, 0xC8⟩]⟩,
   -- PATIENCE_RIDE
   ⟨0x28, 0, 1, false, [⟨23, 0, .CD, 0x7D0⟩]⟩,
   -- PATIENCE_TELE
   ⟨0x2C, 0, 1, false, [⟨23, 0, .CD, 0x2710⟩]⟩,
   -- CE_COUNT
   ⟨0x30, 0, 1, false, [⟨31, 0, .RO, 0x0⟩]⟩,
   -- UE_COUNT
   ⟨0x34, 0, 1, false, [⟨31, 0, .RO, 0x0⟩]⟩,
   -- DF_COUNT
   ⟨0x38, 0, 1, false, [⟨31, 0, .RO, 0x0⟩]⟩,
   -- ERR_ADDR_LO
   ⟨0x40, 0, 1, true, [⟨31, 0, .RO, 0x0⟩]⟩,
   -- ERR_ADDR_HI
   ⟨0x44, 0, 1, false, [⟨15, 0, .RO, 0x0⟩, ⟨22, 16, .RO, 0x0⟩, ⟨25, 23, .RO, 0x0⟩]⟩,
   -- SCRUB_STATUS
   ⟨0x50, 0, 1, false, [⟨23, 0, .RO, 0x0⟩, ⟨31, 24, .RO, 0x0⟩]⟩,
   -- MAP
   ⟨0x100, 4, 16, false, [⟨6, 0, .RO, 0x0⟩, ⟨14, 8, .RO, 0x0⟩, ⟨22, 16, .RO, 0x0⟩, ⟨30, 24, .RO, 0x0⟩]⟩,
   -- DSTATE
   ⟨0x140, 4, 8, false, [⟨31, 0, .RO, 0x0⟩]⟩,
   -- DSTATE_8
   ⟨0x160, 0, 1, false, [⟨15, 0, .RO, 0x1111⟩]⟩]

/-- Registers of NIB. -/
def regsNIB : List RegDef :=
  [-- CTRL
   ⟨0x0, 0, 1, false, [⟨0, 0, .RW, 0x0⟩]⟩,
   -- STATUS
   ⟨0x4, 0, 1, false, [⟨0, 0, .RO, 0x0⟩, ⟨1, 1, .W1C, 0x0⟩, ⟨2, 2, .W1C, 0x0⟩, ⟨3, 3, .W1C, 0x0⟩, ⟨4, 4, .W1C, 0x0⟩, ⟨5, 5, .W1C, 0x0⟩, ⟨6, 6, .W1C, 0x0⟩]⟩,
   -- SKIP_COUNT
   ⟨0x8, 0, 1, false, [⟨15, 0, .RO, 0x0⟩, ⟨31, 16, .RO, 0x0⟩]⟩,
   -- DIAG_COUNT
   ⟨0xC, 0, 1, false, [⟨31, 0, .RO, 0x0⟩]⟩]

/-- Registers of NIB0. -/
def regsNIB0 : List RegDef :=
  [-- STEP_CTRL
   ⟨0x100, 0, 1, false, [⟨15, 0, .CD, 0x0⟩]⟩,
   -- STEP_VALUE
   ⟨0x104, 0, 1, false, [⟨31, 0, .RO, 0x0⟩]⟩,
   -- STEP_INDEX
   ⟨0x108, 0, 1, false, [⟨31, 0, .RO, 0xFFFFFFFF⟩]⟩,
   -- STEP_QUEUE
   ⟨0x10C, 0, 1, false, [⟨3, 0, .RO, 0x0⟩, ⟨4, 4, .RO, 0x0⟩, ⟨31, 16, .RO, 0x0⟩]⟩,
   -- ROOT_COUNT
   ⟨0x110, 0, 1, false, [⟨15, 0, .RO, 0x0⟩, ⟨31, 16, .RO, 0x0⟩]⟩]

/-- Registers of QPT. -/
def regsQPT : List RegDef :=
  [-- CTRL
   ⟨0x0, 0, 1, false, [⟨0, 0, .RW, 0x0⟩, ⟨1, 1, .CD, 0x1⟩, ⟨2, 2, .CD, 0x1⟩]⟩,
   -- STATUS
   ⟨0x4, 0, 1, false, [⟨0, 0, .RO, 0x0⟩, ⟨2, 1, .RO, 0x0⟩, ⟨3, 3, .RO, 0x0⟩, ⟨4, 4, .W1C, 0x0⟩, ⟨5, 5, .W1C, 0x0⟩, ⟨6, 6, .W1C, 0x0⟩, ⟨7, 7, .W1C, 0x0⟩, ⟨8, 8, .RO, 0x0⟩, ⟨9, 9, .RO, 0x0⟩, ⟨23, 16, .RO, 0x0⟩]⟩,
   -- RETRY_CTRL
   ⟨0x8, 0, 1, false, [⟨7, 0, .CD, 0x50⟩, ⟨15, 8, .CD, 0x10⟩]⟩,
   -- EQ
   ⟨0xC, 0, 1, false, [⟨7, 0, .CD, 0x18⟩, ⟨15, 8, .RO, 0x0⟩, ⟨18, 16, .RO, 0x0⟩]⟩,
   -- PARTNER
   ⟨0x10, 0, 1, false, [⟨10, 0, .RO, 0x0⟩, ⟨15, 11, .RO, 0x0⟩, ⟨16, 16, .RO, 0x0⟩]⟩,
   -- FEC_CE
   ⟨0x18, 0, 1, false, [⟨31, 0, .RO, 0x0⟩]⟩,
   -- FEC_UE
   ⟨0x1C, 0, 1, false, [⟨31, 0, .RO, 0x0⟩]⟩,
   -- RETX
   ⟨0x20, 0, 1, false, [⟨31, 0, .RO, 0x0⟩]⟩]

/-- Registers of QFB. -/
def regsQFB : List RegDef :=
  [-- CTRL
   ⟨0x0, 0, 1, false, [⟨0, 0, .RW, 0x0⟩, ⟨1, 1, .CD, 0x0⟩, ⟨31, 16, .CD, 0x88B5⟩]⟩,
   -- SWITCHED
   ⟨0x4, 0, 1, false, [⟨2, 0, .CD, 0x3⟩, ⟨15, 4, .CD, 0x0⟩]⟩,
   -- STATUS
   ⟨0x8, 0, 1, false, [⟨0, 0, .W1C, 0x0⟩, ⟨1, 1, .W1C, 0x0⟩, ⟨2, 2, .W1C, 0x0⟩, ⟨3, 3, .W1C, 0x0⟩, ⟨9, 4, .RO, 0x0⟩, ⟨31, 16, .RO, 0x0⟩]⟩,
   -- ROUTE_STATUS
   ⟨0xC, 0, 1, false, [⟨0, 0, .RO, 0x0⟩, ⟨1, 1, .RO, 0x0⟩]⟩,
   -- ROUTE_FROM
   ⟨0x10, 0, 1, false, [⟨31, 0, .RO, 0x0⟩]⟩,
   -- ROUTE_ARM
   ⟨0x14, 0, 1, false, [⟨31, 0, .GP, 0xFFFFFFFF⟩]⟩,
   -- RIDE
   ⟨0x1C, 0, 1, false, [⟨9, 0, .RO, 0x0⟩, ⟨26, 16, .RO, 0x0⟩]⟩,
   -- ROLE
   ⟨0x20, 0, 1, false, [⟨10, 0, .RO, 0x0⟩]⟩]

/-- Registers of HPT. -/
def regsHPT : List RegDef :=
  [-- CTRL
   ⟨0x0, 0, 1, false, [⟨0, 0, .RW, 0x0⟩, ⟨1, 1, .CD, 0x1⟩, ⟨2, 2, .CD, 0x1⟩]⟩,
   -- STATUS
   ⟨0x4, 0, 1, false, [⟨0, 0, .RO, 0x0⟩, ⟨2, 1, .RO, 0x0⟩, ⟨3, 3, .RO, 0x0⟩, ⟨4, 4, .W1C, 0x0⟩, ⟨5, 5, .W1C, 0x0⟩, ⟨12, 8, .RO, 0x0⟩]⟩,
   -- FEC_CE
   ⟨0x8, 0, 1, false, [⟨31, 0, .RO, 0x0⟩]⟩,
   -- FEC_UE
   ⟨0xC, 0, 1, false, [⟨31, 0, .RO, 0x0⟩]⟩,
   -- DROP
   ⟨0x10, 0, 1, false, [⟨31, 0, .RO, 0x0⟩]⟩,
   -- MAC_LO
   ⟨0x18, 0, 1, true, [⟨31, 0, .RO, 0x0⟩]⟩,
   -- MAC_HI
   ⟨0x1C, 0, 1, false, [⟨15, 0, .RO, 0x0⟩]⟩]

/-- Registers of INT. -/
def regsINT : List RegDef :=
  [-- CTRL
   ⟨0x0, 0, 1, false, [⟨0, 0, .RW, 0x0⟩, ⟨3, 1, .CD, 0x4⟩, ⟨31, 16, .CD, 0xB8E1⟩]⟩,
   -- RING
   ⟨0x4, 0, 1, false, [⟨10, 0, .CD, 0x200⟩]⟩,
   -- HEADROOM
   ⟨0x8, 0, 1, false, [⟨18, 0, .CD, 0x1000⟩]⟩,
   -- PAUSE_RESP
   ⟨0xC, 0, 1, false, [⟨15, 0, .CD, 0x7D0⟩]⟩,
   -- RESUME
   ⟨0x10, 0, 1, false, [⟨14, 0, .CD, 0x400⟩]⟩,
   -- STATUS
   ⟨0x14, 0, 1, false, [⟨0, 0, .RO, 0x0⟩, ⟨1, 1, .W1C, 0x0⟩, ⟨2, 2, .W1C, 0x0⟩, ⟨3, 3, .RO, 0x0⟩]⟩,
   -- DIST
   ⟨0x18, 0, 1, false, [⟨19, 0, .RO, 0x400⟩]⟩,
   -- RTT0
   ⟨0x1C, 0, 1, false, [⟨23, 0, .RO, 0x0⟩, ⟨24, 24, .RO, 0x0⟩]⟩,
   -- RTT1
   ⟨0x20, 0, 1, false, [⟨23, 0, .RO, 0x0⟩, ⟨24, 24, .RO, 0x0⟩]⟩,
   -- FREE
   ⟨0x24, 0, 1, false, [⟨19, 0, .RO, 0x0⟩]⟩,
   -- NEXT_LO
   ⟨0x28, 0, 1, true, [⟨31, 0, .RO, 0x0⟩]⟩,
   -- NEXT_HI
   ⟨0x2C, 0, 1, false, [⟨31, 0, .RO, 0x0⟩]⟩,
   -- LOG_BASE_LO
   ⟨0x30, 0, 1, true, [⟨31, 0, .RO, 0xC4000000⟩]⟩,
   -- LOG_BASE_HI
   ⟨0x34, 0, 1, false, [⟨15, 0, .RO, 0x173⟩]⟩,
   -- LOG_HEAD
   ⟨0x38, 0, 1, false, [⟨31, 0, .RO, 0x0⟩]⟩,
   -- DROP_COUNT
   ⟨0x3C, 0, 1, false, [⟨31, 0, .RO, 0x0⟩]⟩,
   -- GAP_COUNT
   ⟨0x40, 0, 1, false, [⟨31, 0, .RO, 0x0⟩]⟩]

/-- Registers of SVL. -/
def regsSVL : List RegDef :=
  [-- CTRL
   ⟨0x0, 0, 1, false, [⟨0, 0, .RW, 0x0⟩, ⟨1, 1, .CD, 0x1⟩, ⟨2, 2, .CD, 0x1⟩]⟩,
   -- STATUS
   ⟨0x4, 0, 1, false, [⟨2, 0, .RO, 0x0⟩, ⟨5, 3, .RO, 0x0⟩, ⟨6, 6, .RO, 0x0⟩, ⟨7, 7, .RO, 0x0⟩, ⟨8, 8, .RO, 0x0⟩, ⟨9, 9, .W1C, 0x0⟩, ⟨10, 10, .W1C, 0x0⟩, ⟨11, 11, .W1C, 0x0⟩, ⟨12, 12, .W1C, 0x0⟩]⟩,
   -- CONFIRMED
   ⟨0x8, 0, 1, false, [⟨31, 0, .RO, 0xFFFFFFFF⟩]⟩,
   -- WARD_STEP
   ⟨0xC, 0, 1, false, [⟨31, 0, .RO, 0xFFFFFFFF⟩]⟩,
   -- SEAL_STEP
   ⟨0x10, 0, 1, false, [⟨31, 0, .RO, 0xFFFFFFFF⟩]⟩,
   -- RANGES
   ⟨0x14, 0, 1, false, [⟨15, 0, .RO, 0x0⟩, ⟨31, 16, .RO, 0x0⟩]⟩,
   -- IMAGE_LO
   ⟨0x18, 0, 1, true, [⟨31, 0, .RO, 0x0⟩]⟩,
   -- IMAGE_HI
   ⟨0x1C, 0, 1, false, [⟨15, 0, .RO, 0x0⟩]⟩,
   -- DIGEST
   ⟨0x20, 4, 8, false, [⟨31, 0, .RO, 0x0⟩]⟩,
   -- WARD_DIGEST
   ⟨0x40, 4, 8, false, [⟨31, 0, .RO, 0x0⟩]⟩]

/-- Table 13.1. -/
def regBlocks : List BlockDef :=
  [⟨0x0, 0x0, 1, false, regsGLB⟩,
   ⟨0x10000, 0x0, 1, false, regsPWR⟩,
   ⟨0x20000, 0x0, 1, false, regsSEC⟩,
   ⟨0x30000, 0x0, 1, false, regsGAU⟩,
   ⟨0x40000, 0x0, 1, true, regsCNT⟩,
   ⟨0x50000, 0x0, 1, true, regsRSK⟩,
   ⟨0x80000, 0x10000, 2, true, regsDSK⟩,
   ⟨0xA0000, 0x0, 1, true, regsINK⟩,
   ⟨0xB0000, 0x0, 1, true, regsDMA⟩,
   ⟨0xC0000, 0x0, 1, true, regsSBD⟩,
   ⟨0x100000, 0x10000, 16, true, regsCAB⟩,
   ⟨0x200000, 0x10000, 16, true, regsNIB⟩,
   ⟨0x300000, 0x10000, 24, true, regsQPT⟩,
   ⟨0x480000, 0x0, 1, true, regsQFB⟩,
   ⟨0x490000, 0x10000, 2, true, regsHPT⟩,
   ⟨0x4B0000, 0x0, 1, true, regsINT⟩,
   ⟨0x4C0000, 0x0, 1, true, regsSVL⟩]

/-! ### Fields of GLB -/
def GLB_ID_PART : Fld := ⟨0x0, 15, 0⟩
def GLB_ID_SILICON_REV : Fld := ⟨0x0, 19, 16⟩
def GLB_ID_ORDER : Fld := ⟨0x0, 21, 20⟩
def GLB_FW_VERSION_VERSION : Fld := ⟨0x4, 31, 0⟩
def GLB_CONTRACT_LEVEL : Fld := ⟨0x8, 15, 0⟩
def GLB_STATE_JOB_STATE : Fld := ⟨0xC, 2, 0⟩
def GLB_STATE_MAIN_ON : Fld := ⟨0xC, 3, 3⟩
def GLB_STATE_READY : Fld := ⟨0xC, 4, 4⟩
def GLB_STATE_SAFE_CAUSE : Fld := ⟨0xC, 31, 16⟩
def GLB_STATUS_CFG_IGNORED : Fld := ⟨0x10, 0, 0⟩
def GLB_STATUS_GUARD_FAULT : Fld := ⟨0x10, 1, 1⟩
def GLB_STATUS_REG_COLLISION : Fld := ⟨0x10, 2, 2⟩
def GLB_STATUS_LOCK_DENIED : Fld := ⟨0x10, 3, 3⟩
def GLB_STATUS_TEST_TOUCHED : Fld := ⟨0x10, 4, 4⟩
def GLB_CFG_IGNORED_ADDR_ADDR : Fld := ⟨0x14, 23, 0⟩
def GLB_CFG_IGNORED_ADDR_MASTER : Fld := ⟨0x14, 24, 24⟩
def GLB_GUARD_ADDR_ADDR : Fld := ⟨0x18, 23, 0⟩
def GLB_GUARD_ADDR_MASTER : Fld := ⟨0x18, 24, 24⟩
def GLB_COLLISION_ADDR_ADDR : Fld := ⟨0x1C, 23, 0⟩
def GLB_COLLISION_ADDR_MASTER : Fld := ⟨0x1C, 24, 24⟩
def GLB_LOCK_HOST_HELD : Fld := ⟨0x20, 5, 0⟩
def GLB_LOCK_MGMT_HELD : Fld := ⟨0x20, 13, 8⟩
def GLB_LOCK_CTRL_TIMEOUT_S : Fld := ⟨0x24, 7, 0⟩
def GLB_LOCK_CTRL_COLLIDE_US : Fld := ⟨0x24, 23, 8⟩
def GLB_ALERT_EN_EN : Fld := ⟨0x28, 8, 0⟩
def GLB_ALERT_SRC_SRC : Fld := ⟨0x2C, 8, 0⟩
def GLB_RESET_REQ_KIND : Fld := ⟨0x40, 3, 0⟩
def GLB_RESET_REQ_BLOCK : Fld := ⟨0x40, 15, 8⟩
def GLB_STEP_STEP : Fld := ⟨0x50, 31, 0⟩

/-! ### Fields of PWR -/
def PWR_CTRL_LOOP_EN : Fld := ⟨0x10000, 0, 0⟩
def PWR_CTRL_MODE : Fld := ⟨0x10000, 1, 1⟩
def PWR_TARGET_RATE : Fld := ⟨0x10004, 15, 0⟩
def PWR_TARGET_CAP : Fld := ⟨0x10004, 27, 16⟩
def PWR_STATUS_STBY_OK : Fld := ⟨0x10008, 0, 0⟩
def PWR_STATUS_MAIN_OK : Fld := ⟨0x10008, 1, 1⟩
def PWR_STATUS_FEED_WARN : Fld := ⟨0x10008, 2, 2⟩
def PWR_STATUS_CAP_LIMITED : Fld := ⟨0x10008, 3, 3⟩
def PWR_STATUS_THROTTLE : Fld := ⟨0x10008, 4, 4⟩
def PWR_STATUS_POWER_FAIL : Fld := ⟨0x10008, 5, 5⟩
def PWR_STATUS_THERM_TRIP : Fld := ⟨0x10008, 6, 6⟩
def PWR_STATUS_MEM_HOT : Fld := ⟨0x10008, 7, 7⟩
def PWR_STATUS_UNDERVOLT : Fld := ⟨0x10008, 8, 8⟩
def PWR_VIN_VIN : Fld := ⟨0x1000C, 15, 0⟩
def PWR_VIN_VIN_MIN : Fld := ⟨0x1000C, 31, 16⟩
def PWR_DRAW_AVG_W : Fld := ⟨0x10010, 15, 0⟩
def PWR_DRAW_PEAK_W : Fld := ⟨0x10010, 31, 16⟩
def PWR_VDD_DESK0_MV : Fld := ⟨0x10014, 15, 0⟩
def PWR_VDD_DESK1_MV : Fld := ⟨0x10014, 31, 16⟩
def PWR_TEMP_TJ_MAX : Fld := ⟨0x10018, 15, 0⟩
def PWR_TEMP_COOLANT_IN : Fld := ⟨0x10018, 31, 16⟩
def PWR_STRAPS_FEED_ID : Fld := ⟨0x1001C, 3, 0⟩
def PWR_STRAPS_SLOT_ID : Fld := ⟨0x1001C, 9, 4⟩

/-! ### Fields of SEC -/
def SEC_STATUS_PRESENCE_OPEN : Fld := ⟨0x20000, 0, 0⟩
def SEC_STATUS_PRESENCE_STRAPPED : Fld := ⟨0x20000, 1, 1⟩
def SEC_STATUS_SEAL_INTACT : Fld := ⟨0x20000, 2, 2⟩
def SEC_STATUS_SEAL_BREAK : Fld := ⟨0x20000, 3, 3⟩
def SEC_STATUS_DEBUG_UNLOCKED : Fld := ⟨0x20000, 4, 4⟩
def SEC_STATUS_TEST_MODE : Fld := ⟨0x20000, 5, 5⟩
def SEC_STATUS_FW_STAGED : Fld := ⟨0x20000, 6, 6⟩
def SEC_STATUS_OWNED : Fld := ⟨0x20000, 7, 7⟩
def SEC_STATUS_WINDOW_S : Fld := ⟨0x20000, 31, 16⟩
def SEC_FW_RUNNING_VERSION : Fld := ⟨0x20004, 31, 0⟩
def SEC_FW_STAGED_VERSION : Fld := ⟨0x20008, 31, 0⟩
def SEC_ID_TAG_TAG : Fld := ⟨0x2000C, 31, 0⟩

/-! ### Fields of GAU -/
def GAU_CTRL_ALARM_ALERT : Fld := ⟨0x30000, 0, 0⟩
def GAU_STATUS_DRY_EVENT : Fld := ⟨0x30004, 0, 0⟩
def GAU_STATUS_DRY_ALARM : Fld := ⟨0x30004, 1, 1⟩
def GAU_STATUS_GAUGE_COUNT : Fld := ⟨0x30004, 31, 16⟩
def GAU_ALARM_LAYER_LAYER : Fld := ⟨0x30008, 15, 0⟩
def GAU_ALARM_STEP_STEP : Fld := ⟨0x3000C, 31, 0⟩
def GAU_LAYER_SEL_LAYER : Fld := ⟨0x30010, 15, 0⟩
def GAU_LAYER_STATE_S : Fld := ⟨0x30014, 7, 0⟩
def GAU_LAYER_STATE_S_MOM : Fld := ⟨0x30014, 15, 8⟩
def GAU_LAYER_STATE_DRY : Fld := ⟨0x30014, 31, 16⟩

/-! ### Fields of CNT -/
def CNT_CTRL_ENABLE : Fld := ⟨0x40000, 0, 0⟩
def CNT_CTRL_SNAP : Fld := ⟨0x40000, 1, 1⟩
def CNT_CTRL_CLEAR : Fld := ⟨0x40000, 2, 2⟩
def CNT_CTRL_STEP_SNAP : Fld := ⟨0x40000, 3, 3⟩
def CNT_OVF_LO_OVF : Fld := ⟨0x40008, 31, 0⟩
def CNT_OVF_HI_OVF : Fld := ⟨0x4000C, 31, 0⟩
def CNT_TIME_LO_TIME : Fld := ⟨0x40010, 31, 0⟩
def CNT_TIME_HI_TIME : Fld := ⟨0x40014, 31, 0⟩
def CNT_SNAP_TIME_LO_SNAP_TIME : Fld := ⟨0x40018, 31, 0⟩
def CNT_SNAP_TIME_HI_SNAP_TIME : Fld := ⟨0x4001C, 31, 0⟩
def CNT_SNAP_STEP_STEP : Fld := ⟨0x40020, 31, 0⟩
def CNT_SEL_EVENT (i : Nat) : Fld := ⟨0x40100 + 4 * i, 7, 0⟩
def CNT_SEL_MODE (i : Nat) : Fld := ⟨0x40100 + 4 * i, 8, 8⟩
def CNT_SEL_SATURATE (i : Nat) : Fld := ⟨0x40100 + 4 * i, 9, 9⟩
def CNT_SEL_EN (i : Nat) : Fld := ⟨0x40100 + 4 * i, 10, 10⟩
def CNT_SEL_DESK_F (i : Nat) : Fld := ⟨0x40100 + 4 * i, 12, 11⟩
def CNT_SEL_LEAF_F (i : Nat) : Fld := ⟨0x40100 + 4 * i, 15, 13⟩
def CNT_SEL_CAB_F (i : Nat) : Fld := ⟨0x40100 + 4 * i, 20, 16⟩
def CNT_SEL_PORT_F (i : Nat) : Fld := ⟨0x40100 + 4 * i, 26, 21⟩
def CNT_VAL_LO_VALUE_LO (i : Nat) : Fld := ⟨0x40200 + 8 * i, 31, 0⟩
def CNT_VAL_HI_VALUE_HI (i : Nat) : Fld := ⟨0x40204 + 8 * i, 15, 0⟩
def CNT_SNAPV_LO_SNAP (i : Nat) : Fld := ⟨0x40400 + 8 * i, 31, 0⟩
def CNT_SNAPV_HI_SNAP (i : Nat) : Fld := ⟨0x40404 + 8 * i, 15, 0⟩

/-! ### Fields of RSK -/
def RSK_CTRL_ENABLE : Fld := ⟨0x50000, 0, 0⟩
def RSK_CTRL_SHIFT : Fld := ⟨0x50000, 3, 1⟩
def RSK_CTRL_DWELL_S : Fld := ⟨0x50000, 15, 8⟩
def RSK_CTRL_FORCE_EN : Fld := ⟨0x50000, 16, 16⟩
def RSK_CTRL_FORCE_LEVEL : Fld := ⟨0x50000, 18, 17⟩
def RSK_STATUS_LEVEL : Fld := ⟨0x50004, 1, 0⟩
def RSK_STATUS_FLOOR_WATCH : Fld := ⟨0x50004, 2, 2⟩
def RSK_STATUS_FALL_HOLD : Fld := ⟨0x50004, 3, 3⟩
def RSK_STATUS_CHANGED : Fld := ⟨0x50004, 4, 4⟩
def RSK_STATUS_SCORE : Fld := ⟨0x50004, 31, 16⟩
def RSK_THRESH_WATCH : Fld := ⟨0x50008, 7, 0⟩
def RSK_THRESH_GUARD : Fld := ⟨0x50008, 15, 8⟩
def RSK_THRESH_BRACE : Fld := ⟨0x50008, 23, 16⟩
def RSK_THRESH_HYST : Fld := ⟨0x50008, 31, 24⟩
def RSK_HOST_VALUE : Fld := ⟨0x5000C, 7, 0⟩
def RSK_WEIGHT_LO_W0 : Fld := ⟨0x50010, 7, 0⟩
def RSK_WEIGHT_LO_W1 : Fld := ⟨0x50010, 15, 8⟩
def RSK_WEIGHT_LO_W2 : Fld := ⟨0x50010, 23, 16⟩
def RSK_WEIGHT_LO_W3 : Fld := ⟨0x50010, 31, 24⟩
def RSK_WEIGHT_HI_W4 : Fld := ⟨0x50014, 7, 0⟩
def RSK_WEIGHT_HI_W5 : Fld := ⟨0x50014, 15, 8⟩
def RSK_WEIGHT_HI_W6 : Fld := ⟨0x50014, 23, 16⟩
def RSK_WEIGHT_HI_W7 : Fld := ⟨0x50014, 31, 24⟩
def RSK_NORM_CE_FULL : Fld := ⟨0x50018, 15, 0⟩
def RSK_NORM_RETRY_FULL : Fld := ⟨0x50018, 31, 16⟩
def RSK_INPUT_X (i : Nat) : Fld := ⟨0x50020 + 4 * i, 7, 0⟩

/-! ### Fields of DSK -/
def DSK_CTRL_ENABLE (n : Nat) : Fld := ⟨0x80000 + 0x10000 * n + 0x0, 0, 0⟩
def DSK_CTRL_ELASTIC_FORCE (n : Nat) : Fld := ⟨0x80000 + 0x10000 * n + 0x0, 1, 1⟩
def DSK_ROT_CTRL_MODE (n : Nat) : Fld := ⟨0x80000 + 0x10000 * n + 0x4, 1, 0⟩
def DSK_ROT_CTRL_FIXED_OFFSET (n : Nat) : Fld := ⟨0x80000 + 0x10000 * n + 0x4, 3, 2⟩
def DSK_ROT_CTRL_SPREAD_THRESH (n : Nat) : Fld := ⟨0x80000 + 0x10000 * n + 0x4, 11, 4⟩
def DSK_ROT_STATUS_OFFSET (n : Nat) : Fld := ⟨0x80000 + 0x10000 * n + 0x8, 1, 0⟩
def DSK_ROT_STATUS_ROT_COUNT (n : Nat) : Fld := ⟨0x80000 + 0x10000 * n + 0x8, 31, 16⟩
def DSK_PLANK_MAP_ROW0_OUT (n i : Nat) : Fld := ⟨0x80000 + 0x10000 * n + 0x10 + 4 * i, 3, 0⟩
def DSK_PLANK_MAP_ROW1_OUT (n i : Nat) : Fld := ⟨0x80000 + 0x10000 * n + 0x10 + 4 * i, 7, 4⟩
def DSK_PLANK_MAP_ROW2_OUT (n i : Nat) : Fld := ⟨0x80000 + 0x10000 * n + 0x10 + 4 * i, 11, 8⟩
def DSK_PLANK_MAP_ROW3_OUT (n i : Nat) : Fld := ⟨0x80000 + 0x10000 * n + 0x10 + 4 * i, 15, 12⟩
def DSK_PLANK_MAP_ROW4_OUT (n i : Nat) : Fld := ⟨0x80000 + 0x10000 * n + 0x10 + 4 * i, 19, 16⟩
def DSK_PLANK_MAP_ROW5_OUT (n i : Nat) : Fld := ⟨0x80000 + 0x10000 * n + 0x10 + 4 * i, 23, 20⟩
def DSK_PLANK_MAP_ROW6_OUT (n i : Nat) : Fld := ⟨0x80000 + 0x10000 * n + 0x10 + 4 * i, 27, 24⟩
def DSK_PLANK_MAP_ROW7_OUT (n i : Nat) : Fld := ⟨0x80000 + 0x10000 * n + 0x10 + 4 * i, 31, 28⟩
def DSK_ARRAY_STATUS_ARRAY_FAULT (n : Nat) : Fld := ⟨0x80000 + 0x10000 * n + 0x20, 0, 0⟩
def DSK_ARRAY_STATUS_UNREPAIRABLE (n : Nat) : Fld := ⟨0x80000 + 0x10000 * n + 0x20, 1, 1⟩
def DSK_ARRAY_STATUS_FAULT_LEAF (n : Nat) : Fld := ⟨0x80000 + 0x10000 * n + 0x20, 3, 2⟩
def DSK_ARRAY_STATUS_FAULT_ROW (n : Nat) : Fld := ⟨0x80000 + 0x10000 * n + 0x20, 6, 4⟩
def DSK_ARRAY_STATUS_FAULT_COL (n : Nat) : Fld := ⟨0x80000 + 0x10000 * n + 0x20, 10, 7⟩
def DSK_ARRAY_STATUS_PARKED (n : Nat) : Fld := ⟨0x80000 + 0x10000 * n + 0x20, 14, 11⟩
def DSK_ARRAY_STATUS_PARITY_COUNT (n : Nat) : Fld := ⟨0x80000 + 0x10000 * n + 0x20, 31, 16⟩
def DSK_LEAF_RATE_RATE (n i : Nat) : Fld := ⟨0x80000 + 0x10000 * n + 0x30 + 4 * i, 15, 0⟩
def DSK_LEAF_RATE_TJ (n i : Nat) : Fld := ⟨0x80000 + 0x10000 * n + 0x30 + 4 * i, 31, 16⟩

/-! ### Fields of INK -/
def INK_CTRL_ENABLE : Fld := ⟨0xA0000, 0, 0⟩
def INK_STATUS_SRAM_CE : Fld := ⟨0xA0004, 0, 0⟩
def INK_STATUS_SRAM_UE : Fld := ⟨0xA0004, 1, 1⟩
def INK_CE_COUNT_COUNT : Fld := ⟨0xA0008, 31, 0⟩
def INK_UE_ADDR_OFFSET : Fld := ⟨0xA000C, 27, 0⟩
def INK_UE_ADDR_DESK : Fld := ⟨0xA000C, 28, 28⟩

/-! ### Fields of DMA -/
def DMA_CTRL_ENABLE : Fld := ⟨0xB0000, 0, 0⟩
def DMA_STATUS_REPLAY : Fld := ⟨0xB0004, 0, 0⟩
def DMA_STATUS_REPLAY_FAIL : Fld := ⟨0xB0004, 1, 1⟩
def DMA_BUSY_ENGINES : Fld := ⟨0xB0008, 31, 0⟩
def DMA_STOPPED_ENGINES : Fld := ⟨0xB000C, 31, 0⟩
def DMA_REPLAY_COUNT_COUNT : Fld := ⟨0xB0010, 31, 0⟩

/-! ### Fields of SBD -/
def SBD_CTRL_ENABLE : Fld := ⟨0xC0000, 0, 0⟩
def SBD_CTRL_FAR_WAYS : Fld := ⟨0xC0000, 3, 1⟩
def SBD_STATUS_SRAM_CE : Fld := ⟨0xC0004, 0, 0⟩
def SBD_STATUS_SRAM_UE : Fld := ⟨0xC0004, 1, 1⟩
def SBD_STATUS_RES_WAIT : Fld := ⟨0xC0004, 2, 2⟩
def SBD_STATUS_SEAL_NAN : Fld := ⟨0xC0004, 3, 3⟩
def SBD_STATUS_UE_SLICE : Fld := ⟨0xC0004, 11, 8⟩
def SBD_SCOPE_MISMATCH_COUNT : Fld := ⟨0xC0008, 31, 0⟩
def SBD_RES_OPEN_SLOTS (i : Nat) : Fld := ⟨0xC0040 + 4 * i, 15, 0⟩
def SBD_RES_HIGH_WATER (i : Nat) : Fld := ⟨0xC0040 + 4 * i, 31, 16⟩

/-! ### Fields of CAB -/
def CAB_CTRL_ENABLE (c : Nat) : Fld := ⟨0x100000 + 0x10000 * c + 0x0, 0, 0⟩
def CAB_CTRL_EVAC_AUTO (c : Nat) : Fld := ⟨0x100000 + 0x10000 * c + 0x0, 1, 1⟩
def CAB_CTRL_SCRUB_EN (c : Nat) : Fld := ⟨0x100000 + 0x10000 * c + 0x0, 2, 2⟩
def CAB_CTRL_SCRUB_HOURS (c : Nat) : Fld := ⟨0x100000 + 0x10000 * c + 0x0, 12, 8⟩
def CAB_CTRL_CE_EVAC_THRESH (c : Nat) : Fld := ⟨0x100000 + 0x10000 * c + 0x0, 23, 16⟩
def CAB_STATUS_ENABLED (c : Nat) : Fld := ⟨0x100000 + 0x10000 * c + 0x4, 0, 0⟩
def CAB_STATUS_EVAC_ACTIVE (c : Nat) : Fld := ⟨0x100000 + 0x10000 * c + 0x4, 1, 1⟩
def CAB_STATUS_PAUSE_RETRAIN (c : Nat) : Fld := ⟨0x100000 + 0x10000 * c + 0x4, 2, 2⟩
def CAB_STATUS_EXHAUSTED (c : Nat) : Fld := ⟨0x100000 + 0x10000 * c + 0x4, 3, 3⟩
def CAB_STATUS_MEM_HOT (c : Nat) : Fld := ⟨0x100000 + 0x10000 * c + 0x4, 4, 4⟩
def CAB_STATUS_LINE_FAULT (c : Nat) : Fld := ⟨0x100000 + 0x10000 * c + 0x4, 5, 5⟩
def CAB_STATUS_SCRUB_LATE (c : Nat) : Fld := ⟨0x100000 + 0x10000 * c + 0x4, 6, 6⟩
def CAB_STATUS_REBUILD (c : Nat) : Fld := ⟨0x100000 + 0x10000 * c + 0x4, 7, 7⟩
def CAB_STATUS_SPARES_FREE (c : Nat) : Fld := ⟨0x100000 + 0x10000 * c + 0x4, 10, 8⟩
def CAB_STATUS_FAILED_COUNT (c : Nat) : Fld := ⟨0x100000 + 0x10000 * c + 0x4, 15, 11⟩
def CAB_STATUS_EVAC_COUNT (c : Nat) : Fld := ⟨0x100000 + 0x10000 * c + 0x4, 31, 16⟩
def CAB_EVAC_REQ_LCHAN (c : Nat) : Fld := ⟨0x100000 + 0x10000 * c + 0x8, 5, 0⟩
def CAB_EVAC_REQ_START (c : Nat) : Fld := ⟨0x100000 + 0x10000 * c + 0x8, 8, 8⟩
def CAB_EVAC_STATUS_LCHAN (c : Nat) : Fld := ⟨0x100000 + 0x10000 * c + 0x10, 5, 0⟩
def CAB_EVAC_STATUS_PHASE (c : Nat) : Fld := ⟨0x100000 + 0x10000 * c + 0x10, 7, 6⟩
def CAB_EVAC_STATUS_SRC (c : Nat) : Fld := ⟨0x100000 + 0x10000 * c + 0x10, 14, 8⟩
def CAB_EVAC_STATUS_DST (c : Nat) : Fld := ⟨0x100000 + 0x10000 * c + 0x10, 22, 16⟩
def CAB_EVAC_STATUS_QUEUED (c : Nat) : Fld := ⟨0x100000 + 0x10000 * c + 0x10, 27, 24⟩
def CAB_EVAC_WMARK_WMARK (c : Nat) : Fld := ⟨0x100000 + 0x10000 * c + 0x14, 23, 0⟩
def CAB_EYE_CTRL_EVAC_MARGIN (c : Nat) : Fld := ⟨0x100000 + 0x10000 * c + 0x18, 7, 0⟩
def CAB_EYE_CTRL_SAMPLE_MS (c : Nat) : Fld := ⟨0x100000 + 0x10000 * c + 0x18, 15, 8⟩
def CAB_EYE_CTRL_WORST_MARGIN (c : Nat) : Fld := ⟨0x100000 + 0x10000 * c + 0x18, 23, 16⟩
def CAB_EYE_CTRL_WORST_DRAWER (c : Nat) : Fld := ⟨0x100000 + 0x10000 * c + 0x18, 30, 24⟩
def CAB_TEMP_TEMP (c : Nat) : Fld := ⟨0x100000 + 0x10000 * c + 0x1C, 15, 0⟩
def CAB_TEMP_REFRESH_RATE (c : Nat) : Fld := ⟨0x100000 + 0x10000 * c + 0x1C, 19, 16⟩
def CAB_PATIENCE_SCRUB_PATIENCE (c : Nat) : Fld := ⟨0x100000 + 0x10000 * c + 0x20, 23, 0⟩
def CAB_PATIENCE_WB_PATIENCE (c : Nat) : Fld := ⟨0x100000 + 0x10000 * c + 0x24, 23, 0⟩
def CAB_PATIENCE_RIDE_PATIENCE (c : Nat) : Fld := ⟨0x100000 + 0x10000 * c + 0x28, 23, 0⟩
def CAB_PATIENCE_TELE_PATIENCE (c : Nat) : Fld := ⟨0x100000 + 0x10000 * c + 0x2C, 23, 0⟩
def CAB_CE_COUNT_COUNT (c : Nat) : Fld := ⟨0x100000 + 0x10000 * c + 0x30, 31, 0⟩
def CAB_UE_COUNT_COUNT (c : Nat) : Fld := ⟨0x100000 + 0x10000 * c + 0x34, 31, 0⟩
def CAB_DF_COUNT_COUNT (c : Nat) : Fld := ⟨0x100000 + 0x10000 * c + 0x38, 31, 0⟩
def CAB_ERR_ADDR_LO_ADDR_LO (c : Nat) : Fld := ⟨0x100000 + 0x10000 * c + 0x40, 31, 0⟩
def CAB_ERR_ADDR_HI_ADDR_HI (c : Nat) : Fld := ⟨0x100000 + 0x10000 * c + 0x44, 15, 0⟩
def CAB_ERR_ADDR_HI_DRAWER (c : Nat) : Fld := ⟨0x100000 + 0x10000 * c + 0x44, 22, 16⟩
def CAB_ERR_ADDR_HI_KIND (c : Nat) : Fld := ⟨0x100000 + 0x10000 * c + 0x44, 25, 23⟩
def CAB_SCRUB_STATUS_PASS_POS (c : Nat) : Fld := ⟨0x100000 + 0x10000 * c + 0x50, 23, 0⟩
def CAB_SCRUB_STATUS_PASS_COUNT (c : Nat) : Fld := ⟨0x100000 + 0x10000 * c + 0x50, 31, 24⟩
def CAB_MAP_PHYS_0 (c i : Nat) : Fld := ⟨0x100000 + 0x10000 * c + 0x100 + 4 * i, 6, 0⟩
def CAB_MAP_PHYS_1 (c i : Nat) : Fld := ⟨0x100000 + 0x10000 * c + 0x100 + 4 * i, 14, 8⟩
def CAB_MAP_PHYS_2 (c i : Nat) : Fld := ⟨0x100000 + 0x10000 * c + 0x100 + 4 * i, 22, 16⟩
def CAB_MAP_PHYS_3 (c i : Nat) : Fld := ⟨0x100000 + 0x10000 * c + 0x100 + 4 * i, 30, 24⟩
def CAB_DSTATE_STATE (c i : Nat) : Fld := ⟨0x100000 + 0x10000 * c + 0x140 + 4 * i, 31, 0⟩
def CAB_DSTATE_8_STATE (c : Nat) : Fld := ⟨0x100000 + 0x10000 * c + 0x160, 15, 0⟩

/-! ### Fields of NIB -/
def NIB_CTRL_ENABLE (c : Nat) : Fld := ⟨0x200000 + 0x10000 * c + 0x0, 0, 0⟩
def NIB_STATUS_BUSY (c : Nat) : Fld := ⟨0x200000 + 0x10000 * c + 0x4, 0, 0⟩
def NIB_STATUS_STALE (c : Nat) : Fld := ⟨0x200000 + 0x10000 * c + 0x4, 1, 1⟩
def NIB_STATUS_NF_SKIP (c : Nat) : Fld := ⟨0x200000 + 0x10000 * c + 0x4, 2, 2⟩
def NIB_STATUS_FROZEN_SKIP (c : Nat) : Fld := ⟨0x200000 + 0x10000 * c + 0x4, 3, 3⟩
def NIB_STATUS_POISON_OUT (c : Nat) : Fld := ⟨0x200000 + 0x10000 * c + 0x4, 4, 4⟩
def NIB_STATUS_SATURATED (c : Nat) : Fld := ⟨0x200000 + 0x10000 * c + 0x4, 5, 5⟩
def NIB_STATUS_RESCALED (c : Nat) : Fld := ⟨0x200000 + 0x10000 * c + 0x4, 6, 6⟩
def NIB_SKIP_COUNT_FROZEN_SKIP (c : Nat) : Fld := ⟨0x200000 + 0x10000 * c + 0x8, 15, 0⟩
def NIB_SKIP_COUNT_NF_SKIP (c : Nat) : Fld := ⟨0x200000 + 0x10000 * c + 0x8, 31, 16⟩
def NIB_DIAG_COUNT_DIAG_FALLBACK (c : Nat) : Fld := ⟨0x200000 + 0x10000 * c + 0xC, 31, 0⟩

/-! ### Fields of NIB0 -/
def NIB0_STEP_CTRL_WAIT_US : Fld := ⟨0x200100, 15, 0⟩
def NIB0_STEP_VALUE_STEP_SIZE : Fld := ⟨0x200104, 31, 0⟩
def NIB0_STEP_INDEX_STEP : Fld := ⟨0x200108, 31, 0⟩
def NIB0_STEP_QUEUE_PENDING : Fld := ⟨0x20010C, 3, 0⟩
def NIB0_STEP_QUEUE_STALE_NOW : Fld := ⟨0x20010C, 4, 4⟩
def NIB0_STEP_QUEUE_STALE_COUNT : Fld := ⟨0x20010C, 31, 16⟩
def NIB0_ROOT_COUNT_ROOT_FAIL : Fld := ⟨0x200110, 15, 0⟩
def NIB0_ROOT_COUNT_PRECOND_FALLBACK : Fld := ⟨0x200110, 31, 16⟩

/-! ### Fields of QPT -/
def QPT_CTRL_ENABLE (p : Nat) : Fld := ⟨0x300000 + 0x10000 * p + 0x0, 0, 0⟩
def QPT_CTRL_ALLOW_800 (p : Nat) : Fld := ⟨0x300000 + 0x10000 * p + 0x0, 1, 1⟩
def QPT_CTRL_ALLOW_400 (p : Nat) : Fld := ⟨0x300000 + 0x10000 * p + 0x0, 2, 2⟩
def QPT_STATUS_LINK_UP (p : Nat) : Fld := ⟨0x300000 + 0x10000 * p + 0x4, 0, 0⟩
def QPT_STATUS_SPEED (p : Nat) : Fld := ⟨0x300000 + 0x10000 * p + 0x4, 2, 1⟩
def QPT_STATUS_LANES_HIGH (p : Nat) : Fld := ⟨0x300000 + 0x10000 * p + 0x4, 3, 3⟩
def QPT_STATUS_DEGRADED (p : Nat) : Fld := ⟨0x300000 + 0x10000 * p + 0x4, 4, 4⟩
def QPT_STATUS_RETRAINED (p : Nat) : Fld := ⟨0x300000 + 0x10000 * p + 0x4, 5, 5⟩
def QPT_STATUS_HANDOVER (p : Nat) : Fld := ⟨0x300000 + 0x10000 * p + 0x4, 6, 6⟩
def QPT_STATUS_BAD_FRAME (p : Nat) : Fld := ⟨0x300000 + 0x10000 * p + 0x4, 7, 7⟩
def QPT_STATUS_RETRY_FULL (p : Nat) : Fld := ⟨0x300000 + 0x10000 * p + 0x4, 8, 8⟩
def QPT_STATUS_MISCABLED (p : Nat) : Fld := ⟨0x300000 + 0x10000 * p + 0x4, 9, 9⟩
def QPT_STATUS_CHANNELS (p : Nat) : Fld := ⟨0x300000 + 0x10000 * p + 0x4, 23, 16⟩
def QPT_RETRY_CTRL_ACK_TIMEOUT (p : Nat) : Fld := ⟨0x300000 + 0x10000 * p + 0x8, 7, 0⟩
def QPT_RETRY_CTRL_RETRY_LIMIT (p : Nat) : Fld := ⟨0x300000 + 0x10000 * p + 0x8, 15, 8⟩
def QPT_EQ_RETRAIN_MARGIN (p : Nat) : Fld := ⟨0x300000 + 0x10000 * p + 0xC, 7, 0⟩
def QPT_EQ_MARGIN (p : Nat) : Fld := ⟨0x300000 + 0x10000 * p + 0xC, 15, 8⟩
def QPT_EQ_WORST_LANE (p : Nat) : Fld := ⟨0x300000 + 0x10000 * p + 0xC, 18, 16⟩
def QPT_PARTNER_ROLE (p : Nat) : Fld := ⟨0x300000 + 0x10000 * p + 0x10, 10, 0⟩
def QPT_PARTNER_PORT (p : Nat) : Fld := ⟨0x300000 + 0x10000 * p + 0x10, 15, 11⟩
def QPT_PARTNER_VALID (p : Nat) : Fld := ⟨0x300000 + 0x10000 * p + 0x10, 16, 16⟩
def QPT_FEC_CE_COUNT (p : Nat) : Fld := ⟨0x300000 + 0x10000 * p + 0x18, 31, 0⟩
def QPT_FEC_UE_COUNT (p : Nat) : Fld := ⟨0x300000 + 0x10000 * p + 0x1C, 31, 0⟩
def QPT_RETX_COUNT (p : Nat) : Fld := ⟨0x300000 + 0x10000 * p + 0x20, 31, 0⟩

/-! ### Fields of QFB -/
def QFB_CTRL_ENABLE : Fld := ⟨0x480000, 0, 0⟩
def QFB_CTRL_TOPOLOGY : Fld := ⟨0x480000, 1, 1⟩
def QFB_CTRL_ETHERTYPE : Fld := ⟨0x480000, 31, 16⟩
def QFB_SWITCHED_PFC_PRIO : Fld := ⟨0x480004, 2, 0⟩
def QFB_SWITCHED_VLAN_ID : Fld := ⟨0x480004, 15, 4⟩
def QFB_STATUS_UNROUTABLE : Fld := ⟨0x480008, 0, 0⟩
def QFB_STATUS_LATE : Fld := ⟨0x480008, 1, 1⟩
def QFB_STATUS_REFUSED : Fld := ⟨0x480008, 2, 2⟩
def QFB_STATUS_BUNDLE_LOST : Fld := ⟨0x480008, 3, 3⟩
def QFB_STATUS_BUNDLES_DOWN : Fld := ⟨0x480008, 9, 4⟩
def QFB_STATUS_OPEN_HIGH : Fld := ⟨0x480008, 31, 16⟩
def QFB_ROUTE_STATUS_ACTIVE_BANK : Fld := ⟨0x48000C, 0, 0⟩
def QFB_ROUTE_STATUS_ARMED : Fld := ⟨0x48000C, 1, 1⟩
def QFB_ROUTE_FROM_FROM_STEP : Fld := ⟨0x480010, 31, 0⟩
def QFB_ROUTE_ARM_ARM_STEP : Fld := ⟨0x480014, 31, 0⟩
def QFB_RIDE_BUDGET : Fld := ⟨0x48001C, 9, 0⟩
def QFB_RIDE_PARTNER_ROLE : Fld := ⟨0x48001C, 26, 16⟩
def QFB_ROLE_ROLE : Fld := ⟨0x480020, 10, 0⟩

/-! ### Fields of HPT -/
def HPT_CTRL_ENABLE (h : Nat) : Fld := ⟨0x490000 + 0x10000 * h + 0x0, 0, 0⟩
def HPT_CTRL_ALLOW_400 (h : Nat) : Fld := ⟨0x490000 + 0x10000 * h + 0x0, 1, 1⟩
def HPT_CTRL_ALLOW_200 (h : Nat) : Fld := ⟨0x490000 + 0x10000 * h + 0x0, 2, 2⟩
def HPT_STATUS_LINK_UP (h : Nat) : Fld := ⟨0x490000 + 0x10000 * h + 0x4, 0, 0⟩
def HPT_STATUS_SPEED (h : Nat) : Fld := ⟨0x490000 + 0x10000 * h + 0x4, 2, 1⟩
def HPT_STATUS_LANES_HIGH (h : Nat) : Fld := ⟨0x490000 + 0x10000 * h + 0x4, 3, 3⟩
def HPT_STATUS_DEGRADED (h : Nat) : Fld := ⟨0x490000 + 0x10000 * h + 0x4, 4, 4⟩
def HPT_STATUS_WENT_DOWN (h : Nat) : Fld := ⟨0x490000 + 0x10000 * h + 0x4, 5, 5⟩
def HPT_STATUS_SESSIONS (h : Nat) : Fld := ⟨0x490000 + 0x10000 * h + 0x4, 12, 8⟩
def HPT_FEC_CE_COUNT (h : Nat) : Fld := ⟨0x490000 + 0x10000 * h + 0x8, 31, 0⟩
def HPT_FEC_UE_COUNT (h : Nat) : Fld := ⟨0x490000 + 0x10000 * h + 0xC, 31, 0⟩
def HPT_DROP_COUNT (h : Nat) : Fld := ⟨0x490000 + 0x10000 * h + 0x10, 31, 0⟩
def HPT_MAC_LO_MAC_LO (h : Nat) : Fld := ⟨0x490000 + 0x10000 * h + 0x18, 31, 0⟩
def HPT_MAC_HI_MAC_HI (h : Nat) : Fld := ⟨0x490000 + 0x10000 * h + 0x1C, 15, 0⟩

/-! ### Fields of INT -/
def INT_CTRL_ENABLE : Fld := ⟨0x4B0000, 0, 0⟩
def INT_CTRL_PFC_PRIO : Fld := ⟨0x4B0000, 3, 1⟩
def INT_CTRL_UDP_PORT : Fld := ⟨0x4B0000, 31, 16⟩
def INT_RING_MIB : Fld := ⟨0x4B0004, 10, 0⟩
def INT_HEADROOM_KIB : Fld := ⟨0x4B0008, 18, 0⟩
def INT_PAUSE_RESP_NS : Fld := ⟨0x4B000C, 15, 0⟩
def INT_RESUME_KIB : Fld := ⟨0x4B0010, 14, 0⟩
def INT_STATUS_PAUSED : Fld := ⟨0x4B0014, 0, 0⟩
def INT_STATUS_DROP : Fld := ⟨0x4B0014, 1, 1⟩
def INT_STATUS_GAP : Fld := ⟨0x4B0014, 2, 2⟩
def INT_STATUS_TAKE_WAIT : Fld := ⟨0x4B0014, 3, 3⟩
def INT_DIST_D : Fld := ⟨0x4B0018, 19, 0⟩
def INT_RTT0_NS : Fld := ⟨0x4B001C, 23, 0⟩
def INT_RTT0_VALID : Fld := ⟨0x4B001C, 24, 24⟩
def INT_RTT1_NS : Fld := ⟨0x4B0020, 23, 0⟩
def INT_RTT1_VALID : Fld := ⟨0x4B0020, 24, 24⟩
def INT_FREE_F : Fld := ⟨0x4B0024, 19, 0⟩
def INT_NEXT_LO_NEXT : Fld := ⟨0x4B0028, 31, 0⟩
def INT_NEXT_HI_NEXT : Fld := ⟨0x4B002C, 31, 0⟩
def INT_LOG_BASE_LO_ADDR_LO : Fld := ⟨0x4B0030, 31, 0⟩
def INT_LOG_BASE_HI_ADDR_HI : Fld := ⟨0x4B0034, 15, 0⟩
def INT_LOG_HEAD_ENTRIES : Fld := ⟨0x4B0038, 31, 0⟩
def INT_DROP_COUNT_COUNT : Fld := ⟨0x4B003C, 31, 0⟩
def INT_GAP_COUNT_COUNT : Fld := ⟨0x4B0040, 31, 0⟩

/-! ### Fields of SVL -/
def SVL_CTRL_ENABLE : Fld := ⟨0x4C0000, 0, 0⟩
def SVL_CTRL_FOLLOW_EN : Fld := ⟨0x4C0000, 1, 1⟩
def SVL_CTRL_WARD_EN : Fld := ⟨0x4C0000, 2, 2⟩
def SVL_STATUS_OWN_FOLLOW : Fld := ⟨0x4C0004, 2, 0⟩
def SVL_STATUS_WARD_FOLLOW : Fld := ⟨0x4C0004, 5, 3⟩
def SVL_STATUS_SHARD_TOUCHED : Fld := ⟨0x4C0004, 6, 6⟩
def SVL_STATUS_CONFIRM_HOLD : Fld := ⟨0x4C0004, 7, 7⟩
def SVL_STATUS_SNAPSHOT_VALID : Fld := ⟨0x4C0004, 8, 8⟩
def SVL_STATUS_GASP_SENT : Fld := ⟨0x4C0004, 9, 9⟩
def SVL_STATUS_GASP_RECEIVED : Fld := ⟨0x4C0004, 10, 10⟩
def SVL_STATUS_DIGEST_MISMATCH : Fld := ⟨0x4C0004, 11, 11⟩
def SVL_STATUS_FOLLOW_LOST : Fld := ⟨0x4C0004, 12, 12⟩
def SVL_CONFIRMED_STEP : Fld := ⟨0x4C0008, 31, 0⟩
def SVL_WARD_STEP_STEP : Fld := ⟨0x4C000C, 31, 0⟩
def SVL_SEAL_STEP_STEP : Fld := ⟨0x4C0010, 31, 0⟩
def SVL_RANGES_LANDED : Fld := ⟨0x4C0014, 15, 0⟩
def SVL_RANGES_TOTAL : Fld := ⟨0x4C0014, 31, 16⟩
def SVL_IMAGE_LO_BYTES : Fld := ⟨0x4C0018, 31, 0⟩
def SVL_IMAGE_HI_BYTES : Fld := ⟨0x4C001C, 15, 0⟩
def SVL_DIGEST_BYTES (i : Nat) : Fld := ⟨0x4C0020 + 4 * i, 31, 0⟩
def SVL_WARD_DIGEST_BYTES (i : Nat) : Fld := ⟨0x4C0040 + 4 * i, 31, 0⟩

end Sys2Proof.Machine
end

