-- ==== Sys2Proof/Machine/Ops.lean ====
section
/-! DEFINITION. Named operations over the register window, the queues of events and replies, and the sparse
memories, shared by all meanings. -/
namespace Sys2Proof

/-- Is the source on the side-band? -/
def Src.isSide : Src → Bool
  | .side _ => true
  | .host _ _ _ => false

/-- The same sender: the same address and UDP port, or the same EID (R409, R469). -/
def Src.same : Src → Src → Bool
  | .host _ a u, .host _ b v => a == b && u == v
  | .side a, .side b => a == b
  | _, _ => false

end Sys2Proof

namespace Sys2Proof.Machine

/-! ## The register window (R441 to R449) -/

/-- Window bounds: the block of an address, alias bits removed, with its base and registers. -/
def blockOf (addr : Nat) : Option (Nat × BlockDef) :=
  match regBlocks.find? fun b => decide (b.base ≤ addr ∧ addr < b.base + 0x10000 * b.count) with
  | some b => some (addr / 0x10000 * 0x10000, b)
  | none => none

/-- Registers of the block at `base`; NIB0 has further ones (R314). -/
def regsAt (base : Nat) (b : BlockDef) : List RegDef := if base = 0x200000 then b.regs ++ regsNIB0 else b.regs

/-- Does offset `o` fall on a register of this definition? -/
def RegDef.covers (r : RegDef) (o : Nat) : Bool :=
  decide (r.off ≤ o) && (if r.stride = 0 then o == r.off
    else (o - r.off) % r.stride == 0 && decide ((o - r.off) / r.stride < r.count))

/-- The register of an address without alias (R442): none where the offset holds no register. -/
def regDef (addr : Nat) : Option RegDef :=
  match blockOf addr with
  | some (base, b) => (regsAt base b).find? fun r => r.covers (addr % 0x10000)
  | none => none

/-- The Reset column of a register (R449). CABc_MAPw shows the identity map (Table 6.19). -/
def regReset (addr : Nat) : Word :=
  match regDef addr with
  | some r =>
    let v := r.fields.foldl (fun v f => setBits v f.hi f.lo f.reset) 0
    let o := addr % 0x10000
    if 0x100000 ≤ addr ∧ addr < 0x200000 ∧ 0x100 ≤ o ∧ o < 0x140 then
      BitVec.ofNat 32 ((o - 0x100) * 0x01010101 + 0x03020100)
    else BitVec.ofNat 32 v
  | none => 0

/-- The stored word of a register. -/
def State.reg (s : State) (addr : Nat) : Nat := (spGet regReset s.regs addr).toNat

/-- The state with a register's word replaced. -/
def State.setReg (s : State) (addr v : Nat) : State :=
  { s with regs := spSet regReset s.regs addr (BitVec.ofNat 32 v) }

/-- A field's value. -/
def State.get (s : State) (f : Fld) : Nat := bits (s.reg f.addr) f.hi f.lo

/-- Is a one-bit field 1? -/
def State.on (s : State) (f : Fld) : Bool := s.get f == 1

/-- The state with a field set by hardware. -/
def State.put (s : State) (f : Fld) (v : Nat) : State := s.setReg f.addr (setBits (s.reg f.addr) f.hi f.lo v)

/-- The state with a saturating counter field raised by `n`. -/
def State.bump (s : State) (f : Fld) (n : Nat) : State := s.put f (min (s.get f + n) (2 ^ (f.hi + 1 - f.lo) - 1))

/-- A 64-bit or shorter pair of LO and HI fields. -/
def State.get2 (s : State) (lo hi : Fld) : Nat := s.get lo + 2 ^ 32 * s.get hi

/-- The pair written. -/
def State.put2 (s : State) (lo hi : Fld) (v : Nat) : State := (s.put lo (v % 2 ^ 32)).put hi (v / 2 ^ 32)

/-- The registers from `lo` to below `hi` back at their Reset column. -/
def State.resetRegs (s : State) (lo hi : Nat) : State := { s with regs := spClear s.regs lo hi }

/-- Main rails good: the condition of R443. -/
def State.answers (s : State) (addr : Nat) : Bool := s.power.mainOk || decide (addr < 0x30000)

/-- Job state codes of Table 12.5. -/
abbrev jsEmpty : Nat := 0
abbrev jsLoaded : Nat := 1
abbrev jsRunning : Nat := 2
abbrev jsSafe : Nat := 3
abbrev jsLoading : Nat := 4

/-- The job state. -/
def State.jobState (s : State) : Nat := s.get GLB_STATE_JOB_STATE

/-- The index of the running step, or of the next one to run (GLB_STEP). -/
def State.step (s : State) : Nat := s.get GLB_STEP_STEP

/-- The timestamp (R330). -/
def State.stamp (s : State) : Nat := s.get2 CNT_TIME_LO_TIME CNT_TIME_HI_TIME

/-! ## Event counters (R326 to R331) -/

/-- The readings, newest first, that count for the last second: those inside it and the one that held as it began (R379, R458). -/
def keepVins (now : Nat) : List (Nat × Nat) → List (Nat × Nat)
  | [] => []
  | (t, v) :: l => if now < t + 1000000000 then (t, v) :: keepVins now l else [(t, v)]

/-- The instance that an event names, in the dimensions it carries (R328). -/
structure Inst where
  desk : Option Nat := none
  leaf : Option Nat := none
  cab : Option Nat := none
  port : Option Nat := none
  deriving DecidableEq, Repr

/-- Does a filter code match (R328)? Codes at or above `n` select any. -/
def filterOk (code n : Nat) (i : Option Nat) : Bool :=
  match i with
  | none => true
  | some v => decide (n ≤ code) || code == v

/-- Does selection word `w` match event `code` at an instance? -/
def selMatches (w code : Nat) (i : Inst) : Bool :=
  bits w 7 0 == code && bit w 10 && filterOk (bits w 12 11) 2 i.desk && filterOk (bits w 15 13) 4 i.leaf
    && filterOk (bits w 20 16) 16 i.cab && filterOk (bits w 26 21) 26 i.port

/-- Counter `k` raised by `n`, wrapping or saturating at 48 bits (R329). -/
def State.addCounter (s : State) (k n : Nat) : State :=
  let v := s.get2 (CNT_VAL_LO_VALUE_LO k) (CNT_VAL_HI_VALUE_HI k) + n
  if v < 2 ^ 48 then s.put2 (CNT_VAL_LO_VALUE_LO k) (CNT_VAL_HI_VALUE_HI k) v
  else
    let v := if s.on (CNT_SEL_SATURATE k) then 2 ^ 48 - 1 else v % 2 ^ 48
    let s := s.put2 (CNT_VAL_LO_VALUE_LO k) (CNT_VAL_HI_VALUE_HI k) v
    if k < 32 then s.setReg 0x40008 (orBit (s.reg 0x40008) k) else s.setReg 0x4000C (orBit (s.reg 0x4000C) (k - 32))

/-- The counters, in mode OCCUR or DURATION, that take event `code` at an instance. -/
def State.countersOf (s : State) (code : Nat) (i : Inst) (duration : Bool) : List Nat :=
  if s.on CNT_CTRL_ENABLE then
    (List.range 64).filter fun k =>
      let w := s.reg (0x40100 + 4 * k)
      bit w 8 == duration && selMatches w code i
  else []

/-- What the risk estimator remembers of an event (Table 11.3): CE and SRAM_CE; UE, DETECT_FAIL, SRAM_UE and LOST_READ;
Q_RETX_FRAME; retrains and lane degrades. -/
def State.riskNote (s : State) (code n : Nat) : State :=
  let r := s.risk
  if code = 0x42 ∨ code = 0x64 then { s with risk := { r with ce := (s.time, n) :: r.ce } }
  else if code = 0x43 ∨ code = 0x44 ∨ code = 0x45 ∨ code = 0x65 then { s with risk := { r with ue := (s.time, n) :: r.ue } }
  else if code = 0xA5 then { s with risk := { r with retx := (s.time, n) :: r.retx } }
  else if code = 0xAA ∨ code = 0xAB then { s with risk := { r with trains := (s.time, n) :: r.trains } }
  else s

/-- `n` occurrences of an event, or one entry into a state (R327). -/
def State.countAt (s : State) (code : Nat) (i : Inst) (n : Nat) : State :=
  (s.countersOf code i false).foldl (fun s k => s.addCounter k n) (s.riskNote code n)

/-- One occurrence of an event with no dimension. -/
def State.count (s : State) (code : Nat) : State := s.countAt code {} 1

/-- A frame on a host port counted: H_RX_FRAME, and the codewords that FEC has corrected meanwhile (R405, R461). -/
def State.hostRx (s : State) (port : Nat) : State :=
  let n := s.hostFrames.getD port 0
  let s := ({ s with hostFrames := modifyAt s.hostFrames port (· + 1) } : State).countAt 0xC0 { port := some (24 + port) } 1
  s.countAt 0xC6 { port := some (24 + port) } (Config.hostFec 0 port n)

/-- What a FEC register of a host port shows: 0 corrected, 1 uncorrectable codewords since its reset, saturating (R461, log 82). -/
def State.hostFec (s : State) (kind port : Nat) : Nat :=
  min (2 ^ 32 - 1) ((List.range (s.hostFrames.getD port 0)).map (Config.hostFec kind port)).sum

/-! ## Alerts and events (R416, R456, R471) -/

/-- Raise source bit `b` of GLB_ALERT_SRC (Table 13.6). -/
def State.alert (s : State) (b : Nat) : State := s.setReg 0x2C (orBit (s.reg 0x2C) b)

/-- Is ALERT_N asserted (R456)? -/
def State.alertN (s : State) : Bool :=
  decide (s.get GLB_ALERT_SRC_SRC &&& s.get GLB_ALERT_EN_EN ≠ 0) || (s.on GAU_STATUS_DRY_ALARM && s.on GAU_CTRL_ALARM_ALERT)

/-- Codes of Tables 12.3 and 14.3 that EVENT_MASK cannot suppress. -/
def eventMaskable (code : Nat) : Bool := !([2, 3, 7, 8, 0xD, 0xE, 0x10, 0x12].contains code)

/-- Is host port `h` up? -/
def State.hostUp (s : State) (h : Nat) : Bool := s.on (HPT_STATUS_LINK_UP h)

/-- The session of a source. -/
def State.sessionOf (s : State) (src : Src) : Option Session := s.chembe.sessions.find? fun x => x.src = src

/-- Session and destination of the host owner's events: the port of its most recent command, or the other port to
ALT_ADDR when that one is down (R417). Answers port, address, session, failover. -/
def State.hostDest (s : State) : Option (Nat × Nat × Nat × Bool) :=
  match s.flash.owner with
  | none => none
  | some (own, alt) =>
    let sess := match s.chembe.sessions.find? fun x =>
        match x.src with | .host _ a _ => a = own || a = alt | .side _ => false with
      | some x => x.num
      | none => 0
    let p := s.chembe.ownerPort
    if s.hostUp p then some (p, own, sess, false)
    else if s.hostUp (1 - p) ∧ alt ≠ 0 then some (1 - p, alt, sess, true)
    else none

/-- Can MCTP messages pass: the Escritoire is ready, with a dynamic address and an EID (R464, R466, R467)? -/
def State.mctpUp (s : State) : Bool := s.esc.ready && s.esc.i3cAddr.isSome && s.esc.eid.isSome

/-- Destination of the side-band queue: the receiver's EID and session (R471). -/
def State.sideDest (s : State) : Option (Nat × Nat) :=
  match s.esc.receiver with
  | some (_, eid) => if !s.mctpUp then none else some (eid, match s.sessionOf (.side eid) with | some x => x.num | none => 0)
  | none => none

/-- Parameters of an EVENT packet (R416). -/
def QEvent.params (e : QEvent) : List Byte := le 2 e.code ++ zeros 2 ++ le 4 e.step ++ le 8 e.time ++ e.body

/-- Does the owner of the queue have somewhere to send to? -/
def State.canSend (s : State) (side : Bool) : Bool := if side then s.sideDest.isSome else s.hostDest.isSome

/-- Queue of a carrier. -/
def State.evq (s : State) (side : Bool) : EventQueue := if side then s.chembe.side else s.chembe.host

/-- Queue of a carrier replaced. -/
def State.setEvq (s : State) (side : Bool) (q : EventQueue) : State :=
  if side then { s with chembe := { s.chembe with side := q } } else { s with chembe := { s.chembe with host := q } }

/-- Something sent. -/
def State.send (s : State) (o : Out) : State := { s with out := s.out ++ [o] }

/-- An in-band interrupt, which reports a pending read to the controller of the side-band (R467). -/
def State.ibi (s : State) : State := s.send (.i3c 0 ibiByte)

/-- One EVENT packet sent (R416, R417): EVENT_SENT, and H_FAILOVER when it takes the other port to ALT_ADDR; an owner's
COMMAND_DONE goes to the address and session of its command (R412); the side-band signals it with an in-band interrupt
(R467). -/
def State.transmit (s : State) (side : Bool) (e : QEvent) (n : Nat) : State :=
  if side then
    match s.sideDest with
    | some (eid, num) => s.ibi.send (.event true 0 eid num n e.params)
    | none => s
  else
    match s.hostDest with
    | some (p, own, num, failover) =>
      let d := e.dest.getD (own, num)
      let s := s.send (.event false p (if failover then own else d.1) d.2 n e.params)
      let s := (s.countAt 0xC1 { port := some (24 + p) } 1).countAt 0xC5 { port := some (24 + p) } 1
      if failover then s.countAt 0xC8 { port := some (24 + p) } 1 else s
    | none => s

/-- The first unsent event of a queue numbered and sent (R416). -/
def State.sendNext (s : State) (side : Bool) (q : EventQueue) (e : QEvent) (sent : Nat) : State :=
  let items := q.items.take sent ++ { e with seq := some q.next } :: q.items.drop (sent + 1)
  let q' := { q with items := items, next := (q.next + 1) % 2 ^ 32,
                     lastSend := if sent = 0 then s.time else q.lastSend }
  (s.setEvq side q').transmit side e q.next

/-- Send the unsent events of a queue in order while fewer than 64 are unacknowledged (R416); `n` bounds the loop by
the queue's length. -/
def State.pumpGo (side : Bool) : Nat → State → State
  | 0, s => s
  | n + 1, s =>
    let q := s.evq side
    let sent := (q.items.takeWhile fun e => e.seq.isSome).length
    match q.items[sent]? with
    | none => s
    | some e => if sent < 64 ∧ s.canSend side then State.pumpGo side n (s.sendNext side q e sent) else s

/-- Send what the queue may send now. -/
def State.pump (s : State) (side : Bool) : State := State.pumpGo side 64 s

/-- A list without its oldest maskable event, or without its oldest where none is maskable (R416). -/
def dropOldest (items : List QEvent) : List QEvent :=
  match items.findIdx? fun e => eventMaskable e.code with
  | some i => items.eraseIdx i
  | none => items.drop 1

/-- Is the event an EVENT_LOST not yet sent? -/
def lostUnsent (e : QEvent) : Bool := e.code == 0xE && e.seq.isNone

/-- A queue with one event more. On overflow the oldest maskable event goes and EVENT_LOST tells how many went; an
EVENT_LOST that still waits takes the new loss into its COUNT (R416). -/
def enqueue (items : List QEvent) (e : QEvent) : List QEvent :=
  if items.length < 1024 then items ++ [e]
  else if items.any lostUnsent then
    (dropOldest items).map (fun x => if lostUnsent x then { x with body := le 4 (leNat x.body + 1) } else x) ++ [e]
  else dropOldest (dropOldest items) ++ [e, { e with code := 0xE, body := le 4 2, seq := none }]

/-- An event put into a queue: with no owner the 64 newest stay (R416). -/
def State.putEvent (s : State) (side : Bool) (e : QEvent) : State :=
  let q := s.evq side
  let items := enqueue q.items e
  let items := if (if side then s.esc.receiver.isNone else s.flash.owner.isNone) then items.drop (items.length - 64) else items
  (s.setEvq side { q with items := items }).pump side

/-- An event of a step raised into one queue (R416): nothing when the mask suppresses it. -/
def State.raiseStepTo (s : State) (side : Bool) (code step : Nat) (body : List Byte) : State :=
  if eventMaskable code && !bit (s.evq side).mask code then s
  else s.putEvent side { code := code, step := step, time := s.stamp, body := body, seq := none }

/-- An event of the current step raised into one queue. -/
def State.raiseTo (s : State) (side : Bool) (code : Nat) (body : List Byte) : State := s.raiseStepTo side code s.step body

/-- Is the main side on, starting or warm starting? -/
def State.mainOn (s : State) : Bool := !(s.power.main = .off) && !(s.power.main = .hold)

/-- An event of a step raised for the host owner, while the main side is on, and for the side-band receiver (R471). -/
def State.raiseStep (s : State) (code step : Nat) (body : List Byte) : State :=
  ((if s.mainOn then s.raiseStepTo false code step body else s)).raiseStepTo true code step body

/-- An event of the current step. -/
def State.raise (s : State) (code : Nat) (body : List Byte) : State := s.raiseStep code s.step body

/-- A power event (Table 15.11): KIND and VALUE. -/
def State.raisePower (s : State) (kind value : Nat) : State := s.raise 0xC (le 4 kind ++ le 4 value)

/-! ## Flash, job state and SAFE -/

/-- The flash changed. -/
def State.mapFlash (s : State) (f : Flash → Flash) : State := { s with flash := f s.flash }

/-- The job state set. -/
def State.setJobState (s : State) (v : Nat) : State := s.put GLB_STATE_JOB_STATE v

/-- SAFE entered for a cause: the event for both masters and the alert. -/
def State.enterSafe (s : State) (cause : Nat) : State :=
  if s.jobState = jsSafe then s
  else (((s.setJobState jsSafe).put GLB_STATE_SAFE_CAUSE cause).alert 1).raise 0xD (le 2 cause)

/-! ## Replies (R406, R410, R417) -/

/-- A reply sent, unless the host port it came on is down (R461). -/
def State.sendReply (s : State) (r : Reply) : State :=
  match r.dst with
  | .host p _ _ => if s.hostUp p then (s.send (.reply r)).countAt 0xC1 { port := some (24 + p) } 1 else s
  | .side _ => s.ibi.send (.reply r)

/-- The open sessions changed by `f`. -/
def State.mapSessions (s : State) (f : Session → Session) : State :=
  { s with chembe := { s.chembe with sessions := s.chembe.sessions.map f } }

/-- Is the source an owner address (R414, R415)? -/
def State.isOwner (s : State) (src : Src) : Bool :=
  match src, s.flash.owner with
  | .host _ a _, some (own, alt) => a == own || (alt != 0 && a == alt)
  | _, _ => false

/-- HPTh_STATUS.SESSIONS (Table 13.12). -/
def State.noteSessions (s : State) : State :=
  let n := fun (h : Nat) => (s.chembe.sessions.filter fun x =>
    match x.src with | .host p _ _ => p == h | .side _ => false).length
  if s.power.mainOk then (s.put (HPT_STATUS_SESSIONS 0) (n 0)).put (HPT_STATUS_SESSIONS 1) (n 1) else s

/-- The sessions that a predicate keeps. -/
def State.keepSessions (s : State) (p : Session → Bool) : State :=
  ({ s with chembe := { s.chembe with sessions := s.chembe.sessions.filter p } } : State).noteSessions

/-! ## Mutual-exclusion elements (R198, R199) -/

/-- The place of an element, by the model's numbering (DESIGN CHOICE, log 26): modulo 32, 0 and 1 lie in a Desk, 2 to 17
in a Cabinet, the others elsewhere. -/
def meInst (element : Nat) : Inst :=
  let p := element % 32
  if p < 2 then { desk := some p } else if p < 18 then { cab := some (p - 2) } else {}

/-- The loser that TURN of an element names: input plus 1, 0 while TURN is clear. -/
def State.turn (s : State) (element : Nat) : Nat := spGet (fun _ => 0) s.turns element

/-- TURN written. -/
def State.setTurn (s : State) (element v : Nat) : State := { s with turns := spSet (fun _ => 0) s.turns element v }

/-- A dead tie at an element: the state after it and the input that wins. With TURN set, the input that it names wins
without settling and TURN clears; otherwise a free value settles it, and TURN names the loser. -/
def State.tie (s : State) (element : Nat) : State × Nat :=
  match s.turn element with
  | 0 =>
    let loser := Config.freeNat s.free % 2
    ((({ s with free := s.free + 1 } : State).setTurn element (1 + loser)).countAt 0xED (meInst element) 1, 1 - loser)
  | n => (s.setTurn element 0, n - 1)

end Sys2Proof.Machine
end

