-- ==== Sys2Proof/Machine/Memory.lean ====
section
/-! DEFINITION. Lines of memory: placement, check codes, what a Cabinet delivers, and the Sideboard operations of
Table 7.1 (chapters 6 and 7). -/
namespace Sys2Proof.Machine

/-! ## Placement and codes (R214, R217 to R222) -/

/-- First address that is not decoded (R211). -/
abbrev decodedEnd : Nat := 0x17400000000

/-- Base of the system region (R211). -/
abbrev systemBase : Nat := 0x17300000000

/-- The line of an address. -/
def lineOf (a : Nat) : Nat := a / 128 * 128

/-- Group of a line (R214). -/
def groupOf (a : Nat) : Nat := a / 131072

/-- Module-wide logical Drawer of a line (R214). -/
def drawerOf (a : Nat) : Nat :=
  let g := groupOf a
  (a / 128 % 1024) ^^^ (bits g 9 0 ^^^ bits g 19 10 ^^^ bits g 23 20)

/-- Cabinet, and so slice, of a line (R214). -/
def cabOf (a : Nat) : Nat := drawerOf a % 16

/-- Logical Drawer of a line in its Cabinet (R214). -/
def lchanOf (a : Nat) : Nat := drawerOf a / 16

/-- What place() answers (R214). -/
structure LinePlace where
  cabinet : Nat
  lchan : Nat
  grp : Nat
  row : Nat
  slot : Nat
  deriving DecidableEq, Repr

/-- place of R214: 31 groups share a row of their Drawer. -/
def placeOf (a : Nat) : LinePlace :=
  { cabinet := cabOf a, lchan := lchanOf a, grp := groupOf a, row := groupOf a / 31, slot := groupOf a % 31 }

/-- The line of a Cabinet's logical Drawer in a group: the inverse of R214. -/
def lineAt (cab lchan grp : Nat) : Nat :=
  grp * 131072 + 128 * ((lchan * 16 + cab) ^^^ (bits grp 9 0 ^^^ bits grp 19 10 ^^^ bits grp 23 20))

/-- Product in GF(256) with polynomial 0x11D (R219). -/
def gfMul (a b : Nat) : Nat :=
  ((List.range 8).foldl (fun (p : Nat × Nat) i =>
    (if bit b i then p.1 ^^^ p.2 else p.1, if 128 ≤ p.2 then (2 * p.2) ^^^ 0x11D else 2 * p.2)) (0, a)).1

/-- The symbols over which check bytes are computed: six address symbols, then the data (R219). -/
def checkSymbols (a : Nat) (dt : List Byte) : List Nat :=
  let ad := a / 128
  [bits ad 7 0, bits ad 15 8, bits ad 23 16, bits ad 31 24, bits ad 39 32, bits ad 40 40] ++ dt.map (·.toNat)

/-- rs_check of R219, as the word C3:C2:C1:C0. -/
def rsCheck (a : Nat) (dt : List Byte) : Nat :=
  let r := (checkSymbols a dt).foldl (fun (r : Nat × Nat × Nat × Nat) b =>
    let fb := b ^^^ r.1
    (r.2.1 ^^^ gfMul fb 0x0F, r.2.2.1 ^^^ gfMul fb 0x36, r.2.2.2 ^^^ gfMul fb 0x78, gfMul fb 0x40)) (0, 0, 0, 0)
  r.1 + 256 * r.2.1 + 65536 * r.2.2.1 + 16777216 * r.2.2.2

/-- CRC-32C over the symbols of R219 (R220). -/
def crc32c (a : Nat) (dt : List Byte) : Nat :=
  ((checkSymbols a dt).foldl (fun c b =>
    (List.range 8).foldl (fun c _ => if c % 2 = 1 then c / 2 ^^^ 0x82F63B78 else c / 2) (c ^^^ b)) 0xFFFFFFFF)
  ^^^ 0xFFFFFFFF

/-- Masks of the POISON and LOST patterns (R221). -/
abbrev poisonMask : Word := 0x11D50B5E
abbrev lostMask : Word := 0x6A37C2E9

/-- What an unlisted line's check word differs by: nothing, or LOST on a lost Drawer (R239). -/
def lineDefault (lost : List (Nat × Nat × Nat × Nat)) (a : Nat) : Word :=
  if lost.any fun p => p.1 == cabOf a && p.2.1 == lchanOf a && decide (p.2.2.1 ≤ a ∧ a < p.2.2.2) then lostMask else 0

/-- Class of an address's page: true for DETECT (R217). -/
def State.detect (s : State) (a : Nat) : Bool := spGet (fun _ => 0) s.mem.cls (a / 2097152) == 1

/-- The right check word of a line for its page's class. -/
def State.rightCheck (s : State) (a : Nat) (dt : List Byte) : Nat := if s.detect a then crc32c a dt else rsCheck a dt

/-- Syndrome j of a check difference word C3:C2:C1:C0, as the remainder C0 x³ + C1 x² + C2 x + C3 at α^j (R219,
R222). -/
def syndrome (d : Word) (j : Nat) : Nat :=
  let x := [1, 2, 4, 8].getD j 1
  let c := fun i => bits d.toNat (8 * i + 7) (8 * i)
  gfMul (gfMul (gfMul (c 0) x ^^^ c 1) x ^^^ c 2) x ^^^ c 3

/-- The single symbol that a check difference locates: its power of α, below 138 (six address symbols, 128 data
bytes, four check bytes), and the error value (R222). -/
def locate (d : Word) : Option (Nat × Nat) :=
  let s0 := syndrome d 0
  let s1 := syndrome d 1
  let s2 := syndrome d 2
  let s3 := syndrome d 3
  let r := (List.range 138).foldl (fun (acc : Nat × Option Nat) p =>
    (gfMul acc.1 2, if acc.2.isNone && gfMul s0 acc.1 == s1 && gfMul s1 acc.1 == s2 && gfMul s2 acc.1 == s3
      then some p else acc.2)) (1, none)
  if s0 = 0 then none else r.2.map fun p => (p, s0)

/-- R222 on the stored bytes and their check difference: outcome and the data delivered. -/
def decodeLine (detect : Bool) (dt : List Byte) (d : Word) : LineOutcome × List Byte :=
  let zero := dt.all (· == 0)
  if d = 0 then (.good, dt)
  else if zero && d == poisonMask then (.poison, dt)
  else if zero && d == lostMask then (.lost, dt)
  else if detect then (.failed, dt)
  else match locate d with
    | some (p, v) =>
      if p < 4 then (.corrected, dt)
      else if p < 132 then
        (.corrected, modifyAt dt (131 - p) fun b => b ^^^ BitVec.ofNat 8 v)
      else (.failed, dt)
    | none => (.failed, dt)

/-! ## Cabinet registers in arrays -/

/-- State code of a physical Drawer (Table 6.4). -/
def State.dstate (s : State) (c p : Nat) : Nat := s.get ⟨0x100140 + 0x10000 * c + 4 * (p / 8), 4 * (p % 8) + 3, 4 * (p % 8)⟩

/-- SPARES_FREE and FAILED_COUNT follow the Drawer states (Table 6.10). -/
def State.noteDrawers (s : State) (c : Nat) : State :=
  let free := ((List.range 68).filter fun p => s.dstate c p == 1).length
  s.put (CAB_STATUS_SPARES_FREE c) (min free 7)

/-- A physical Drawer's state set. -/
def State.setDstate (s : State) (c p v : Nat) : State :=
  (s.put ⟨0x100140 + 0x10000 * c + 4 * (p / 8), 4 * (p % 8) + 3, 4 * (p % 8)⟩ v).noteDrawers c

/-- Physical Drawer of a logical one (Table 6.19). -/
def State.physOf (s : State) (c l : Nat) : Nat := s.get ⟨0x100100 + 0x10000 * c + 4 * (l / 4), 8 * (l % 4) + 6, 8 * (l % 4)⟩

/-- A map entry set. -/
def State.setPhys (s : State) (c l p : Nat) : State :=
  s.put ⟨0x100100 + 0x10000 * c + 4 * (l / 4), 8 * (l % 4) + 6, 8 * (l % 4)⟩ p

/-- A Cabinet. -/
def State.cab (s : State) (c : Nat) : Cab := s.cabs.getD c .reset

/-- A Cabinet changed. -/
def State.setCab (s : State) (c : Nat) (f : Cab → Cab) : State := { s with cabs := modifyAt s.cabs c f }

/-- Instance of an event with a Cabinet or slice. -/
def cabInst (c : Nat) : Inst := { cab := some c }

/-! ## Step faults (R366, R428) -/

/-- A fault found in the running step: the first one voids it (R428). Outside a step nothing happens. -/
def State.voidStep (s : State) (status unit addr : Nat) : State :=
  if s.run.stepOn && s.run.fault.isNone then { s with run := { s.run with fault := some (status, unit, addr) } } else s

/-! ## Failed Drawers (R236, R240) -/

/-- Permanent failures of a stack: Drawers recorded as failed, and others that have become DEGRADED (R236, R238). -/
def State.failures (s : State) (c : Nat) : Nat :=
  (s.flash.drawerFailed.filter fun p => p.1 == c).length
    + ((s.cab c).degraded.filter fun p => !s.flash.drawerFailed.contains (c, p.1)).length

/-- FAILED_COUNT and EXHAUSTED follow the failures (R240). -/
def State.noteFailures (s : State) (c : Nat) : State :=
  let n := s.failures c
  (s.put (CAB_STATUS_FAILED_COUNT c) (min n 31)).put (CAB_STATUS_EXHAUSTED c) (b2n (decide (5 ≤ n)))

/-- A physical Drawer recorded as failed (R236). -/
def State.failDrawer (s : State) (c p : Nat) : State :=
  let s := s.mapFlash fun f => if f.drawerFailed.contains (c, p) then f else { f with drawerFailed := f.drawerFailed ++ [(c, p)] }
  (s.setDstate c p 8).noteFailures c

/-- Five failures (R240): SAFE at the boundary of a running step, or at once. -/
def State.noteWorn (s : State) (c : Nat) : State :=
  if !s.on (CAB_STATUS_EXHAUSTED c) then s
  else if s.jobState = jsRunning then { s with run := { s.run with safeAtEnd := some 0x0120 } }
  else s.enterSafe 0x0120

/-- A physical Drawer fails its test, or is given up, while the module runs. -/
def State.loseDrawer (s : State) (c p : Nat) : State := (s.failDrawer c p).noteWorn c

/-! ## Evacuation triggers (R231, R233, R238) -/

/-- The lowest-numbered physical Drawer in SPARE (R233). -/
def State.lowestSpare (s : State) (c : Nat) : Option Nat := (List.range 68).find? fun p => s.dstate c p == 1

/-- Is a migration, a pause retrain or a rebuild under way? -/
def State.evacBusy (s : State) (c : Nat) : Bool :=
  s.on (CAB_STATUS_EVAC_ACTIVE c) || s.on (CAB_STATUS_PAUSE_RETRAIN c) || !(s.cab c).rebuild.isEmpty

/-- Evacuation of a logical Drawer begins: PREPARE with the lowest spare, or a retrain in place where the stack has no
spare (Table 6.5, R238). -/
def State.startEvac (s : State) (c l : Nat) : State :=
  let src := s.physOf c l
  match s.lowestSpare c with
  | some t =>
    let s := (s.setDstate c t 2).put (CAB_STATUS_EVAC_ACTIVE c) 1
    let s := ((s.put (CAB_EVAC_STATUS_LCHAN c) l).put (CAB_EVAC_STATUS_PHASE c) 1).put (CAB_EVAC_STATUS_SRC c) src
    (s.put (CAB_EVAC_STATUS_DST c) t).countAt 0x4C (cabInst c) 1
  | none =>
    let s := (s.setDstate c src 6).put (CAB_STATUS_PAUSE_RETRAIN c) 1
    s.setCab c fun k => { k with pause := some (l, 0, s.time) }

/-- QUEUED follows the queue (Table 6.12). -/
def State.noteQueue (s : State) (c : Nat) : State := s.put (CAB_EVAC_STATUS_QUEUED c) (s.cab c).queue.length

/-- A trigger (R233): ignored for a Drawer already queued or under way and for a full queue of 15. -/
def State.evacTrigger (s : State) (c l : Nat) : State :=
  let k := s.cab c
  let current := (s.on (CAB_STATUS_EVAC_ACTIVE c) && s.get (CAB_EVAC_STATUS_LCHAN c) == l)
    || (match k.pause with | some (p, _, _) => p == l | none => false)
  if current || k.queue.contains l then s
  else if s.evacBusy c then
    if k.queue.length < 15 then (s.setCab c fun k => { k with queue := k.queue ++ [l] }).noteQueue c else s
  else s.startEvac c l

/-- The next trigger of the queue starts once the Cabinet is free (R233). -/
def State.nextEvac (s : State) (c : Nat) : State :=
  match (s.cab c).queue with
  | [] => s
  | l :: rest =>
    if s.evacBusy c then s
    else ((s.setCab c fun k => { k with queue := rest }).noteQueue c).startEvac c l

/-! ## Lines in DRAM -/

/-- Key offset of the target copy (R232). -/
abbrev targetCopy : Nat := 2 ^ 48

/-- Does a migration of the line's Drawer run (R232)? -/
def State.migrating (s : State) (a : Nat) : Bool :=
  s.get (CAB_EVAC_STATUS_PHASE (cabOf a)) == 2 && s.get (CAB_EVAC_STATUS_LCHAN (cabOf a)) == lchanOf a

/-- Where reads of a line go: the target below the watermark (Table 6.5). -/
def State.readKey (s : State) (a : Nat) : Nat :=
  if s.migrating a && decide (groupOf a < s.get (CAB_EVAC_WMARK_WMARK (cabOf a))) then a + targetCopy else a

/-- Stored bytes of a line copy. -/
def State.rawData (s : State) (key : Nat) : List Byte := spGetN (fun _ => 0) s.mem.dram key 128

/-- What an unlisted line copy's check word differs by: the target copy of an unlisted line is GOOD. -/
def checkDefault (lost : List (Nat × Nat × Nat × Nat)) (key : Nat) : Word :=
  if targetCopy ≤ key then 0 else lineDefault lost key

/-- Check difference of a line copy. -/
def State.rawCheck (s : State) (key : Nat) : Word := spGet (checkDefault s.mem.lost) s.mem.check key

/-- The canonical form of everything that memory holds in sparse lists. -/
def Memory.wf (m : Mem) : Bool :=
  spWf (fun _ => 0) m.dram && spWf (checkDefault m.lost) m.check && spWf (fun _ => 0) m.cls && spWf (fun _ => 0) m.ink
    && spWf (fun _ => false) m.inkPoison && spWf (fun _ => 0) m.inkErr

/-- Has a line no physical Drawer that holds it (R239)? -/
def homeless (dead : List (Nat × Nat × Nat)) (a : Nat) : Bool :=
  dead.any fun p => p.1 == cabOf a && p.2.1 == lchanOf a && decide (p.2.2 ≤ groupOf a)

/-- One copy of a line written; one that has no home stays lost (R239). -/
def State.putRaw (s : State) (key : Nat) (dt : List Byte) (d : Word) : State :=
  if homeless s.mem.dead key then s
  else { s with mem := { s.mem with dram := spSetN (fun _ => 0) s.mem.dram key dt,
                                    check := spSet (checkDefault s.mem.lost) s.mem.check key d } }

/-- The 4,096 bytes of a row of the physical Drawer that holds a logical one, or of its migration's target: 31 data lines,
their check bytes, four zeros (R210, Table 6.1). -/
def State.drawerRow (s : State) (c l row : Nat) (target : Bool) : List Byte :=
  let key := fun (i : Nat) => lineAt c l (31 * row + i) + if target then targetCopy else 0
  ((List.range 31).flatMap fun i => s.rawData (key i))
    ++ ((List.range 31).flatMap fun i =>
      le 4 (s.rightCheck (lineAt c l (31 * row + i)) (s.rawData (key i)) ^^^ (s.rawCheck (key i)).toNat))
    ++ zeros 4

/-- The target copies of a logical Drawer dropped. -/
def State.dropTarget (s : State) (c l : Nat) : State :=
  let other := fun (k : Nat) => decide (k < targetCopy) || cabOf (k - targetCopy) != c || lchanOf (k - targetCopy) != l
  { s with mem := { s.mem with dram := s.mem.dram.filter fun p => other p.1, check := s.mem.check.filter fun p => other p.1 } }

/-- No evacuation under way (Table 6.12). -/
def State.endEvac (s : State) (c : Nat) : State :=
  ((s.put (CAB_STATUS_EVAC_ACTIVE c) 0).put (CAB_EVAC_STATUS_PHASE c) 0).put (CAB_EVAC_WMARK_WMARK c) 0

/-- What a mapped Drawer is outside an evacuation: ACTIVE, or DEGRADED where it has become so (Table 6.4). -/
def State.mappedState (s : State) (c p : Nat) : Nat := if (s.cab c).degraded.contains (p, true) then 7 else 0

/-- The target of a migration gives out (Table 6.6): it is FAILED, the source stays mapped and complete, and PREPARE
restarts with the next spare. -/
def State.abortTarget (s : State) (c : Nat) : State :=
  let l := s.get (CAB_EVAC_STATUS_LCHAN c)
  let src := s.get (CAB_EVAC_STATUS_SRC c)
  let t := s.get (CAB_EVAC_STATUS_DST c)
  let s := (((s.dropTarget c l).setDstate c src (s.mappedState c src)).endEvac c).countAt 0x4E (cabInst c) 1
  (s.loseDrawer c t).startEvac c l

/-- A line decoded where its reads go (R222, Table 6.5). A line that fails on the target and not on the source shows a bad
target; a failed line that was copied verbatim does not (R235, R237). -/
def State.decodeAt (s : State) (a : Nat) : State × LineOutcome × List Byte :=
  let key := s.readKey a
  let r := decodeLine (s.detect a) (s.rawData key) (s.rawCheck key)
  if r.1 = .failed ∧ targetCopy ≤ key then
    let r' := decodeLine (s.detect a) (s.rawData a) (s.rawCheck a)
    if r'.1 = .failed then (s, r) else (s.abortTarget (cabOf a), r')
  else (s, r)

/-- A line written by its Cabinet, to source and target while a migration runs (Table 6.5). -/
def State.cabWrite (s : State) (a : Nat) (dt : List Byte) (d : Word) : State :=
  let s := (s.putRaw a dt d).countAt 0x41 (cabInst (cabOf a)) 1
  if s.migrating a then s.putRaw (a + targetCopy) dt d else s

/-- 128 zero bytes. -/
def zeroLine : List Byte := zeros 128

/-- LINE_FAULT, and the first faulting line with its kind (Tables 6.10 and 6.18). -/
def State.noteFault (s : State) (a kind : Nat) : State :=
  let c := cabOf a
  let s := if s.on (CAB_STATUS_LINE_FAULT c) then s else
    let s := (s.put (CAB_ERR_ADDR_LO_ADDR_LO c) (a % 2 ^ 32)).put (CAB_ERR_ADDR_HI_ADDR_HI c) (a / 2 ^ 32)
    (s.put (CAB_ERR_ADDR_HI_DRAWER c) (if targetCopy ≤ s.readKey a then s.get (CAB_EVAC_STATUS_DST c) else s.physOf c (lchanOf a))).put (CAB_ERR_ADDR_HI_KIND c) kind
  s.put (CAB_STATUS_LINE_FAULT c) 1

/-- A line reported: LINE_FAULT, MEM_REPORT and ALERT_SRC.MEM (Table 12.3). -/
def State.reportLine (s : State) (a kind : Nat) : State :=
  ((s.noteFault a kind).alert 2).raise 0xB (le 2 (cabOf a) ++ le 2 kind ++ le 8 a)

/-- Corrected lines of a Drawer within 60 s beyond the threshold trigger an evacuation (R231). -/
def State.noteCE (s : State) (a : Nat) : State :=
  let c := cabOf a
  let l := lchanOf a
  let s := s.setCab c fun k => { k with ce := (l, s.time) :: k.ce.filter fun p => decide (s.time < p.2 + 60000000000) }
  let n := ((s.cab c).ce.filter fun p => p.1 == l).length
  let t := s.get (CAB_CTRL_CE_EVAC_THRESH c)
  if s.on (CAB_CTRL_EVAC_AUTO c) && decide (t ≠ 0 ∧ t < n) then s.evacTrigger c l else s

/-- What a Cabinet delivers for a line, with its actions of Table 6.3. `faults` says that a reader takes the line, so
that the step can be voided; a DMA that reads a SPILL tensor takes nothing of a FAILED DETECT line (`spill`). DESIGN CHOICE
(log 112): Table 6.3 names only the count for a FAILED DETECT line, Table 6.10 sets LINE_FAULT for every FAILED line read; the
model follows Table 6.10 and reports the line where a reader other than a SPILL DMA takes it. -/
def State.cabRead (s : State) (a : Nat) (faults spill : Bool) : State × LineOutcome × List Byte :=
  let c := cabOf a
  let (s, o, dt) := (s.countAt 0x40 (cabInst c) 1).decodeAt a
  let detect := s.detect a
  let void := fun (s : State) => if faults then s.voidStep 0x0204 c a else s
  match o with
  | .good => (s, .good, dt)
  | .poison => (s.countAt 0x46 (cabInst c) 1, .poison, zeroLine)
  | .corrected =>
    -- the repaired line is written back (R224)
    let s := ((s.cabWrite a dt 0).bump (CAB_CE_COUNT_COUNT c) 1).countAt 0x42 (cabInst c) 1
    (s.noteCE a, .corrected, dt)
  | .lost => (void ((s.countAt 0x45 (cabInst c) 1).reportLine a 3), .lost, zeroLine)
  | .failed =>
    if detect then
      let s := (s.bump (CAB_DF_COUNT_COUNT c) 1).countAt 0x44 (cabInst c) 1
      (if spill then s.noteFault a 2 else void (s.reportLine a 2), .failed, zeroLine)
    else
      -- rewritten as LOST, reported, and a trigger (R225, R231)
      let s := ((s.cabWrite a zeroLine lostMask).bump (CAB_UE_COUNT_COUNT c) 1).countAt 0x43 (cabInst c) 1
      (void ((s.reportLine a 1).evacTrigger c (lchanOf a)), .failed, zeroLine)

/-! ## What a migration and a hard failure leave (R236, R239) -/

/-- Groups of a Drawer (R214, R232). -/
abbrev groupCount : Nat := 12189696

/-- Is an address a line of a logical Drawer? -/
def ofDrawer (c l a : Nat) : Bool := cabOf a == c && lchanOf a == l

/-- The target copies of the groups below `wm` take the place of the source's lines; the source's other lines are left out. -/
def adoptTarget [DecidableEq α] (d : Nat → α) (c l wm : Nat) (m : List (Nat × α)) : List (Nat × α) :=
  let others := m.filter fun p => !ofDrawer c l (if p.1 < targetCopy then p.1 else p.1 - targetCopy)
  let moved := m.filter fun p =>
    decide (targetCopy ≤ p.1) && ofDrawer c l (p.1 - targetCopy) && decide (groupOf (p.1 - targetCopy) < wm)
  moved.foldl (fun m p => spSet d m (p.1 - targetCopy) p.2) others

/-- A logical Drawer with its target's lines below the watermark, and the lost stretches as they then are. -/
def State.adoptDrawer (s : State) (c l wm : Nat) (lost : List (Nat × Nat × Nat × Nat)) : State :=
  let lost := lost ++ s.mem.lost.filter fun x => !(x.1 == c && x.2.1 == l)
  { s with mem := { s.mem with dram := adoptTarget (fun _ => 0) c l wm s.mem.dram,
                               check := adoptTarget (checkDefault lost) c l wm s.mem.check, lost := lost } }

/-- The lines of a logical Drawer in groups at or above the watermark are lost; those below it are the target's. -/
def State.loseLines (s : State) (c l wm : Nat) : State := s.adoptDrawer c l wm [(c, l, wm * 131072, decodedEnd)]

/-! ## Slices (R248 to R252) -/

/-- The line held in its slice. -/
def State.held (s : State) (a : Nat) : Option SLine := s.sbd.lines.find? fun l => l.addr == a

/-- Slice and set of a line. The spec does not say which of a slice's 4,096 sets holds a line: it is the model's choice
that a slice's lines take them in the order of their addresses (DESIGN CHOICE, log 94). -/
def setOf (a : Nat) : Nat := cabOf a + 16 * ((groupOf a * 64 + lchanOf a) % 4096)

/-- Is a line of the slice open? -/
def State.opened (s : State) (c : Nat) : Bool := s.sbd.openLines.any fun l => cabOf l.addr == c

/-- Far copies in a set. -/
def State.farIn (s : State) (n : Nat) : Nat := (s.sbd.far.filter fun x => setOf x.2.1 == n).length

/-- Ways of a line's set that serve as cache (R248): 16, without ways 14 and 15 while the slice has open lines, and without
those that hold far copies. -/
def State.cacheWays (s : State) (a : Nat) : Nat := (if s.opened (cabOf a) then 14 else 16) - s.farIn (setOf a)

/-- The line that leaves a set when one more is allocated in it: where its ways are full, the one held longest, which is
the model's choice (log 94). -/
def State.victim (s : State) (a : Nat) : Option SLine :=
  let set := s.sbd.lines.filter fun l => setOf l.addr == setOf a && l.addr != a
  if set.length < s.cacheWays a then none else set.head?

/-- The dirty lines with one's state noted: a line that becomes dirty waits from now. -/
def noteDirty (m : List (Nat × Nat)) (a t : Nat) (dirty : Bool) : List (Nat × Nat) :=
  if !dirty then m.filter fun x => x.1 != a
  else if m.any (fun x => x.1 == a) then m else m ++ [(a, t)]

/-- A line put into its slice in place of what it held there. -/
def State.putHeld (s : State) (l : SLine) : State :=
  { s with sbd := { s.sbd with lines := (s.sbd.lines.filter fun x => x.addr != l.addr) ++ [l],
                               dirtyAt := noteDirty s.sbd.dirtyAt l.addr s.time l.dirty } }

/-- A line dropped from its slice. -/
def State.drop (s : State) (a : Nat) : State :=
  { s with sbd := { s.sbd with lines := s.sbd.lines.filter fun x => x.addr != a,
                               dirtyAt := noteDirty s.sbd.dirtyAt a s.time false } }

/-- Check difference with which a held line leaves. -/
def SLine.delta (l : SLine) : Word :=
  match l.outcome with
  | .poison => poisonMask
  | .lost => lostMask
  | _ => 0

/-- Wrong bits that the slice's SECDED finds in a line (R251). -/
def State.lineErr (s : State) (a : Nat) : Nat :=
  (List.range 16).foldl (fun m i => max m (spGet (fun _ => 0) s.sbd.err (a + 8 * i))) 0

/-- The slice's error bits of a line cleared. -/
def State.clearErr (s : State) (a : Nat) : State :=
  { s with sbd := { s.sbd with err := spClear s.sbd.err a (a + 128) } }

/-- The slice's array checked as a line is read from it (R251). A dirty line with a double error is lost: the Cabinet gets
the LOST pattern, and the slice holds it as LOST. -/
def State.checkSlice (s : State) (a : Nat) (faults : Bool) : State :=
  let c := cabOf a
  match s.lineErr a, s.held a with
  | 0, _ => s
  | _, none => s.clearErr a
  | 1, some _ => ((s.clearErr a).put SBD_STATUS_SRAM_CE 1).countAt 0x64 (cabInst c) 1
  | _, some l =>
    let s := s.clearErr a
    let s := if s.on SBD_STATUS_SRAM_UE then s else s.put SBD_STATUS_UE_SLICE c
    let s := (s.put SBD_STATUS_SRAM_UE 1).countAt 0x65 (cabInst c) 1
    if l.dirty then
      let s := (s.cabWrite a zeroLine lostMask).putHeld { addr := a, data := zeroLine, outcome := .lost, dirty := false }
      let s := s.reportLine a 3
      if faults then s.voidStep 0x0204 c a else s
    else s.drop a

/-- A dirty line written to its Cabinet, its array checked as it is read (R250, R251): it stays, clean. -/
def State.writeback (s : State) (a : Nat) : State :=
  let s := s.checkSlice a true
  match s.held a with
  | some l =>
    if l.dirty then
      ((s.cabWrite a l.data l.delta).putHeld { l with dirty := false }).countAt 0x62 (cabInst (cabOf a)) 1
    else s
  | none => s

/-- Every dirty line written back. -/
def State.writebackAll (s : State) : State := s.sbd.lines.foldl (fun s l => s.writeback l.addr) s

/-- A line leaves its slice, written back where it is dirty. -/
def State.evict (s : State) (a : Nat) : State := ((s.writeback a).drop a).clearErr a

/-- Room made in a line's set. -/
def State.makeWay (s : State) (a : Nat) : State :=
  match s.victim a with
  | some l => s.evict l.addr
  | none => s

/-- A line put into its slice, in place of what it held there or of the set's victim (R248, R250). -/
def State.hold (s : State) (l : SLine) : State :=
  (if (s.held l.addr).isSome then s else s.makeWay l.addr).putHeld l

/-- Ways 14 and 15 of a slice taken for accumulators (R248): in every set the lines held longest leave. -/
def State.takeWays (s : State) (c : Nat) : State :=
  (s.sbd.lines.filter fun l => cabOf l.addr == c).foldl (fun s l =>
    let n := (s.sbd.lines.filter fun x => setOf x.addr == setOf l.addr).length
    if 14 - s.farIn (setOf l.addr) < n then s.evict l.addr else s) s

/-- A line as the slice holds it, fetched from the Cabinet where it does not. A FAILED line is not kept (R252). -/
def State.fetch (s : State) (a : Nat) (faults spill : Bool) : State × LineOutcome × List Byte :=
  let s := s.checkSlice a faults
  let c := cabOf a
  match s.held a with
  | some l =>
    let s := s.countAt 0x60 (cabInst c) 1
    (if l.outcome = .lost ∧ faults then s.voidStep 0x0204 c a else s, l.outcome, l.data)
  | none =>
    let (s, o, dt) := (s.countAt 0x61 (cabInst c) 1).cabRead a faults spill
    match o with
    | .failed => (s, .failed, dt)
    | .corrected => (s.hold ⟨a, dt, .good, false⟩, .corrected, dt)
    | o => (s.hold ⟨a, dt, o, false⟩, o, dt)

/-! ## Writes into the shard (R370, R372, R385, R388) -/

/-- Image offset of a local address (R372). -/
def shardOffset (m : List (Nat × Nat × Nat)) (a : Nat) : Option Nat :=
  match m.find? fun p => decide (p.1 ≤ a ∧ a < p.1 + p.2.1) with
  | some p => some (p.2.2 + (a - p.1))
  | none => none

/-- Local address of an image offset. -/
def shardAddr (m : List (Nat × Nat × Nat)) (o : Nat) : Option Nat :=
  match m.find? fun p => decide (p.2.2 ≤ o ∧ o < p.2.2 + p.2.1) with
  | some p => some (p.1 + (o - p.2.2))
  | none => none

/-- Does a range hold an image line? -/
def Rng.holds (r : Rng) (l : Nat) : Bool := r.lines.any fun p => decide (p.1 ≤ l ∧ l < p.1 + p.2)

/-- Must a write to a line of the range be echoed? Until the range is in replay mode every write after its first COPY
is (R385); after that, every write but those of the Nib rules (R388). -/
def Rng.echoes (r : Rng) (step : Nat) (nib : Bool) : Bool :=
  match r.state with
  | .unsent => false
  | .copying n => decide (0 < n)
  | .sent b => decide (step ≤ b) || !nib
  | .replay => !nib
  | .failed => false

/-- Has a range lines at the partner and not landed by a step (R386, R387)? -/
def Rng.inFlight (r : Rng) (step : Nat) : Bool :=
  match r.state with
  | .copying n => decide (0 < n)
  | .sent b => decide (step ≤ b)
  | _ => false

/-- Is the module's own shard being followed? -/
def State.followed (s : State) : Bool :=
  s.get SVL_STATUS_OWN_FOLLOW == 1 || s.get SVL_STATUS_OWN_FOLLOW == 2

/-- What a write of a line of the shard leaves behind: SHARD_TOUCHED, the leaf's last step and that its hash is due (R295), and
the echo that the partner must get. `nib` marks the rule writes of a Nib. -/
def State.noteWrite (s : State) (a : Nat) (dt : List Byte) (marked nib : Bool) : State :=
  match shardOffset s.svl.shard a with
  | none => s
  | some o =>
    let s := if s.run.stepOn then s.put SVL_STATUS_SHARD_TOUCHED 1 else s
    let leaf := o / 1048576
    let v := { s.svl with leaves := (leaf, s.step) :: s.svl.leaves.filter (fun p => p.1 != leaf),
                          due := s.svl.due.map fun ds => if ds.contains leaf then ds else leaf :: ds }
    let v := if nib || !s.run.stepOn || v.written.contains a then v else { v with written := a :: v.written }
    let l := o / 128
    let echo := s.followed && v.ranges.any fun r => r.holds l && r.echoes s.step nib
    let v := if echo then
        { v with echoes := v.echoes ++ [{ line := l, data := dt, marked := marked }],
                 ranges := v.ranges.map fun r => if r.holds l && r.inFlight s.step then { r with touched := some s.step } else r }
      else v
    { s with svl := v }

/-- A line held as written, with what the write leaves behind. -/
def State.holdWrite (s : State) (l : SLine) (nib : Bool) : State :=
  (s.hold l).noteWrite l.addr l.data (l.outcome = .poison || l.outcome = .lost) nib

/-! ## The Reservoir (R258 to R264) -/

/-- Slots that an open line takes (R258). -/
def OpenLine.slots (l : OpenLine) : Nat := if l.fmt = 1 then 32 else 64

/-- Open slots of a slice. -/
def State.openSlots (s : State) (c : Nat) : Nat :=
  ((s.sbd.openLines.filter fun l => cabOf l.addr == c).map OpenLine.slots).sum

/-- SBD_RES_s follows the open lines (Table 7.13). -/
def State.noteSlots (s : State) (c : Nat) : State :=
  let n := s.openSlots c
  (s.put (SBD_RES_OPEN_SLOTS c) n).put (SBD_RES_HIGH_WATER c) (max n (s.get (SBD_RES_HIGH_WATER c)))

/-- The open line at a line address. -/
def State.openAt (s : State) (a : Nat) : Option OpenLine := s.sbd.openLines.find? fun l => l.addr == a

/-- The open line at an address taken away. -/
def State.dropOpen (s : State) (a : Nat) : State :=
  ({ s with sbd := { s.sbd with openLines := s.sbd.openLines.filter fun l => l.addr != a } } : State).noteSlots (cabOf a)

/-- An open line replaced. -/
def State.putOpen (s : State) (l : OpenLine) : State :=
  ({ s with sbd := { s.sbd with openLines := (s.sbd.openLines.filter fun x => x.addr != l.addr) ++ [l] } }
    : State).noteSlots (cabOf l.addr)

/-- Code `i` of a line's elements of `w` bytes. -/
def codeAt (dt : List Byte) (w i : Nat) : Nat := fld dt (w * i) w

/-- seal_element of R261: code, clamped?, NaN by the count limit? -/
def sealElement (acc : Acc40) (fmt old : Nat) : Nat × Bool × Bool :=
  if acc.count = 0 then (old, false, false)
  else if acc.count = 0xFFFF then (nanCode fmt, false, true)
  else if acc.nan || (acc.pinf && acc.ninf) then (nanCode fmt, false, false)
  else if acc.pinf then (infCode fmt false, false, false)
  else if acc.ninf then (infCode fmt true, false, false)
  else if acc.sum = 0 then (0, false, false)
  else
    let (c, cl) := roundQ fmt .rne (decide (acc.sum < 0)) acc.sum.natAbs 1 (-149)
    (c, cl, false)

/-- Does an outcome deliver the poison marker (Table 6.3)? -/
def LineOutcome.marked : LineOutcome → Bool
  | .good => false
  | .corrected => false
  | _ => true

/-- The old codes of an open line, for its elements without an add: from its slice, or fetched again through the Cabinet where
it has left the slice (R216, R251, R261). -/
def State.oldLine (s : State) (a : Nat) : State × LineOutcome × List Byte :=
  match s.held a with
  | some x => (s, x.outcome, x.data)
  | none => s.fetch a true false

/-- A sealed line written. Where all its adds came from Nibs no other writer wrote it (R388). -/
def State.sealWrite (s : State) (l : SLine) (nibs : Bool) : State :=
  let t := s.holdWrite l false
  if nibs then { t with svl := { t.svl with written := s.svl.written } } else t

/-- A line sealed (R261): written whole, its slots freed. A double error in an accumulator, or in the slice's only copy of
the line, loses it (R251, R276). Where the line of an untouched element can no longer be read, the whole line is marked
(DESIGN CHOICE, log 112). -/
def State.sealLine (s : State) (a : Nat) : State :=
  match s.openAt a with
  | none => s
  | some l =>
    let c := cabOf a
    let w := fmtBytes l.fmt
    let torn := decide (2 ≤ s.lineErr a) && (match s.held a with | some x => x.dirty | none => false)
    let (s, o, old) := (s.checkSlice a true).oldLine a
    let r := (List.range l.accs.length).map fun i =>
      sealElement (l.accs.getD i ⟨0, 0, false, false, false, false⟩) l.fmt (codeAt old w i)
    let s := (s.dropOpen a).countAt 0x68 (cabInst c) 1
    let clamps := (r.filter fun x => x.2.1).length
    let nans := (r.filter fun x => x.2.2).length
    let s := if clamps = 0 then s else s.countAt 0x69 (cabInst c) clamps
    let s := if nans = 0 then s else (s.countAt 0x6A (cabInst c) nans).put SBD_STATUS_SEAL_NAN 1
    if torn then s
    else if l.bad then
      ((s.hold ⟨a, zeroLine, .lost, true⟩).reportLine a 3).voidStep 0x0204 c a
    else if (l.accs.any fun x => x.poison) || (o.marked && l.accs.any fun x => x.count == 0) then
      s.sealWrite ⟨a, zeroLine, .poison, true⟩ l.nibs
    else s.sealWrite { addr := a, data := r.flatMap fun x => le w x.1, outcome := .good, dirty := true } l.nibs

/-- Every open line sealed (R261). -/
def State.sealAll (s : State) : State := s.sbd.openLines.foldl (fun s l => s.sealLine l.addr) s

/-- The initial accumulator of an element (R259). -/
def loadAcc (fmt code : Nat) (marked : Bool) : Acc40 :=
  let z : Acc40 := ⟨0, 0, false, false, false, false⟩
  if marked then { z with poison := true }
  else match decode fmt code with
    | .nan => { z with nan := true }
    | .inf n => if n then { z with ninf := true } else { z with pinf := true }
    | .fin n m e => { z with sum := (if n then -1 else 1) * ((m * pow2 (e + 149) : Nat) : Int) }

/-- exact_add of R260. -/
def addAcc (acc : Acc40) (fmt code : Nat) (marked : Bool) : Acc40 :=
  let acc := { acc with count := min (acc.count + 1) 0xFFFF }
  if marked then { acc with poison := true }
  else match decode fmt code with
    | .nan => { acc with nan := true }
    | .inf n => if n then { acc with ninf := true } else { acc with pinf := true }
    | .fin n m e => { acc with sum := acc.sum + (if n then -1 else 1) * ((m * pow2 (e + 149) : Nat) : Int) }

/-- A line opened in a format (R259): its accumulators take ways 14 and 15 before the line is fetched (R248). -/
def State.openLine (s : State) (a fmt : Nat) : State :=
  let s := if s.opened (cabOf a) then s else s.takeWays (cabOf a)
  let (s, o, dt) := (s.putOpen ⟨a, fmt, [], false, true⟩).fetch a true false
  let marked := !(o = .good) && !(o = .corrected)
  let w := fmtBytes fmt
  let accs := (List.range (128 / w)).map fun i => loadAcc fmt (codeAt dt w i) marked
  (s.putOpen ⟨a, fmt, accs, false, true⟩).countAt 0x67 (cabInst (cabOf a)) 1

/-- Has the slice room for one more line in the format (R264)? -/
def State.roomFor (s : State) (a fmt : Nat) : Bool :=
  decide (s.openSlots (cabOf a) + (if fmt = 1 then 32 else 64) ≤ 26208)

/-- Does an exact add come from a Nib? -/
def AddSrc.isNib : AddSrc → Bool
  | .engine c => decide (0x40 ≤ c ∧ c < 0x50)
  | _ => false

/-- An EXACT_ADD that has its slots (R260). -/
def State.addNow (s : State) (addr fmt code : Nat) (marked nib : Bool) : State :=
  let a := lineOf addr
  let s := if (s.openAt a).isSome then s else s.openLine a fmt
  match s.openAt a with
  | none => s
  | some l =>
    let i := addr % 128 / fmtBytes fmt
    (s.putOpen { l with accs := modifyAt l.accs i (fun x => addAcc x fmt code marked), nibs := l.nibs && nib }).countAt 0x66 (cabInst (cabOf a)) 1

/-- EXACT_ADD (Table 7.1, R257, R264): another format seals the line first; without slots the add waits. -/
def State.exactAdd (s : State) (addr fmt code : Nat) (marked : Bool) (src : AddSrc) : State :=
  let a := lineOf addr
  let s := match s.openAt a with | some l => if l.fmt = fmt then s else s.sealLine a | none => s
  if (s.openAt a).isSome || s.roomFor a fmt then s.addNow addr fmt code marked src.isNib
  else
    let s := { s with sbd := { s.sbd with waiting := s.sbd.waiting ++ [(⟨addr, fmt, code, marked, src⟩ : WaitAdd)] } }
    (s.put SBD_STATUS_RES_WAIT 1).countAt 0x6B (cabInst (cabOf a)) 1

/-- Do exact adds of a source wait (R264)? -/
def State.addsWait (s : State) (src : AddSrc) : Bool := s.sbd.waiting.any fun w => w.src == src

/-- The first exact add that waits at a slice proceeds, if it now has its slots (R264). -/
def State.resWait (s : State) (c : Nat) : State :=
  match s.sbd.waiting.find? fun w => cabOf w.addr == c with
  | some w =>
    if (s.openAt (lineOf w.addr)).isSome || s.roomFor w.addr w.fmt then
      ({ s with sbd := { s.sbd with waiting := s.sbd.waiting.erase w } } : State).exactAdd w.addr w.fmt w.code w.poison w.src
    else s
  | none => s

/-! ## Operations of Table 7.1 -/

/-- LINE_READ: seals an open line first; outcome and data. A line whose outcome is POISON, LOST or FAILED is marked. -/
def State.lineRead (s : State) (a : Nat) (faults spill : Bool) : State × LineOutcome × List Byte :=
  (s.sealLine a).fetch a faults spill

/-- LINE_WRITE: replaces the line and its outcome; a poisoned line holds the poison pattern (R131, R252). `nib` marks
the rule writes of a Nib. -/
def State.lineStore (s : State) (a : Nat) (dt : List Byte) (marked nib : Bool) : State :=
  let s := (s.sealLine a).clearErr a
  if marked then s.holdWrite ⟨a, zeroLine, .poison, true⟩ nib else s.holdWrite ⟨a, fit 128 dt, .good, true⟩ nib

/-- LINE_WRITE by any writer but a Nib's rule. -/
def State.lineWrite (s : State) (a : Nat) (dt : List Byte) (marked : Bool) : State := s.lineStore a dt marked false

/-- Bytes put in place of a line's, where a mask picks them: bit i for byte i. -/
def maskBytes (old : List Byte) (mask : Nat) (new : List Byte) : List Byte :=
  (List.range 128).map fun i => if bit mask i then new.getD i 0 else old.getD i 0

/-- MERGE_WRITE of the bytes of a line under a mask: a line held as POISON or LOST, or that decodes as FAILED, keeps what it
has (R521). Answers whether it stored. A dirty line that its slice has lost voids the step (R251, Table 11.1); `faults` says that
any other fault found in reading the line does so too. -/
def State.mergeMask (s : State) (a mask : Nat) (dt : List Byte) (faults nib : Bool) : State × Bool :=
  let (s, o, old) := ((s.sealLine a).checkSlice a true).fetch a faults false
  let s := s.countAt 0x63 (cabInst (cabOf a)) 1
  if o.marked then (s, false)
  else (s.holdWrite ⟨a, maskBytes old mask dt, .good, true⟩ nib, true)

/-- MERGE_WRITE of consecutive bytes within one line. -/
def State.mergeWrite (s : State) (addr : Nat) (dt : List Byte) (faults : Bool) : State × Bool :=
  let i := addr % 128
  s.mergeMask (lineOf addr) ((2 ^ dt.length - 1) * 2 ^ i) (zeros i ++ dt) faults false

/-- A word operation (Table 7.1): the old word, and whether the line could be changed (R521); the step's faults as with
`mergeMask`. -/
def State.wordOp (s : State) (addr : Nat) (f : Nat → Nat) (faults : Bool) : State × Nat × Bool :=
  let a := lineOf addr
  let (s, o, old) := ((s.sealLine a).checkSlice a true).fetch a faults false
  let s := s.countAt 0x6F (cabInst (cabOf a)) 1
  if o.marked then (s, 0, false)
  else
    let w := fld old (addr - a) 8
    (s.holdWrite ⟨a, patch old (addr - a) (le 8 (f w)), .good, true⟩ false, w, true)

/-- The word that each word operation stores. -/
def wordNew (op operand comparand old : Nat) : Nat :=
  match op with
  | 1 => (old + operand) % 2 ^ 64
  | 2 => operand
  | 3 => if old = comparand then operand else old
  | 4 => max old operand
  | _ => min old operand

/-! ## Ranges -/

/-- Lines that a range of bytes touches, in ascending order. -/
def linesOf (addr n : Nat) : List Nat :=
  if n = 0 then [] else (List.range ((addr + n - 1) / 128 + 1 - addr / 128)).map fun i => lineOf addr + 128 * i

/-- Bytes of a range, marked lines reading zero, with the mask of marked lines (R420). -/
def State.readRange (s : State) (addr n : Nat) (faults : Bool) : State × List Byte × Nat :=
  let r := (linesOf addr n).foldl (fun (acc : State × List Byte × Nat × Nat) a =>
    let (s, o, dt) := acc.1.lineRead a faults false
    (s, acc.2.1 ++ (if o.marked then zeroLine else dt), acc.2.2.1 + (if o.marked then 2 ^ acc.2.2.2 else 0), acc.2.2.2 + 1))
    (s, [], 0, 0)
  (r.1, slice r.2.1 (addr % 128) n, r.2.2.1)

/-- Bytes written to a range: whole lines by LINE_WRITE, the ends by MERGE_WRITE (R420). Answers whether every partial
line stored. -/
def State.writeRange (s : State) (addr : Nat) (dt : List Byte) : State × Bool :=
  (linesOf addr dt.length).foldl (fun (acc : State × Bool) a =>
    if addr ≤ a ∧ a + 128 ≤ addr + dt.length then (acc.1.lineWrite a (slice dt (a - addr) 128) false, acc.2)
    else
      let lo := max addr a
      let hi := min (addr + dt.length) (a + 128)
      let (s, ok) := acc.1.mergeWrite lo (slice dt (lo - addr) (hi - lo)) false
      (s, acc.2 && ok)) (s, true)

/-- The lost stretches of Drawers without the addresses from `lo` to below `hi`. -/
def cutLost (m : List (Nat × Nat × Nat × Nat)) (lo hi : Nat) : List (Nat × Nat × Nat × Nat) :=
  (m.flatMap fun p => [(p.1, p.2.1, p.2.2.1, min p.2.2.2 lo), (p.1, p.2.1, max p.2.2.1 hi, p.2.2.2)]).filter
    fun p => decide (p.2.2.1 < p.2.2.2)

/-- The lines of a range that have no home stay lost (R239). -/
def deadLost (dead : List (Nat × Nat × Nat)) (lo hi : Nat) : List (Nat × Nat × Nat × Nat) :=
  (dead.map fun p => (p.1, p.2.1, max lo (p.2.2 * 131072), hi)).filter fun p => decide (p.2.2.1 < p.2.2.2)

/-- Memory with every line of a range zero, and the slices without them. -/
def State.zeroLines (s : State) (lo hi : Nat) : State :=
  let m := { s.mem with
    dram := spClear (spClear s.mem.dram lo hi) (lo + targetCopy) (hi + targetCopy),
    check := spClear (spClear s.mem.check lo hi) (lo + targetCopy) (hi + targetCopy),
    lost := deadLost s.mem.dead lo hi ++ cutLost s.mem.lost lo hi }
  let b := { s.sbd with
    lines := s.sbd.lines.filter (fun l => decide (l.addr < lo) || decide (hi ≤ l.addr)),
    dirtyAt := s.sbd.dirtyAt.filter (fun l => decide (l.1 < lo) || decide (hi ≤ l.1)),
    openLines := s.sbd.openLines.filter (fun l => decide (l.addr < lo) || decide (hi ≤ l.addr)),
    err := spClear s.sbd.err lo hi }
  { s with mem := m, sbd := b }

/-- Every line of a range zero with valid check bytes of its page's class, past the slices too (R218, R423). -/
def State.zeroRange (s : State) (lo hi : Nat) : State :=
  (List.range 16).foldl (fun s c => s.noteSlots c) (s.zeroLines lo hi)

/-- The bytes of a range as memory holds them, without any effect of reading: what a reader would take, marked lines
as zeros. -/
def State.peekLine (s : State) (a : Nat) : List Byte :=
  match s.held a with
  | some l => if l.outcome.marked then zeroLine else l.data
  | none =>
    let (o, dt) := decodeLine (s.detect a) (s.rawData (s.readKey a)) (s.rawCheck (s.readKey a))
    if o.marked then zeroLine else dt

/-- Does a line read marked? -/
def State.peekMarked (s : State) (a : Nat) : Bool :=
  match s.held a with
  | some l => l.outcome.marked
  | none => (decodeLine (s.detect a) (s.rawData (s.readKey a)) (s.rawCheck (s.readKey a))).1.marked

/-- The lines of a range read as a reader takes them, with the Cabinets' actions of Table 6.3 and what the slices do
(R249): its bytes are then those that `peek` gives. -/
def State.touch (s : State) (addr n : Nat) (faults : Bool) : State := (s.readRange addr n faults).1

/-- Bytes of a range as they stand. -/
def State.peek (s : State) (addr n : Nat) : List Byte :=
  slice ((linesOf addr n).flatMap s.peekLine) (addr % 128) n

end Sys2Proof.Machine
end

