-- ==== Sys2Proof/Machine/Folio.lean ====
section
/-! DEFINITION. Reading a loaded folio: sections, tensors, descriptors, records and the fields of their layouts
(chapters 3, 4, 5 and 8). -/
namespace Sys2Proof.Machine

/-! ## System region (Table 6.2a) -/

abbrev ringBase : Nat := 0x17300000000
abbrev stagingBase : Nat := 0x17340000000
abbrev gaugeBase : Nat := 0x173C0000000
abbrev layerBase : Nat := 0x173C0100000
abbrev takeLogBase : Nat := 0x173C4000000
abbrev replayBase : Nat := 0x173C8000000
abbrev digestBase : Nat := 0x173D0000000
abbrev stateBlock : Nat := 0x173E0000000
abbrev stateBlockBytes : Nat := 0x400000

/-! ## Sections (Tables 5.2, 5.3) -/

/-- The section of a type and engine code. -/
def Folio.sec (f : Folio) (typ eng : Nat) : Option Section := f.secs.find? fun x => x.typ == typ && x.eng == eng

/-- Entry `i` of `n` bytes. -/
def Section.entry (x : Section) (n i : Nat) : List Byte := slice x.bytes (n * i) n

/-- COUNT of a section, 0 where it is absent. -/
def Folio.count (f : Folio) (typ eng : Nat) : Nat := match f.sec typ eng with | some x => x.count | none => 0

/-- GAUGE_COUNT (R315). -/
def Folio.gaugeCount (f : Folio) : Nat := match f.sec 0x0F 0 with | some x => fld x.bytes 0 2 | none => 0

/-- All entries of a section. -/
def Folio.entries (f : Folio) (typ eng n : Nat) : List (List Byte) :=
  match f.sec typ eng with
  | some x => (List.range x.count).map (x.entry n)
  | none => []

/-- Header fields (Table 5.1). -/
def Folio.version (f : Folio) : Nat := fld f.hdr 4 2
def Folio.colocated (f : Folio) : Bool := bit (fld f.hdr 6 2) 0
def Folio.role (f : Folio) : Nat := fld f.hdr 0x0A 2
def Folio.stepLimitMs (f : Folio) : Nat := let v := fld f.hdr 0x0C 4; if v = 0 then 10000 else v

/-- A C4 folio (R205). -/
def Folio.isC4 (f : Folio) : Bool := f.version / 256 == 1

/-! ## Tensors (Table 3.1) -/

/-- A tensor table entry. -/
structure Tensor where
  tid : Nat
  fmt : Nat
  blk : Nat
  /-- CLASS 1: INDEX32. -/
  index : Bool
  space : Nat
  gaugeEn : Bool
  rank : Nat
  layer : Nat
  elemBase : Nat
  scaleBase : Nat
  d0 : Nat
  d1 : Nat
  d2 : Nat
  d3 : Nat
  outerAlloc : Nat
  gauge : Nat
  elemBytes : Nat
  deriving DecidableEq, Repr

/-- An entry read (R99). -/
def parseTensor (e : List Byte) : Tensor :=
  let b2 := fld e 2 1
  let b3 := fld e 3 1
  { tid := fld e 0 2, fmt := bits b2 2 0, blk := bits b2 5 3, index := bit b2 6, space := bits b3 2 0, gaugeEn := bit b3 3,
    rank := fld e 4 1, layer := fld e 6 2, elemBase := fld e 8 8, scaleBase := fld e 0x10 8, d0 := fld e 0x18 4,
    d1 := fld e 0x1C 4, d2 := fld e 0x20 4, d3 := fld e 0x24 4, outerAlloc := fld e 0x28 4, gauge := fld e 0x2C 2,
    elemBytes := fld e 0x30 8 }

/-- The tensors in table order. -/
def Folio.tensors (f : Folio) : List Tensor := (f.entries 1 0 64).map parseTensor

/-- The tensor of an identifier (R100). -/
def Folio.tensor (f : Folio) (tid : Nat) : Option Tensor :=
  if tid = 0xFFFF then none else f.tensors.find? fun t => t.tid == tid

/-- Elements of a block; 1 when unblocked (R71). -/
def Tensor.bsize (t : Tensor) : Nat := blkSize t.blk

/-- DIM0 padded to whole blocks (R101). -/
def Tensor.p0 (t : Tensor) : Nat := roundUp t.d0 t.bsize

/-- Width of an element in bits: 32 for INDEX32. -/
def Tensor.width (t : Tensor) : Nat := if t.index then 32 else if t.fmt = fA40 then 64 else fmtWidth t.fmt

/-- Plan extent of dimension `i`. -/
def Tensor.dim (t : Tensor) (i : Nat) : Nat := [t.d0, t.d1, t.d2, t.d3].getD i 1

/-- Plan extent of the outermost dimension. -/
def Tensor.outer (t : Tensor) : Nat := t.dim (t.rank - 1)

/-- Extents with the outermost at OUTER_ALLOC. -/
def Tensor.allocDim (t : Tensor) (i : Nat) : Nat := if i + 1 = t.rank then t.outerAlloc else t.dim i

/-- Rows of the flattened table: DIM1 to DIM3 (R114). -/
def Tensor.rows (t : Tensor) : Nat := t.d1 * t.d2 * t.d3

/-- Rows with the outermost dimension at OUTER_ALLOC (R434). -/
def Tensor.allocRows (t : Tensor) : Nat := t.allocDim 1 * t.allocDim 2 * t.allocDim 3

/-- Bytes of the padded inner extent (R101, R434). -/
def Tensor.rowBytes (t : Tensor) : Nat := t.p0 * t.width / 8

/-- Blocks of a row. -/
def Tensor.rowBlocks (t : Tensor) : Nat := t.p0 / t.bsize

/-- Bytes of the scale array for the elements that fit (R71). -/
def Tensor.scaleBytes (t : Tensor) : Nat :=
  if t.blk = 0 then 0 else t.allocDim 1 * t.allocDim 2 * t.allocDim 3 * (roundUp (t.allocDim 0) t.bsize / t.bsize)

/-! ## Descriptors (Tables 3.2, 5.5, 5.8, 5.9a, 5.9b) -/

/-- A raw descriptor of 64 bytes. -/
abbrev Desc := List Byte

namespace Desc

def kind (d : Desc) : Nat := fld d 0 1
def waits (d : Desc) : Bool := bit (fld d 1 1) 0
def signals (d : Desc) : Bool := bit (fld d 1 1) 1
def waitSem (d : Desc) : Nat := bits (fld d 2 2) 11 0
def scope (d : Desc) : Nat := bits (fld d 2 2) 13 12
def waitValue (d : Desc) : Nat := fld d 4 2
def signalSem (d : Desc) : Nat := bits (fld d 6 2) 11 0
def statAddr (d : Desc) : Nat := fld d 0x28 8
-- strokes
def tidA (d : Desc) : Nat := fld d 8 2
def tidB (d : Desc) : Nat := fld d 0x0A 2
def tidC (d : Desc) : Nat := fld d 0x0C 2
def tidAux (d : Desc) : Nat := fld d 0x0E 2
def mPlan (d : Desc) : Nat := fld d 0x10 4
def nPlan (d : Desc) : Nat := fld d 0x14 4
def kPlan (d : Desc) : Nat := fld d 0x18 4
def mSlot (d : Desc) : Nat := fld d 0x1C 1
def nSlot (d : Desc) : Nat := fld d 0x1D 1
def kSlot (d : Desc) : Nat := fld d 0x1E 1
def groups (d : Desc) : Nat := fld d 0x1F 1
def sflags (d : Desc) : Nat := fld d 0x20 2
def dir (d : Desc) : Nat := bits d.sflags 1 0
def shape (d : Desc) : Nat := bits d.sflags 4 2
def accum (d : Desc) : Bool := bit d.sflags 5
def sr (d : Desc) : Bool := bit d.sflags 6
def elastic (d : Desc) : Bool := bit d.sflags 7
def overflowSplit (d : Desc) : Bool := bit d.sflags 8
def share (d : Desc) : Nat := bits d.sflags 10 9
def expLayer (d : Desc) : Bool := bit d.sflags 11
def outExp (d : Desc) : Int := toSigned 8 (fld d 0x22 1)
def layer (d : Desc) : Nat := fld d 0x24 2
def tidStats (d : Desc) : Nat := fld d 0x26 2
def k30 (d : Desc) : Nat := fld d 0x30 1
def ftable (d : Desc) : Nat := fld d 0x31 1
def tableVer (d : Desc) : Nat := fld d 0x32 2
def k34 (d : Desc) : Nat := fld d 0x34 1
def k35 (d : Desc) : Nat := fld d 0x35 1
def eps (d : Desc) : Nat := fld d 0x34 4
-- DMA
def dTranspose (d : Desc) : Bool := bit (fld d 0x0C 2) 0
def dSr (d : Desc) : Bool := bit (fld d 0x0C 2) 1
def dExpLayer (d : Desc) : Nat := fld d 0x0E 2
def sliceFirst (d : Desc) : Nat := fld d 0x10 4
def sliceCount (d : Desc) : Nat := fld d 0x14 4
def extSlot (d : Desc) : Nat := fld d 0x18 1
def kspec (d : Desc) : Nat := fld d 0x19 1
def imm (d : Desc) : Nat := fld d 0x1C 4
-- Quill
def qSrc (d : Desc) : Nat := fld d 8 2
def qDstTid (d : Desc) : Nat := fld d 0x0A 2
def qDstRole (d : Desc) : Nat := fld d 0x0C 2
def qSem (d : Desc) : Nat := fld d 0x0E 2
def qSrcFirst (d : Desc) : Nat := fld d 0x10 8
def qBytes (d : Desc) : Nat := fld d 0x18 8
def qDstFirst (d : Desc) : Nat := fld d 0x20 8
-- Nib
def nLayer (d : Desc) : Nat := fld d 8 2
def nTouched (d : Desc) : Nat := fld d 0x0A 2
def nFirst (d : Desc) : Nat := fld d 0x10 8
def nCount (d : Desc) : Nat := fld d 0x18 8

/-- Function code of a stroke (Table 3.4): MM at 0x30, EW at 0x34. -/
def func (d : Desc) : Nat := if d.kind = 0x10 then d.k30 else if d.kind = 0x11 then d.k34 else 0

end Desc

/-- The function table that a stroke evaluates, if any (Tables 3.4, 3.6, 4.2): MM and EW with TABLE or XTABLE or a
DERIV through a table, ROW in SOFTMAX. -/
def usesTable (d : Desc) : Bool :=
  match d.kind with
  | 0x10 => d.k30 == 2 || d.k30 == 3 || d.k35 == 1
  | 0x11 => d.k34 == 2 || d.k34 == 3
  | 0x12 => d.k30 == 0
  | _ => false

/-- Descriptors of an engine's list. -/
def Folio.listLen (f : Folio) (eng : Nat) : Nat := f.count 6 eng

/-- Descriptor `i` of an engine's list. -/
def Folio.desc (f : Folio) (eng i : Nat) : Option Desc :=
  match f.sec 6 eng with
  | some x => if i < x.count then some (x.entry 64 i) else none
  | none => none

/-- Descriptor `i` of a replay list (code 0, 1 or 0x80). -/
def Folio.replayDesc (f : Folio) (eng i : Nat) : Option Desc :=
  match f.sec 7 eng with
  | some x => if i < x.count then some (x.entry 64 i) else none
  | none => none

/-- Does the loader elide this descriptor (R163)? -/
def Folio.isElided (f : Folio) (eng i : Nat) : Bool := f.elided.contains (eng, i)

/-- INIT of a semaphore (Table 5.6). -/
def Folio.semInit (f : Folio) (i : Nat) : Nat :=
  match f.sec 5 0 with
  | some x => if i < x.count then fld x.bytes (4 * i) 2 else 0
  | none => 0

/-! ## Regions (Table 5.9) and layers (Table 5.11) -/

/-- A region record. -/
structure Region where
  base : Nat
  bytes : Nat
  detect : Bool
  remoteIn : Bool
  shadow : Bool
  deriving DecidableEq, Repr

/-- Regions in section order. -/
def Folio.regions (f : Folio) : List Region :=
  (f.entries 2 0 16).map fun e =>
    { base := fld e 0 8, bytes := fld e 8 4 * 2097152, detect := fld e 0x0C 1 == 1, remoteIn := bit (fld e 0x0D 1) 0,
      shadow := bit (fld e 0x0D 1) 1 }

/-- The region that holds a range of bytes whole. -/
def regionOf (rs : List Region) (a n : Nat) : Option Region :=
  rs.find? fun r => decide (r.base ≤ a ∧ a + n ≤ r.base + r.bytes)

/-- A layer record of 64 bytes; empty where there is none. -/
def Folio.layer (f : Folio) (i : Nat) : List Byte :=
  match f.sec 9 0 with
  | some x => if i < x.count then x.entry 64 i else []
  | none => []

/-- Number of layers. -/
def Folio.layerCount (f : Folio) : Nat := f.count 9 0

/-- The partner record, none in a section of COUNT 0: partner role, ward role, SHADOW_BASE, SHADOW_BYTES (Table 5.12). -/
def Folio.partner (f : Folio) : Option (Nat × Nat × Nat × Nat) :=
  match f.sec 0x0A 0 with
  | some x => if x.count = 0 then none else some (fld x.bytes 0 2, fld x.bytes 2 2, fld x.bytes 8 8, fld x.bytes 0x10 8)
  | none => none

/-- Shard regions with their image offsets: CORRECT, neither REMOTE_IN nor SHADOW, by ascending BASE; the state block at
offset 0 (R372). -/
def Folio.shard (f : Folio) : List (Nat × Nat × Nat) :=
  let rs := (f.regions.filter fun r => !r.detect && !r.remoteIn && !r.shadow).mergeSort fun a b => decide (a.base ≤ b.base)
  (rs.foldl (fun (acc : List (Nat × Nat × Nat) × Nat) r => (acc.1 ++ [(r.base, r.bytes, acc.2)], acc.2 + r.bytes))
    ([(stateBlock, stateBlockBytes, 0)], stateBlockBytes)).1

/-- Image length of a shard. -/
def shardLen (m : List (Nat × Nat × Nat)) : Nat := (m.map fun p => p.2.1).sum

/-! ## Routes (Tables 10.8 to 10.12) -/

/-- Role table entry of a bank. -/
def bankRole (b : List Byte) (r : Nat) : Nat := fld b (8 * r) 8

/-- Group table entry of a bank. -/
def bankGroup (b : List Byte) (g : Nat) : Nat := fld b (0x4000 + 8 * g) 8

/-- Role directory entry of a bank, 16 bytes. -/
def bankDir (b : List Byte) (r : Nat) : List Byte := slice b (0x4800 + 16 * r) 16

end Sys2Proof.Machine
end

