-- ==== Sys2Proof/Machine/Fabric.lean ====
section
/-! DEFINITION. Sending on the Quill fabric: routes, channels, credits, go-back-N, the copy-ride budget (chapter 10). -/
namespace Sys2Proof.Machine

/-! ## Frame types (Table 10.5) -/

abbrev qWrite : Nat := 1
abbrev qAdd : Nat := 2
abbrev qMcast : Nat := 3
abbrev qClose : Nat := 4
abbrev qReport : Nat := 5
abbrev qAck : Nat := 6
abbrev qRide : Nat := 7
abbrev qReadReq : Nat := 8
abbrev qReadResp : Nat := 9

/-- Is a frame of the type sequenced (Table 10.5)? -/
def qSequenced (t : Nat) : Bool := t != qAck && decide (1 ≤ t ∧ t ≤ 9)

/-! ## Ports and channels -/

/-- Instance of an event on a Quill port. -/
def portInst (p : Nat) : Inst := { port := some p }

/-- Is the link of a port up? -/
def State.portUp (s : State) (p : Nat) : Bool := s.on (QPT_STATUS_LINK_UP p)

/-- Switched topology (QFB_CTRL.TOPOLOGY)? -/
def State.switched (s : State) : Bool := s.on QFB_CTRL_TOPOLOGY

/-- The fabric changed. -/
def State.mapQuill (s : State) (f : Quill → Quill) : State := { s with quill := f s.quill }

/-- A port's own state changed. -/
def State.onPort (s : State) (p : Nat) (f : QPort → QPort) : State :=
  s.mapQuill fun q => { q with ports := modifyAt q.ports p f }

/-- A port's own state. -/
def State.qport (s : State) (p : Nat) : QPort := s.quill.ports.getD p .reset

/-- The channel of a port to a peer; in a torus a port has one channel (R343). -/
def State.chan (s : State) (p peer : Nat) : Option Chan :=
  s.quill.chans.find? fun c => c.port == p && (!s.switched || c.peer == peer)

/-- A channel replaced. -/
def State.setChan (s : State) (c : Chan) : State :=
  s.mapQuill fun q => { q with chans := q.chans.map fun x => if x.port = c.port ∧ x.peer = c.peer then c else x }

/-- Channels of a port to roles: those that R343 counts. -/
def State.roleChans (s : State) (p : Nat) : List Chan := s.quill.chans.filter fun c => c.port == p && decide (c.peer < 2048)

/-- QPTp_STATUS.CHANNELS follows the channels. -/
def State.noteChans (s : State) (p : Nat) : State := s.put (QPT_STATUS_CHANNELS p) (s.roleChans p).length

/-! In switched topology a frame to a group address reaches every member at once, so the channels of R343, which join two
modules, do not carry it. The spec gives it an LSEQ, credits and retry all the same (Table 10.5, R344, R345). The model gives a
group a channel of its own at the source of its frames, with an LSEQ that counts them, and one at each member for each source
(DESIGN CHOICE, log 13). -/

/-- The peer of a source's channel to a group. -/
def groupPeer (g : Nat) : Nat := 2048 + g

/-- The peer of a member's channel from a source to a group. -/
def memberPeer (g role : Nat) : Nat := 4096 + 2048 * g + role

/-- Does a channel lead to a group? -/
def Chan.toGroup (c : Chan) : Bool := decide (2048 ≤ c.peer ∧ c.peer < 4096)

/-- Slots that a frame takes (R344). -/
def TxFrame.slots (f : TxFrame) : Nat := f.h.lines + 1

/-- Bytes of a frame in the retry buffer. -/
def TxFrame.bytes (f : TxFrame) : Nat := 32 + 128 * f.h.lines

/-- Place of a frame in transmit arbitration: RIDE frames come last, and MAP and COPY frames, which the budget holds back, after
the other RIDE frames (R362, R383). -/
def TxFrame.rank (f : TxFrame) : Nat :=
  if f.qtype ≠ qRide then 0 else if f.h.dstTid = 0xFF01 ∨ f.h.dstTid = 0xFF02 then 2 else 1

/-- Bytes that a port's retry buffer holds (R345). -/
def State.retryBytes (s : State) (p : Nat) : Nat :=
  ((s.quill.chans.filter fun c => c.port == p).map fun c => (c.unacked.map TxFrame.bytes).sum).sum

/-- Credits of a channel on a frame's virtual channel. -/
def Chan.credits (c : Chan) (vc : Bool) : Nat := if vc then c.credit1 else c.credit0

/-- Allotment of a channel on a virtual channel. -/
def Chan.allot (c : Chan) (vc : Bool) : Nat := if vc then c.allot1 else c.allot0

/-- Bytes of a frame of some lines on the wire, from the destination address to the FCS (Table 10.3). -/
def State.wireBytes (s : State) (lines : Nat) : Nat := (if s.switched then 54 else 50) + 128 * lines

/-- May a port send now: link up, fabric enabled, no PFC pause (R339, Table 10.17)? -/
def State.portFree (s : State) (p : Nat) : Bool :=
  s.portUp p && s.on QFB_CTRL_ENABLE && decide ((s.qport p).pausedUntil ≤ s.time)

/-- Room for `n` more MAP and COPY bytes on a port within the budget, once it has sent job frames (R362). -/
def State.rideRoom (s : State) (p n : Nat) : Bool :=
  let x := s.qport p
  x.jobSent && decide ((x.rideBytes + n) * 1000 ≤ s.get QFB_RIDE_BUDGET * (x.allBytes + n))

/-- Does the copy-ride budget count a frame: a MAP or COPY frame of this module's own to its partner role (R362)? Those of other
owners that the module forwards have their own owner's budget behind them. -/
def State.budgeted (s : State) (f : TxFrame) : Bool := f.rank == 2 && f.h.srcRole == s.get QFB_ROLE_ROLE

/-- May a frame leave on a channel now: a free port, credits, room in the retry buffer, room in the copy-ride budget (R344, R345,
R362)? -/
def State.maySend (s : State) (c : Chan) (f : TxFrame) : Bool :=
  s.portFree c.port && decide (f.slots ≤ c.credits f.h.vc) && decide (s.retryBytes c.port + f.bytes ≤ 2097152)
    && (!s.budgeted f || s.rideRoom c.port (s.wireBytes f.h.lines))

/-- Is the retry buffer of a port full: has it no room left, or none for a frame that waits (R345)? -/
def State.retryFull (s : State) (p : Nat) : Bool :=
  let n := s.retryBytes p
  decide (2097152 ≤ n) || s.quill.chans.any fun c => c.port == p && c.waiting.any fun f => decide (2097152 < n + f.bytes)

/-- QPTp_STATUS.RETRY_FULL follows the retry buffer, and Q_RETRY_BUF_FULL counts each time that it fills (R345). -/
def State.noteRetry (s : State) (p : Nat) : State :=
  let full := s.retryFull p
  let s := if full && !s.on (QPT_STATUS_RETRY_FULL p) then s.countAt 0xB7 (portInst p) 1 else s
  s.put (QPT_STATUS_RETRY_FULL p) (b2n full)

/-- A frame of some lines given to a port: it leaves at once, or in its turn after a pause or a retrain (R339, Table 10.6). -/
def State.sendPort (s : State) (p lines : Nat) (o : Out) : State :=
  let s := s.onPort p fun x => { x with allBytes := x.allBytes + s.wireBytes lines }
  if s.portFree p && (s.qport p).stalled.isEmpty then s.send o
  else s.onPort p fun x => { x with stalled := x.stalled ++ [o] }

/-- The Ethernet header of a frame on a channel (R340). -/
def State.ether (s : State) (p mac : Nat) : Ether :=
  { dst := mac, src := s.flash.config.quillMac + p,
    tag := if s.switched then some (s.get QFB_SWITCHED_PFC_PRIO, s.get QFB_SWITCHED_VLAN_ID) else none,
    etype := s.get QFB_CTRL_ETHERTYPE }

/-- What a port has sent in the step for the copy-ride budget: job frames, and the bytes of MAP and COPY frames (R362, R383). -/
def State.countBytes (s : State) (p : Nat) (f : TxFrame) : State :=
  s.onPort p fun x =>
    if f.rank = 0 then { x with jobSent := true }
    else if s.budgeted f then { x with rideBytes := x.rideBytes + s.wireBytes f.h.lines } else x

/-- Members of the group of a channel that must acknowledge its frames: all but the source (R351, log 13). -/
def State.groupNeed (s : State) (c : Chan) : Nat :=
  let e := bankGroup (if s.get QFB_ROUTE_STATUS_ACTIVE_BANK = 0 then s.quill.bank0 else s.quill.bank1) (c.peer - 2048)
  bits e 43 32 - b2n (bit e 31)

/-- A frame put on the wire of a channel: LSEQ, credits, retry buffer (R343 to R345). -/
def State.wire (s : State) (c : Chan) (f : TxFrame) : State :=
  let h := { f.h with lseq := c.txNext, lack := c.rxNext }
  let f := { f with h := h, sentAt := s.time }
  let c := { c with txNext := (c.txNext + 1) % 2 ^ 32 }
  let c := if c.toGroup && s.groupNeed c == 0 then c
    else if h.vc then { c with unacked := c.unacked ++ [f], credit1 := c.credit1 - f.slots }
    else { c with unacked := c.unacked ++ [f], credit0 := c.credit0 - f.slots }
  let s := (s.setChan c).sendPort c.port h.lines (.quill c.port (s.ether c.port c.mac) f.qtype h f.payload)
  let s := (s.countAt 0xA0 (portInst c.port) 1).countAt 0xA2 (portInst c.port) h.lines
  let s := if f.qtype = qRide then s.countAt 0xB2 (portInst c.port) h.lines else s
  (s.countBytes c.port f).noteRetry c.port

/-- Does a frame wait for credits on a port (Table 9.3: Q_CREDIT_STALL)? -/
def State.creditStalled (s : State) (p : Nat) : Bool :=
  s.quill.chans.any fun c => c.port == p && c.waiting.any fun f => decide (c.credits f.h.vc < f.slots)

/-- Q_CREDIT_STALL counts as a port begins to wait for credits, `was` telling whether it did before (R327). -/
def State.noteStall (s : State) (p : Nat) (was : Bool) : State :=
  if !was && s.creditStalled p then s.countAt 0xA6 (portInst p) 1 else s

/-- A frame offered to a channel: sent, or queued behind the frames of its virtual channel that wait and do not come after it in
arbitration. -/
def State.queueFrame (s : State) (p peer : Nat) (f : TxFrame) : State :=
  match s.chan p peer with
  | none => s
  | some c =>
    if !(c.waiting.any fun w => w.h.vc == f.h.vc && decide (w.rank ≤ f.rank)) && s.maySend c f then s.wire c f
    else (s.setChan { c with waiting := c.waiting ++ [f] }).noteRetry p

/-- A new frame offered to a channel. -/
def State.offer (s : State) (p peer : Nat) (f : TxFrame) : State := (s.queueFrame p peer f).noteStall p (s.creditStalled p)

/-- The frames that wait on a channel, offered again in the order of arbitration (R362). -/
def State.pumpChan (s : State) (p peer : Nat) : State :=
  match s.chan p peer with
  | none => s
  | some c =>
    let of := fun (k : Nat) => c.waiting.filter fun f => f.rank == k
    ((of 0 ++ of 1 ++ of 2).foldl (fun s f => s.queueFrame p peer f) (s.setChan { c with waiting := [] })).noteStall p (s.creditStalled p)

/-- Every channel of a port pumped. -/
def State.pumpPort (s : State) (p : Nat) : State :=
  (s.quill.chans.filter fun c => c.port == p).foldl (fun s c => s.pumpChan p c.peer) s

/-- What waited on a port for the end of a pause or of a retrain leaves, then the frames that wait on its channels (R339). -/
def State.releasePort (s : State) (p : Nat) : State :=
  if s.portFree p then
    let os := (s.qport p).stalled
    (os.foldl State.send (s.onPort p fun x => { x with stalled := [] })).pumpPort p
  else s

/-! ## Routes (R358, R359) -/

/-- The bank that routes a frame of a step. -/
def State.bankNo (s : State) (step : Nat) : Nat :=
  let act := s.get QFB_ROUTE_STATUS_ACTIVE_BANK
  if s.on QFB_ROUTE_STATUS_ARMED && decide (s.get QFB_ROUTE_ARM_ARM_STEP ≤ step) then 1 - act
  else if s.get QFB_ROUTE_FROM_FROM_STEP ≤ step then act else 1 - act

/-- A route bank. -/
def State.bank (s : State) (b : Nat) : List Byte := if b = 0 then s.quill.bank0 else s.quill.bank1

/-- The bank in force. -/
def State.bankNow (s : State) : List Byte := s.bank (s.get QFB_ROUTE_STATUS_ACTIVE_BANK)

/-- Slots of a received frame freed for its sender (R344). -/
def State.freeSlots (s : State) (p peer : Nat) (vc : Bool) (n : Nat) : State :=
  match s.chan p peer with
  | none => s
  | some c =>
    let c := if vc then { c with free1 := c.free1 + n } else { c with free0 := c.free0 + n }
    s.setChan { c with ackDue := some (match c.ackDue with | some t => t | none => s.time) }

/-- The peer of the channel that a received frame belongs to: the source's to its group where it came to a group address
(log 13). -/
def rxPeer (fr : QFrame) : Nat := if fr.group then memberPeer fr.h.dst fr.h.srcRole else fr.peer

/-- The frames that wait in the receive buffer for a later step discarded, their slots freed (R344, R353). -/
def State.dropHeld (s : State) : State :=
  (s.quill.held.foldl (fun s x => s.freeSlots x.2.2.port (rxPeer x.2.2) x.2.2.h.vc (x.2.2.h.lines + 1)) s).mapQuill fun q => { q with held := [] }

/-- The exact adds that wait discarded; the frames that they come from free their slots (R264, R344). -/
def State.dropWaiting (s : State) : State :=
  let s := (s.sbd.waiting.map WaitAdd.src).dedup.foldl (fun (s : State) src =>
    match src with | .frame p peer vc _ n => s.freeSlots p peer vc n | _ => s) s
  { s with sbd := { s.sbd with waiting := [] } }

/-- The frames of this module's messages that have not left taken out of the transmit queues: a void step's replay sends its
messages anew, and only what is on the wire is left to the link (Table 10.7). -/
def State.dropQueued (s : State) : State :=
  let gone := fun (f : TxFrame) => (decide (f.qtype ≤ qClose) || f.qtype == qReport) && f.h.srcRole == s.get QFB_ROLE_ROLE
  s.mapQuill fun q => { q with chans := q.chans.map (fun c => { c with waiting := c.waiting.filter fun f => !gone f }),
                               handover := q.handover.map fun x => (x.1, x.2.1, x.2.2.1, x.2.2.2.filter fun f => !gone f) }

/-- Ports of a mask, ascending. -/
def portsOf (mask : Nat) : List Nat := (List.range 24).filter fun p => bit mask p

/-- VC_MODE applied (Table 10.10). -/
def vcMode (mode : Nat) (vc : Bool) : Bool := if mode = 1 then true else if mode = 2 then false else vc

/-- Peer of a route entry: NEXT_ROLE in switched topology (R343). -/
def State.peerOf (s : State) (entry : Nat) : Nat := if s.switched then bits entry 42 32 else 0

/-- One of a list of ports, drawn freely: R349 leaves the distribution open (log 3). -/
def State.pickPort (s : State) (ps : List Nat) : State × Option Nat :=
  match ps with
  | [] => (s, none)
  | [p] => (s, some p)
  | ps => ({ s with free := s.free + 1 }, ps[Config.freeNat s.free % ps.length]?)

/-- Ports of a mask that may take a frame for a peer: those that are up, or, where none is, those that train again and
keep their channel (Table 10.6). -/
def State.usable (s : State) (mask peer : Nat) : List Nat :=
  let ps := (portsOf mask).filter fun p => (s.chan p peer).isSome
  let up := ps.filter fun p => s.portUp p
  if up.isEmpty then ps else up

/-- A frame for a role sent on one of the ports of its entry (R358). With no channel left it is lost, as with a bundle
(R347). -/
def State.routeRole (s : State) (qtype : Nat) (h : QHdr) (pl : List Byte) : State :=
  let e := bankRole (s.bank (s.bankNo h.step)) h.dst
  if !bit e 63 then s.put QFB_STATUS_UNROUTABLE 1
  else
    let peer := s.peerOf e
    let (s, p) := s.pickPort (s.usable (bits e 23 0) peer)
    match p with
    | some p => s.offer p peer { qtype := qtype, h := { h with vc := vcMode (bits e 25 24) h.vc }, payload := pl, sentAt := 0 }
    | none => s

/-- Group address of R358 as a 48-bit integer. -/
def groupMac (g : Nat) : Nat := 0x030000000100 + g

/-- Next-hop roles that a bank names through a port. -/
def nextHops (b : List Byte) (p : Nat) : List Nat :=
  (List.range 2048).filterMap fun r =>
    let e := bankRole b r
    if bit e 63 && !bit e 31 && bit e p then some (bits e 42 32) else none

/-- Next-hop roles through a port in switched topology, of both banks. -/
def State.nextHops (s : State) (p : Nat) : List Nat :=
  (Machine.nextHops s.quill.bank0 p ++ Machine.nextHops s.quill.bank1 p).dedup

/-- Groups whose frames a port carries in switched topology, of both banks. -/
def State.groupsOf (s : State) (p : Nat) : List Nat :=
  (List.range 512).filter fun g => [s.quill.bank0, s.quill.bank1].any fun b => bit (bankGroup b g) 63 && bit (bankGroup b g) p

/-- Slots of each virtual channel of one of a port's channels (R344). A group that the port carries counts as one more channel
(log 13). -/
def State.slotShare (s : State) (p : Nat) : Nat :=
  if s.switched then 8192 / (2 * max 1 ((s.nextHops p).length + (s.groupsOf p).length)) else 4096

/-- Slots of each virtual channel for one source of a group: the group's share divided among the members that may send to it, so
that all of them together keep within the buffer (R344, R361, log 13). -/
def State.groupShare (s : State) (p g : Nat) : Nat := max 2 (s.slotShare p / max 1 (bits (bankGroup s.bankNow g) 43 32 - 1))

/-- A channel as it opens, with a credit allotment for each virtual channel (R343, R344). -/
def freshChan (p peer mac c0 c1 : Nat) : Chan :=
  { port := p, peer := peer, mac := mac, members := [], freed0 := 0, freed1 := 0, txNext := 0, rxNext := 0, credit0 := c0,
    credit1 := c1, allot0 := c0, allot1 := c1, unacked := [], waiting := [], nakSent := false, sinceAck := 0,
    free0 := 0, free1 := 0, ackDue := none, said := true, heard := true }

/-- The channel of a group opened where none is open (log 13). -/
def State.openGroup (s : State) (p peer mac g : Nat) : State :=
  if (s.chan p peer).isSome then s
  else s.mapQuill fun q => { q with chans := q.chans ++ [freshChan p peer mac (s.groupShare p g) (s.groupShare p g)] }

/-- A multicast frame sent: in a torus on every port of the group's tree but the one it arrived on, in switched topology
once on each plane, to the group address (R358). -/
def State.routeGroup (s : State) (arrival : Option Nat) (qtype : Nat) (h : QHdr) (pl : List Byte) : State :=
  let e := bankGroup (s.bank (s.bankNo h.step)) h.dst
  if !bit e 63 then s.put QFB_STATUS_UNROUTABLE 1
  else
    let f : TxFrame := { qtype := qtype, h := { h with vc := vcMode (bits e 25 24) h.vc }, payload := pl, sentAt := 0 }
    let ps := (portsOf (bits e 23 0)).filter fun p => !(arrival == some p)
    if !s.switched then ps.foldl (fun s p => s.offer p 0 f) s
    else if arrival.isSome then s
    else
      let g := groupPeer h.dst
      (ps.filter fun p => s.portUp p || (s.chan p g).isSome).foldl (fun s p => (s.openGroup p g (groupMac h.dst) h.dst).offer p g f) s

/-- A header of this module's own frames. -/
def State.hdr (s : State) (dst lines : Nat) : QHdr :=
  { qver := 1, fabric := false, signal := false, nak := false, vc := false, poison := false, rsvClear := true,
    srcRole := s.get QFB_ROLE_ROLE, srcList := 0, dst := dst, lines := lines, fmt := 0, lseq := 0, lack := 0,
    step := s.step, mseq := 0, dstTid := 0, arg := 0 }

/-- The role at the other end of a channel (R343): the partner's in a torus, the source's on a member's channel of a group. -/
def State.peerRole (s : State) (c : Chan) : Nat := if s.switched then c.peer % 2048 else s.get (QPT_PARTNER_ROLE c.port)

/-- An ACK frame of a channel sent with the credits freed since the last one. -/
def State.sendAck (s : State) (c : Chan) (nak : Bool) : State :=
  let h := { s.hdr (s.peerRole c) 0 with nak := nak, lack := c.rxNext, lseq := 0, arg := c.free0 + 65536 * c.free1 }
  let s := s.setChan { c with sinceAck := 0, free0 := 0, free1 := 0, ackDue := none, nakSent := c.nakSent || nak }
  s.sendPort c.port 0 (.quill c.port (s.ether c.port c.mac) qAck h [])

/-- Next MSEQ of a stream, modulo 2^32 (Table 10.4): list, destination, group; the RIDE stream has list 8 here (R348, R383). -/
def State.takeMseq (s : State) (list dst : Nat) (group : Bool) : State × Nat :=
  let key := fun (x : Nat × Nat × Bool × Nat) => x.1 == list && x.2.1 == dst && x.2.2.1 == group
  let n := match s.quill.streams.find? key with | some x => x.2.2.2 | none => 0
  (s.mapQuill fun q => { q with streams := (list, dst, group, (n + 1) % 2 ^ 32) :: q.streams.filter fun x => !key x }, n)

/-- Pieces of a run of lines that a frame may carry: unmarked lines together, up to `n`, a marked line alone (R341). Each
piece is its first index, its data, and whether it is marked. -/
def linePieces (n : Nat) : Nat → List (List Byte × Bool) → List (Nat × List (List Byte) × Bool)
  | _, [] => []
  | i, (d, true) :: r => (i, [d], true) :: linePieces n (i + 1) r
  | i, (d, false) :: r =>
    match linePieces n (i + 1) r with
    | (j, ds, false) :: ps => if ds.length < n ∧ j = i + 1 then (i, d :: ds, false) :: ps else (i, [d], false) :: (j, ds, false) :: ps
    | ps => (i, [d], false) :: ps

/-- Lines per frame on a channel: min(32, c − 1) (R349). -/
def Chan.frameLines (c : Chan) (vc : Bool) : Nat := min 32 (c.allot vc - 1)

/-- Lines per frame to a role: the least over the channels that its entry names. -/
def State.frameLines (s : State) (entry : Nat) : Nat :=
  (portsOf (bits entry 23 0)).foldl (fun n p =>
    match s.chan p (s.peerOf entry) with | some c => min n (c.frameLines (vcMode (bits entry 25 24) false)) | none => n) 32

/-! ## RIDE frames (R362, R382, R383) -/

/-- One RIDE frame to a role: kind of Table 11.5, ARG, lines. -/
def State.rideTo (s : State) (role kind arg : Nat) (pl : List Byte) (marked : Bool) : State :=
  let n := pl.length / 128
  let (s, m) := s.takeMseq 8 role false
  let h := { s.hdr role n with dstTid := kind, arg := arg, poison := marked, mseq := m }
  s.routeRole qRide h pl

/-- Roles that follow this module's shard: the partner, and a second partner (R383, R396). -/
def State.followers (s : State) : List Nat :=
  (match s.folio with
    | some f => (match f.partner with | some (r, _) => [r] | none => [])
    | none => []) ++ (match s.svl.partner2 with | some r => [r] | none => [])

/-- A RIDE frame to every follower. -/
def State.ride (s : State) (kind arg : Nat) (pl : List Byte) (marked : Bool) : State :=
  s.followers.foldl (fun s r => s.rideTo r kind arg pl marked) s

/-- May a MAP or COPY frame of `n` lines leave for every follower: on some port of each one's entry, within the budget and with
none waiting there (R362, R396)? -/
def State.rideOpen (s : State) (n : Nat) : Bool :=
  let free := fun (r : Nat) =>
    let e := bankRole (s.bank (s.bankNo s.step)) r
    (portsOf (bits e 23 0)).any fun p =>
      s.portUp p && (match s.chan p (s.peerOf e) with | some c => c.waiting.all fun f => !s.budgeted f | none => false)
        && s.rideRoom p (s.wireBytes n * s.followers.length)
  !s.followers.isEmpty && s.followers.all free

/-- Echoes of the writes since the last command sent to the followers in write order (R385, R388). -/
def State.flushEchoes (s : State) : State :=
  if s.svl.echoes.isEmpty then s
  else
    let es := s.svl.echoes
    let s := { s with svl := { s.svl with echoes := [], echoCount := s.svl.echoCount + es.length } }
    es.foldl (fun s e => s.ride 0xFF03 e.line (if e.marked then zeroLine else e.data) e.marked) s

end Sys2Proof.Machine
end

