-- ==== Sys2Proof/Machine/Survive.lean ====
section
/-! DEFINITION. The owner's side of survival: the shard image and its digest, ranges, the copy to the partner, MARK and
PAIR frames (R372 to R376, R383 to R389, R392, R393). -/
namespace Sys2Proof.Machine

/-! ## Digest of the shard image (R374, R422) -/

/-- Leaves of R374: the hash of each MiB, `i` counting from 0; `n` bounds the number. -/
def hashLeaves : Nat → Nat → List Byte → List (List Byte)
  | 0, _, _ => []
  | n + 1, i, bs =>
    if bs.isEmpty then []
    else shake256 (0x00 :: le 8 i ++ bs.take 1048576) 32 :: hashLeaves n (i + 1) (bs.drop 1048576)

/-- One level of the tree: neighbours joined, an odd last one kept. -/
def hashPairs : List (List Byte) → List (List Byte)
  | a :: b :: r => shake256 (0x01 :: a ++ b) 32 :: hashPairs r
  | r => r

/-- The tree root above a list of hashes; `n` bounds the levels. -/
def hashTree : Nat → List (List Byte) → List Byte
  | 0, hs => hs.headD (zeros 32)
  | n + 1, hs => if hs.length ≤ 1 then hs.headD (zeros 32) else hashTree n (hashPairs hs)

/-- Tree root of R374, before its final hash. -/
def treeRoot (bs : List Byte) : List Byte := hashTree 64 (hashLeaves (bs.length / 1048576 + 1) 0 bs)

/-- range_digest of R422. -/
def rangeDigest (base : Nat) (bs : List Byte) : List Byte :=
  shake256 (0x03 :: le 8 base ++ le 8 bs.length ++ treeRoot bs) 32

/-- shard_digest of R374 from the hashes of the leaves. -/
def shardRoot (len step : Nat) (hs : List (List Byte)) : List Byte :=
  shake256 (0x02 :: le 8 len ++ le 4 step ++ hashTree 64 hs) 32

/-- Leaves of an image of some length. -/
def leavesOf (len : Nat) : Nat := ceilDiv len 1048576

/-- A leaf's bytes read line by line in address order, and its hash (R295, R374): marked lines read as zeros. `place` gives
the local address of an image offset. -/
def State.hashLeaf (s : State) (place : Nat → Option Nat) (len i : Nat) : State × List Byte :=
  let n := min 1048576 (len - 1048576 * i) / 128
  let r := (List.range n).foldl (fun (acc : State × List Byte) j =>
    match place (1048576 * i + 128 * j) with
    | some a =>
      let (s, o, d) := acc.1.lineRead a false false
      (s, acc.2 ++ (if o.marked then zeroLine else d))
    | none => (acc.1, acc.2 ++ zeroLine)) (s, [])
  (r.1, shake256 (0x00 :: le 8 i ++ r.2) 32)

/-- The lines of a digest area that hold the hashes of a level from an address on, four to a line (log 69). -/
def hashLines (hs : List (List Byte)) : List (List Byte) :=
  let bs := hs.flatten
  (List.range (ceilDiv hs.length 4)).map fun j => fit 128 (slice bs (128 * j) 128)

/-- Lines of hashes from an address on, those that memory does not hold yet written. -/
def State.writeLevel (s : State) (base : Nat) (ls : List (List Byte)) : State :=
  ls.zipIdx.foldl (fun (s : State) x =>
    if s.peekLine (base + 128 * x.2) = x.1 && !s.peekMarked (base + 128 * x.2) then s else s.lineWrite (base + 128 * x.2) x.1 false) s

/-- A level of hashes written, and the levels above it, each on lines of its own behind the one below (R212, log 69); `n`
bounds the levels. -/
def State.writeLevels (s : State) : Nat → Nat → List (List Byte) → State
  | 0, _, _ => s
  | n + 1, base, hs =>
    let ls := hashLines hs
    let s := s.writeLevel base ls
    if hs.length ≤ 1 then s else s.writeLevels n (base + 128 * ls.length) (hashPairs hs)

/-- The leaf hashes that a digest area keeps, with the mask of its lines that read marked. -/
def State.keptHashes (s : State) (base m : Nat) : State × List (List Byte) × Nat :=
  let (s, bs, bad) := s.readRange base (32 * m) false
  (s, (List.range m).map fun i => slice bs (32 * i) 32, bad)

/-- The `m` leaf hashes of an image of `len` bytes: the leaves that are due, or whose kept hash reads marked, are hashed, each
counted as DIGEST_LEAF; every other one keeps its earlier hash (R295, R375, R390). -/
def State.hashDue (s : State) (base : Nat) (place : Nat → Option Nat) (len m : Nat) (due : Nat → Bool) : State × List (List Byte) :=
  let r := s.keptHashes base m
  r.2.1.zipIdx.foldl (fun (acc : State × List (List Byte)) x =>
    if due x.2 || bit r.2.2 (x.2 / 4) then
      let q := acc.1.hashLeaf place len x.2
      (q.1.count 0x8C, acc.2 ++ [q.2])
    else (acc.1, acc.2 ++ [x.1])) (r.1, [])

/-- The digest of an image of `len` bytes (R374); all its hashes go to the digest area at `base` (R212). -/
def State.digestImage (s : State) (base : Nat) (place : Nat → Option Nat) (len step : Nat) (due : Nat → Bool) : State × List Byte :=
  let r := s.hashDue base place len (leavesOf len) due
  (r.1.writeLevels 64 base r.2, shardRoot len step r.2)

/-- The digest of the module's own image (R375); no leaf is due after it. -/
def State.ownDigest (s : State) : State × List Byte :=
  let due := fun (i : Nat) => match s.svl.due with | some ds => ds.contains i | none => true
  let (s, step, _) := s.readRange stateBlock 4 false
  let (s, d) := s.digestImage digestBase (shardAddr s.svl.shard) s.svl.imageLen (leNat step) due
  ({ s with svl := { s.svl with due := some [] } }, d)

/-- Eight digest registers from a base address. -/
def State.setDigestRegs (s : State) (base : Nat) (d : List Byte) : State :=
  (List.range 8).foldl (fun s w => s.setReg (base + 4 * w) (fld d (4 * w) 4)) s

/-! ## Ranges (R384) -/

/-- Tensors that a layer record names as state (R384). -/
def stateTids (l : List Byte) : List Nat :=
  [fld l 0x08 2, fld l 0x0A 2, fld l 0x0C 2, fld l 0x0E 2, fld l 0x12 2, fld l 0x30 2, fld l 0x32 2, fld l 0x34 2, fld l 0x36 2]

/-- Image lines of a stretch of local memory: first line and count. -/
def imageLines (m : List (Nat × Nat × Nat)) (a n : Nat) : List (Nat × Nat) :=
  if n = 0 then [] else
  match shardOffset m a with
  | some o => [(o / 128, (o + n - 1) / 128 + 1 - o / 128)]
  | none => []

/-- A stretch without the lines of another. -/
def cutOne (x c : Nat × Nat) : List (Nat × Nat) :=
  [(x.1, min (x.1 + x.2) c.1 - x.1), (max x.1 (c.1 + c.2), x.1 + x.2 - max x.1 (c.1 + c.2))].filter fun p => p.2 != 0

/-- A stretch without the lines of a list of stretches. -/
def cutAll (x : Nat × Nat) (cs : List (Nat × Nat)) : List (Nat × Nat) :=
  cs.foldl (fun xs c => xs.flatMap fun y => if c.1 < y.1 + y.2 ∧ y.1 < c.1 + c.2 then cutOne y c else [y]) [x]

/-- Stretches of a layer's state tensors, elements and scales, that lie in the shard. -/
def layerLines (f : Folio) (m : List (Nat × Nat × Nat)) (l : List Byte) : List (Nat × Nat) :=
  (stateTids l).flatMap fun tid =>
    match f.tensor tid with
    | some t => if t.space = 0 then imageLines m t.elemBase t.elemBytes ++ imageLines m t.scaleBase t.scaleBytes else []
    | none => []

/-- Stretches added one by one, each without the lines that an earlier one holds. -/
def addStretches (cover new : List (Nat × Nat)) : List (Nat × Nat) × List (Nat × Nat) :=
  new.foldl (fun (acc : List (Nat × Nat) × List (Nat × Nat)) x =>
    let ys := cutAll x acc.1
    (acc.1 ++ ys, acc.2 ++ ys)) (cover, [])

/-- A stretch in pieces of at most 256 MiB; `n` bounds their number. -/
def pieces256 : Nat → Nat × Nat → List (Nat × Nat)
  | 0, _ => []
  | n + 1, (lo, k) =>
    if k = 0 then [] else if k ≤ 2097152 then [(lo, k)] else (lo, 2097152) :: pieces256 n (lo + 2097152, k - 2097152)

/-- The ranges of a folio's shard in copy order (R384): the state block, one per layer with a rule, then the rest. -/
def shardRanges (f : Folio) : List Rng :=
  let m := f.shard
  let len := shardLen m / 128
  let first : Rng := ⟨none, [(0, stateBlockBytes / 128)], .unsent, none⟩
  let layers := (List.range f.layerCount).filter fun i => fld (f.layer i) 2 1 != 0xFF
  let r := layers.foldl (fun (acc : List (Nat × Nat) × List Rng) i =>
    let (cover, mine) := addStretches acc.1 (layerLines f m (f.layer i))
    (cover, acc.2 ++ [⟨some i, mine, .unsent, none⟩])) ([(0, stateBlockBytes / 128)], [])
  let rest := (cutAll (0, len) r.1).flatMap fun x => pieces256 (x.2 / 2097152 + 1) x
  first :: r.2 ++ rest.map fun x => ⟨none, [x], .unsent, none⟩

/-- Lines of a range. -/
def Rng.size (r : Rng) : Nat := (r.lines.map Prod.snd).sum

/-- The image line at position `n` of a range, with how many lines follow it without a break. -/
def Rng.lineAt (r : Rng) (n : Nat) : Option (Nat × Nat) :=
  go r.lines n
where
  go : List (Nat × Nat) → Nat → Option (Nat × Nat)
    | [], _ => none
    | (lo, k) :: rest, n => if n < k then some (lo + n, k - n) else go rest (n - k)

/-- The shard map that the partner gets first (R384): counts and entries of regions, layers, the tensors that the
layers name and the touched lists of the Nib list (log 106), and one Nib list. The spec gives the content, the packing is the
model's (log 12). -/
def shardMap (f : Folio) : List Byte :=
  let raw := fun (t e : Nat) => match f.sec t e with | some x => x.bytes | none => []
  let lists := ((List.range (f.listLen 0x40)).filterMap fun i => f.desc 0x40 i).map Desc.nTouched
  let tids := lists ++ ((List.range f.layerCount).flatMap fun i => fld (f.layer i) 0x10 2 :: stateTids (f.layer i))
  let ts := (f.entries 1 0 64).filter fun e => tids.contains (fld e 0 2)
  let body := le 4 (f.count 2 0) ++ raw 2 0 ++ le 4 f.layerCount ++ raw 9 0 ++ le 4 ts.length ++ ts.flatten
    ++ le 4 (f.count 6 0x40) ++ raw 6 0x40
  le 4 body.length ++ body ++ zeros (roundUp (body.length + 4) 128 - (body.length + 4))

/-! ## Registers that follow the ranges -/

/-- Has a range landed (R386)? -/
def Rng.landed (r : Rng) : Bool := r.state == .replay

/-- SVL_RANGES and OWN_FOLLOW follow the ranges: COMPLETE once every range has landed. -/
def State.noteRanges (s : State) : State :=
  let n := (s.svl.ranges.filter Rng.landed).length
  let s := (s.put SVL_RANGES_LANDED (min n 65535)).put SVL_RANGES_TOTAL (min s.svl.ranges.length 65535)
  if s.followed then
    s.put SVL_STATUS_OWN_FOLLOW (if n = s.svl.ranges.length ∧ n ≠ 0 then 2 else 1)
  else s

/-- The survival state changed. -/
def State.mapSvl (s : State) (f : Survival → Survival) : State := { s with svl := f s.svl }

/-- A follow of the own shard begins (R382, R384). -/
def State.startFollow (s : State) : State :=
  match s.folio with
  | some f =>
    if s.on SVL_CTRL_ENABLE && s.on SVL_CTRL_FOLLOW_EN && !s.followers.isEmpty then
      ((s.mapSvl fun v => { v with mapSent := 0, ranges := shardRanges f, echoes := [] }).put SVL_STATUS_OWN_FOLLOW 1).noteRanges
    else s
  | none => s

/-- The follow ends: OFF. -/
def State.stopFollow (s : State) : State :=
  ((s.mapSvl fun v => { v with ranges := [], mapSent := 0, echoes := [], sealFollow := none }).put SVL_STATUS_OWN_FOLLOW 0).noteRanges

/-- Ranges that a failed line held back are copied again from the next step on: the step has been replayed (R393). -/
def State.retryFailed (s : State) : State :=
  s.mapSvl fun v => { v with ranges := v.ranges.map fun r => if r.state == .failed then { r with state := .unsent } else r }

/-- Ranges that a void step `t` sends back to unsent (R386, R387): not landed, and copied or echoed in `t` or later. -/
def State.unsendFrom (s : State) (t : Nat) : State :=
  (s.mapSvl fun v => { v with ranges := v.ranges.map fun r =>
    if r.landed then r
    else match r.touched with
      | some k => if t ≤ k then { r with state := .unsent, touched := none } else r
      | none => r }).noteRanges

/-! ## Copying (R362, R385, R386) -/

/-- Lines of a RIDE frame that the channels to every follower can carry (R344, R349). -/
def State.rideLines (s : State) : Nat :=
  s.followers.foldl (fun n r => max 1 (min n (s.frameLines (bankRole (s.bank (s.bankNo s.step)) r)))) 32

/-- Next MAP frame: up to 32 lines of the shard map. -/
def State.sendMap (s : State) (f : Folio) : State :=
  let m := shardMap f
  let at' := s.svl.mapSent
  let n := min s.rideLines (m.length / 128 - at')
  (s.ride 0xFF01 at' (slice m (128 * at') (128 * n)) false).mapSvl fun v => { v with mapSent := at' + n }

/-- Range `i` changed. -/
def State.setRange (s : State) (i : Nat) (f : Rng → Rng) : State :=
  s.mapSvl fun v => { v with ranges := modifyAt v.ranges i f }

/-- A MARK frame: code of Table 11.5, 128 bytes. -/
def State.mark (s : State) (code : Nat) (pl : List Byte) : State := s.ride 0xFF05 code (fit 128 pl) false

/-- The next COPY frame of range `i` from position `n`: lines without a break, up to 32, a poisoned line alone. A LOST or
FAILED line sends MARK UNLAND, and the range is copied again once the step has been replayed (R393). A range that holds no line
of the shard needs no COPY and is sent at once (R384). -/
def State.sendCopy (s : State) (i n : Nat) (r : Rng) : State :=
  match r.lineAt n with
  | none => s.setRange i fun r => { r with state := .sent s.step }
  | some (l, k) =>
    let addrs := (List.range (min k 32)).filterMap fun j => shardAddr s.svl.shard (128 * (l + j))
    let rd := addrs.foldl (fun (acc : State × List (LineOutcome × List Byte)) a =>
      let (s, o, d) := acc.1.lineRead a true false
      (s, acc.2 ++ [(o, d)])) (s, [])
    let s := rd.1
    let width := s.rideLines
    if rd.2.any fun x => x.1 == .lost || x.1 == .failed then
      (s.setRange i fun r => { r with state := .failed, touched := none }).mark 5 (le 4 i)
    else
      let s := (linePieces width 0 (rd.2.map fun x => (x.2, x.1.marked))).foldl
        (fun s p => s.ride 0xFF02 (l + p.1) p.2.1.flatten p.2.2) s
      let done := n + addrs.length
      let st := if done = r.size then RangeState.sent s.step else .copying done
      (s.setRange i fun r => { r with state := st, touched := some s.step }).mapSvl fun v =>
        { v with copyCount := v.copyCount + addrs.length }

/-- The range to copy next, with its position. -/
def nextRange (rs : List Rng) : Option (Nat × Nat × Rng) :=
  go rs 0
where
  go : List Rng → Nat → Option (Nat × Nat × Rng)
    | [], _ => none
    | r :: rest, i =>
      match r.state with
      | .unsent => some (i, 0, r)
      | .copying n => some (i, n, r)
      | _ => go rest (i + 1)

/-- MAP and COPY frames sent while the budget is open (R362); `n` bounds their number. -/
def State.rideGo (f : Folio) : Nat → State → State
  | 0, s => s
  | n + 1, s =>
    if !s.rideOpen s.rideLines then s
    else if s.svl.mapSent < (shardMap f).length / 128 then State.rideGo f n (s.sendMap f)
    else match nextRange s.svl.ranges with
      | some (i, p, r) => State.rideGo f n (s.sendCopy i p r)
      | none => s

/-- The copy goes on as the budget allows, while the own follow is COPYING. -/
def State.rideMore (s : State) : State :=
  match s.folio with
  | some f =>
    if s.get SVL_STATUS_OWN_FOLLOW = 1 ∧ s.run.stepOn then State.rideGo f (s.svl.imageLen / 128 + (shardMap f).length) s else s
  | none => s

/-! ## MARK frames (R389) and PAIR (R376); their payload layouts are the model's (log 12) -/

/-- Which ranges of a window of 576 have landed, one bit each. -/
def landedBits (rs : List Rng) (w : Nat) : Nat :=
  (((rs.drop (576 * w)).take 576).zipIdx.filter fun r => r.1.landed).foldl (fun m r => m + 2 ^ r.2) 0

/-- Ranges that count as landed once the running step is confirmed: landed, or sent whole by the end of it. -/
def State.landing (s : State) : List Rng :=
  s.svl.ranges.map fun r => match r.state with | .sent b => if b ≤ s.step then { r with state := .replay } else r | _ => r

/-- MARK STEP_BEGIN. -/
def State.markBegin (s : State) : State := if s.followed then s.mark 1 (le 4 s.step) else s

/-- MARK LATCH (R304, R389). -/
def State.markLatch (s : State) (value : Nat) (stale : Bool) : State :=
  if s.followed then s.mark 2 (le 4 s.step ++ le 4 value ++ le 4 (b2n stale)) else s

/-- MARK STEP_END (R389): one frame for each window of 576 ranges, since a frame of one line holds no more (log 12); each says
which window it is and how many there are. -/
def State.markEnd (s : State) (digest : List Byte) : State :=
  if s.followed then
    let rs := s.landing
    let n := max 1 (ceilDiv rs.length 576)
    (List.range n).foldl (fun s w =>
      s.mark 3 (le 4 s.step ++ le 4 s.svl.copyCount ++ le 4 s.svl.echoCount ++ le 4 s.svl.inputCount ++ le 2 w ++ le 2 n ++ zeros 4
        ++ fit 32 digest ++ le 72 (landedBits rs w))) s
  else s

/-- MARK LEVEL (R382). -/
def State.markLevel (s : State) (level : Nat) : State :=
  if level = s.svl.levelSent then s else (s.mark 4 (le 4 level)).mapSvl fun v => { v with levelSent := level }

/-- The identity digest (R485). -/
def identityDigest (pub : List Byte) : List Byte := shake256 (0x04 :: pub) 32

/-- Does a tensor lie in the shard? -/
def inShard (f : Folio) (t : Tensor) : Bool := t.space == 0 && (shardOffset f.shard t.elemBase).isSome

/-- Tensors that a descriptor writes, whole (for R376). -/
def writtenTids (d : Desc) : List Nat :=
  match d.kind with
  | 0x10 | 0x11 | 0x12 | 0x13 => [d.tidC, d.tidStats]
  | 0x14 => [d.tidC, d.tidAux]
  | 0x15 => [d.tidC, d.tidAux]
  | 0x20 | 0x23 | 0x24 => [fld d 0x0A 2]
  | _ => []

/-- Stage length of R376. -/
def stageLen (f : Folio) : Nat :=
  let nib := (List.range (f.listLen 0x40)).filterMap fun i => f.desc 0x40 i
  let reads := (nib.flatMap fun d =>
    let l := f.layer d.nLayer
    fld l 0x10 2 :: d.nTouched :: stateTids l).dedup
  let others := ([0, 1] ++ (List.range 32).map (0x10 + ·)).flatMap fun e =>
    (List.range (f.listLen e)).filterMap fun i => if f.isElided e i then none else f.desc e i
  let writes := (others.flatMap writtenTids).dedup
  let size := fun (keep : Tensor → Bool) (tids : List Nat) =>
    (tids.map fun tid => match f.tensor tid with | some t => if keep t then t.elemBytes else 0 | none => 0).sum
  size (fun t => !inShard f t) reads + size (inShard f) writes + 4194304

/-- PAIR's payload (R376): role, FEED_ID, ID_TAG, folio digest, contract level, image length, stage length, SHADOW_BYTES
offered. -/
def State.pairLine (s : State) (f : Folio) : List Byte :=
  let shadow := match f.partner with | some (_, _, _, n) => n | none => 0
  fit 128 (le 2 f.role ++ le 1 (s.get PWR_STRAPS_FEED_ID) ++ le 1 0 ++ le 4 (s.get SEC_ID_TAG_TAG) ++ f.digest.take 16
    ++ le 2 (s.get GLB_CONTRACT_LEVEL) ++ zeros 6 ++ le 8 (shardLen f.shard) ++ le 8 (stageLen f) ++ le 8 shadow)

/-- Roles to exchange PAIR with: partner and ward (R376). -/
def pairRoles (f : Folio) : List Nat :=
  match f.partner with
  | some (p, w, _, _) => if w = 0xFFFF then [p] else [p, w]
  | none => []

/-- PAIR frames sent to partner and ward. -/
def State.sendPairs (s : State) (f : Folio) : State :=
  (pairRoles f).foldl (fun s r => s.rideTo r 0xFF00 0 (s.pairLine f) false) s

/-- Does a PAIR exchange fail (R376)? Feed and ID_TAG of the peer and the own feed against the directory of the bank that
the step runs under (R359, R399), the contract levels, and the SHADOW_BYTES that the keeper of a shadow offers against what its owner needs. -/
def State.pairMismatch (s : State) (f : Folio) (r : Nat) (pl : List Byte) : Bool :=
  let bank := s.bank (s.bankNo s.step)
  let dir := bankDir bank r
  let own := bankDir bank f.role
  let need := fun (img stage : Nat) => 2097152 + img + 2 * stage
  let asPartner := match f.partner with | some (p, _, _, _) => p == r | none => false
  let asWard := match f.partner with | some (_, w, _, _) => w == r | none => false
  let shadow := match f.partner with | some (_, _, _, n) => n | none => 0
  fld pl 2 1 % 16 != fld dir 1 1 % 16 || fld pl 4 4 != fld dir 0x0C 4
    || s.get PWR_STRAPS_FEED_ID != fld own 1 1 % 16
    || fld pl 0x18 2 != s.get GLB_CONTRACT_LEVEL
    || (asPartner && decide (fld pl 0x30 8 < need (shardLen f.shard) (stageLen f)))
    || (asWard && decide (shadow < need (fld pl 0x20 8) (fld pl 0x28 8)))

end Sys2Proof.Machine
end

