-- ==== Sys2Proof/Machine/LoadForm.lean ====
section
/-! DEFINITION. The loader's refusal record, the parsing of an image, and checks 1 to 10 (R168, R169, R189 to R192, R205,
R315, R525 to R528, Table 5.13). -/
namespace Sys2Proof.Machine

/-- A refusal record (Table 5.14a). -/
structure Reject where
  check : Nat
  code : Nat
  sec : Nat
  index : Nat
  off : Nat
  d0 : Nat
  d1 : Nat
  deriving DecidableEq, Repr

/-- Its 32 bytes. -/
def Reject.bytes (r : Reject) : List Byte :=
  le 2 r.code ++ le 2 r.check ++ le 2 r.sec ++ zeros 2 ++ le 4 r.index ++ le 4 r.off ++ le 4 r.d0 ++ le 4 r.d1 ++ zeros 8

/-- A failed condition. -/
def fails (c : Bool) (r : Reject) : Option Reject := if c then some r else none

/-- The first failure of a list. -/
def firstOf (l : List (Option Reject)) : Option Reject := l.findSome? id

/-- A capacity failure: bytes required and bytes available, in 4 KiB units (R528). -/
def Reject.capacity (r : Reject) (need have' : Nat) : Reject := { r with d0 := ceilDiv need 4096, d1 := have' / 4096 }

/-! ## The image (R168, R169) -/

/-- Entry size of a section type (Table 5.3). -/
def entrySize (typ : Nat) : Nat := [0, 64, 16, 16, 4, 4, 64, 64, 16, 64, 32, 1, 4112, 16, 144, 1].getD typ 0

/-- A directory entry (Table 5.2). -/
def dirEntry (img : List Byte) (i : Nat) : List Byte := slice img (0x20 + 16 * i) 16

/-- First and last byte past a section's, from its directory entry. -/
def dirSpan (e : List Byte) : Nat × Nat := (fld e 8 8, fld e 8 8 + fld e 4 4 * entrySize (fld e 0 1))

/-- The folio of an image. -/
def parseFolio (img : List Byte) : Folio :=
  { hdr := fit 32 img,
    secs := (List.range (fld img 8 2)).map fun i =>
      let e := dirEntry img i
      { typ := fld e 0 1, eng := fld e 1 1, count := fld e 4 4,
        bytes := (img.drop (dirSpan e).1).take ((dirSpan e).2 - (dirSpan e).1) },
    digest := [], elided := [] }

/-- Objects of the sections of some types, in ascending section number and index: section number, section, index,
entry. -/
def Folio.scan (f : Folio) (typ : Nat → Bool) (g : Nat → Section → Nat → List Byte → Option Reject) : Option Reject :=
  f.secs.zipIdx.findSome? fun p =>
    if typ p.1.typ then (List.range p.1.count).findSome? fun i => g p.2 p.1 i (p.1.entry (entrySize p.1.typ) i) else none

/-- Number of the section of a type and engine code; 0xFFFF where there is none. -/
def Folio.secNo (f : Folio) (typ eng : Nat) : Nat :=
  match f.secs.findIdx? fun x => x.typ == typ && x.eng == eng with
  | some i => i
  | none => 0xFFFF

/-! ## Check 1 -/

/-- Does the ENGINE field fit the section's type (Tables 5.2 to 5.4)? -/
def engineFits (typ eng : Nat) : Bool :=
  match typ with
  | 6 => engineCodes.contains eng
  | 7 => [0, 1, 0x80].contains eng
  | 0x0C => decide (eng < 16)
  | _ => eng == 0

/-- The fixed COUNT of a section type (R169). -/
def fixedCount (typ : Nat) : Option Nat :=
  match typ with
  | 0x0C => some 1
  | 0x0E => some 1
  | 0x0F => some 16
  | 0x0B => some 102464
  | _ => none

/-- One directory entry against R169. A section without bytes that begins strictly inside another overlaps it (DESIGN CHOICE,
log 99). -/
def checkDirEntry (img : List Byte) (i : Nat) : Option Reject :=
  let e := dirEntry img i
  let r := fun (o : Nat) => (⟨1, 0x0101, i, 0, o, 0, 0⟩ : Reject)
  let typ := fld e 0 1
  let before := (List.range i).map (dirEntry img)
  let span := dirSpan e
  firstOf
    [fails (typ == 0 || decide (0x0F < typ)) (r 0),
     fails (!engineFits typ (fld e 1 1)) (r 1),
     fails (fld e 2 2 != 0) (r 2),
     fails (before.any fun x => fld x 0 1 == typ && fld x 1 1 == fld e 1 1) (r 0),
     fails (match fixedCount typ with | some n => fld e 4 4 != n | none => false) (r 4),
     fails (span.1 % 64 != 0) (r 8),
     fails (decide (img.length < span.2)) (r 8),
     fails (before.any fun x => decide (span.1 < (dirSpan x).2 ∧ (dirSpan x).1 < span.2)) (r 8)]

/-- Is a section one that needs a ROUTES section (R526)? -/
def needsRoutes (x : Section) : Bool :=
  (x.typ == 6 && decide (0x30 ≤ x.eng ∧ x.eng ≤ 0x37)) || x.typ == 0x0A || x.typ == 0x0E


/-- Check 1 on the image and LOAD_FOLIO's parameter (R525 to R527, R315). -/
def check1 (img : List Byte) (imageBytes : Nat) : Option Reject :=
  let r := fun (o : Nat) => (⟨1, 0x0101, 0xFFFF, 0, o, 0, 0⟩ : Reject)
  let n := fld img 8 2
  firstOf
    [fails (decide (imageBytes < 32)) (r 0),
     fails (fld img 0 4 != 0x494C4F46) (r 0),
     fails (fld img 0x10 8 != imageBytes) (r 0x10),
     fails (decide (imageBytes < 0x20 + 16 * n)) (r 8),
     fails (fld img 5 1 != 1 && fld img 5 1 != 2) (r 4),
     fails (decide (1 < fld img 6 2)) (r 6),
     fails (n == 0 || decide (256 < n)) (r 8),
     fails (decide (600000 < fld img 0x0C 4)) (r 0x0C),
     (List.range n).findSome? (checkDirEntry img),
     (parseFolio img).secs.zipIdx.findSome? fun p =>
       if p.1.typ = 0x0F then
         let g := fun (o : Nat) => (⟨1, 0x0101, p.2, 0, o, 0, 0⟩ : Reject)
         firstOf [fails (decide (16384 < fld p.1.bytes 0 2)) (g 0), fails (fld p.1.bytes 2 14 != 0) (g 2)]
       else none,
     fails ((parseFolio img).sec 1 0).isNone (r 8),
     if ((parseFolio img).sec 0x0B 0).isSome then none
     else match (parseFolio img).secs.findIdx? needsRoutes with
       | some i => some ⟨1, 0x0101, i, 0, 0, 0, 0⟩
       | none => none]

/-! ## Checks 2 to 7 -/

/-- Largest COUNT of a section type (check 2). -/
def countLimit (typ : Nat) : Option Nat :=
  match typ with
  | 6 => some 16777216
  | 7 => some 16777216
  | 5 => some 4096
  | 1 => some 65535
  | 9 => some 65535
  | 4 => some 255
  | 0x0A => some 1
  | _ => none

/-- Check 2: counts. -/
def check2 (f : Folio) : Option Reject :=
  f.secs.zipIdx.findSome? fun p =>
    fails (match countLimit p.1.typ with | some n => decide (n < p.1.count) | none => false) ⟨2, 0x0102, p.2, 0, 4, 0, 0⟩

/-- Check 3: regions (R184, R185). -/
def check3 (f : Folio) : Option Reject :=
  f.scan (· == 2) fun k x i e =>
    let r := fun (o : Nat) => (⟨3, 0x0103, k, i, o, 0, 0⟩ : Reject)
    let base := fld e 0 8
    let top := base + fld e 8 4 * 2097152
    let hit := (List.range i).any fun j =>
      let y := x.entry 16 j
      decide (base < fld y 0 8 + fld y 8 4 * 2097152 ∧ fld y 0 8 < top)
    firstOf
      [fails (base % 2097152 != 0) (r 0), fails (fld e 8 4 == 0) (r 8), fails (decide (1 < fld e 0x0C 1)) (r 0x0C),
       fails (decide (3 < fld e 0x0D 1)) (r 0x0D), fails (fld e 0x0E 2 != 0) (r 0x0E),
       fails (decide (systemBase < top)) (r 0), fails hit (r 0)]

/-- Check 4: tensor entries (R99, R100, R102, R315). -/
def check4 (f : Folio) : Option Reject :=
  f.scan (· == 1) fun k x i e =>
    let r := fun (o : Nat) => (⟨4, 0x0104, k, i, o, 0, 0⟩ : Reject)
    let t := parseTensor e
    firstOf
      ([fails (t.tid == 0xFFFF || (List.range i).any fun j => fld (x.entry 64 j) 0 2 == t.tid) (r 0),
        fails (t.rank == 0 || decide (4 < t.rank)) (r 4)]
      ++ (List.range 4).map (fun j => fails (if j < t.rank then t.dim j == 0 else t.dim j != 1) (r (0x18 + 4 * j)))
      ++ [fails (decide (t.outerAlloc < t.outer)) (r 0x28),
          fails (decide (3 < t.space)) (r 3),
          fails (t.index && (t.fmt != 0 || t.blk != 0)) (r 2),
          fails (bit (fld e 2 1) 7) (r 2), fails (decide (16 ≤ fld e 3 1)) (r 3), fails (fld e 5 1 != 0) (r 5),
          fails (fld e 0x2E 2 != 0) (r 0x2E), fails (fld e 0x38 8 != 0) (r 0x38),
          fails (t.blk == 0 && t.scaleBase != 0) (r 0x10),
          fails (t.elemBase % 128 != 0) (r 8), fails (t.scaleBase % 128 != 0) (r 0x10),
          fails (t.gaugeEn && (t.index || decide (f.gaugeCount ≤ t.gauge))) (r 0x2C)])

/-- Check 5: format and block size (R68). -/
def check5 (f : Folio) : Option Reject :=
  f.scan (· == 1) fun k _ i e =>
    let t := parseTensor e
    let ok := t.index || (if fmtBlocked t.fmt then decide (1 ≤ t.blk ∧ t.blk ≤ 4) else t.blk == 0)
    fails (!ok) ⟨5, 0x0105, k, i, 2, 0, 0⟩

/-- Bytes of a Desk's Inkwell. -/
abbrev inkSize : Nat := 0x0C000000

/-- Bytes that OUTER_ALLOC and the padded inner extents need. -/
def Tensor.needBytes (t : Tensor) : Nat :=
  roundUp (t.allocDim 0) t.bsize * t.allocDim 1 * t.allocDim 2 * t.allocDim 3 * t.width / 8

/-- One array of a tensor against its place: the region or Inkwell that it must end within. -/
def placed (rs : List Region) (t : Tensor) (base n : Nat) (r : Reject) : Option Reject :=
  if t.space = 0 then
    match rs.find? fun g => decide (g.base ≤ base ∧ base < g.base + g.bytes) with
    | some g => fails (decide (g.base + g.bytes < base + n)) (r.capacity n (g.base + g.bytes - base))
    | none => some r
  else fails (decide (inkSize < base + n)) (r.capacity n (inkSize - base))

/-- Check 6: placement (R528). -/
def check6 (f : Folio) : Option Reject :=
  f.scan (· == 1) fun k _ i e =>
    let r := fun (o : Nat) => (⟨6, 0x0106, k, i, o, 0, 0⟩ : Reject)
    let t := parseTensor e
    let cls := fun (a n : Nat) => (regionOf f.regions a n).map (·.detect)
    firstOf
      [fails (decide (t.elemBytes < t.needBytes)) ((r 0x30).capacity t.needBytes t.elemBytes),
       placed f.regions t t.elemBase t.elemBytes (r 8),
       if t.blk = 0 then none else placed f.regions t t.scaleBase t.scaleBytes (r 0x10),
       fails (t.space == 0 && t.blk != 0 && cls t.elemBase t.elemBytes != cls t.scaleBase t.scaleBytes) (r 0x10)]

/-- Does a tensor lie in CORRECT pages of DRAM? -/
def inCorrect (f : Folio) (t : Tensor) : Bool :=
  t.space == 0 && (match regionOf f.regions t.elemBase t.elemBytes with | some g => !g.detect | none => false)

/-- Offsets of the fields of a layer record that name state tensors (R384). -/
def stateOffsets : List Nat := [0x08, 0x0A, 0x0C, 0x0E, 0x12, 0x30, 0x32, 0x34, 0x36]

/-- Check 7: state tensors in CORRECT pages. -/
def check7 (f : Folio) : Option Reject :=
  f.scan (· == 9) fun k _ i e => firstOf (stateOffsets.map fun o =>
    match f.tensor (fld e o 2) with
    | some t => fails (!inCorrect f t) ⟨7, 0x0107, k, i, o, 0, 0⟩
    | none => none)

/-! ## Check 8 -/

/-- May a kind stand in a list (Table 5.7)? -/
def kindFits (typ eng kd : Nat) : Bool :=
  if kd = 0 then true
  else if 0x10 ≤ kd ∧ kd ≤ 0x15 then decide (eng < 2)
  else if kd = 0x20 ∨ kd = 0x23 then (typ == 6 && decide (0x10 ≤ eng ∧ eng < 0x30)) || (typ == 7 && eng == 0x80)
  else if kd = 0x21 ∨ kd = 0x22 ∨ kd = 0x24 then typ == 6 && decide (0x10 ≤ eng ∧ eng < 0x30)
  else if 0x30 ≤ kd ∧ kd ≤ 0x32 then typ == 6 && decide (0x30 ≤ eng ∧ eng < 0x38)
  else if kd = 0x40 ∨ kd = 0x41 then typ == 6 && decide (0x40 ≤ eng ∧ eng < 0x50)
  else false

/-- Reserved stretches of a stroke by kind (Table 3.4): offset and size. -/
def strokeRsv (kd : Nat) : List (Nat × Nat) :=
  match kd with
  | 0x10 => [(0x36, 10)]
  | 0x11 => [(0x36, 10)]
  | 0x12 => [(0x38, 8)]
  | 0x13 => [(0x30, 16)]
  | 0x14 => [(0x31, 15)]
  | _ => [(0x31, 3), (0x38, 8)]

/-- Coded fields of a stroke by kind that hold a code the tables do not define: offsets (Table 3.4, R105). DERIV is
check 11's. -/
def strokeCodes (d : Desc) : List (Nat × Bool) :=
  let k30 := fld d 0x30 1
  let k34 := fld d 0x34 1
  match d.kind with
  | 0x10 => [(0x30, decide (4 < k30)), (0x31, decide (15 < d.ftable)), (0x34, decide (3 < k34))]
  | 0x11 => [(0x30, decide (5 < k30)), (0x31, decide (15 < d.ftable)), (0x34, decide (4 < k34)), (0x35, decide (2 < d.k35))]
  | 0x12 => [(0x30, decide (2 < k30)), (0x31, decide (15 < d.ftable))]
  | 0x14 => [(0x30, decide (2 < k30))]
  | 0x15 => [(0x30, k30 != 1 && k30 != 2 && k30 != 4)]
  | _ => []

/-- What a TID field must name (Table 3.4a). -/
inductive Need where
  | value | index | valueOr | indexOr | none
  deriving DecidableEq, Repr

/-- Table 3.4a: TID_A, TID_B, TID_C, TID_AUX, TID_STATS. -/
def strokeNeeds (d : Desc) : List (Nat × Need) :=
  let k30 := fld d 0x30 1
  let row := fun (a b c x t : Need) => [(0x08, a), (0x0A, b), (0x0C, c), (0x0E, x), (0x26, t)]
  match d.kind with
  | 0x10 => row .value .value .value
      (if d.dir = 0 then .valueOr else if d.dir = 1 ∧ d.k35 ≠ 0 then .value else .none)
      (if fld d 0x34 1 = 0 then .none else .value)
  | 0x11 => row .value (if k30 = 0 then .none else .value) .value .none .none
  | 0x12 => row .value (if k30 = 0 then .none else .valueOr) .value (if k30 = 1 then .valueOr else .none) .valueOr
  | 0x13 => row .index .value .value .none .none
  | 0x14 => row .index .value .value .indexOr .none
  | _ => row .value .none .value .index .none

/-- Does a TID field break what it must name? -/
def Need.broken (n : Need) (f : Folio) (tid : Nat) : Bool :=
  let cls := (f.tensor tid).map (·.index)
  match n with
  | .none => tid != 0xFFFF
  | .value => cls != some false
  | .index => cls != some true
  | .valueOr => tid != 0xFFFF && cls != some false
  | .indexOr => tid != 0xFFFF && cls != some true

/-- Is STAT_ADDR aligned and within a DRAM region, or within the running Desk's Inkwell? -/
def statFits (f : Folio) (eng : Nat) (d : Desc) : Bool :=
  d.statAddr % 32 == 0
    && ((regionOf f.regions d.statAddr 32).isSome || (decide (eng < 2) && decide (d.statAddr + 32 ≤ inkSize)))

/-- Fields of DMA, Quill and Nib descriptors that must be 0: offset and size (Tables 5.8 to 5.9b). -/
def moveRsv (kd : Nat) : List (Nat × Nat) :=
  if kd < 0x30 then
    [(0x1A, 2), (0x20, 8), (0x30, 16)] ++ (if kd = 0x21 ∨ kd = 0x22 ∨ kd = 0x24 then [] else [(0x19, 1)])
      ++ (if kd = 0x21 then [(0x1E, 2)] else if kd = 0x22 then [] else [(0x1C, 4)])
  else if kd < 0x40 then [(0x30, 16)]
  else [(0x0C, 4), (0x20, 8)]

/-- TID fields of DMA, Quill and Nib descriptors that name a local tensor. -/
def moveTids (kd : Nat) : List Nat := if kd < 0x30 then [8, 0x0A] else if kd < 0x40 then [8] else [0x0A]

/-- Does a field name a layer beyond the LAYERS section? -/
def layerBeyond (f : Folio) (l : Nat) : Bool := l != 0xFFFF && decide (f.layerCount ≤ l)

/-- The common header's own fields (Table 5.5, R175). -/
def headerBad (d : Desc) : List (Nat × Bool) :=
  [(1, decide (4 ≤ fld d 1 1)), (2, decide (16384 ≤ fld d 2 2)), (6, decide (4096 ≤ fld d 6 2)),
   (2, !d.waits && d.waitSem != 0), (4, !d.waits && d.waitValue != 0), (6, !d.signals && d.signalSem != 0)]

/-- Everything of a stroke that check 8 asks for. -/
def strokeBad (f : Folio) (d : Desc) : List (Nat × Bool) :=
  let sf := d.sflags
  [(0x20, d.dir == 3 || d.shape == 7 || d.share == 3 || decide (4096 ≤ sf)), (0x23, fld d 0x23 1 != 0),
   (0x22, fld d 0x22 1 == 0x80)]
  ++ (strokeRsv d.kind).map (fun p => (p.1, fld d p.1 p.2 != 0)) ++ strokeCodes d
  ++ (strokeNeeds d).map (fun p => (p.1, p.2.broken f (fld d p.1 2)))
  ++ [(0x24, layerBeyond f d.layer || (d.expLayer && d.layer == 0xFFFF))]

/-- Everything of a DMA, Quill or Nib descriptor that check 8 asks for. -/
def moveBad (f : Folio) (d : Desc) : List (Nat × Bool) :=
  (moveRsv d.kind).map (fun p => (p.1, fld d p.1 p.2 != 0))
  ++ (if d.kind < 0x30 then [(0x0C, decide (4 ≤ fld d 0x0C 2))] else [])
  ++ (moveTids d.kind).map (fun o => (o, fld d o 2 != 0xFFFF && (f.tensor (fld d o 2)).isNone))
  ++ (if d.kind < 0x30 then [(0x0E, layerBeyond f d.dExpLayer)] else if 0x40 ≤ d.kind then [(0x08, layerBeyond f d.nLayer)] else [])

/-- Is a section a list of descriptors? -/
def isList (typ : Nat) : Bool := typ == 6 || typ == 7

/-- Check 8: every descriptor (R105, R175, R178, R523). -/
def check8 (f : Folio) : Option Reject :=
  f.scan isList fun k x i (d : Desc) =>
    let r := fun (o : Nat) => (⟨8, 0x0108, k, i, o, 0, 0⟩ : Reject)
    let own := if d.kind = 0 then [] else (if d.kind < 0x20 then strokeBad f d else moveBad f d) ++ [(0x28, !statFits f x.eng d)]
    firstOf (fails (!kindFits x.typ x.eng d.kind) (r 0) :: ((headerBad d ++ own).map fun p => fails p.2 (r p.1)))

/-! ## Checks 9 and 10 -/

/-- Every descriptor of the lists, with the replay lists' if asked. -/
def Folio.descs (f : Folio) (replay : Bool) : List Desc :=
  (f.secs.filter fun x => x.typ == 6 || (replay && x.typ == 7)).flatMap fun x => (List.range x.count).map (x.entry 64)

/-- Most that a semaphore can count in a step: INIT, local signallers, REMOTE. -/
def semMax (f : Folio) (i : Nat) : Nat :=
  match f.sec 5 0 with
  | some x => fld x.bytes (4 * i) 2 + fld x.bytes (4 * i + 2) 2
      + ((f.descs true).filter fun d => d.signals && d.signalSem == i).length
  | none => 0

/-- Check 9: semaphores (R176). -/
def check9 (f : Folio) : Option Reject :=
  let n := f.count 5 0
  f.scan (fun t => isList t || t == 5) fun k x i (d : Desc) =>
    let r := fun (o : Nat) => (⟨9, 0x0109, k, i, o, 0, 0⟩ : Reject)
    if x.typ = 5 then fails (decide (0xFFFF < semMax f i)) (r 0)
    else firstOf
      [fails (d.waits && decide (n ≤ d.waitSem)) (r 2), fails (d.signals && decide (n ≤ d.signalSem)) (r 6),
       fails (d.waits && decide (semMax f d.waitSem < d.waitValue)) (r 4)]

/-- Check 10: C4 folios (R205). -/
def check10 (f : Folio) : Option Reject :=
  if !f.isC4 then none
  else f.secs.zipIdx.findSome? fun p =>
    let r := fun (i o : Nat) => (⟨10, 0x010A, p.2, i, o, 0, 0⟩ : Reject)
    if [9, 0x0A, 8, 0x0E, 0x0D, 7].contains p.1.typ then some (r 0 0)
    else (List.range p.1.count).findSome? fun i =>
      let d : Desc := p.1.entry (entrySize p.1.typ) i
      if p.1.typ = 6 then firstOf
        [fails (decide (0x40 ≤ d.kind ∨ (0x13 ≤ d.kind ∧ d.kind ≤ 0x15))) (r i 0),
         fails (decide (0x10 ≤ d.kind ∧ d.kind < 0x20) && decide (256 ≤ d.sflags)) (r i 0x20),
         fails (d.kind == 0x10 && d.k35 != 0) (r i 0x35),
         fails (decide (0x10 ≤ d.kind ∧ d.kind < 0x20) && d.layer != 0xFFFF) (r i 0x24)]
      else if p.1.typ = 1 then
        let t := parseTensor d
        fails (!t.index && t.fmt == fE2M1) (r i 2)
      else none

/-- A descriptor of the lists changed throughout a folio. -/
def Folio.mapDescs (f : Folio) (g : Desc → Desc) : Folio :=
  { f with secs := f.secs.map fun x =>
      if isList x.typ then { x with bytes := (List.range x.count).flatMap fun i => g (x.entry 64 i) } else x }

/-- R190 after check 9: ELASTIC in every stroke of a C4 folio. -/
def Folio.setElastic (f : Folio) : Folio :=
  if f.isC4 then f.mapDescs fun d =>
    if 0x10 ≤ d.kind ∧ d.kind < 0x20 then patch d 0x20 (le 2 (orBit d.sflags 7)) else d
  else f

/-- choose_shape of R52. -/
def chooseShape (k n g : Nat) : Nat :=
  if 4 ≤ g ∧ k ≤ 128 then 2
  else if 2 ≤ g ∧ k ≤ 256 then 1
  else if 512 < k ∧ n ≤ 512 then 5
  else if 512 < k ∧ n ≤ 1024 then 4
  else if ceilDiv n 4 ≤ 256 then 3
  else 0

/-- R190 after check 11: every AUTO shape resolved from the plan bounds (R52). -/
def Folio.resolveShapes (f : Folio) : Folio :=
  f.mapDescs fun d =>
    if 0x10 ≤ d.kind ∧ d.kind < 0x20 ∧ d.shape = 6 then
      patch d 0x20 (le 2 (setBits d.sflags 4 2 (chooseShape d.kPlan d.nPlan d.groups)))
    else d

end Sys2Proof.Machine
end

