-- ==== Sys2Proof/Machine/LoadShape.lean ====
section
/-! DEFINITION. The loader's checks 11 to 14: strokes, DMA, Quill and Nib descriptors, partial areas, layer records
(Table 5.13, R28, R84, R110, R111, R116 to R118, R122, R142 to R151, R179 to R183, R256, R282 to R284, R301, R302, R307,
R357, R523, R529). -/
namespace Sys2Proof.Machine

/-! ## Strokes (check 11) -/

/-- Axis bounds of an MM operand, innermost first (Table 4.1): 0 for A, 1 for B, 2 for C. -/
def mmAxes (d : Desc) (w : Nat) : Nat × Nat :=
  let m := d.mPlan
  let n := d.nPlan
  let k := d.kPlan
  match d.dir, w with
  | 0, 0 => (k, m)
  | 0, 1 => (k, n)
  | 0, _ => (n, m)
  | 1, 0 => (n, m)
  | 1, 1 => (k, n)
  | 1, _ => (k, m)
  | _, 0 => (m, k)
  | _, 1 => (m, n)
  | _, _ => (n, k)

/-- Plan bound of the streamed rows P of an MM stroke (Table 3.5). -/
def mmRows (d : Desc) : Nat := if d.dir = 2 then d.kPlan else d.mPlan

/-- Plan bound of the contraction of an MM stroke. -/
def mmContraction (d : Desc) : Nat := if d.dir = 0 then d.kPlan else if d.dir = 1 then d.nPlan else d.mPlan

/-- G as a dimension: only above 1 (R142). -/
def groupDim (d : Desc) : List Nat := if d.groups ≤ 1 then [] else [d.groups]

/-- Has a tensor the extents of a list, and 1 beyond? -/
def Tensor.hasDims (t : Tensor) (l : List Nat) : Bool := [t.d0, t.d1, t.d2, t.d3] == (l ++ [1, 1, 1, 1]).take 4

/-- A condition on the tensor that a field of a descriptor names; nothing where it names none. -/
def onTid (f : Folio) (d : Desc) (o : Nat) (ok : Tensor → Bool) (r : Nat → Reject) : Option Reject :=
  match f.tensor (fld d o 2) with
  | some t => fails (!ok t) (r o)
  | none => none

/-- Array operand formats of Table 2.6. -/
def pairFits (a b : Nat) : Bool :=
  let e8 := fun (x : Nat) => x == fE4M3 || x == fE5M2
  (e8 a && e8 b) || (a == b && (a == fE2M1 || a == fINT8 || a == fBF16 || a == fF32))

/-- Format of a tensor, as a condition. -/
def fmtIn (l : List Nat) (t : Tensor) : Bool := l.contains t.fmt

/-- Operand formats (R84, R111, R116, R256, Table 3.5). -/
def strokeFormats (f : Folio) (d : Desc) (r : Nat → Reject) : Option Reject :=
  let a := (f.tensor d.tidA).map (·.fmt)
  let own := match d.kind with
    | 0x10 => [match a with | some a => onTid f d 0x0A (fun t => pairFits a t.fmt) r | none => none,
               if d.dir = 0 then onTid f d 0x0E (fmtIn [fF32, fBF16]) r else none]
    | 0x14 => [if d.k30 = 1 then onTid f d 0x0C (fmtIn [fF32, fBF16]) r else none]
    | 0x15 => [onTid f d 0x08 (fmtIn [fF32]) r, onTid f d 0x0C (fmtIn [fF32]) r]
    | _ => []
  firstOf (own ++ [onTid f d 0x26 (fmtIn [fF32]) r])

/-- Block sizes along the contraction (R28, R143). -/
def strokeBlocks (f : Folio) (d : Desc) (r : Nat → Reject) : Option Reject :=
  if d.kind = 0x10 ∧ d.dir ≠ 1 then
    match f.tensor d.tidA with
    | some a => onTid f d 0x0A (fun t => t.blk == a.blk) r
    | none => none
  else none

/-- Innermost dimensions of MM operands (R142). -/
def strokeLayout (f : Folio) (d : Desc) (r : Nat → Reject) : Option Reject :=
  if d.kind = 0x10 then
    firstOf ([0, 1, 2].map fun w => onTid f d (8 + 2 * w) (fun t => t.d0 == (mmAxes d w).1) r)
  else none

/-- Extents that each tensor of a stroke must have: field and dimensions; a lone innermost one for tables (R112 to
R116, R142, R307, Table 3.5). -/
def strokeDims (d : Desc) : List (Nat × (Tensor → Bool)) :=
  let m := d.mPlan
  let n := d.nPlan
  let k := d.kPlan
  let g := groupDim d
  let has := fun (l : List Nat) (t : Tensor) => t.hasDims l
  let mm := fun (w : Nat) => has ((mmAxes d w).1 :: (mmAxes d w).2 :: g)
  match d.kind with
  | 0x10 => [(0x08, mm 0), (0x0A, mm 1), (0x0C, mm 2), (0x26, has (mmRows d :: g))]
      ++ if d.dir = 0 then [(0x0E, has (n :: g))] else []
  | 0x11 =>
    let b := if d.k35 = 0 then [n, m] else if d.k35 = 1 then [n] else [1]
    [(0x08, has [n, m]), (0x0A, has b), (0x0C, has [n, m])]
  | 0x12 => [(0x08, has [n, m]), (0x0A, has [n]), (0x0C, has [n, m]), (0x0E, has [n]), (0x26, has [m])]
  | 0x13 => [(0x08, has [m]), (0x0A, fun t => t.d0 == n), (0x0C, has [n, m])]
  | 0x14 => [(0x08, has [m]), (0x0A, has [n, m]), (0x0C, fun t => t.d0 == n)]
  | _ => [(0x08, has (k :: k :: g)), (0x0C, has (k :: k :: g)), (0x0E, fun t => t.d0 * t.d1 * t.d2 * t.d3 == d.groups)]

/-- Plan bounds, G and the extents of tensors (Table 3.2, R112, R116, R142). -/
def strokeShape (f : Folio) (d : Desc) (r : Nat → Reject) : Option Reject :=
  let oneG := d.kind != 0x10 && d.kind != 0x15
  firstOf
    ([fails (d.groups == 0 || (oneG && d.groups != 1)) (r 0x1F), fails (d.kind == 0x11 && d.kPlan != 0) (r 0x18),
      fails (d.kind == 0x15 && decide (512 < d.kPlan)) (r 0x18)]
    ++ (strokeDims d).map fun p => onTid f d p.1 p.2 r)

/-- ACCUM against bias, function and scaling (R110). -/
def strokeAccum (d : Desc) (r : Nat → Reject) : Option Reject :=
  if d.accum then
    firstOf
      [fails (d.kind == 0x10 && d.dir == 0 && d.tidAux != 0xFFFF) (r 0x0E), fails (d.func != 0) (r (if d.kind = 0x10 then 0x30 else 0x34)),
       fails (d.outExp != 0) (r 0x22), fails d.expLayer (r 0x20)]
  else none

/-- A stroke without what a pair may differ in: SHARE, STAT_ADDR, the header's semaphore fields (R117). -/
def pairForm (d : Desc) : Desc := patch (patch (patch d 0x20 (le 2 (setBits d.sflags 10 9 0))) 0x28 (zeros 8)) 1 (zeros 7)

/-- Strokes of a share among the first `n` descriptors of a list. -/
def sharesIn (f : Folio) (typ eng share n : Nat) : List Desc :=
  match f.sec typ eng with
  | some x => ((List.range (min n x.count)).map (x.entry 64)).filter fun (d : Desc) =>
      decide (0x10 ≤ d.kind ∧ d.kind ≤ 0x15) && d.share == share
  | none => []

/-- Does the stroke at an index of a list lack its counterpart (R117)? -/
def unpaired (f : Folio) (typ eng i : Nat) (d : Desc) : Bool :=
  if d.share = 0 then false
  else
    let j := (sharesIn f typ eng d.share i).length
    match (sharesIn f typ (1 - eng) (3 - d.share) 16777216)[j]? with
    | some o => pairForm o != pairForm d
    | none => true

/-- Sharing between the Desks and where its tensors may lie (R117, R118). -/
def strokeShare (f : Folio) (typ eng i : Nat) (d : Desc) (r : Nat → Reject) : Option Reject :=
  let fits := fun (t : Tensor) => t.space == 0 || t.space == 3 || (d.share == 0 && t.space == eng + 1)
  firstOf
    ([fails ((d.share == 1 && eng != 0) || (d.share == 2 && eng != 1)) (r 0x20),
      fails (d.kind == 0x14 && d.k30 != 1 && d.share != 0) (r 0x20)]
    ++ [0x08, 0x0A, 0x0C, 0x0E, 0x26].map (fun o => onTid f d o fits r)
    ++ [fails (unpaired f typ eng i d) (r 0x20)])

/-- Derivative fusion (R149 to R151). -/
def strokeDeriv (f : Folio) (d : Desc) (r : Nat → Reject) : Option Reject :=
  if d.kind = 0x10 ∧ d.k35 ≠ 0 then
    firstOf
      [fails (decide (6 < d.k35)) (r 0x35), fails (d.dir != 1) (r 0x35), fails (d.k30 != 0) (r 0x30), fails d.accum (r 0x20),
       match f.tensor d.tidC with
       | some c => onTid f d 0x0E (fun t => t.rank == c.rank && t.hasDims [c.d0, c.d1, c.d2, c.d3] && t.d0 == d.kPlan) r
       | none => none]
  else none

/-- Check 11: strokes. -/
def check11 (f : Folio) : Option Reject :=
  f.scan isList fun k x i (d : Desc) =>
    if 0x10 ≤ d.kind ∧ d.kind ≤ 0x15 then
      let r := fun (c o : Nat) => (⟨11, c, k, i, o, 0, 0⟩ : Reject)
      firstOf
        [strokeFormats f d (r 0x010B), strokeBlocks f d (r 0x010C), strokeLayout f d (r 0x010D), strokeShape f d (r 0x010E),
         strokeAccum d (r 0x010F), strokeShare f x.typ x.eng i d (r 0x0110), strokeDeriv f d (r 0x0111)]
    else none

/-! ## DMA, Quill and Nib descriptors (check 12) -/

/-- Limit of dimension `k` of a tensor (R529). -/
def Tensor.limit (t : Tensor) (k : Nat) : Nat := if k + 1 = t.rank then t.outerAlloc else t.dim k

/-- The sliced dimension of a COPY or FILL: index in the source, index in the destination, limit, plan extent (R529). -/
def sliceOf (d : Desc) (src dst : Option Tensor) : Option (Nat × Nat × Nat) :=
  match d.kind, src, dst with
  | 0x23, _, some t => some (t.rank - 1, t.limit (t.rank - 1), t.outer)
  | 0x20, some s, some t =>
    if d.dTranspose then some (0, min (s.limit 1) (t.limit 0), t.d0)
    else some (s.rank - 1, min (s.limit (s.rank - 1)) (t.limit (s.rank - 1)), s.outer)
  | _, _, _ => none

/-- Slices of COPY and FILL (R522, R529): the first part of the triple is the destination's dimension. -/
def sliceBad (d : Desc) (src dst : Option Tensor) (r : Nat → Reject) : Option Reject :=
  match sliceOf d src dst, dst with
  | some (k, lim, _), some t =>
    let whole := d.sliceCount == 0xFFFFFFFF
    let axis := k == 0 && t.blk != 0
    firstOf
      [fails (axis && d.sliceFirst % t.bsize != 0) (r 0x10), fails (axis && !whole && d.sliceCount % t.bsize != 0) (r 0x14),
       fails (!whole && decide (lim < d.sliceFirst + d.sliceCount)) (r 0x14)]
  | _, _ => none

/-- Extents that a COPY exchanges (R145, R180). -/
def copyDims (d : Desc) (s : Tensor) : List Nat := if d.dTranspose then [s.d1, s.d0, s.d2, s.d3] else [s.d0, s.d1, s.d2, s.d3]

/-- DMA descriptors (R145, R148, R179, R180, R529). A COPY joins tensors of one class (log 19). -/
def dmaBad (f : Folio) (d : Desc) (r : Nat → Reject) : Option Reject :=
  let src := f.tensor (fld d 8 2)
  let dst := f.tensor (fld d 0x0A 2)
  let index := fun (t : Option Tensor) => (t.map (·.index)) == some true
  match d.kind with
  | 0x20 => firstOf
      [fails src.isNone (r 8), fails dst.isNone (r 0x0A), fails (index src != index dst) (r 0x0A),
       match src, dst with
       | some s, some t => firstOf [fails (!t.hasDims (copyDims d s)) (r 0x0A), fails (d.dTranspose && s.tid == t.tid) (r 0x0A)]
       | _, _ => none,
       fails (d.dExpLayer != 0xFFFF && index src) (r 0x0E), sliceBad d src dst r]
  | 0x23 => firstOf [fails dst.isNone (r 0x0A), fails (d.dExpLayer != 0xFFFF) (r 0x0E), sliceBad d src dst r]
  | 0x21 => firstOf
      [match src with
       | some t => fails (!(t.index && t.d0 * t.d1 * t.d2 * t.d3 == 1028)) (r 8)
       | none => some (r 8),
       fails (decide (15 < d.kspec)) (r 0x19), fails (d.dExpLayer != 0xFFFF) (r 0x0E)]
  | 0x22 => firstOf [fails (src.isSome && !index src) (r 8), fails (d.dExpLayer != 0xFFFF) (r 0x0E)]
  | _ => firstOf [fails dst.isNone (r 0x0A), fails (d.dExpLayer != 0xFFFF) (r 0x0E)]

/-- ROLE_COUNT and GROUP_COUNT of the ROUTES section (Table 10.8). -/
def Folio.roleCount (f : Folio) : Nat := match f.sec 0x0B 0 with | some x => fld x.bytes 4 2 | none => 0
def Folio.groupCount (f : Folio) : Nat := match f.sec 0x0B 0 with | some x => fld x.bytes 6 2 | none => 0

/-- Quill descriptors (R182, R256, R357). -/
def quillBad (f : Folio) (d : Desc) (r : Nat → Reject) : Option Reject :=
  match f.tensor d.qSrc with
  | none => some (r 8)
  | some t => firstOf
      [fails (d.kind != 0x32 && (decide (f.roleCount ≤ d.qDstRole) || d.qDstRole == f.role)) (r 0x0C),
       fails (d.qSem != 0xFFFF && decide (f.count 5 0 ≤ d.qSem)) (r 0x0E),
       fails (d.qSrcFirst % 128 != 0) (r 0x10), fails (d.qBytes % 128 != 0 || d.qBytes == 0) (r 0x18),
       fails (d.qDstFirst % 128 != 0) (r 0x20), fails (decide (t.elemBytes < d.qSrcFirst + d.qBytes)) (r 0x18),
       fails (decide (2 ^ 39 < d.qDstFirst + d.qBytes)) (r 0x20),
       fails (d.kind == 0x31 && (t.index || !fmtIn [fF32, fBF16] t)) (r 8)]

/-- The j-th Nib descriptor of a list, without header and STAT_ADDR. -/
def nibForms (f : Folio) (eng : Nat) : List Desc :=
  ((f.entries 6 eng 64).filter fun (d : Desc) => d.kind == 0x40 || d.kind == 0x41).map fun (d : Desc) => patch (patch d 1 (zeros 7)) 0x28 (zeros 8)

/-- Elements of a layer's master. -/
def masterElems (t : Tensor) : Nat := t.d0 * t.d1 * t.d2 * t.d3

/-- First element and number of elements of a Nib descriptor. COUNT 0 stands for the whole tensor (Table 5.9b); with a FIRST
other than 0 it is taken as the rest of the master (DESIGN CHOICE, log 98). -/
def nibRange (d : Desc) (t : Tensor) : Nat × Nat := (d.nFirst, if d.nCount = 0 then masterElems t - d.nFirst else d.nCount)

/-- Is an element position a span boundary (R278)? -/
def spanEdge (t : Tensor) (e : Nat) : Bool := e % t.d0 % 128 == 0

/-- Nib descriptors (R183, R278, R283, R284, R302): the descriptor at index `i` of a Nib list. -/
def nibBad (f : Folio) (x : Section) (i : Nat) (d : Desc) (r : Nat → Reject) : Option Reject :=
  let l := f.layer d.nLayer
  let rule := fld l 2 1
  let lf := fld l 0 2
  let j := (((List.range i).map (x.entry 64)).filter fun (y : Desc) => y.kind == 0x40 || y.kind == 0x41).length
  let lists := (List.range 16).map fun c => (nibForms f (0x40 + c))[j]?
  let mine := (nibForms f x.eng).filter fun y => y.nLayer == d.nLayer
  let before := ((nibForms f x.eng).take j).filter fun y => y.nLayer == d.nLayer
  firstOf
    [fails (decide (f.layerCount ≤ d.nLayer)) (r 8), fails (rule == 0xFF) (r 8),
     fails (d.kind == 0x41 && !bit lf 1) (r 8),
     fails (if d.kind = 0x41 then (f.tensor d.nTouched).map (·.index) != some true else d.nTouched != 0xFFFF) (r 0x0A),
     match f.tensor (fld l 8 2) with
     | none => none
     | some t =>
       let (a, n) := nibRange d t
       let cover := (mine.map fun y => (nibRange y t).2).sum
       firstOf
         [fails (t.d0 == 0 || !spanEdge t a || decide (masterElems t < a)) (r 0x10),
          fails (n == 0 || !spanEdge t (a + n) || decide (masterElems t < a + n)) (r 0x18),
          fails (before.any fun y => decide (a < (nibRange y t).1 + (nibRange y t).2 ∧ (nibRange y t).1 < a + n)) (r 0x10),
          fails (before.length + 1 == mine.length && cover != masterElems t) (r 0x18)],
     fails ((bit lf 1 || bit lf 2) && !before.isEmpty) (r 8), fails (fld d 0x30 16 != 0) (r 0x30),
     fails (lists.any fun y => y != lists.headD none) (r 0)]

/-- Check 12. -/
def check12 (f : Folio) : Option Reject :=
  f.scan isList fun k x i (d : Desc) =>
    let r := fun (c o : Nat) => (⟨12, c, k, i, o, 0, 0⟩ : Reject)
    if d.kind < 0x20 then none
    else if d.kind < 0x30 then dmaBad f d (r 0x0112)
    else if d.kind < 0x40 then quillBad f d (r 0x0113)
    else nibBad f x i d (r 0x0114)

/-! ## Partial areas (check 13) -/

/-- Contraction width of a shape (R121); reversed reading has no SPLIT placement (R32). -/
def passWidth (d : Desc) : Nat :=
  if d.dir = 1 ∧ (d.shape = 1 ∨ d.shape = 2) then 512
  else [512, 256, 128, 512, 1024, 2048].getD d.shape 512

/-- Has a stroke more than one contraction pass (R122)? -/
def multiPass (d : Desc) : Bool := d.kind == 0x10 && decide (passWidth d < mmContraction d)

/-- Tensors that an extent (0 M, 1 N, 2 K) indexes, by their field, with the dimension. -/
def extentUses (d : Desc) (x : Nat) : List (Nat × Nat) :=
  match d.kind, x with
  | 0x10, _ =>
    match d.dir, x with
    | 0, 0 => [(0x08, 1), (0x0C, 1), (0x26, 0)]
    | 0, 1 => [(0x0A, 1), (0x0C, 0), (0x0E, 0)]
    | 0, _ => [(0x08, 0), (0x0A, 0)]
    | 1, 0 => [(0x08, 1), (0x0C, 1), (0x0E, 1), (0x26, 0)]
    | 1, 1 => [(0x08, 0), (0x0A, 1)]
    | 1, _ => [(0x0A, 0), (0x0C, 0), (0x0E, 0)]
    | _, 0 => [(0x08, 0), (0x0A, 0)]
    | _, 1 => [(0x0A, 1), (0x0C, 0)]
    | _, _ => [(0x08, 1), (0x0C, 1), (0x26, 0)]
  | 0x11, 0 => [(0x08, 1), (0x0C, 1)] ++ if d.k35 = 0 then [(0x0A, 1)] else []
  | 0x11, 1 => [(0x08, 0), (0x0C, 0)] ++ if d.k35 < 2 then [(0x0A, 0)] else []
  | 0x12, 0 => [(0x08, 1), (0x0C, 1), (0x26, 0)]
  | 0x12, 1 => [(0x08, 0), (0x0A, 0), (0x0C, 0), (0x0E, 0)]
  | 0x13, 0 => [(0x08, 0), (0x0C, 1)]
  | 0x13, 1 => [(0x0A, 0), (0x0C, 0)]
  | 0x14, 0 => [(0x08, 0), (0x0A, 1)]
  | 0x14, 1 => [(0x0A, 0), (0x0C, 0)]
  | 0x15, 2 => [(0x08, 0), (0x08, 1), (0x0C, 0), (0x0C, 1)]
  | _, _ => []

/-- Do two stretches share a byte? -/
def meets (a n b m : Nat) : Bool := decide (a < b + m ∧ b < a + n)

/-- Does a stretch of a Desk's Inkwell meet a tensor held there? -/
def meetsTensor (f : Folio) (desk a n : Nat) : Bool :=
  f.tensors.any fun t => (t.space == desk + 1 || t.space == 3)
    && (meets a n t.elemBase t.elemBytes || (t.blk != 0 && meets a n t.scaleBase t.scaleBytes))

/-- Has a Desk's LIST section a stroke with more than one contraction pass? -/
def listMultiPass (f : Folio) (desk : Nat) : Bool := (f.entries 6 desk 64).any multiPass

/-- Check 13 (R122, R186); a stroke of a replay list is a stroke of its Desk too, and is named only where the Desk's LIST
section has no such stroke (R527; DEDUCED, log 111). -/
def check13 (f : Folio) : Option Reject :=
  f.secs.zipIdx.findSome? fun p =>
    let r := fun (i o : Nat) => (⟨13, 0x0115, p.2, i, o, 0, 0⟩ : Reject)
    let entry := fun (i : Nat) => p.1.entry (entrySize p.1.typ) i
    if p.1.typ = 3 then
      (List.range p.1.count).findSome? fun i =>
        let e := entry i
        let desk := fld e 0 1
        let before := ((List.range i).map entry).filter fun y => fld y 0 1 == desk
        let off := fld e 4 4
        firstOf
          [fails (decide (1 < desk)) (r i 0), fails (decide (3 < fld e 1 1) || before.any fun y => fld y 1 1 == fld e 1 1) (r i 1),
           fails (fld e 2 2 != 0) (r i 2), fails (fld e 8 4 != 5242880) (r i 8), fails (fld e 0x0C 4 != 0) (r i 0x0C),
           fails (off % 128 != 0 || decide (inkSize < off + 5242880)) (r i 4),
           fails ((before.any fun y => meets off 5242880 (fld y 4 4) 5242880) || meetsTensor f desk off 5242880) (r i 4)]
    else if (p.1.typ = 6 ∨ p.1.typ = 7) ∧ p.1.eng < 2 then
      let have' := (f.entries 3 0 16).filter fun y => fld y 0 1 == p.1.eng
      if have'.length < 4 ∧ (p.1.typ = 6 ∨ listMultiPass f p.1.eng = false) then
        match (List.range p.1.count).find? fun i => multiPass (entry i) with
        | some i => some (r i 0)
        | none => none
      else none
    else none

/-! ## Layer records (check 14) -/

/-- A tensor field of a layer record: required or not, and what the tensor must be. -/
def layerTid (f : Folio) (e : List Byte) (r : Nat → Reject) (o : Nat) (need : Bool) (ok : Tensor → Bool) : Option Reject :=
  let tid := fld e o 2
  if tid = 0xFFFF then fails need (r o)
  else match f.tensor tid with
    | some t => fails (!(ok t && t.space == 0)) (r o)
    | none => some (r o)

/-- A tensor field that must name none. -/
def layerNone (e : List Byte) (r : Nat → Reject) (o : Nat) : Option Reject := fails (fld e o 2 != 0xFFFF) (r o)

/-- Groups of 128 KiB that hold a scratch tensor (R291). -/
def scratchGroups (f : Folio) (tid : Nat) : List Nat :=
  match f.tensor tid with
  | some t => (List.range ((t.elemBase + t.elemBytes - 1) / 131072 + 1 - t.elemBase / 131072)).map (t.elemBase / 131072 + ·)
  | none => []

/-- The tensors that a rule requires (R282, R283, R291, R301, Table 8.3); `t` is the master. -/
def layerTensors (f : Folio) (e : List Byte) (r : Nat → Reject) (t : Tensor) : List (Option Reject) :=
  let rule := fld e 2 1
  let sparse := bit (fld e 0 2) 1
  let float := fun (x : Tensor) => !x.index && fmtIn [fF32, fBF16] x
  let like := fun (x : Tensor) => float x && x.hasDims [t.d0, t.d1, t.d2, t.d3]
  let f32 := fun (l : List Nat) (x : Tensor) => !x.index && fmtIn [fF32] x && x.hasDims l
  let flt := fun (l : List Nat) (x : Tensor) => float x && x.hasDims l
  let rows := fun (x : Tensor) => x.index && x.hasDims [4, t.d1 * t.d2 * t.d3]
  let aux := if sparse then layerTid f e r 0x12 true rows else layerNone e r 0x12
  let noX := [0x30, 0x32, 0x34, 0x36].map (layerNone e r)
  let idx := fun (n : Nat) (x : Tensor) => x.index && x.hasDims [n]
  match rule with
  | 0 => [layerTid f e r 0x0A false like, layerNone e r 0x0C, aux] ++ noX
  | 1 => [layerTid f e r 0x0A true like, layerTid f e r 0x0C true like, aux] ++ noX
  | 2 => [fails (t.rank != 2) (r 8), layerTid f e r 0x0A false like, layerTid f e r 0x0C true (flt [t.d1]),
          layerTid f e r 0x12 true (flt [t.d0]), layerTid f e r 0x30 true (f32 [t.d1 + 1]), layerTid f e r 0x32 true (f32 [t.d0]),
          layerNone e r 0x34, layerNone e r 0x36,
          fails (decide (12 < (scratchGroups f (fld e 0x30 2) ++ scratchGroups f (fld e 0x32 2)).dedup.length)) (r 0x30)]
  | _ => [layerTid f e r 0x0A true like, layerTid f e r 0x0C true like, layerTid f e r 0x12 true float,
          layerTid f e r 0x30 true like, layerTid f e r 0x32 true float,
          layerTid f e r 0x34 true (idx (ceilDiv t.d0 512)), layerTid f e r 0x36 true (idx (ceilDiv t.d1 512))]

/-- Check 14: layer records (R187, R282, R283). -/
def check14 (f : Folio) : Option Reject :=
  f.scan (· == 9) fun k _ i e =>
    let r := fun (o : Nat) => (⟨14, 0x0116, k, i, o, 0, 0⟩ : Reject)
    let rule := fld e 2 1
    let s := toSigned 8 (fld e 3 1)
    let top := toSigned 8 (fld e 4 1)
    let sparse := bit (fld e 0 2) 1
    firstOf
      ([fails (decide (32 ≤ fld e 0 2)) (r 0), fails (decide (3 < rule) && rule != 0xFF) (r 2),
        fails (decide (s < -64 ∨ 64 < s)) (r 3), fails (decide (top < s ∨ 64 < top)) (r 4),
        fails (decide (8 ≤ fld e 0x2C 4)) (r 0x2C), fails (fld e 0x38 8 != 0) (r 0x38)]
      ++ (if rule = 0xFF then
            (0x10 :: stateOffsets).map fun o => fails (fld e o 2 != 0xFFFF && (f.tensor (fld e o 2)).isNone) (r o)
          else match f.tensor (fld e 8 2) with
            | none => [some (r 8)]
            | some t =>
              let same := fun (x : Tensor) => x.hasDims [t.d0, t.d1, t.d2, t.d3]
              [fails (t.index || t.fmt != fW24 || t.space != 0) (r 8),
               layerTid f e r 0x10 true (fun x => !x.index && fmtIn [fF32, fBF16] x && same x),
               layerTid f e r 0x0E true (fun x => !x.index && x.fmt != fA40 && x.fmt != fW24 && same x && t.d0 % x.bsize == 0),
               fails (sparse && (decide (1 < rule) || t.rank != 2)) (r 0)]
              ++ layerTensors f e r t))

end Sys2Proof.Machine
end

