-- ==== Sys2Proof/Machine/Chembe.lean ====
section
/-! DEFINITION. The path of a Chembe command: sessions, sequence numbers, refusals, replies, deferred completions
(R406 to R418, R468 to R471, Table 12.5). -/
namespace Sys2Proof.Machine

/-! ## Status codes (Table 12.8) -/

abbrev stSuccess : Nat := 0x0000
abbrev stPoisonKept : Nat := 0x0003
abbrev stPartnerMismatch : Nat := 0x020B
abbrev stRestoreMismatch : Nat := 0x020C
abbrev stAdoptRefused : Nat := 0x020D
abbrev stSafe : Nat := 0x020F
abbrev stPresence : Nat := 0x0301
abbrev stNotOwner : Nat := 0x0302
abbrev stLocked : Nat := 0x0303
abbrev stGuard : Nat := 0x0304
abbrev stRange : Nat := 0x0305
abbrev stState : Nat := 0x0306
abbrev stOpcode : Nat := 0x0307
abbrev stParam : Nat := 0x0308
abbrev stSeq : Nat := 0x0309
abbrev stVersion : Nat := 0x030A
abbrev stTagLate : Nat := 0x030B
abbrev stBusy : Nat := 0x0401
abbrev stRetry : Nat := 0x0402

/-! ## The opcode table (Tables 12.4, 12.5, 13.4) -/

/-- The rows of Table 12.5. -/
inductive JobRow where
  | always | memory | folioData | loadFolio | scrub | digest | loaded | active
  deriving DecidableEq, Repr

/-- A row of Table 12.4: opcode, Own, Pres, Def, lock class (Table 13.4), row of Table 12.5, and whether the command
acts on the main side (R464). -/
structure OpInfo where
  code : Nat
  own : Bool
  pres : Bool
  deferred : Bool
  cls : Option Nat
  row : JobRow
  main : Bool
  deriving DecidableEq, Repr

/-- The status with which Table 12.5 refuses a command in a job state; none when it runs. -/
def jobRefusal (row : JobRow) (js : Nat) : Option Nat :=
  match row with
  | .always => none
  | .memory => if js = jsSafe then some stSafe else none
  | .folioData => if js = jsLoading then some stBusy else if js = jsSafe then some stSafe else none
  | .loadFolio => if js = jsLoading ∨ js = jsRunning then some stBusy else if js = jsSafe then some stSafe else none
  | .scrub => if js = jsEmpty ∨ js = jsLoaded then none else if js = jsSafe then some stSafe else some stState
  | .digest => if js = jsEmpty ∨ js = jsLoaded ∨ js = jsSafe then none else some stState
  | .loaded => if js = jsLoaded then none else if js = jsSafe then some stSafe else some stState
  | .active => if js = jsLoaded ∨ js = jsRunning then none else if js = jsSafe then some stSafe else some stState

/-- Has a stack given out (R240)? -/
def State.worn (s : State) : Bool := (List.range 16).any fun c => s.on (CAB_STATUS_EXHAUSTED c)

/-- The status with which a command is refused in the state of the job and, for LOAD_FOLIO, of the stacks (R240, R424). The
spec does not rank the two: DEDUCED (log 96), MEMORY_EXHAUSTED comes before what Table 12.5 gives, since the module passes
from RUNNING to SAFE and would never show it otherwise. -/
def State.stateRefusal (s : State) (row : JobRow) : Option Nat :=
  if row = .loadFolio ∧ s.worn then some 0x0120 else jobRefusal row s.jobState

/-! ## Masters, ownership, presence, locks -/

/-- Is a presence window open (R473, R474)? -/
def State.presenceOpen (s : State) : Bool :=
  s.esc.strapped || (match s.esc.windowEnd with | some t => decide (s.time < t) | none => false)

/-- Classes that a master holds (GLB_LOCK). -/
def State.lockHeld (s : State) (mgmt : Bool) : Nat :=
  if mgmt then s.get GLB_LOCK_MGMT_HELD else s.get GLB_LOCK_HOST_HELD

/-- A master's classes set. -/
def State.setLock (s : State) (mgmt : Bool) (v : Nat) : State :=
  if mgmt then s.put GLB_LOCK_MGMT_HELD v else s.put GLB_LOCK_HOST_HELD v

/-- LOCK_DENIED set and counted (R453). -/
def State.lockDenied (s : State) : State := (s.put GLB_STATUS_LOCK_DENIED 1).count 0xF0

/-- Is a class held by the other master? -/
def State.lockedFor (s : State) (mgmt : Bool) (cls : Nat) : Bool := bit (s.lockHeld (!mgmt)) cls

/-- The port that a source's packets use, as an event names it. -/
def srcInst (src : Src) : Inst :=
  match src with
  | .host p _ _ => { port := some (24 + p) }
  | .side _ => {}

/-- H_RX_FRAME of a packet that came on a host port (R405). -/
def State.rxFrame (s : State) (src : Src) : State := match src with | .host p _ _ => s.hostRx p | .side _ => s

/-- Counts of datagrams that R407 discards. -/
def State.dropChembe (s : State) (src : Src) : State :=
  let s := (s.rxFrame src).countAt 0xC4 (srcInst src) 1
  match src with
  | .host p _ _ => s.bump (HPT_DROP_COUNT p) 1
  | .side _ => s

/-- Can a packet of a source arrive: its host port is up, or the Escritoire answers on the side-band (R464, R467)? -/
def State.arrives (s : State) (src : Src) : Bool :=
  match src with
  | .host p _ _ => decide (p < 2) && s.hostUp p
  | .side _ => s.mctpUp

/-- Does a command's packet reach the module: its source can send, and it is carried as its carrier requires? -/
def State.reaches (s : State) (h : Hdr) : Bool := s.arrives h.src && carried h

/-- What is noted of every command that reaches a session: H_RX_FRAME, CHEMBE_CMD, the master's last command (R453), the
session's last packet (R409), the port of the owner's last command (R417). -/
def State.heard (s : State) (src : Src) : State :=
  let s := (s.rxFrame src).countAt 0xC2 (srcInst src) 1
  let s := match src with
    | .host p _ _ =>
      let s := { s with win := { s.win with lastHost := s.time } }
      if s.isOwner src then { s with chembe := { s.chembe with ownerPort := p } } else s
    | .side _ => { s with win := { s.win with lastMgmt := s.time } }
  s.mapSessions fun x => if x.src.same src then { x with lastHeard := s.time } else x

/-- The open session that a header names: its number, on the source that opened it (R407, R409). -/
def State.sessionFor (s : State) (h : Hdr) : Option Session :=
  s.chembe.sessions.find? fun x => x.num == h.session && x.src.same h.src

/-! ## Sequence numbers (R410) -/

/-- Where a sequence number falls. -/
inductive SeqClass where
  | new | dup | outside
  deriving DecidableEq, Repr

/-- R410 on the session's window. -/
def Session.classify (x : Session) (q : Nat) : SeqClass :=
  let ahead := (q + 2 ^ 32 - x.high % 2 ^ 32) % 2 ^ 32
  let back := (x.high + 2 ^ 32 - q % 2 ^ 32) % 2 ^ 32
  if 1 ≤ ahead ∧ ahead ≤ 256 then .new
  else if back ≤ 255 then (if x.accepted.contains q then .dup else .new)
  else .outside

/-- A sequence number accepted: H rises to it where it is newer, and what has left the window goes. -/
def Session.accept (x : Session) (q : Nat) : Session :=
  let ahead := (q + 2 ^ 32 - x.high % 2 ^ 32) % 2 ^ 32
  let high := if 1 ≤ ahead ∧ ahead ≤ 256 then q else x.high
  let inside := fun (n : Nat) => decide ((high + 2 ^ 32 - n % 2 ^ 32) % 2 ^ 32 ≤ 255)
  { x with high := high, accepted := q :: x.accepted.filter inside, cache := x.cache.filter fun p => inside p.1 }

/-- The sessions with the one of a header changed. -/
def State.onSession (s : State) (h : Hdr) (f : Session → Session) : State :=
  s.mapSessions fun x => if x.num = h.session ∧ x.src.same h.src then f x else x

/-- The reply of a command. -/
def mkReply (h : Hdr) (code st : Nat) (accepted : Bool) (ps : List Byte) : Reply :=
  { dst := h.src, op := code, tag := h.tag, session := h.session, status := st, accepted := accepted, params := ps,
    msgTag := h.mctp.tag }

/-- A reply sent and, with at most 64 bytes of parameters, kept for duplicates (R410). -/
def State.answer (s : State) (h : Hdr) (code st : Nat) (ps : List Byte) : State :=
  let r := mkReply h code st false ps
  let s := s.sendReply r
  if ps.length ≤ 64 then
    s.onSession h fun x => { x with cache := (h.seq, r) :: x.cache.filter fun p => p.1 != h.seq }
  else s

/-! ## Acts -/

/-- What an accepted command does: it answers with a status and parameters; or, deferred, it has begun, with its
result where its work is done and an operand to wait on; or it waits (R421, R447). -/
inductive Act where
  | reply (s : State) (status : Nat) (params : List Byte)
  | begun (s : State) (result : Option (Nat × List Byte)) (arg : Nat)
  | hold (s : State)

/-- A plain refusal. -/
def Act.no (s : State) (status : Nat) : Act := .reply s status []

/-- A plain success. -/
def Act.ok (s : State) : Act := .reply s stSuccess []

/-- A deferred command whose work is done. -/
def Act.did (s : State) (status : Nat) (params : List Byte) : Act := .begun s (some (status, params)) 0

/-- A deferred entry added. -/
def State.addDeferred (s : State) (h : Hdr) (code : Nat) (result : Option (Nat × List Byte)) (arg : Nat) : State :=
  let d : Deferred := { src := h.src, session := h.session, seq := h.seq, tag := h.tag, op := code, result := result,
                        arg := arg, base := 0, bytes := 0 }
  { s with chembe := { s.chembe with deferred := s.chembe.deferred ++ [d] } }

/-- Is a deferred command of this header accepted and not yet reported? -/
def State.stillRuns (s : State) (h : Hdr) : Bool :=
  s.chembe.deferred.any fun d => d.src.same h.src && d.session == h.session && d.seq == h.seq

/-- An act carried out: reply, acceptance or wait. -/
def State.perform (h : Hdr) (op : OpInfo) (i : Instr) : Act → State
  | .reply s st ps => s.answer h op.code st ps
  | .begun s r a => (s.addDeferred h op.code r a).sendReply (mkReply h op.code stSuccess true [])
  | .hold s =>
    let s := { s with chembe := { s.chembe with held := s.chembe.held ++ [i] } }
    if op.deferred then (s.addDeferred h op.code none 0).sendReply (mkReply h op.code stSuccess true []) else s

/-- The refusals that come before a command acts, in this order (log 9): owner (R415, R470), presence (R418, R475),
parameters (R408, R469), lock (R453, R455), main side (R464), job state (Table 12.5). -/
def State.refusal (s : State) (h : Hdr) (op : OpInfo) (ok : Bool) : Option Nat × State :=
  let mgmt := h.src.isSide
  if op.own && !mgmt && !s.isOwner h.src then (some stNotOwner, s)
  else if op.pres && !s.presenceOpen then (some stPresence, s)
  else if !h.lenOk || !ok then (some stParam, s)
  else if (match op.cls with | some c => s.lockedFor mgmt c | none => false) then (some stLocked, s.lockDenied)
  else if op.main && !s.power.mainOk then (some stState, s)
  else (s.stateRefusal op.row, s)

/-- The command gated and carried out. -/
def State.gated (s : State) (h : Hdr) (op : OpInfo) (ok : Bool) (i : Instr) (act : State → Act) : State :=
  match s.refusal h op ok with
  | (some st, s) => s.answer h op.code st []
  | (none, s) => State.perform h op i (act s)

/-- Is a waiting command a deferred one, so that it stands among the deferred commands too (Table 12.4)? -/
def heldDeferred : Instr → Bool
  | .scrub _ _ _ _ | .digest _ _ _ => true
  | _ => false

/-- Commands accepted and not finished (R413). -/
def State.unfinished (s : State) : Nat :=
  s.chembe.deferred.length + (s.chembe.held.filter fun i => !heldDeferred i).length

/-- Commands that the ROM recovery answers beside HELLO: the other commands that open
and hold sessions, ATTEST, FW_STAGE, FW_COMMIT (R484). -/
def recoveryOps : List Nat := [0x0001, 0x0002, 0x0F00, 0x0F01, 0x0F07]

/-- A command through R407, R410 and R413 to its act. `ok` says that its parameters are in range. -/
def State.command (s : State) (h : Hdr) (op : OpInfo) (ok : Bool) (i : Instr) (act : State → Act) : State :=
  if !s.reaches h || (s.esc.recovery && !recoveryOps.contains op.code) then s
  else match s.sessionFor h with
  | none => s.dropChembe h.src
  | some x =>
    let s := s.heard h.src
    if h.version ≠ 1 then s.sendReply (mkReply h op.code stVersion false [])
    else if !h.rsvClear || h.status ≠ 0 then s.sendReply (mkReply h op.code stParam false [])
    else match x.classify h.seq with
    | .outside => s.sendReply (mkReply h op.code stSeq false [])
    | .dup =>
      let s := s.countAt 0xC3 (srcInst h.src) 1
      match x.cache.find? fun p => p.1 == h.seq with
      | some (_, r) => s.sendReply { r with msgTag := h.mctp.tag }
      | none =>
        if s.stillRuns h then s.sendReply (mkReply h op.code stSuccess true [])
        else if s.chembe.held.contains i then s
        else s.gated h op ok i act
    | .new =>
      if 512 ≤ s.unfinished then s.sendReply (mkReply h op.code stRetry false [])
      else (s.onSession h fun x => x.accept h.seq).gated h op ok i act

/-! ## Deferred completion (R412) -/

/-- COMMAND_DONE sent to the session's address: through the owner's queue or the side-band receiver's queue, or once to a
session that has neither (log 10). -/
def State.sendDone (s : State) (d : Deferred) (st : Nat) (ps : List Byte) : State :=
  let body := le 4 d.tag ++ le 2 st ++ le 2 d.op ++ ps
  let done : QEvent := { code := 3, step := s.step, time := s.stamp, body := body, seq := none }
  match d.src with
  | .host p a _ =>
    if s.isOwner d.src then s.putEvent false { done with dest := some (a, d.session) }
    else if s.hostUp p then s.send (.event false p a d.session 0 done.params)
    else s
  | .side e =>
    if (match s.esc.receiver with | some (_, r) => r == e | none => false) then s.putEvent true done
    else if s.mctpUp then s.ibi.send (.event true 0 e d.session 0 done.params)
    else s

/-- A deferred command ended: the event, and the final reply for duplicates. -/
def State.endDeferred (s : State) (d : Deferred) (st : Nat) (ps : List Byte) : State :=
  let s := { s with chembe := { s.chembe with deferred := s.chembe.deferred.erase d } }
  let s := s.sendDone d st ps
  let r : Reply := { dst := d.src, op := d.op, tag := d.tag, session := d.session, status := st, accepted := false, params := ps }
  if ps.length ≤ 64 then
    s.mapSessions fun x =>
      if x.num = d.session ∧ x.src.same d.src ∧ x.accepted.contains d.seq then
        { x with cache := (d.seq, r) :: x.cache.filter fun p => p.1 != d.seq }
      else x
  else s

/-- The result of the unfinished deferred commands of an opcode set. -/
def State.finishOp (s : State) (code st : Nat) (ps : List Byte) : State :=
  { s with chembe := { s.chembe with deferred := s.chembe.deferred.map fun d =>
      if d.op = code ∧ d.result.isNone then { d with result := some (st, ps) } else d } }

/-- A command answered at once. -/
abbrev opNow (code : Nat) (own : Bool) (row : JobRow) : OpInfo := ⟨code, own, false, false, none, row, false⟩

/-! ## Session commands (R408 to R415) -/

/-- The least number at or after `v` that no session uses, going round below 65,536; `n` bounds the search. -/
def freshNum (used : List Nat) : Nat → Nat → Nat
  | 0, v => v
  | n + 1, v => if v = 0 ∨ used.contains v then freshNum used n ((v + 1) % 65536) else v

/-- A session number that no open session has: a free value otherwise (R409, log 3). -/
def State.newSession (s : State) : State × Nat :=
  let used := s.chembe.sessions.map (·.num)
  ({ s with free := s.free + 1 }, freshNum used (used.length + 2) (Config.freeNat s.free % 65536))

/-- The session of a carrier that has been idle longest. -/
def oldestSession (xs : List Session) (side : Bool) : Option Session :=
  (xs.filter fun x => x.src.isSide == side).foldl (fun o x =>
    match o with | none => some x | some y => if x.lastHeard < y.lastHeard then some x else some y) none

/-- Room for a new session of a source: its own session is closed, and with 16 open on its carrier the one that has been
idle longest (R409). -/
def State.makeRoom (s : State) (src : Src) : State :=
  let s := s.keepSessions fun x => !x.src.same src
  if (s.chembe.sessions.filter fun x => x.src.isSide == src.isSide).length < 16 then s
  else match oldestSession s.chembe.sessions src.isSide with
    | some o => s.keepSessions fun x => x != o
    | none => s

/-- A session with no accepted numbers and H one below FIRST_SEQ (R409). -/
def freshSession (src : Src) (num firstSeq now : Nat) : Session :=
  { src := src, num := num, high := (firstSeq + 2 ^ 32 - 1) % 2 ^ 32, accepted := [], cache := [], lastHeard := now }

/-- A session added. -/
def State.addSession (s : State) (x : Session) : State :=
  ({ s with chembe := { s.chembe with sessions := s.chembe.sessions ++ [x] } } : State).noteSessions

/-- The parameters of HELLO's reply (Table 12.4). -/
def State.helloParams (s : State) (num : Nat) : List Byte :=
  le 2 num ++ le 1 s.jobState ++ le 1 (b2n s.flash.owner.isSome) ++ le 2 (s.get GLB_CONTRACT_LEVEL) ++ zeros 2
    ++ le 4 (s.get GLB_FW_VERSION_VERSION) ++ fit 16 s.flash.config.serial ++ fit 16 s.flash.config.orderCode

/-- The session of HELLO opened and told to its source. -/
def State.openSession (s : State) (h : Hdr) (firstSeq : Nat) : State :=
  let num := s.newSession.2
  let t := s.newSession.1.addSession (freshSession h.src num firstSeq s.time)
  t.sendReply (mkReply { h with session := num } 0 stSuccess false (t.helloParams num))

/-- HELLO (R409). -/
def State.hello (s : State) (h : Hdr) (firstSeq : Nat) : State :=
  if !s.reaches h then s
  else if h.session ≠ 0 ∧ (s.sessionFor h).isNone then s.dropChembe h.src
  else if h.version ≠ 1 then (s.heard h.src).sendReply (mkReply h 0 stVersion false [])
  else if !h.rsvClear || h.status ≠ 0 || !h.lenOk then (s.heard h.src).sendReply (mkReply h 0 stParam false [])
  else ((s.heard h.src).makeRoom h.src).openSession h firstSeq

/-- HELLO. -/
def execHello (h : Hdr) (_version firstSeq : Nat) (s : State) : Host.Outcome State Fault Refusal :=
  .next (s.hello h firstSeq)

/-- Does a CLAIM by an address change the owner (R453)? -/
def State.newOwner (s : State) (a : Nat) : Bool := match s.flash.owner with | some (o, _) => o != a | none => true

/-- The owner's queue numbers its events from 0 again (R416). -/
def EventQueue.renumbered (q : EventQueue) : EventQueue :=
  { q with next := 0, items := q.items.map fun e => { e with seq := none } }

/-- An address made owner, heard on host port `p`, with its second address: a change of owner frees the host's classes, and events
number from 0 (R414, R416, R453). -/
def State.claimed (s : State) (p a alt : Nat) : State :=
  let t := if s.newOwner a then s.setLock false 0 else s
  ({ t with flash := { s.flash with owner := some (a, alt) },
            chembe := { s.chembe with ownerPort := p, host := s.chembe.host.renumbered } } : State).put SEC_STATUS_OWNED 1

/-- CLAIM: the claiming source becomes the owner (R414, R416, R470). -/
def execClaim (h : Hdr) (alt : Nat) (s : State) : Host.Outcome State Fault Refusal :=
  .next (s.command h ⟨0x0001, false, true, false, none, .always, false⟩ true (.claim h alt) fun s =>
    match h.src with
    | .side _ => .no s stParam
    | .host p a _ => .ok ((s.claimed p a alt).pump false))

/-- Ownership ended (R414, R453, R480). -/
def State.endOwnership (s : State) : State :=
  let q := s.chembe.host
  let q := { q with items := q.items.drop (q.items.length - 64) }
  let s := { s with flash := { s.flash with owner := none }, chembe := { s.chembe with host := q } }
  (s.setLock false 0).put SEC_STATUS_OWNED 0

/-- RELEASE by the owner, or on the side-band (R414, R470). -/
def execRelease (h : Hdr) (s : State) : Host.Outcome State Fault Refusal :=
  .next (s.command h (opNow 0x0002 true .always) true (.release h) fun s => .ok s.endOwnership)

/-- PING returns its data. -/
def execPing (h : Hdr) (data : List Byte) (s : State) : Host.Outcome State Fault Refusal :=
  .next (s.command h (opNow 0x0003 false .always) (decide (data.length ≤ 64)) (.ping h data) fun s =>
    .reply s stSuccess data)

/-- OPCODE_UNKNOWN: an opcode outside Table 12.4, or EVENT, which the X8 alone sends (R418); a packet with an opcode of a
command is that command's own row. -/
def execOpcodeUnknown (h : Hdr) (opcode : Nat) (s : State) : Host.Outcome State Fault Refusal :=
  .next (if opcodes.contains opcode then s else s.command h (opNow opcode false .always) true (.opcodeUnknown h opcode) fun s => .no s stOpcode)

/-- LOCK: every class of the mask, or LOCKED (R452). -/
def execLock (h : Hdr) (cls : Nat) (s : State) : Host.Outcome State Fault Refusal :=
  .next (s.command h (opNow 0x0103 true .always) (decide (cls < 64)) (.lock h cls) fun s =>
    let m := h.src.isSide
    if s.lockHeld (!m) &&& cls ≠ 0 then .no s stLocked
    else
      let v := s.lockHeld m ||| cls
      .reply (s.setLock m v) stSuccess (le 4 v))

/-- UNLOCK (R452). -/
def execUnlock (h : Hdr) (cls : Nat) (s : State) : Host.Outcome State Fault Refusal :=
  .next (s.command h (opNow 0x0104 true .always) (decide (cls < 64)) (.unlock h cls) fun s =>
    let m := h.src.isSide
    let v := s.lockHeld m - (s.lockHeld m &&& cls)
    .reply (s.setLock m v) stSuccess (le 4 v))

/-- The idle time that releases a lock (Table 13.6), in ns. -/
def State.lockTimeoutNs (s : State) : Nat :=
  let t := s.get GLB_LOCK_CTRL_TIMEOUT_S
  (if t = 0 then 60 else t) * 1000000000

/-- LOCK_TIMEOUT: a master silent for TIMEOUT_S loses its classes (R453). -/
def execLockTimeout (mgmt : Bool) (s : State) : Host.Outcome State Fault Refusal :=
  let last := if mgmt then s.win.lastMgmt else s.win.lastHost
  .next (if last + s.lockTimeoutNs ≤ s.time then s.setLock mgmt 0 else s)

/-- JOB_STATUS (R424, Table 12.4). -/
def execJobStatus (h : Hdr) (s : State) : Host.Outcome State Fault Refusal :=
  .next (s.command h (opNow 0x0306 false .always) true (.jobStatus h) fun s =>
    .reply s stSuccess (le 1 s.jobState ++ zeros 1 ++ le 2 s.run.lastFault ++ le 4 s.step
      ++ le 8 (s.get2 INT_NEXT_LO_NEXT INT_NEXT_HI_NEXT)))

/-- Is a sequence number of a queue acknowledged by n: n − seq below 2^31, modulo 2^32 (R416)? -/
def ackedBy (n seq : Nat) : Bool := decide ((n + 2 ^ 32 - seq % 2 ^ 32) % 2 ^ 32 < 2 ^ 31)

/-- EVENT_ACK on the queue of its carrier (R416, R471). -/
def execEventAck (h : Hdr) (seq : Nat) (s : State) : Host.Outcome State Fault Refusal :=
  .next (s.command h (opNow 0x0601 true .always) true (.eventAck h seq) fun s =>
    let side := h.src.isSide
    let q := s.evq side
    let acts := match h.src with
      | .host _ _ _ => true
      | .side e => match s.esc.receiver with | some (_, r) => r == e | none => false
    if acts then
      .ok ((s.setEvq side { q with items := q.items.filter fun e =>
        match e.seq with | some n => !ackedBy seq n | none => true }).pump side)
    else .ok s)

/-- A new side-band receiver numbers its events from 0 (R471). -/
def State.setReceiver (s : State) (viaMask : Bool) (eid : Nat) : State :=
  let same := match s.esc.receiver with | some (_, r) => r == eid | none => false
  let s := { s with esc := { s.esc with receiver := some (viaMask, eid) } }
  if same then s
  else (s.setEvq true s.chembe.side.renumbered).pump true

/-- EVENT_MASK on the queue of its carrier; on the side-band it also names the receiver (R416, R471). -/
def execEventMask (h : Hdr) (mask : Nat) (s : State) : Host.Outcome State Fault Refusal :=
  .next (s.command h (opNow 0x0602 true .always) true (.eventMask h mask) fun s =>
    let side := h.src.isSide
    let s := s.setEvq side { s.evq side with mask := mask }
    match h.src with
    | .host _ _ _ => .ok s
    | .side e => .ok (s.setReceiver true e))

/-- Every 2 ms the oldest unacknowledged event is sent again (R416, R417). -/
def execEventResend (side : Bool) (s : State) : Host.Outcome State Fault Refusal :=
  let q := s.evq side
  .next (match q.items with
    | e :: _ =>
      match e.seq with
      | some n =>
        if q.lastSend + 2000000 ≤ s.time ∧ s.canSend side then
          (s.setEvq side { q with lastSend := s.time }).transmit side e n
        else s
      | none => s.pump side
    | [] => s)

/-- SESSION_TIMEOUT: a session silent for 60 s closes, unless it holds ownership (R409). -/
def execSessionTimeout (side : Bool) (session : Nat) (s : State) : Host.Outcome State Fault Refusal :=
  .next (s.keepSessions fun x =>
    !(x.src.isSide == side && x.num == session && decide (x.lastHeard + 60000000000 ≤ s.time) && !s.isOwner x.src))

/-- The STEP_DONE body of a step, with at most `cap` entries of LATENESS from entry FIRST (R419, Table 12.3): 1,984 on the
host ports; what LENGTH leaves room for on the side-band (R469). -/
def Report.body (r : Report) (cap first : Nat) : List Byte :=
  le 2 r.status ++ le 2 r.flags ++ le 4 r.size ++ le 8 r.duration ++ le 8 r.next ++ fit 32 r.digest
    ++ le 4 r.late.length ++ ((r.late.drop first).take cap).flatMap fun l => le 4 (ofSigned 32 l)

/-- STEP_REPORT (R419). -/
def execStepReport (h : Hdr) (step first : Nat) (s : State) : Host.Outcome State Fault Refusal :=
  .next (s.command h (opNow 0x0603 false .always) true (.stepReport h step first) fun s =>
    match s.run.reports.find? fun r => r.step == step with
    | some r => .reply s stSuccess (r.body (if h.src.isSide then 1001 else 1984) first)
    | none => .no s stParam)

/-- The session that a packet names is not open on its source; HELLO names none (R407, R409, Table 12.2). -/
def State.noSession (s : State) (p : RawPacket) : Bool :=
  let n := fld p.bytes 0x16 2
  !(fld p.bytes 6 2 == 0 && n == 0) && !s.chembe.sessions.any fun x => x.num == n && x.src.same p.src

/-- CHEMBE_REFUSED: a packet that R407 discards without a reply; any other is its command's own row. -/
def execChembeRefused (packet : RawPacket) (s : State) : Host.Outcome State Fault Refusal :=
  .next (if s.arrives packet.src && (malformed packet.bytes || s.noSession packet) then s.dropChembe packet.src else s)

end Sys2Proof.Machine
end

