-- ==== Sys2Proof/Machine/Flags.lean ====
section
/-! DEFINITION. What writers count: gauges and the flags of completion records (R315 to R319, Table 3.7). -/
namespace Sys2Proof.Machine

/-- Counts of one gauge with nothing counted. -/
def GaugeAcc.empty (g : Nat) : GaugeAcc :=
  { gauge := g, written := 0, zero := 0, sat := 0, nonfin := 0, loss := 0, emin := 0x7FFF, emax := -0x8000 }

/-- The counts of one written value v, as read back (R318). -/
def GaugeAcc.one (a : GaugeAcc) (v : XV) : GaugeAcc :=
  match v with
  | .fin _ m _ =>
    if m = 0 then { a with written := a.written + 1, zero := a.zero + 1 }
    else { a with written := a.written + 1, emin := min a.emin v.floorLog2, emax := max a.emax v.floorLog2 }
  | _ => { a with written := a.written + 1 }

/-- Two counts of one gauge together: sums, a minimum and a maximum (R321). -/
def GaugeAcc.join (a b : GaugeAcc) : GaugeAcc :=
  { gauge := a.gauge, written := a.written + b.written, zero := a.zero + b.zero, sat := a.sat + b.sat,
    nonfin := a.nonfin + b.nonfin, loss := a.loss + b.loss, emin := min a.emin b.emin, emax := max a.emax b.emax }

/-- A gauge's counts among a list. -/
def gaugeIn (gs : List GaugeAcc) (g : Nat) : GaugeAcc :=
  match gs.find? fun a => a.gauge == g with
  | some a => a
  | none => .empty g

/-- Counts added to a list of gauges. -/
def addGauge (gs : List GaugeAcc) (a : GaugeAcc) : List GaugeAcc :=
  (gaugeIn gs a.gauge).join a :: gs.filter fun b => b.gauge != a.gauge

/-- The job changed. -/
def State.mapJob (s : State) (f : Job → Job) : State := { s with job := f s.job }

/-- The run changed. -/
def State.mapRun (s : State) (f : Run → Run) : State := { s with run := f s.run }

/-- Counts that a descriptor made go to the gauge of the tensor it wrote, if the tensor names one (R317). -/
def State.gauge (s : State) (t : Tensor) (a : GaugeAcc) : State :=
  if t.gaugeEn then s.mapJob fun j => { j with gauges := addGauge j.gauges { a with gauge := t.gauge } } else s

/-- FLAGS bits of a completion record (Tables 3.7 and R311). -/
abbrev flPoison : Nat := 1
abbrev flNonfinite : Nat := 2
abbrev flSaturated : Nat := 4
abbrev flSplit : Nat := 8
abbrev flPartial : Nat := 0x10
abbrev flRootFail : Nat := 0x20
abbrev flPoisonIndex : Nat := 0x200
abbrev flTouchedCut : Nat := 0x400
abbrev flNfSkipped : Nat := 0x40
abbrev flStale : Nat := 0x80
abbrev flRescaled : Nat := 0x100

/-- POISON_OUT, NONFINITE and SATURATED from what a descriptor wrote. -/
def wroteFlags (poison nonfin sat : Nat) : Nat :=
  (if poison = 0 then 0 else flPoison) + (if nonfin = 0 then 0 else flNonfinite) + (if sat = 0 then 0 else flSaturated)

/-- The bits of SFLAGS (Table 12.3) that a record of the step sets: POISON_OUT, NONFINITE and INTAKE_SHORT. -/
def stepFlags (status flags : Nat) : Nat :=
  (if bit flags 0 then 2 else 0) + (if bit flags 1 then 4 else 0) + (if status = 2 then 8 else 0)

/-- Does a status void its step (Table 12.8)? -/
def statusVoids (st : Nat) : Bool := decide (st = 0x0201 ∨ (0x0204 ≤ st ∧ st ≤ 0x020A))

end Sys2Proof.Machine
end

