-- ==== Sys2Proof/Machine/Operands.lean ====
section
/-! DEFINITION. Operands: lines of DRAM and of the Inkwells as engines read and write them, elements of tensors with
their block scales and the poison marker (R65, R69 to R76, R95 to R104, R130, R131, R459, R522). -/
namespace Sys2Proof.Machine

/-- Where bytes lie for an engine. -/
inductive Place where
  | dram
  | ink (desk : Nat)
  deriving DecidableEq, Repr

/-- Where an engine reads a tensor: a Desk reads its own copy of INK_BOTH, any other engine Desk 0's (R103). -/
def Tensor.readPlace (t : Tensor) (eng : Nat) : Place :=
  match t.space with
  | 0 => .dram
  | 1 => .ink 0
  | 2 => .ink 1
  | _ => if eng = 1 then .ink 1 else .ink 0

/-- Where an engine writes a tensor: both copies of INK_BOTH (R103). -/
def Tensor.writePlaces (t : Tensor) : List Place :=
  match t.space with
  | 0 => [.dram]
  | 1 => [.ink 0]
  | 2 => [.ink 1]
  | _ => [.ink 0, .ink 1]

/-- Key of an Inkwell byte. -/
def inkKey (desk a : Nat) : Nat := desk * 268435456 + a

/-- Bytes of an Inkwell. -/
abbrev inkwellBytes : Nat := 0x0C000000

/-- The Inkwell bytes from a key (log 5). -/
def State.inkBytes (s : State) (key n : Nat) : List Byte := spGetN (fun _ => 0) s.mem.ink key n

/-- The first word of a line whose SECDED holds two wrong bits. -/
def State.inkUe (s : State) (key : Nat) : Option Nat :=
  (List.range 16).find? fun i => decide (2 ≤ spGet (fun _ => 0) s.mem.inkErr (key + 8 * i))

/-- Words of a line with one wrong bit. -/
def State.inkCe (s : State) (key : Nat) : Nat :=
  ((List.range 16).filter fun i => spGet (fun _ => 0) s.mem.inkErr (key + 8 * i) == 1).length

/-- Is an Inkwell line held as poison? -/
def State.inkBad (s : State) (key : Nat) : Bool := spGet (fun _ => false) s.mem.inkPoison key

/-- An Inkwell line read, with the SECDED of its words (R459). -/
def State.inkRead (s : State) (desk a : Nat) : State × LineOutcome × List Byte :=
  let key := inkKey desk a
  let s := s.countAt 0x2C { desk := some desk } 1
  let n := s.inkCe key
  let s := if n = 0 then s else (s.bump INK_CE_COUNT_COUNT n).put INK_STATUS_SRAM_CE 1
  let ue := s.inkUe key
  let s := match ue with
    | some i =>
      let s := if s.on INK_STATUS_SRAM_UE then s else
        (s.put INK_UE_ADDR_OFFSET (a + 8 * i)).put INK_UE_ADDR_DESK desk
      (s.put INK_STATUS_SRAM_UE 1).voidStep 0x0204 desk (a + 8 * i)
    | none => s
  let s := { s with mem := { s.mem with inkErr := s.mem.inkErr.filter fun p =>
    !(decide (key ≤ p.1 ∧ p.1 < key + 128) && p.2 == 1) } }
  if ue.isSome || s.inkBad key then (s, .poison, zeroLine) else (s, .good, s.inkBytes key 128)

/-- A line read by an engine of the job. `spill` says that a DMA engine reads a SPILL tensor (Table 6.3). -/
def State.takeLine (s : State) (p : Place) (a : Nat) (spill : Bool) : State × LineOutcome × List Byte :=
  match p with
  | .dram => s.lineRead a true spill
  | .ink d => s.inkRead d a

/-- Lines read, by address. -/
abbrev Lines := List (Nat × LineOutcome × List Byte)

/-- Lines read in the order given. -/
def State.takeLines (s : State) (p : Place) (as : List Nat) (spill : Bool) : State × Lines :=
  as.foldl (fun (acc : State × Lines) a =>
    let (s, o, d) := acc.1.takeLine p a spill
    (s, acc.2 ++ [(a, o, d)])) (s, [])

/-- A byte among lines read: its marker and its value. -/
def Lines.byte (c : Lines) (a : Nat) : Bool × Byte :=
  match c.find? fun l => l.1 == lineOf a with
  | some (_, o, d) => if o.marked then (true, 0) else (false, d.getD (a % 128) 0)
  | none => (false, 0)

/-- A little-endian number of `n` bytes among lines read: its marker and its value. -/
def Lines.num (c : Lines) (a n : Nat) : Bool × Nat :=
  let bs := (List.range n).map fun i => c.byte (a + i)
  (bs.any Prod.fst, leNat (bs.map Prod.snd))

/-- Runs of consecutive bytes among rising keys. -/
def byteRuns : List (Nat × Byte) → List (Nat × List Byte)
  | [] => []
  | (k, b) :: r =>
    match byteRuns r with
    | (j, bs) :: rs => if j = k + 1 then (k, b :: bs) :: rs else (k, [b]) :: (j, bs) :: rs
    | [] => [(k, [b])]

/-- Bytes written into one line: the poison pattern where `bad`, the whole line where the bytes cover it, merged
otherwise (R131, R271, R521). `nib` marks the rule writes of a Nib. -/
def State.storeLine (s : State) (p : Place) (a : Nat) (cells : List (Nat × Byte)) (bad nib : Bool) : State :=
  match p with
  | .dram =>
    if bad then s.lineStore a zeroLine true nib
    else if 128 ≤ cells.length then s.lineStore a (cells.map Prod.snd) false nib
    else
      let mask := cells.foldl (fun m x => m ||| 2 ^ (x.1 % 128)) 0
      let bytes := (List.range 128).map fun i => match cells.find? fun x => x.1 == a + i with | some x => x.2 | none => 0
      (s.mergeMask a mask bytes true nib).1
  | .ink d =>
    let key := inkKey d a
    let whole := decide (128 ≤ cells.length)
    let s := s.countAt 0x2D { desk := some d } 1
    if bad then
      { s with mem := { s.mem with ink := spClear s.mem.ink key (key + 128),
                                   inkPoison := spSet (fun _ => false) s.mem.inkPoison key true,
                                   inkErr := spClear s.mem.inkErr key (key + 128) } }
    else if s.inkBad key && !whole then s
    else
      let ink := (byteRuns cells).foldl (fun m r => spSetN (fun _ => 0) m (inkKey d r.1) r.2) s.mem.ink
      let err := if whole then spClear s.mem.inkErr key (key + 128) else s.mem.inkErr
      { s with mem := { s.mem with ink := ink, inkPoison := spSet (fun _ => false) s.mem.inkPoison key false,
                                   inkErr := err } }

/-- Cells of a line from a sorted list. -/
def cellsIn (cells : List (Nat × Byte)) (a : Nat) : List (Nat × Byte) := cells.filter fun c => lineOf c.1 == a

/-- Bytes written to a place, line by line in ascending order. `bad` lists the lines that become poison. -/
def State.storeCells (s : State) (p : Place) (cells : List (Nat × Byte)) (bad : List Nat) (nib : Bool) : State :=
  let cells := cells.mergeSort fun a b => decide (a.1 ≤ b.1)
  let ls := ((cells.map fun c => lineOf c.1) ++ bad).dedup.mergeSort fun a b => decide (a ≤ b)
  ls.foldl (fun s a => s.storeLine p a (cellsIn cells a) (bad.contains a) nib) s

/-- Consecutive bytes as cells. -/
def cellsOf (a : Nat) (bs : List Byte) : List (Nat × Byte) := bs.zipIdx.map fun x => (a + x.2, x.1)

/-! ## Elements (R65, R69 to R71, R101) -/

/-- A value as it travels through the die, with its poison marker (R130). -/
structure Val where
  mark : Bool
  x : XV
  deriving DecidableEq, Repr

/-- A tensor's lines as an engine read them. -/
structure Buf where
  t : Tensor
  elems : Lines
  scales : Lines

/-- Byte address of element `i` of row `r`. -/
def Tensor.elemAddr (t : Tensor) (r i : Nat) : Nat := t.elemBase + (r * t.p0 + i) * t.width / 8

/-- Byte address of the scale of element `i` of row `r`. -/
def Tensor.scaleAddr (t : Tensor) (r i : Nat) : Nat := t.scaleBase + r * t.rowBlocks + i / t.bsize

/-- Lines that hold elements `c` to below `c + n` of a row. -/
def Tensor.elemLines (t : Tensor) (r c n : Nat) : List Nat :=
  if n = 0 then [] else
    let a := t.elemAddr r c
    linesOf a (t.elemBase + ((r * t.p0 + c + n) * t.width + 7) / 8 - a)

/-- Lines that hold their scales. -/
def Tensor.scaleLines (t : Tensor) (r c n : Nat) : List Nat :=
  if t.blk = 0 ∨ n = 0 then [] else
    linesOf (t.scaleAddr r c) (t.scaleAddr r (c + n - 1) + 1 - t.scaleAddr r c)

/-- Rows of a tensor read by an engine, `n` elements from column `c` of each. -/
def State.readRows (s : State) (eng : Nat) (t : Tensor) (rows : List Nat) (c n : Nat) (spill : Bool) : State × Buf :=
  let p := t.readPlace eng
  let (s, e) := s.takeLines p (rows.flatMap fun r => t.elemLines r c n).dedup spill
  let (s, k) := s.takeLines p (rows.flatMap fun r => t.scaleLines r c n).dedup spill
  (s, { t := t, elems := e, scales := k })

/-- The code and the scale byte of an element, with its marker: of a poisoned line or under a poisoned scale (R130). The bits
[63:40] of a stored A40 word are ignored on read (Table 2.1). -/
def Buf.raw (b : Buf) (r i : Nat) : Bool × Nat × Nat :=
  let t := b.t
  let (m, c) := if t.width = 4 then
      let (m, v) := b.elems.num (t.elemAddr r i) 1
      (m, if i % 2 = 0 then v % 16 else v / 16)
    else b.elems.num (t.elemAddr r i) (if t.width = 64 then 5 else t.width / 8)
  if t.blk = 0 then (m, c, 0x7F)
  else
    let (k, sc) := b.scales.num (t.scaleAddr r i) 1
    (m || k, c, sc)

/-- The exact value of an element (R70). -/
def Buf.val (b : Buf) (r i : Nat) : Val :=
  let (m, c, sc) := b.raw r i
  { mark := m, x := readElem b.t.fmt b.t.blk c sc }

/-- Element `i` of an INDEX32 row. -/
def Buf.idx (b : Buf) (r i : Nat) : Bool × Nat := b.elems.num (b.t.elemAddr r i) 4

/-- Did a read of a SPILL tensor meet a FAILED DETECT line? Its address. -/
def Buf.failedAt (b : Buf) : Option Nat :=
  match (b.elems ++ b.scales).find? fun l => l.2.1 == .failed with
  | some l => some l.1
  | none => none

/-! ## Writing rows -/

/-- Codes of a row of elements as bytes (R65). -/
def codeBytes (width : Nat) : List Nat → List Byte
  | [] => []
  | [c] => if width = 4 then [BitVec.ofNat 8 (c % 16)] else le (width / 8) c
  | c :: d :: r =>
    if width = 4 then BitVec.ofNat 8 (c % 16 + 16 * (d % 16)) :: codeBytes width r
    else le (width / 8) c ++ codeBytes width (d :: r)

/-- A written stretch of one row before it reaches its lines: first column, codes, scale bytes of its blocks, the
columns that are marked, and what it counts. -/
structure RowOut where
  row : Nat
  col : Nat
  codes : List Nat
  scales : List Nat
  marks : List Nat
  gauge : GaugeAcc

/-- A list in pieces of `n`, the last one shorter; `k` bounds their number. -/
def chunks {α : Type} (n : Nat) : Nat → List α → List (List α)
  | 0, _ => []
  | k + 1, l => if l.isEmpty then [] else l.take n :: chunks n k (l.drop n)

/-- One block of values encoded (R73, R130, R522): scale, codes padded to the block, counts of what was written. -/
def encodeVals (t : Tensor) (vs : List (Val × Rnd)) : Nat × List Nat × GaugeAcc :=
  let (sc, cs, k) := encodeBlock t.fmt ((vs.filter fun v => !v.1.mark).map fun v => (v.1.x, v.2))
  let g : GaugeAcc := cs.foldl (fun g c => if sc = 0xFF then { g with written := g.written + 1 } else
    g.one (readElem t.fmt t.blk c sc)) (.empty 0)
  -- codes back in place, marked elements as 0
  let codes := (vs.foldl (fun (acc : List Nat × List Nat) v =>
    if v.1.mark then (acc.1 ++ [0], acc.2) else (acc.1 ++ [acc.2.headD 0], acc.2.tail)) ([], cs)).1
  (sc, codes ++ List.replicate (t.bsize - codes.length) 0, { g with sat := k.sat, nonfin := k.nonfin })

/-- A stretch of unblocked values encoded (R77 to R79). -/
def encodePlain (t : Tensor) (vs : List (Val × Rnd)) : List Nat × GaugeAcc :=
  vs.foldl (fun (acc : List Nat × GaugeAcc) v =>
    if v.1.mark then (acc.1 ++ [0], acc.2)
    else
      let (c, sat, nf) := encodeXV t.fmt v.2 v.1.x
      let g := acc.2.one (decode t.fmt c)
      (acc.1 ++ [c], { g with sat := g.sat + sat, nonfin := g.nonfin + nf })) ([], .empty 0)

/-- Values of one row encoded for a tensor from column `c`, a block boundary of a blocked tensor. -/
def encodeRow (t : Tensor) (r c : Nat) (vs : List (Val × Rnd)) : RowOut :=
  let marks := (vs.zipIdx.filter fun x => x.1.1.mark).map fun x => c + x.2
  if t.blk = 0 then
    let (codes, g) := encodePlain t vs
    { row := r, col := c, codes := codes, scales := [], marks := marks, gauge := g }
  else
    let bs := (chunks t.bsize vs.length vs).map (encodeVals t)
    { row := r, col := c, codes := bs.flatMap fun b => b.2.1, scales := bs.map fun b => b.1, marks := marks,
      gauge := bs.foldl (fun g b => g.join b.2.2) (.empty 0) }

/-- Cells of a row's elements. -/
def RowOut.cells (t : Tensor) (o : RowOut) : List (Nat × Byte) :=
  cellsOf (t.elemAddr o.row o.col) (codeBytes t.width o.codes)

/-- Lines that a row's marked elements turn into poison (R131). -/
def RowOut.bad (t : Tensor) (o : RowOut) : List Nat :=
  o.marks.flatMap fun i => t.elemLines o.row i 1

/-- Cells of a row's scale bytes; 0x7F where the block's line is written as poison (R131). -/
def RowOut.scaleCells (t : Tensor) (bad : List Nat) (o : RowOut) : List (Nat × Byte) :=
  o.scales.zipIdx.map fun x =>
    let i := o.col + x.2 * t.bsize
    (t.scaleAddr o.row i, if bad.contains (lineOf (t.elemAddr o.row i)) then 0x7F else BitVec.ofNat 8 x.1)

/-- Scale bytes of the blocks that lie in an element line, all 0x7F: the line is written as poison (R131). -/
def Tensor.poisonScales (t : Tensor) (a : Nat) : List (Nat × Byte) :=
  if t.blk = 0 then [] else
    let first := (a - t.elemBase) * 8 / t.width
    (List.range (1024 / t.width / t.bsize)).filterMap fun b =>
      let e := first + b * t.bsize
      if e / t.p0 < t.allocRows then some (t.scaleAddr (e / t.p0) (e % t.p0), 0x7F) else none

/-- Rows written to a tensor: elements, scales, the poisoned lines counted, and what the gauge counts. -/
def State.storeRows (s : State) (t : Tensor) (rows : List RowOut) (nib : Bool) : State × Nat × GaugeAcc :=
  let bad := (rows.flatMap fun o => o.bad t).dedup
  let cells := rows.flatMap fun o => o.cells t
  let own := rows.flatMap fun o => o.scaleCells t bad
  -- blocks of a poisoned line that this write does not cover
  let scales := own ++ (bad.flatMap t.poisonScales).filter fun x => !own.any fun y => y.1 == x.1
  let s := t.writePlaces.foldl (fun s p => (s.storeCells p cells bad nib).storeCells p scales [] nib) s
  (s, bad.length, rows.foldl (fun g o => g.join o.gauge) (.empty 0))

/-- Rounding of element `i` of row `r` of a tensor: SR with the element's own key where the descriptor asks for it and
the format is block-scaled, RNE otherwise (Table 2.5, R81, R82). -/
def State.rndOf (s : State) (t : Tensor) (sr : Bool) (r i : Nat) : Rnd :=
  if sr && t.blk != 0 then
    .sr (srWord s.run.seed t.tid (r * t.d0 + i) (if s.run.stepOn then s.step else 0xFFFFFFFF))
  else .rne

/-- A row of values with their rounding. -/
def State.withRnd (s : State) (t : Tensor) (sr : Bool) (r c : Nat) (vs : List Val) : List (Val × Rnd) :=
  vs.zipIdx.map fun x => (x.1, s.rndOf t sr r (c + x.2))

/-! ## Completion records (R133, R134) -/

/-- The 32 bytes of Table 3.7. -/
def Rec.bytes (r : Rec) (ordinal duration : Nat) : List Byte :=
  le 2 r.status ++ le 2 r.flags ++ le 4 ordinal ++ le 4 r.m ++ le 4 r.n ++ le 4 r.k ++ le 4 r.poison ++ le 4 r.kind
    ++ le 4 (min duration 0xFFFFFFFF)

/-- A record of success with nothing counted (R164). -/
def Rec.zero : Rec := { status := 0, flags := 0, m := 0, n := 0, k := 0, poison := 0, kind := 0 }

/-- A record written at STAT_ADDR: in DRAM where a region of the folio holds the address, otherwise in the running Desk's
Inkwell (Table 3.2; log 14). -/
def State.writeRecord (s : State) (eng addr : Nat) (bs : List Byte) : State :=
  let inDram := match s.folio with | some f => (regionOf f.regions addr 32).isSome | none => false
  let p := if inDram || 2 ≤ eng then Place.dram else .ink eng
  s.storeCells p (cellsOf addr bs) [] false

end Sys2Proof.Machine
end

