-- ==== Sys2Proof/Machine/JobOps.lean ====
section
/-! DEFINITION. The run of a job: semaphores, engines and their lists, completion, the beginning of a step and the ways
it ends void (R171 to R177, R266 to R270, R303 to R305, R366, R427, R428, Tables 7.8 and 10.7). -/
namespace Sys2Proof.Machine

/-! ## Shape slots -/

/-- A shape slot (R107). -/
def State.shape (s : State) (i : Nat) : Nat := spGet (fun _ => 0) s.job.slots i

/-- A shape slot written. -/
def State.setShape (s : State) (i v : Nat) : State := s.mapJob fun j => { j with slots := spSet (fun _ => 0) j.slots i (v % 2 ^ 32) }

/-! ## Semaphores (R176, R177, R270) -/

/-- INIT of a semaphore of the loaded folio. -/
def State.semInit (s : State) (i : Nat) : Nat := match s.folio with | some f => f.semInit i | none => 0

/-- A semaphore's count. -/
def State.sem (s : State) (i : Nat) : Nat := spGet s.semInit s.job.sems i

/-- A semaphore's count set. -/
def State.setSem (s : State) (i v : Nat) : State := s.mapJob fun j => { j with sems := spSet s.semInit j.sems i v }

/-- One signal at a scope. A 16-bit count that a module's peers drive past its end is a free value (log 3). -/
def State.signal (s : State) (i scope : Nat) : State :=
  let s := if scope < 3 then s.mapJob fun j => { j with narrow := if j.narrow.contains i then j.narrow else i :: j.narrow } else s
  let v := s.sem i + 1
  if v < 65536 then s.setSem i v
  else s.setSem i (Config.openSem i v % 65536)

/-- Is a descriptor's wait satisfied (R176)? -/
def State.waitOk (s : State) (d : Desc) : Bool := !d.waits || decide (d.waitValue ≤ s.sem d.waitSem)

/-- Every far copy discarded (R254, R267). -/
def State.discardFar (s : State) : State :=
  s.sbd.far.foldl (fun s x => s.countAt 0x6E (cabInst (cabOf x.2.1)) 1) { s with sbd := { s.sbd with far := [] } }

/-- A satisfied wait as an acquire at the descriptor's SCOPE (R267, R270). -/
def State.acquire (s : State) (d : Desc) : State :=
  if d.waits && d.scope == 3 then
    let s := s.discardFar
    if s.job.narrow.contains d.waitSem then (s.bump SBD_SCOPE_MISMATCH_COUNT 1).count 0x70 else s
  else s

/-! ## Engines (R170 to R172) -/

/-- An engine. -/
def State.eng (s : State) (c : Nat) : Eng :=
  match s.job.engines.find? fun e => e.code == c with
  | some e => e
  | none => { code := c, pos := 0, phase := .idle, since := 0 }

/-- An engine replaced. -/
def State.setEng (s : State) (e : Eng) : State :=
  s.mapJob fun j => { j with engines := j.engines.map fun x => if x.code = e.code then e else x }

/-- The phase of an engine set; `since` is when its descriptor started. -/
def State.setPhase (s : State) (c : Nat) (p : Phase) : State := s.setEng { s.eng c with phase := p }

/-- The descriptor at an engine's list position. -/
def State.head (s : State) (c : Nat) : Option Desc :=
  match s.folio with
  | some f => f.desc c (s.eng c).pos
  | none => none

/-- Does a ROOT stroke pass over a step that is no multiple of its layer's ROOT_PERIOD (R308)? -/
def State.rootSkips (s : State) (f : Folio) (d : Desc) : Bool :=
  let period := fld (f.layer d.layer) 0x14 2
  d.kind == 0x15 && d.layer != 0xFFFF && decide (1 < period) && s.step % period != 0

/-- Does the loader's flag elide it (R163), or does it complete as an elided one does (R308)? -/
def State.headElided (s : State) (c : Nat) : Bool :=
  match s.folio, s.head c with
  | some f, some d => f.isElided c (s.eng c).pos || s.rootSkips f d
  | _, _ => false

/-- The saved-activation record of a tensor (Table 4.5): KEEP and the three segments; none where it has none. -/
def Folio.save (f : Folio) (tid : Nat) : Option (List Byte) := (f.entries 8 0 16).find? fun e => fld e 0 2 == tid

/-- End of a tensor's replay segment in the list of Desk 0, Desk 1 (0, 1) or the DMA list (2). -/
def Folio.segEnd (f : Folio) (tid k : Nat) : Nat :=
  match f.save tid with
  | some e => fld e (4 + 4 * k) 2 + fld e (6 + 4 * k) 2
  | none => 0

/-- Strokes of a replay left for a Desk. -/
def replayLeft (f : Folio) (r : Replay) (desk : Nat) : Bool :=
  if desk = 0 then r.done0.isSome || decide (r.pos0 < f.segEnd r.tid 0) else r.done1.isSome || decide (r.pos1 < f.segEnd r.tid 1)

/-- Does a Desk run replay strokes before its next ordinary stroke (R158)? -/
def State.deskReplays (s : State) (desk : Nat) : Bool :=
  match s.folio with
  | some f => s.job.replays.any fun r => replayLeft f r desk
  | none => false

/-- May descriptors start: a step runs, and no last gasp does (R173, R397)? -/
def State.mayRun (s : State) : Bool := s.run.stepOn && s.power.gasp.isNone

/-- Time in which a Desk ran strokes over the last 1 ms (R498). -/
def State.deskBusy (s : State) (desk : Nat) : Nat :=
  ((s.power.busy.filter fun b => b.1 == desk).map fun b => b.2.2 - max b.2.1 (s.time - 1000000)).sum

/-- Does stroke gating let a Desk start a stroke (R498)? -/
def State.gateOk (s : State) (c : Nat) : Bool :=
  s.power.gate == 0 || decide (1 < c) || decide (16 * s.deskBusy c ≤ (16 - s.power.gate) * 1000000)

/-- The descriptor that an engine may start now: its wait is satisfied and the engine is free (R172, R176, R498). -/
def State.ready (s : State) (c : Nat) : Option Desc :=
  if s.mayRun && s.gateOk c && (s.eng c).phase == .idle && !(decide (c < 2) && s.deskReplays c) then
    match s.head c with
    | some d => if s.waitOk d then some d else none
    | none => none
  else none

/-- An engine's descriptor of a kind started: its wait acquires, an elided one does nothing more (R164), and any other
does its work, with the record to follow. -/
def State.startEng (s : State) (c : Nat) (kind : Nat → Bool) (work : State → Desc → State × Rec) : State :=
  match s.ready c with
  | none => s
  | some d =>
    if !kind d.kind then s
    else
      let s := (s.acquire d).setEng { s.eng c with since := s.time }
      if s.headElided c then s.setPhase c (.done .zero)
      else
        let (s, r) := work s d
        s.setPhase c (.done r)

/-- Does a micro-batch record name this descriptor as its end (R202)? -/
def Folio.isMicroEnd (f : Folio) (c i : Nat) : Bool := (f.entries 0x0D 0 16).any fun e => fld e 0 1 == c && fld e 4 4 == i

/-- A status in a completion record: a fault of the step where it voids it, its first other status otherwise; and the
flags that the step reports (R366, R428, Table 12.3). -/
def State.noteStatus (s : State) (c status flags : Nat) : State :=
  let s := if statusVoids status then s.voidStep status c 0
    else if status ≠ 0 ∧ s.run.firstStatus = 0 then s.mapRun fun r => { r with firstStatus := status } else s
  s.mapRun fun r => { r with sflags := r.sflags ||| stepFlags status flags }

/-- The list of an engine moves on past its descriptor: the signal, the micro-batch end, the next position (R134, R172,
R202). -/
def State.advance (s : State) (c : Nat) : State :=
  match s.head c with
  | none => s
  | some d =>
    let e := s.eng c
    let s := if d.signals then s.signal d.signalSem d.scope else s
    let micro := match s.folio with | some f => f.isMicroEnd c e.pos | none => false
    let s := if micro then s.mapRun fun r => { r with ends := (c, e.pos, s.time - r.stepStart) :: r.ends } else s
    s.setEng { e with pos := e.pos + 1, phase := .idle }

/-- A stroke's time kept for the gate, with what is older than 1 ms dropped (R498). -/
def State.noteBusy (s : State) (desk since : Nat) : State :=
  { s with power := { s.power with busy := (desk, since, s.time) :: s.power.busy.filter fun b => decide (s.time < b.2.2 + 1000000) } }

/-- A descriptor completes: its record, then its signal (R134). An elided one's DURATION_NS is 0 (R164). -/
def State.finishEng (s : State) (c : Nat) (r : Rec) : State :=
  match s.head c with
  | none => s
  | some d =>
    let e := s.eng c
    let dur := if s.headElided c then 0 else s.time - e.since
    let s := s.writeRecord c d.statAddr (r.bytes e.pos dur)
    let s := if c < 2 then s.noteBusy c e.since else s
    (s.noteStatus c r.status r.flags).advance c

/-- NOP: waits and signals, accesses nothing (Table 5.7). -/
def State.nop (s : State) (c : Nat) : State :=
  match s.ready c with
  | none => s
  | some d => if d.kind = 0 then (s.acquire d).advance c else s

/-- Has an engine's list completed? -/
def State.listDone (s : State) (c : Nat) : Bool :=
  match s.folio with
  | some f => decide (f.listLen c ≤ (s.eng c).pos)
  | none => true

/-! ## Step size (R303 to R305) -/

/-- NIB0_STEP_QUEUE.PENDING follows the pending values. -/
def State.notePending (s : State) : State := s.put NIB0_STEP_QUEUE_PENDING s.run.pendingSteps.length

/-- Pending values with tags below `t` discarded. -/
def State.dropPending (s : State) (t : Nat) : State :=
  (s.mapRun fun r => { r with pendingSteps := r.pendingSteps.filter fun p => decide (t ≤ p.1) }).notePending

/-- The value in effect. -/
def State.stepSize (s : State) : Nat := s.get NIB0_STEP_VALUE_STEP_SIZE

/-- Has the running step latched its step size? -/
def State.latched (s : State) : Bool := s.get NIB0_STEP_INDEX_STEP == s.step

/-- A step size latched for the running step (R304): a stale one keeps the previous value. -/
def State.latch (s : State) (value : Nat) (stale : Bool) : State :=
  let s := s.mapRun fun r => { r with pendingSteps := r.pendingSteps.filter (fun p => decide (s.step < p.1)),
                                      holdSince := none }
  let s := ((s.notePending.put NIB0_STEP_VALUE_STEP_SIZE value).put NIB0_STEP_INDEX_STEP s.step).put
    NIB0_STEP_QUEUE_STALE_NOW (b2n stale)
  let s := if stale then
      let s := (s.bump NIB0_STEP_QUEUE_STALE_COUNT 1).count 0x89
      (List.range 16).foldl (fun s c => s.put (NIB_STATUS_STALE c) 1) s
    else s
  s.markLatch value stale

/-- What START, RESTORE and STATE_WRITE do to the pending step sizes (R303). -/
def State.resetSteps (s : State) (step : Nat) : State :=
  let s := s.dropPending step
  if s.get NIB0_STEP_INDEX_STEP = step then s else s.put NIB0_STEP_INDEX_STEP 0xFFFFFFFF

/-! ## Job states and SAFE (R424, R18, R239, R240) -/

/-! ## Steps -/

/-- Everything that a step starts with (R173, R348, R362, R370). STALE_NOW speaks of the current step, so it stays only where a
replayed step has latched already (R305, Table 8.12). -/
def State.freshStep (s : State) : State :=
  let s := s.mapRun fun r =>
    { r with stepOn := true, stepStart := s.time, fault := none, firstStatus := 0, sflags := 0, ends := [],
             holdSince := none, confirmWait := false }
  let s := s.mapJob fun j =>
    { j with sems := [], narrow := [], engines := freshEngines, replays := [], found := [], replayCount := [], bound := [],
             gauges := [], layers := [], scanHits := [] }
  let s := s.mapQuill fun q =>
    { q with streams := q.streams.filter (fun x => decide (8 ≤ x.1)), sent := [], delivered := [], rx := [],
             ports := q.ports.map fun p => { p with jobSent := false, rideBytes := 0, allBytes := 0 } }
  let s := s.mapSvl fun v => { v with written := [], inputs := [], copyCount := 0, echoCount := 0, inputCount := 0 }
  let s := { s with intake := { s.intake with takes := 0, ended := [] } }
  let s := if s.latched then s else s.put NIB0_STEP_QUEUE_STALE_NOW 0
  (s.put SVL_STATUS_SHARD_TOUCHED 0).put SVL_STATUS_CONFIRM_HOLD 0

/-- Engines stopped at the heads of their lists, with nothing of the step left. -/
def State.stopLists (s : State) : State :=
  let s := s.dropHeld.dropWaiting.dropQueued
  let s := s.mapJob fun j =>
    { j with sems := [], narrow := [], engines := freshEngines, replays := [], found := [], bound := [], gauges := [], layers := [],
             scanHits := [] }
  let s := s.mapRun fun r => { r with stepOn := false, fault := none, holdSince := none, confirmWait := false }
  let s := s.mapQuill fun q => { q with streams := q.streams.filter (fun x => decide (8 ≤ x.1)), sent := [], delivered := [], rx := [] }
  let s := (List.range 16).foldl (fun s c => s.put (NIB_STATUS_BUSY c) 0) s
  (((s.put SVL_STATUS_CONFIRM_HOLD 0).put DMA_STOPPED_ENGINES 0).put DMA_BUSY_ENGINES 0).put INT_STATUS_TAKE_WAIT 0

/-- Open lines discarded and dirty lines written back (Table 7.8: job abort). -/
def State.discardOpen (s : State) : State :=
  let s := { s with sbd := { s.sbd with openLines := [] } }
  ((List.range 16).foldl (fun s c => s.noteSlots c) s).writebackAll

/-- Transmit queues flushed, and a final ACK sent on every channel; the retry buffers empty with the ACK that the peer sends in
its turn, so that no LSEQ is left out (Table 10.7, log 13). -/
def State.flushQueues (s : State) : State :=
  let s := s.mapQuill fun q => { q with handover := q.handover.map (fun x => (x.1, x.2.1, x.2.2.1, [])),
                                        chans := q.chans.map fun c => { c with waiting := [] } }
  (s.quill.chans.filter fun c => !c.toGroup && s.portUp c.port).foldl (fun s c =>
    match s.chan c.port c.peer with | some c => s.sendAck c false | none => s) s

/-- The running step is void (R366, R428): the faults seal open lines, an abort discards them; no boundary action runs;
unlanded ranges are copied again and staged frames of the step dropped (R386, R390); the job is LOADED, or SAFE where a
stack was exhausted meanwhile (R240). -/
def State.endVoid (s : State) (abort : Bool) (status unit addr : Nat) : State :=
  let t := s.step
  let s := if abort then s.discardOpen.flushQueues else s.sealAll
  let s := (s.stopLists.unsendFrom t).mapSvl fun v => { v with stages := v.stages.filter (fun x => decide (x.step < t)), echoes := [] }
  let s := s.mapRun fun r => { r with lastFault := status, stopAtEnd := false, safeAtEnd := none, halted := some t }
  let s := ((s.setJobState jsLoaded).count 0xE1).alert 0
  s.raise 2 (le 2 status ++ le 2 unit ++ le 8 addr)

/-- The running step is void, with what waited for its end; STEP_FAULT tells of the first fault that the step found (R428). -/
def State.voidNow (s : State) (abort : Bool) (status unit addr : Nat) : State :=
  let safe := s.run.safeAtEnd
  let first := s.run.fault.getD (status, unit, addr)
  let s := s.endVoid abort first.1 first.2.1 first.2.2
  match safe with
  | some c => s.enterSafe c
  | none => s

/-- Commands that write memory leave their echoes behind them (R385). -/
def State.settle (s : State) : State := s.flushEchoes

end Sys2Proof.Machine
end

