-- ==== Sys2Proof/Machine/Replays.lean ====
section
/-! DEFINITION. Activation replay: the segment of a SPILL tensor, run by both Desks and the stopped DMA engine (R155 to
R161). -/
namespace Sys2Proof.Machine

/-- Code of the replay list that an engine runs (Table 5.4). -/
def replayList (c : Nat) : Nat := if c < 2 then c else 0x80

/-- Which of its three segments an engine runs: Desk 0, Desk 1, or DMA. -/
def segNo (c : Nat) : Nat := if c < 2 then c else 2

/-- Next descriptor of a replay for an engine. -/
def Replay.pos (r : Replay) (c : Nat) : Nat := if c = 0 then r.pos0 else if c = 1 then r.pos1 else r.posD

/-- The record that an engine's replay descriptor has still to write. -/
def Replay.record (r : Replay) (c : Nat) : Option Rec := if c = 0 then r.done0 else if c = 1 then r.done1 else r.doneD

/-- A replay with an engine's position and record replaced. -/
def Replay.set (r : Replay) (c pos : Nat) (x : Option Rec) : Replay :=
  if c = 0 then { r with pos0 := pos, done0 := x } else if c = 1 then { r with pos1 := pos, done1 := x }
  else { r with posD := pos, doneD := x }

/-- The replay under way, the first found (R159), and an engine's next descriptor in it. -/
def State.replayHead (s : State) (c : Nat) : Option (Replay × Desc) :=
  match s.folio, s.job.replays with
  | some f, r :: _ =>
    if (decide (c < 2) || r.dma == c) && decide (r.pos c < f.segEnd r.tid (segNo c)) then
      match f.replayDesc (replayList c) (r.pos c) with
      | some d => some (r, d)
      | none => none
    else none
  | _, _ => none

/-- Has every descriptor of a segment completed (R158)? -/
def segDone (f : Folio) (r : Replay) : Bool :=
  decide (f.segEnd r.tid 0 ≤ r.pos0 ∧ f.segEnd r.tid 1 ≤ r.pos1 ∧ f.segEnd r.tid 2 ≤ r.posD)

/-- The replay under way replaced. -/
def State.setReplay (s : State) (r : Replay) : State :=
  s.mapJob fun j => { j with replays := r :: j.replays.drop 1 }

/-- The replay descriptor that an engine may start: a Desk between strokes, or the stopped DMA engine. -/
def State.replayReady (s : State) (c : Nat) : Option (Replay × Desc) :=
  let free := if c < 2 then (s.eng c).phase == .idle else match (s.eng c).phase with | .stopped _ => true | _ => false
  if s.mayRun && s.gateOk c && free then
    match s.replayHead c with
    | some (r, d) => if (r.record c).isNone && s.waitOk d then some (r, d) else none
    | none => none
  else none

/-- A replay descriptor's work done without a gauge (R160), with its record to follow. -/
def State.replayWork (s : State) (c : Nat) (r : Replay) (d : Desc) (work : State → Desc → State × Rec) : State :=
  let gauges := s.job.gauges
  let s := (s.acquire d).setEng { s.eng c with since := s.time }
  let (s, x) := work s d
  let s := s.mapJob fun j => { j with gauges := gauges }
  (s.countAt 0x2A (if c < 2 then { desk := some c } else {}) 1).setReplay (r.set c (r.pos c) (some x))

/-- The next record of the replay record area (R160), word by word: the Secretaries write the area with word operations
(R255). -/
def State.logReplay (s : State) (bs : List Byte) : State :=
  let a := replayBase + 32 * (s.job.replayRecs % 4194304)
  ((List.range 4).foldl (fun s i => (s.wordOp (a + 8 * i) (wordNew 2 (fld bs (8 * i) 8) 0) true).1) s).mapJob fun j =>
    { j with replayRecs := j.replayRecs + 1 }

/-- A replay descriptor completes: its record in the replay record area, its signal, the next position. -/
def State.replayDone (s : State) (c : Nat) : State :=
  match s.replayHead c with
  | none => s
  | some (r, d) =>
    match r.record c with
    | none => s
    | some x =>
      let s := s.logReplay (x.bytes (r.pos c) (s.time - (s.eng c).since))
      let s := if c < 2 then s.noteBusy c (s.eng c).since else s
      let s := if statusVoids x.status then s.voidStep x.status c 0 else s
      let s := if d.signals then s.signal d.signalSem d.scope else s
      s.setReplay (r.set c (r.pos c + 1) none)

/-- Has an engine a replay record to write? -/
def State.replayPending (s : State) (c : Nat) : Bool :=
  match s.replayHead c with
  | some (r, _) => (r.record c).isSome
  | none => false

/-- A NOP of a replay list (Table 5.7). -/
def State.replayNop (s : State) (c : Nat) : State :=
  match s.replayReady c with
  | some (r, d) =>
    if d.kind = 0 then
      let s := s.acquire d
      let s := if d.signals then s.signal d.signalSem d.scope else s
      s.setReplay (r.set c (r.pos c + 1) none)
    else s
  | none => s

/-- A descriptor of some kinds started by a Desk or a DMA engine: a replay descriptor first (R158). -/
def State.startOrReplay (s : State) (c : Nat) (kind : Nat → Bool) (work : Bool → State → Desc → State × Rec) : State :=
  match s.replayReady c with
  | some (r, d) => if kind d.kind then s.replayWork c r d (work true) else s
  | none => s.startEng c kind (work false)

end Sys2Proof.Machine
end

