-- ==== Sys2Proof/Machine/Blotter.lean ====
section
/-! DEFINITION. What all strokes share: runtime extents, the split over the Desks, function tables, fused functions and
derivatives, row statistics, the writing of rows, and how a stroke starts, waits for its table and completes (R107 to
R111, R117, R125 to R139, R149 to R153). -/
namespace Sys2Proof.Machine

/-! ## Values with their clamps -/

/-- A value, and how many times it clamped at F32 on its way (R137, R318). -/
abbrev BVal := Val × Nat

/-- round_f32 of a value (R77). -/
def rF32 (v : Val) : BVal :=
  (⟨v.mark, roundXV fF32 v.x⟩,
   if v.mark then 0 else match v.x with | .fin n m e => b2n (roundQ fF32 .rne n m 1 e).2 | _ => 0)

/-- An operation of two values, with its rounding to F32. -/
def opF32 (op : XV → XV → XV) (a b : Val) : BVal := rF32 ⟨a.mark || b.mark, op a.x b.x⟩

/-- round_a40 of an operation. -/
def opA40 (op : XV → XV → XV) (a b : Val) : Val := ⟨a.mark || b.mark, roundA40 (op a.x b.x)⟩

/-- The larger of two values: NaN if either is, +0 above -0 (R111, R113). -/
def maxXV (a b : XV) : XV :=
  match a, b with
  | .nan, _ => .nan
  | _, .nan => .nan
  | a, b => if a.lt b || (a.eqv b && a.isNeg) then b else a

/-- The smaller. -/
def minXV (a b : XV) : XV := (maxXV a.negate b.negate).negate

/-- a40_sum: from +0 in ascending order, each add rounded (R113). -/
def sumA40 (vs : List Val) : Val := vs.foldl (opA40 XV.add) ⟨false, .zero⟩

/-- A quotient rounded to F32. -/
def divF32 (a b : Val) : BVal :=
  let (x, c) := divRound fF32 a.x b.x
  (⟨a.mark || b.mark, x⟩, b2n (c && !(a.mark || b.mark)))

/-! ## Function tables (R136 to R139) -/

/-- table_eval of an image (R137). -/
def tableEval (img : List Byte) (v : Val) : BVal :=
  match v.x with
  | .nan => (⟨v.mark, .nan⟩, 0)
  | .inf n => (⟨v.mark, decode fF32 (fld img (if n then 8 else 4) 4)⟩, 0)
  | .fin n _ _ =>
    let code := (encodeXV fF32 .rne v.x).1
    let (x, c0) := rF32 v
    let sg := b2n n
    let band : Int := if x.x.isZero then -1 else x.x.floorLog2 - toSigned 8 (fld img 2 1)
    let seg := if band < 0 then sg * 128 else if 15 < band then sg * 128 + 127
      else sg * 128 + band.toNat * 8 + code / 2 ^ 20 % 8
    let co := fun (i : Nat) => (⟨v.mark, decode fF32 (fld img (16 + 16 * seg + 4 * i) 4)⟩ : Val)
    let step := fun (y : BVal) (i : Nat) =>
      let (p, c1) := opF32 XV.mul y.1 x
      let (q, c2) := opF32 XV.add p (co i)
      (q, y.2 + c1 + c2)
    [2, 1, 0].foldl step (co 3, c0)

/-- The bank that a stroke binds for a version: of two, the one written more recently (R139). -/
def State.bankFor (s : State) (table version : Nat) : Option Nat :=
  let has := fun (i : Nat) => let b := s.job.banks.getD i ⟨0, [], 0⟩; b.order != 0 && b.version == version
  let newer := decide ((s.job.banks.getD (2 * table) ⟨0, [], 0⟩).order < (s.job.banks.getD (2 * table + 1) ⟨0, [], 0⟩).order)
  match has (2 * table), has (2 * table + 1) with
  | true, true => some (2 * table + b2n newer)
  | true, false => some (2 * table)
  | false, true => some (2 * table + 1)
  | false, false => none

/-- fn(s) of Table 3.6. -/
def fuse (func : Nat) (img : List Byte) (v : Val) : BVal :=
  match func with
  | 1 => (if v.x = .nan then v else if XV.lt .zero v.x then v else { v with x := .zero }, 0)
  | 2 => tableEval img v
  | 3 =>
    let (x, c) := rF32 v
    let (y, e) := tableEval img v
    let (z, g) := opF32 XV.mul x y
    (z, c + e + g)
  | 4 => (opA40 XV.mul v v, 0)
  | _ => (v, 0)

/-- 1 and 2 as values. -/
def Val.one : Val := ⟨false, .fin false 1 0⟩
def Val.two : Val := ⟨false, .fin false 1 1⟩

/-- The derivative d of a saved element (Table 4.3). -/
def derivative (code : Nat) (img : List Byte) (a : Val) : BVal :=
  if code = 1 then tableEval img a
  else
    let (v, c0) := rF32 a
    match code with
    | 2 | 3 => (if v.x = .nan then v else ⟨v.mark, if XV.lt .zero v.x then .fin false 1 0 else .zero⟩, c0)
    | 4 => let (t, c1) := opF32 XV.sub .one v; let (d, c2) := opF32 XV.mul v t; (d, c0 + c1 + c2)
    | 5 => let (t, c1) := opF32 XV.mul v v; let (d, c2) := opF32 XV.sub .one t; (d, c0 + c1 + c2)
    | _ => let (d, c1) := opF32 XV.mul .two v; (d, c0 + c1)

/-- R152: the derivative multiplied in. -/
def fuseDeriv (code : Nat) (img : List Byte) (s a : Val) : BVal :=
  let (d, c) := derivative code img a
  (opA40 XV.mul s d, c)

/-! ## Extents (R107, R117, R125 to R128) -/

/-- Runtime extents, and whether one of them runs as slices of its plan bound (R128). -/
structure Extents where
  m : Nat
  n : Nat
  k : Nat
  split : Bool

/-- Is an extent above its plan bound accepted (R128)? -/
def overflowOk (f : Folio) (d : Desc) (x run : Nat) : Bool :=
  let ts := (extentUses d x).filterMap fun u => (f.tensor (fld d u.1 2)).map fun t => (t, u.2)
  d.overflowSplit && !ts.isEmpty && ts.all fun u => u.1.rank - 1 == u.2 && decide (run ≤ u.1.outerAlloc)

/-- The runtime extents that a stroke reads; none where one of them ends it with SHAPE_EXCEEDS_PLAN (R127). -/
def State.extents (s : State) (f : Folio) (d : Desc) : Extents × Bool :=
  let run := fun (slot plan : Nat) => if slot = 0 then plan else s.shape slot
  let m := run d.mSlot d.mPlan
  let n := run d.nSlot d.nPlan
  let k := run d.kSlot d.kPlan
  let excess := [(0, m, d.mPlan), (1, n, d.nPlan), (2, k, d.kPlan)].filter fun x => decide (x.2.2 < x.2.1)
  (⟨m, n, k, !excess.isEmpty⟩, excess.all fun x => overflowOk f d x.1 x.2.1)

/-- Rows of one slice that a share takes (R117). -/
def sharePart (share first n : Nat) : List Nat :=
  let h := ceilDiv n 2
  (List.range n).filterMap fun i =>
    if share = 0 || (share == 1) == decide (i < h) then some (first + i) else none

/-- Rows that a Desk's share takes of each slice of the plan bound; one slice where the extent does not overflow (R117,
R128). -/
def deskSlices (d : Desc) (total plan : Nat) : List (List Nat) :=
  if plan < total ∧ 0 < plan then
    (List.range (ceilDiv total plan)).map fun i => sharePart d.share (i * plan) (min plan (total - i * plan))
  else [sharePart d.share 0 total]

/-- Rows that a Desk's share takes, slice by slice. -/
def deskRows (d : Desc) (total plan : Nat) : List Nat := (deskSlices d total plan).flatMap id

/-! ## A stroke at work -/

/-- What a stroke works with: Desk, folio, descriptor, extents, table image. -/
structure Stroke where
  desk : Nat
  f : Folio
  d : Desc
  x : Extents
  img : List Byte

/-- A tensor that the stroke names. -/
def Stroke.tensor (k : Stroke) (o : Nat) : Option Tensor := k.f.tensor (fld k.d o 2)

/-- A tensor that its kind requires. -/
def Stroke.need (k : Stroke) (o : Nat) : Tensor := (k.tensor o).getD (parseTensor [])

/-- Rows of one tensor read by the Desk. -/
def State.strokeRows (s : State) (k : Stroke) (t : Tensor) (rows : List Nat) (n : Nat) : State × Buf :=
  s.readRows k.desk t rows 0 n false

/-- `n` values of a row of what was read. -/
def Buf.row (b : Buf) (r n : Nat) : List Val := (List.range n).map fun i => b.val r i

/-- The record of a stroke with its extents and shape (Table 3.7). -/
def Stroke.record (k : Stroke) (status flags poison kind : Nat) : Rec :=
  { status := status, flags := flags ||| (if k.x.split && status != 0x0202 then flSplit else 0) ||| (k.d.shape * 64),
    m := k.x.m, n := k.x.n, k := k.x.k, poison := poison, kind := kind }

/-- Values as a row of the output, in the rounding mode of Table 2.5 (R109 step 5). -/
def State.outRow (s : State) (k : Stroke) (t : Tensor) (r : Nat) (vs : List Val) : RowOut :=
  encodeRow t r 0 (s.withRnd t k.d.sr r 0 vs)

/-- A copied row: the output, and the non-finite values that it holds (R97, R112, R114). -/
def Buf.copyRow (b : Buf) (t : Tensor) (src dst n : Nat) : RowOut × Nat :=
  let xs := (List.range n).map fun i => b.raw src i
  let cut := if t.blk = 0 then max 1 n else t.bsize
  let one := fun (ys : List (Bool × Nat × Nat)) =>
    let codes := ys.map fun y => if y.1 then 0 else y.2.1
    (match ys.find? fun y => !y.1 with | some y => y.2.2 | none => 0x7F,
     if t.blk = 0 then codes else codes ++ List.replicate (t.bsize - codes.length) 0)
  let bs := (chunks cut n xs).map one
  let vals := (xs.filter fun x => !x.1).map fun x => readElem t.fmt t.blk x.2.1 x.2.2
  ({ row := dst, col := 0, codes := bs.flatMap Prod.snd, scales := if t.blk = 0 then [] else bs.map Prod.fst,
     marks := (xs.zipIdx.filter fun x => x.1.1).map Prod.snd, gauge := vals.foldl GaugeAcc.one (.empty 0) },
   (vals.filter fun v => !v.isFin).length)

/-- Rows written to the output: memory, gauge with the clamps on the way, and the figures of the record: poisoned lines,
non-finite values (`nf` of them copied), saturations. -/
def State.putRows (s : State) (t : Tensor) (rows : List RowOut) (nf clamps : Nat) : State × Nat × Nat × Nat :=
  let (s, bad, g) := s.storeRows t rows false
  let g := { g with sat := g.sat + clamps }
  (s.gauge t g, bad, g.nonfin + nf, g.sat)

/-- Do two tensors share format and block size, so that rows copy verbatim (R97)? -/
def sameForm (a b : Tensor) : Bool := a.fmt == b.fmt && a.blk == b.blk

/-! ## Row statistics (R111) -/

/-- Width of a quarter under the FULL division (R119). -/
def quarterWidth (t : Tensor) (cols : Nat) : Nat := let b := max 16 t.bsize; b * ceilDiv cols (4 * b)

/-- ⊕ of a ROWOP. -/
def rowOp (op : Nat) (a b : Val) : Val := if op = 1 then ⟨a.mark || b.mark, maxXV a.x b.x⟩ else opA40 XV.add a b

/-- The statistic of one row of written values. -/
def rowStat (op w : Nat) (vs : List Val) : Val :=
  let start : Val := ⟨false, if op = 1 then .inf true else .zero⟩
  let part := fun (q : Nat) => ((vs.drop (q * w)).take w).foldl (fun a v => rowOp op a (if op = 3 then opA40 XV.mul v v else v)) start
  rowOp op (rowOp op (rowOp op (part 0) (part 1)) (part 2)) (part 3)

/-- A row as the output holds it: the values written, marked where their line was written as poison. -/
def RowOut.held (t : Tensor) (bad : List Nat) (o : RowOut) (n : Nat) : List Val :=
  (o.codes.take n).zipIdx.map fun c =>
    ⟨bad.contains (lineOf (t.elemAddr o.row (o.col + c.2))) || o.marks.contains (o.col + c.2),
     readElem t.fmt t.blk c.1 (o.scales.getD (c.2 / t.bsize) 0x7F)⟩

/-! ## Starting, waiting, completing -/

/-- A stroke's work: its record. `fault` is a parity mismatch in the arrays (R54). -/
abbrev StrokeWork := State → Stroke → State × Rec

/-- Standing weights of a Desk (R144). -/
def State.standing (s : State) (desk : Nat) : Option Standing := if desk = 0 then s.job.standing0 else s.job.standing1

/-- Standing weights set. -/
def State.setStanding (s : State) (desk : Nat) (x : Option Standing) : State :=
  s.mapJob fun j => if desk = 0 then { j with standing0 := x } else { j with standing1 := x }

/-- An MM or ROOT stroke that does no work ends the Desk's standing weights all the same (R144 condition 5). -/
def State.endStanding (s : State) (desk : Nat) (d : Desc) : State :=
  if d.kind = 0x10 ∨ d.kind = 0x15 then s.setStanding desk none else s

/-- Extents first, then the work (R107, R125, R127): `empty` says which zero extents make a no-op. -/
def State.strokeRun (s : State) (desk : Nat) (f : Folio) (d : Desc) (bank : Option Nat) (empty : Stroke → Bool)
    (work : StrokeWork) : State × Rec :=
  let (x, ok) := s.extents f d
  let img := match bank with | some b => (s.job.banks.getD b ⟨0, [], 0⟩).image | none => []
  let k : Stroke := { desk := desk, f := f, d := d, x := x, img := img }
  let i : Inst := { desk := some desk }
  if !ok then ((s.endStanding desk d).countAt 0x12 i 1, k.record 0x0202 0 0 0)
  else
    let s := if x.split then s.countAt 0x13 i 1 else s
    if empty k then ((s.endStanding desk d).countAt 0x11 i 1, k.record 0 0 0 0)
    else
      let (s, r) := work s k
      (s.countAt 0x14 i r.poison, r)

/-- Is the table that a descriptor evaluates there? The bank; `some none` where it evaluates none. -/
def State.bindTable (s : State) (d : Desc) : Option (Option Nat) :=
  if usesTable d then (s.bankFor d.ftable d.tableVer).map some else some none

/-- A Desk's stroke bound to a bank until it completes (R139). -/
def State.bound (s : State) (c : Nat) (bank : Option Nat) : State :=
  match bank with
  | some b => s.mapJob fun j => { j with bound := (c, b) :: j.bound }
  | none => s

/-- A Desk's stroke no longer bound. -/
def State.unbind (s : State) (c : Nat) : State := s.mapJob fun j => { j with bound := j.bound.filter fun b => b.1 != c }

/-- A Desk's head descriptor whose wait is satisfied does its work, or holds the Blotters for its table (R139). -/
def State.strokeBegin (s : State) (c : Nat) (f : Folio) (d : Desc) (empty : Stroke → Bool) (work : StrokeWork) : State :=
  match s.bindTable d with
  | none => (s.setPhase c .heldTable).countAt 0x16 { desk := some c } 1
  | some bank =>
    let (s, r) := (s.bound c bank).strokeRun c f d bank empty work
    s.setPhase c (.done r)

/-- Is a Desk busy with a stroke that takes time (Table 9.3): one of its list that is not elided, or one of a replay? -/
def State.strokeBusy (s : State) (desk : Nat) : Bool :=
  s.replayPending desk || (!((s.eng desk).phase == .idle) && !s.headElided desk)

/-- A stroke of a kind on a Desk: a replay stroke first (R158, R160), or the head of its list. An
elided one leaves FLAGS 0 in its record: R164 gives STATUS, the runs and DURATION_NS alone (DESIGN CHOICE, log 104). -/
def State.stroke (s : State) (c kind : Nat) (empty : Stroke → Bool) (work : StrokeWork) : State :=
  if 2 ≤ c then s
  else match s.folio with
  | none => s
  | some f =>
    match s.replayReady c with
    | some (r, d) =>
      if d.kind ≠ kind then s
      else match s.bindTable d with
      | none => s
      | some bank =>
        let s := (((s.bound c bank).setStanding c none).countAt 0x1F { desk := some c } 1).replayWork c r d fun s d => s.strokeRun c f d bank empty work
        (s.setStanding c none).settle
    | none =>
      match s.ready c with
      | none => s
      | some d =>
        if d.kind ≠ kind then s
        else
          let s := (s.acquire d).setEng { s.eng c with since := s.time }
          (if s.headElided c then s.setPhase c (.done .zero)
           else (s.countAt 0x1F { desk := some c } 1).strokeBegin c f d empty work).settle

/-- STROKE_DONE: the record, then the signal (R134); its table is free. A SCATTER whose exact adds wait holds its Blotters,
and so is not done (R264, R266). -/
def execStrokeDone (desk : Nat) (s : State) : Host.Outcome State Fault Refusal :=
  .next (if decide (2 ≤ desk) || s.addsWait (.engine desk) then s
    else if s.replayPending desk then ((s.replayDone desk).unbind desk).settle
    else match (s.eng desk).phase with
    | .done r => (((s.finishEng desk r).unbind desk).countAt 0x10 { desk := some desk } 1).settle
    | _ => s)

/-- NOP (Table 5.7). -/
def execNop (engine : Nat) (s : State) : Host.Outcome State Fault Refusal :=
  .next (match s.replayReady engine with
    | some _ => s.replayNop engine
    | none => s.nop engine)

end Sys2Proof.Machine
end

