-- ==== Sys2Proof/Machine/LoadOrder.lean ====
section
/-! DEFINITION. How the loader decides order: what descriptors access, elision, the order relation, and checks 15 to 18
(R140, R156, R157, R163, R193, R194, R196, R524, Tables 5.13 and 5.15a). -/
namespace Sys2Proof.Machine

/-! ## Nodes and order (R194) -/

/-- A descriptor of the lists: engine code, index, bytes. -/
structure Node where
  eng : Nat
  idx : Nat
  d : Desc
  deriving DecidableEq, Repr

/-- The descriptors of the lists in ascending (engine code, index). -/
def Folio.nodes (f : Folio) : List Node :=
  engineCodes.flatMap fun c => (f.entries 6 c 64).zipIdx.map fun p => ⟨c, p.2, p.1⟩

/-- An edge between nodes: from, to, and the scope at which it orders; 4 within one list. -/
abbrev Edge := Nat × Nat × Nat

/-- Edges of list order. -/
def listEdges (ns : List Node) : List Edge :=
  (List.range ns.length).filterMap fun i =>
    match ns[i]?, ns[i + 1]? with
    | some a, some b => if a.eng = b.eng then some (i, i + 1, 4) else none
    | _, _ => none

/-- What one round of edges adds to a set of nodes. -/
def expand (es : List Edge) (seen : List Nat) : List Nat :=
  (seen ++ (es.filter fun e => seen.contains e.1).map fun e => e.2.1).dedup

/-- The nodes that a path leads to from a node, itself among them; `n` bounds the rounds. -/
def reachGo (es : List Edge) : Nat → List Nat → List Nat
  | 0, seen => seen
  | n + 1, seen => reachGo es n (expand es seen)

/-- Is node `a` ordered before node `b` by edges of at least a scope? -/
def ordered (n : Nat) (es : List Edge) (scope a b : Nat) : Bool :=
  a != b && (reachGo (es.filter fun e => decide (scope ≤ e.2.2)) n [a]).contains b

/-- May a signal of node `a` be counted on by the wait of node `b` (R194, link 2)? -/
def linkHolds (f : Folio) (ns : List Node) (es : List Edge) (a b : Nat) : Bool :=
  match ns[a]?, ns[b]? with
  | some x, some y =>
    let sem := y.d.waitSem
    let init := f.semInit sem
    let remote := match f.sec 5 0 with | some z => fld z.bytes (4 * sem + 2) 2 | none => 0
    let others := (List.range ns.length).filter fun c =>
      c != a && c != b && (match ns[c]? with | some z => z.d.signals && z.d.signalSem == sem | none => false)
        && !ordered ns.length es 0 b c
    a != b && x.d.signals && y.d.waits && x.d.signalSem == sem && decide (init < y.d.waitValue)
      && decide (remote + others.length < y.d.waitValue - init)
  | _, _ => false

/-- Every semaphore link that holds under the edges found so far. -/
def linksUnder (f : Folio) (ns : List Node) (es : List Edge) : List Edge :=
  (List.range ns.length).flatMap fun a => (List.range ns.length).filterMap fun b =>
    if linkHolds f ns es a b then
      match ns[a]?, ns[b]? with
      | some x, some y => some (a, b, min x.d.scope y.d.scope)
      | _, _ => none
    else none

/-- The least relation closed under both links; `n` bounds the rounds. -/
def closeLinks (f : Folio) (ns : List Node) : Nat → List Edge → List Edge
  | 0, es => es
  | n + 1, es =>
    let es' := listEdges ns ++ linksUnder f ns es
    if es' = es then es else closeLinks f ns n es'

/-- The order of a folio: its nodes and its edges. -/
structure Order where
  ns : List Node
  es : List Edge
  deriving DecidableEq, Repr

/-- The order that the loader finds. -/
def Folio.order (f : Folio) : Order :=
  let ns := f.nodes
  ⟨ns, closeLinks f ns (ns.length * ns.length + 1) (listEdges ns)⟩

/-- Is node `a` ordered before node `b` at all? -/
def Order.before (o : Order) (a b : Nat) : Bool := ordered o.ns.length o.es 0 a b

/-! ## Tensors read and written -/

/-- Tensors that a Nib descriptor reads (Tables 5.11 and 8.2). -/
def nibReads (f : Folio) (d : Desc) : List Nat := fld (f.layer d.nLayer) 0x10 2 :: d.nTouched :: stateTids (f.layer d.nLayer)

/-- Tensors that a descriptor reads, but for a root status and the sums that a stroke goes on from. -/
def readsOf (f : Folio) (d : Desc) : List Nat :=
  (match d.kind with
    | 0x10 => [d.tidA, d.tidB, d.tidAux]
    | 0x11 => [d.tidA, d.tidB]
    | 0x12 => [d.tidA, d.tidB, d.tidAux, d.tidStats]
    | 0x13 => [d.tidA, d.tidB]
    | 0x14 => [d.tidA, d.tidB]
    | 0x15 => [d.tidA]
    | 0x20 => [fld d 8 2]
    | 0x21 => [fld d 8 2]
    | 0x22 => [fld d 8 2]
    | 0x30 => [d.qSrc]
    | 0x31 => [d.qSrc]
    | 0x32 => [d.qSrc]
    | 0x40 => nibReads f d
    | 0x41 => nibReads f d
    | _ => []).filter (· != 0xFFFF)

/-- The same with the output that an ACCUM stroke goes on from. -/
def readsAll (f : Folio) (d : Desc) : List Nat :=
  readsOf f d ++ (if decide (0x10 ≤ d.kind ∧ d.kind < 0x20) && d.accum then [d.tidC] else [])

/-- Tensors that a descriptor writes. -/
def writesOf (f : Folio) (d : Desc) : List Nat :=
  (match d.kind with
    | 0x10 => [d.tidC, d.tidStats]
    | 0x11 => [d.tidC]
    | 0x12 => [d.tidC]
    | 0x13 => [d.tidC]
    | 0x14 => [d.tidC, d.tidAux]
    | 0x15 => [d.tidC, d.tidAux]
    | 0x20 => [fld d 0x0A 2]
    | 0x23 => [fld d 0x0A 2]
    | 0x24 => [fld d 0x0A 2]
    | 0x40 => stateTids (f.layer d.nLayer)
    | 0x41 => stateTids (f.layer d.nLayer)
    | _ => []).filter (· != 0xFFFF)

/-- Shape slots that a descriptor reads. -/
def slotsRead (d : Desc) : List Nat :=
  (if 0x10 ≤ d.kind ∧ d.kind < 0x20 then [d.mSlot, d.nSlot, d.kSlot] else if d.kind = 0x20 ∨ d.kind = 0x23 then [d.extSlot] else []).filter (· != 0)

/-- Shape slots that a descriptor writes. -/
def slotsWritten (d : Desc) : List Nat := if d.kind = 0x22 ∨ d.kind = 0x24 then [d.kspec] else []

/-! ## Elision (R163) -/

/-- Does a descriptor name a FROZEN layer in a Nib list? -/
def frozenNib (f : Folio) (d : Desc) : Bool := (d.kind == 0x40 || d.kind == 0x41) && bit (fld (f.layer d.nLayer) 0 2) 0

/-- Rule 1: weight gradients of FROZEN layers. -/
def elideOne (f : Folio) (n : Node) : Bool :=
  n.d.kind == 0x10 && n.d.dir == 2 && n.d.layer != 0xFFFF && bit (fld (f.layer n.d.layer) 0 2) 0

/-- May rule 2 elide a kind? -/
def elidable (kd : Nat) : Bool := decide (0x10 ≤ kd ∧ kd ≤ 0x15) || kd == 0x20 || kd == 0x22 || kd == 0x23

/-- The two descriptors of a pair (R117): the same position among the strokes of their shares. -/
def partners (f : Folio) (a b : Node) : Bool :=
  decide (0x10 ≤ a.d.kind ∧ a.d.kind ≤ 0x15) && a.d.share != 0 && b.d.share == 3 - a.d.share && a.eng + b.eng == 1
    && decide (0x10 ≤ b.d.kind ∧ b.d.kind ≤ 0x15)
    && (sharesIn f 6 a.eng a.d.share a.idx).length == (sharesIn f 6 b.eng b.d.share b.idx).length

/-- The descriptors of the replay lists. -/
def Folio.replayDescs (f : Folio) : List Desc := (f.secs.filter fun x => x.typ == 7).flatMap fun x => (List.range x.count).map (x.entry 64)

/-- Rule 2 with a set of elided nodes: every output of the node has a reader, and every reader is elided or a Nib
descriptor of a FROZEN layer; a replay list's descriptor is neither. A descriptor and its pair are no readers of their own
outputs (log 20). -/
def elideTwo (f : Folio) (ns : List Node) (gone : List (Nat × Nat)) (n : Node) : Bool :=
  let others := ns.filter fun m => !(m.eng == n.eng && m.idx == n.idx) && !partners f n m
  let quiet := fun (rs : List Node) => !rs.isEmpty && rs.all fun m => gone.contains (m.eng, m.idx) || frozenNib f m.d
  let kept := fun (p : Desc → Bool) => !f.replayDescs.any p
  let outs := (writesOf f n.d).map fun t => others.filter fun m => (readsAll f m.d).contains t
  let slots := (slotsWritten n.d).map fun x => others.filter fun m => (slotsRead m.d).contains x
  elidable n.d.kind && !(outs ++ slots).isEmpty && (outs ++ slots).all quiet
    && kept (fun d => (readsAll f d).any (writesOf f n.d).contains || (slotsRead d).any (slotsWritten n.d).contains)

/-- Rule 2 repeated until nothing more qualifies; `k` bounds the rounds. -/
def elideGo (f : Folio) (ns : List Node) : Nat → List (Nat × Nat) → List (Nat × Nat)
  | 0, gone => gone
  | k + 1, gone =>
    let more := (ns.filter fun n => !gone.contains (n.eng, n.idx) && elideTwo f ns gone n).map fun n => (n.eng, n.idx)
    if more.isEmpty then gone else elideGo f ns k (gone ++ more)

/-- R190 after check 14: descriptors elided. -/
def Folio.elide (f : Folio) : Folio :=
  let ns := f.nodes
  { f with elided := elideGo f ns (ns.length + 1) ((ns.filter (elideOne f)).map fun n => (n.eng, n.idx)) }

/-! ## Accesses (R193, R524) -/

/-- An access: place 0 DRAM, 1 or 2 a Desk's Inkwell, 3 shape slots; first and last byte past; tensor; whether it writes,
is an exact add, or is among rows split between a pair. -/
structure Touch where
  place : Nat
  lo : Nat
  hi : Nat
  tid : Nat
  write : Bool
  add : Bool
  split : Bool
  deriving DecidableEq, Repr

/-- Places where an engine reads a tensor (R103). -/
def readPlaces (t : Tensor) (eng : Nat) : List Nat :=
  match t.space with
  | 0 => [0]
  | 3 => [if eng = 1 then 2 else 1]
  | n => [n]

/-- Places where a tensor is written. -/
def writePlaces (t : Tensor) : List Nat :=
  match t.space with
  | 0 => [0]
  | 3 => [1, 2]
  | n => [n]

/-- Byte stretches of indices `lo` to below `hi` of dimension `k` of a tensor, at plan extents of the dimensions outside it:
elements, then scales. -/
def Tensor.sliceSpans (t : Tensor) (k lo hi : Nat) : List (Nat × Nat) :=
  let b := t.bsize
  if k = 0 then
    (List.range (t.dim 1 * t.dim 2 * t.dim 3)).flatMap fun r =>
      (t.elemBase + (r * t.p0 + lo) * t.width / 8, t.elemBase + ceilDiv ((r * t.p0 + hi) * t.width) 8)
        :: if t.blk = 0 then [] else [(t.scaleBase + r * t.rowBlocks + lo / b, t.scaleBase + r * t.rowBlocks + ceilDiv hi b)]
  else
    let inner := ((List.range k).map fun j => if j = 0 then 1 else t.dim j).prod
    let outer := ((List.range 4).map fun j => if k < j then t.dim j else 1).prod
    (List.range outer).flatMap fun o =>
      let a := (o * t.dim k + lo) * inner
      let z := (o * t.dim k + hi) * inner
      (t.elemBase + a * t.rowBytes, t.elemBase + z * t.rowBytes)
        :: if t.blk = 0 then [] else [(t.scaleBase + a * t.rowBlocks, t.scaleBase + z * t.rowBlocks)]

/-- Byte stretches of a whole tensor, at plan extents or as allocated. -/
def Tensor.spans (t : Tensor) (alloc : Bool) : List (Nat × Nat) :=
  let top := if alloc then t.outerAlloc else t.outer
  t.sliceSpans (t.rank - 1) 0 top

/-- Accesses of byte stretches of a tensor. -/
def touchSpans (t : Tensor) (eng : Nat) (write add split : Bool) (ss : List (Nat × Nat)) : List Touch :=
  (if write then writePlaces t else readPlaces t eng).flatMap fun p =>
    (ss.filter fun x => decide (x.1 < x.2)).map fun x => ⟨p, x.1, x.2, t.tid, write, add, split⟩

/-- Which extent of a stroke its streamed rows are; none for the G blocks of ROOT (Table 3.5). -/
def rowExtent (d : Desc) : Option Nat :=
  if d.kind = 0x15 then none else if d.kind = 0x10 ∧ d.dir = 2 then some 2 else some 0

/-- The slot of an extent. -/
def extentSlot (d : Desc) (x : Nat) : Nat := if x = 0 then d.mSlot else if x = 1 then d.nSlot else d.kSlot

/-- The largest value that an extent can reach above its plan bound: the smallest OUTER_ALLOC of the tensors that it indexes
outermost (R128). -/
def overflowTop (f : Folio) (d : Desc) (x : Nat) : Option Nat :=
  let along := (extentUses d x).filterMap fun u => (f.tensor (fld d u.1 2)).map fun t => (t, u.2)
  if d.overflowSplit && extentSlot d x != 0 && !along.isEmpty && along.all fun (p : Tensor × Nat) => p.1.rank == p.2 + 1 then
    some ((along.map fun (p : Tensor × Nat) => p.1.outerAlloc).foldl min (2 ^ 32))
  else none

/-- A stroke's streamed rows: plan bound, and largest extent they can reach (R128). -/
def rowBounds (f : Folio) (d : Desc) : Nat × Nat :=
  let b := if d.kind = 0x10 then mmRows d else if d.kind = 0x15 then d.groups else d.mPlan
  (b, ((rowExtent d).bind (overflowTop f d)).getD b)

/-- Where an extent other than the streamed rows can run past its plan bound along the outermost dimension of the tensor that
a field names: how far. -/
def otherTop (f : Folio) (d : Desc) (o : Nat) (t : Tensor) : Option Nat :=
  (([0, 1, 2].filter fun x => some x != rowExtent d && (extentUses d x).contains (o, t.rank - 1)).filterMap (overflowTop f d)).head?

/-- The rows that a stroke's share can access, as stretches of first row and row past the last (R117, R524). -/
def shareRows (d : Desc) (slotted : Bool) (b top : Nat) : List (Nat × Nat) :=
  if d.share = 0 then [(0, top)]
  else if !slotted then (if d.share = 1 then [(0, ceilDiv b 2)] else [(ceilDiv b 2, b)])
  else (List.range (ceilDiv top (max b 1))).map fun j =>
    if d.share = 1 then (min top (j * b), min top (j * b + ceilDiv b 2)) else (min top (j * b + 1), min top ((j + 1) * b))

/-- Does a runtime extent come from a slot that decides the streamed rows? -/
def rowsSlotted (d : Desc) : Bool := match rowExtent d with | some x => extentSlot d x != 0 | none => false

/-- Accesses of a stroke to the tensor of a field along its streamed rows, which are dimension `k` of the tensor. -/
def rowTouch (f : Folio) (eng : Nat) (d : Desc) (o k : Nat) (write : Bool) : List Touch :=
  match f.tensor (fld d o 2) with
  | none => []
  | some t =>
    let (b, top) := rowBounds f d
    let rows := (shareRows d (rowsSlotted d) b top).filter fun p => decide (p.1 < p.2)
    let spans := match otherTop f d o t with
      | some n => if rows.isEmpty then [] else t.sliceSpans (t.rank - 1) 0 n
      | none => rows.flatMap fun p => t.sliceSpans k p.1 p.2
    touchSpans t eng write false (d.share != 0) spans

/-- Accesses of a descriptor to a whole tensor. -/
def wholeTouch (f : Folio) (eng tid : Nat) (write add alloc : Bool) : List Touch :=
  match f.tensor tid with
  | some t => touchSpans t eng write add false (t.spans alloc)
  | none => []

/-- Accesses of a stroke to the whole of the tensor of a field, as far as its extents can run. -/
def fullTouch (f : Folio) (eng : Nat) (d : Desc) (o : Nat) (write add : Bool) : List Touch :=
  match f.tensor (fld d o 2) with
  | some t => touchSpans t eng write add false (t.sliceSpans (t.rank - 1) 0 ((otherTop f d o t).getD t.outer))
  | none => []

/-- Accesses of a stroke: row operands and outputs along its rows, the others whole. The UPPER stroke of a pair with one
block takes none (R117). -/
def strokeTouches (f : Folio) (eng : Nat) (d : Desc) : List Touch :=
  let rt := fun (o k : Nat) (w : Bool) => rowTouch f eng d o k w
  let wt := fun (o : Nat) (w : Bool) => fullTouch f eng d o w false
  match d.kind with
  | 0x10 => rt 0x08 1 false ++ wt 0x0A false ++ rt 0x0C 1 true ++ (if d.accum then rt 0x0C 1 false else [])
      ++ (if d.dir = 0 then wt 0x0E false else rt 0x0E 1 false) ++ rt 0x26 0 true
  | 0x11 => rt 0x08 1 false ++ (if d.k35 = 0 then rt 0x0A 1 false else wt 0x0A false) ++ rt 0x0C 1 true
  | 0x12 => rt 0x08 1 false ++ wt 0x0A false ++ wt 0x0E false ++ rt 0x0C 1 true ++ rt 0x26 0 false
  | 0x13 => rt 0x08 0 false ++ wt 0x0A false ++ rt 0x0C 1 true
  | 0x14 => rt 0x08 0 false ++ rt 0x0A 1 false ++ fullTouch f eng d 0x0C true (d.k30 == 1)
      ++ (if d.accum && d.k30 != 1 then wt 0x0C false else []) ++ wholeTouch f eng d.tidAux true false true
  | _ =>
    if 1 < d.groups then rt 0x08 2 false ++ rt 0x0C 2 true ++ rt 0x0E 0 true
    else if d.share = 2 then [] else wt 0x08 false ++ wt 0x0C true ++ wt 0x0E true

/-- Accesses of a COPY or FILL along its slice (R529). -/
def copyTouches (f : Folio) (eng : Nat) (d : Desc) : List Touch :=
  let src := f.tensor (fld d 8 2)
  let dst := f.tensor (fld d 0x0A 2)
  match sliceOf d src dst with
  | none => []
  | some (k, lim, plan) =>
    let hi := if d.sliceCount = 0xFFFFFFFF then (if d.extSlot = 0 then plan else lim) else d.sliceFirst + d.sliceCount
    let of := fun (t : Option Tensor) (k : Nat) (w : Bool) =>
      match t with | some t => touchSpans t eng w false false (t.sliceSpans k d.sliceFirst hi) | none => []
    (if d.kind = 0x20 then of src (if d.dTranspose then 1 else k) false else []) ++ of dst k true

/-- Accesses of a Nib descriptor: its range of the element tensors, the whole of the others (R193, Table 8.3). -/
def nibTouches (f : Folio) (eng : Nat) (d : Desc) : List Touch :=
  let l := f.layer d.nLayer
  let rule := fld l 2 1
  let sparse := bit (fld l 0 2) 1
  if bit (fld l 0 2) 0 then []
  else match f.tensor (fld l 8 2) with
    | none => []
    | some m =>
      let (a, n) := nibRange d m
      let part := fun (o : Nat) (w : Bool) =>
        match f.tensor (fld l o 2) with
        | some t =>
          let e := (t.elemBase + a * t.width / 8, t.elemBase + ceilDiv ((a + n) * t.width) 8)
          let sc := if t.blk = 0 then [] else [(t.scaleBase + a / t.bsize, t.scaleBase + ceilDiv (a + n) t.bsize)]
          touchSpans t eng w false false (e :: sc)
        | none => []
      let all := fun (o : Nat) (w : Bool) => wholeTouch f eng (fld l o 2) w false false
      let both := fun (g : Nat → Bool → List Touch) (o : Nat) => g o false ++ g o true
      both part 0x08 ++ both part 0x0A ++ part 0x0E true ++ part 0x10 false
        ++ (if rule = 2 then both all 0x0C ++ both all 0x12 ++ both all 0x30 ++ both all 0x32
            else both part 0x0C ++ (if sparse then both all 0x12 else [])
              ++ (if rule = 3 then part 0x30 false ++ all 0x34 false ++ all 0x36 false else []))
        ++ wholeTouch f eng d.nTouched false false false

/-- Everything that a descriptor accesses; nothing where it is elided. -/
def touches' (f : Folio) (n : Node) : List Touch :=
  let d := n.d
  if f.isElided n.eng n.idx || d.kind == 0 then []
  else
    let slot := fun (w : Bool) (i : Nat) => (⟨3, i, i + 1, 0xFFFF, w, false, false⟩ : Touch)
    let place := if (regionOf f.regions d.statAddr 32).isSome then 0 else n.eng + 1
    let record : Touch := ⟨place, d.statAddr, d.statAddr + 32, 0xFFFF, true, false, false⟩
    let own :=
      if d.kind < 0x20 then strokeTouches f n.eng d
      else match d.kind with
        | 0x20 => copyTouches f n.eng d
        | 0x23 => copyTouches f n.eng d
        | 0x21 => wholeTouch f n.eng (fld d 8 2) false false false
        | 0x22 => match f.tensor (fld d 8 2) with
          | some t => touchSpans t n.eng false false false [(t.elemBase, t.elemBase + 4)]
          | none => []
        | 0x24 => wholeTouch f n.eng (fld d 0x0A 2) true false true
        | 0x40 => nibTouches f n.eng d
        | 0x41 => nibTouches f n.eng d
        | _ => match f.tensor d.qSrc with
          | some t => touchSpans t n.eng false false false
              [(t.elemBase + d.qSrcFirst, t.elemBase + d.qSrcFirst + d.qBytes)]
          | none => []
    own ++ (slotsRead d).map (slot false) ++ (slotsWritten d).map (slot true) ++ [record]

/-- Do two accesses conflict? -/
def Touch.conflicts (a b : Touch) (pair : Bool) : Bool :=
  a.place == b.place && decide (a.lo < b.hi ∧ b.lo < a.hi) && (a.write || b.write) && !(a.add && b.add)
    && !(pair && a.split && b.split)

/-- Scope that a conflict needs (Table 5.15a). -/
def needScope (place e1 e2 : Nat) : Nat :=
  let desk := place - 1
  let dma := fun (e : Nat) => decide (0x10 ≤ e ∧ e < 0x30)
  if (place = 1 ∨ place = 2) ∧ ((e1 = desk ∧ dma e2 = true) ∨ (e2 = desk ∧ dma e1 = true)) then 1 else 2

/-- Position of a Nib descriptor among the Nib descriptors of its list. -/
def nibOrdinal (ns : List Node) (n : Node) : Nat :=
  (ns.filter fun m => m.eng == n.eng && decide (m.idx < n.idx) && (m.d.kind == 0x40 || m.d.kind == 0x41)).length

/-- Copies of one Nib descriptor (R183). -/
def nibTwins (ns : List Node) (a b : Node) : Bool :=
  (a.d.kind == 0x40 || a.d.kind == 0x41) && (b.d.kind == 0x40 || b.d.kind == 0x41) && a.eng != b.eng
    && nibOrdinal ns a == nibOrdinal ns b

/-- The first conflict between two nodes of different engines that is not ordered: the tensor on the first one's
side. R191 asks for the TID: a completion record or a shape slot has none and gives 0xFFFF, and of two tensors that alias it
is the one that the later descriptor names (DESIGN CHOICE, log 100). -/
def raceOf (f : Folio) (o : Order) (i j : Nat) (a b : Node) : Option Nat :=
  if a.eng = b.eng ∨ nibTwins o.ns a b = true then none
  else
    let pair := partners f a b
    let tb := touches' f b
    (touches' f a).findSome? fun x => tb.findSome? fun y =>
      if x.conflicts y pair then
        let sc := needScope x.place a.eng b.eng
        if ordered o.ns.length o.es sc i j || ordered o.ns.length o.es sc j i then none else some x.tid
      else none

/-- Check 18: every conflicting pair is ordered. -/
def check18 (f : Folio) (o : Order) : Option Reject :=
  f.scan (· == 6) fun k x i _ =>
    match o.ns.findIdx? fun n => n.eng == x.eng && n.idx == i with
    | none => none
    | some p =>
      match o.ns[p]? with
      | none => none
      | some a =>
        (o.ns.take p).zipIdx.findSome? fun q =>
          match raceOf f o p q.2 a q.1 with
          | some tid => some ⟨18, 0x011B, k, i, 2, q.1.eng * 2 ^ 24 + q.1.idx % 2 ^ 24, tid⟩
          | none => none

/-! ## Function tables (check 15) -/

/-- Table and version of a stroke that evaluates one. -/
def tableNeed (f : Folio) (n : Node) : Option (Nat × Nat) :=
  if decide (0x10 ≤ n.d.kind ∧ n.d.kind < 0x20) && usesTable n.d && !f.isElided n.eng n.idx then some (n.d.ftable, n.d.tableVer)
  else none

/-- TABLE_LOADs of a table among the nodes. -/
def loadsOf (ns : List Node) (t : Nat) : List Nat :=
  (List.range ns.length).filter fun i => match ns[i]? with | some n => n.d.kind == 0x21 && n.d.kspec == t | none => false

/-- Does a provider of a version serve a stroke: its load does not wait for the stroke, and of the loads that may follow it at
most one is not ordered after the stroke (R140)? None stands for the folio's own image. -/
def serves (o : Order) (t : Nat) (after waits : Nat → Bool) (p : Option Nat) : Bool :=
  let later := (loadsOf o.ns t).filter fun l => match p with | some i => l != i && !o.before l i | none => true
  (match p with | some i => !waits i | none => true) && decide ((later.filter fun l => !after l).length < 2)

/-- Is a version of a table provided at all? -/
def provided (f : Folio) (o : Order) (t v : Nat) : Bool :=
  (match f.sec 0x0C t with | some y => fld y.bytes 0 2 == v | none => false)
    || (loadsOf o.ns t).any fun l => match o.ns[l]? with | some n => fld n.d 0x1C 2 == v | none => false

/-- Is a version served, by the folio's image or by one of the loads that provide it? Where more than one provides it, one that
serves is enough (DESIGN CHOICE, log 111). -/
def versionServed (f : Folio) (o : Order) (t v : Nat) (after waits : Nat → Bool) : Bool :=
  let image := match f.sec 0x0C t with | some y => fld y.bytes 0 2 == v | none => false
  let loads := (loadsOf o.ns t).filter fun l => match o.ns[l]? with | some n => fld n.d 0x1C 2 == v | none => false
  (image && serves o t after waits none) || loads.any fun l => serves o t after waits (some l)

/-- The DMA descriptors for which a stroke of a replay list runs: those that read the SPILL tensors of its segments and are not
elided (R158). -/
def replayReaders (f : Folio) (o : Order) (eng i : Nat) : List Nat :=
  let tids := ((f.entries 8 0 16).filter fun e => fld e 2 1 == 1
    && decide (fld e (4 + 4 * eng) 2 ≤ i ∧ i < fld e (4 + 4 * eng) 2 + fld e (6 + 4 * eng) 2)).map fun e => fld e 0 2
  (List.range o.ns.length).filter fun j =>
    match o.ns[j]? with
    | some n => decide (0x10 ≤ n.eng ∧ n.eng < 0x30) && !f.isElided n.eng n.idx && tids.any (readsOf f n.d).contains
    | none => false

/-- Check 15 (R140). A stroke of a replay list completes before the DMA readers for which it runs: a load after all of them
follows the stroke, and a load after one of them waits for it (DEDUCED, log 101). -/
def check15 (f : Folio) (o : Order) : Option Reject :=
  f.scan isList fun k x i (d : Desc) =>
    let no : Reject := ⟨15, 0x0117, k, i, 0x32, 0, 0⟩
    if x.typ = 7 then
      match tableNeed f ⟨0x100 + x.eng, i, d⟩ with
      | some (t, v) =>
        let rs := replayReaders f o x.eng i
        fails (!provided f o t v || !versionServed f o t v (fun l => rs.all (o.before · l)) (fun l => rs.any (o.before · l))) no
      | none => none
    else match o.ns.findIdx? fun n => n.eng == x.eng && n.idx == i with
    | none => none
    | some p =>
      match (o.ns[p]?).bind (tableNeed f) with
      | none => none
      | some (t, v) => fails (!versionServed f o t v (o.before p) (o.before p)) no

/-! ## Saved activations (check 16) -/

/-- What a node reads, and what it writes, also where it is elided: an elided SPILL stands with its elided reader (Table 4.6;
DEDUCED, log 111). -/
def Node.reads (f : Folio) (n : Node) : List Nat := readsAll f n.d
def Node.writes (f : Folio) (n : Node) : List Nat := writesOf f n.d

/-- Nodes that read, and nodes that write, a tensor. -/
def readersOf (f : Folio) (o : Order) (tid : Nat) : List Nat :=
  (List.range o.ns.length).filter fun i => match o.ns[i]? with | some n => (n.reads f).contains tid | none => false
def writersOf (f : Folio) (o : Order) (tid : Nat) : List Nat :=
  (List.range o.ns.length).filter fun i => match o.ns[i]? with | some n => (n.writes f).contains tid | none => false

/-- Does a tensor lie wholly in DETECT pages? -/
def inDetect (f : Folio) (t : Tensor) : Bool :=
  t.space == 0 && (match regionOf f.regions t.elemBase t.elemBytes with | some g => g.detect | none => false)

/-- Replay list of a segment: 0 Desk 0, 1 Desk 1, 2 the DMA list. -/
def replayCode (k : Nat) : Nat := if k = 2 then 0x80 else k

/-- R156 on one record. -/
def saveBad (f : Folio) (o : Order) (e : List Byte) (r : Nat → Reject) : Option Reject :=
  let tid := fld e 0 2
  let keep := fld e 2 1
  let counts := fld e 6 2 + fld e 0x0A 2 + fld e 0x0E 2
  let ends := (List.range 3).map fun k =>
    fails (decide (f.count 7 (replayCode k) < fld e (4 + 4 * k) 2 + fld e (6 + 4 * k) 2)
      || (fld e (6 + 4 * k) 2 != 0 && (f.sec 7 (replayCode k)).isNone)) (r (4 + 4 * k))
  match f.tensor tid with
  | none => some (r 0)
  | some t =>
    let ws := writersOf f o tid
    let rs := readersOf f o tid
    firstOf
      ([fails (decide (2 < keep)) (r 2), fails (fld e 3 1 != 0) (r 3)]
      ++ (match keep with
        | 0 => [fails (t.space == 0) (r 0), fails (counts != 0) (r 6)]
        | 1 => [fails (!inDetect f t) (r 0), fails ws.isEmpty (r 0),
                fails (rs.any fun x => !ws.any fun w => o.before w x) (r 0),
                fails (!rs.any fun x => match o.ns[x]? with | some n => decide (0x10 ≤ n.eng ∧ n.eng < 0x30) | none => false) (r 0),
                fails (counts == 0) (r 6)]
        | _ => [fails (counts != 0) (r 6)])
      ++ ends)

/-- Descriptors of a record's segment: replay list, index, bytes. -/
def segment (f : Folio) (e : List Byte) : List (Nat × Nat × Desc) :=
  (List.range 3).flatMap fun k =>
    (List.range (fld e (6 + 4 * k) 2)).filterMap fun i =>
      let j := fld e (4 + 4 * k) 2 + i
      (f.replayDesc (replayCode k) j).map fun d => (replayCode k, j, d)

/-- Is a tensor private to the replay lists (R157)? -/
def privateTid (f : Folio) (o : Order) (tid : Nat) : Bool :=
  !(o.ns.any fun n => (readsAll f n.d).contains tid || (writesOf f n.d).contains tid)

/-- Does an access at a node lie outside the span of the SPILL tensor with these writers and readers? -/
def outsideSpan (o : Order) (ws rs : List Nat) (n : Nat) : Bool :=
  (ws.all fun w => o.before n w) || (rs.all fun x => o.before x n)

/-- Inkwell stretches of a tensor in one Desk. -/
def inkSpans (t : Tensor) (desk : Nat) : List (Nat × Nat) :=
  if t.space = desk + 1 ∨ t.space = 3 then
    (t.elemBase, t.elemBytes) :: if t.blk = 0 then [] else [(t.scaleBase, t.scaleBytes)]
  else []

/-- Do two tensors share Inkwell bytes? -/
def inkMeets (a b : Tensor) : Bool :=
  [0, 1].any fun k => (inkSpans a k).any fun x => (inkSpans b k).any fun y => meets x.1 x.2 y.1 y.2

/-- Does a private tensor of the segment overlap a tensor that is live in the span (R157, rule 4)? -/
def liveOverlap (f : Folio) (o : Order) (ws rs : List Nat) (t : Tensor) : Bool :=
  f.tensors.any fun u =>
    let acc := readersOf f o u.tid ++ writersOf f o u.tid
    !acc.isEmpty && inkMeets t u
      && !((acc.all fun n => ws.all fun w => o.before n w) || (acc.all fun n => rs.all fun x => o.before x n))

/-- SR flag of a descriptor that writes a tensor. -/
def srFlag (d : Desc) : Bool := if d.kind < 0x20 then d.sr else d.kind == 0x20 && d.dSr

/-- R157 on one descriptor of a segment. -/
def segmentBad (f : Folio) (o : Order) (tid : Nat) (d : Desc) (r : Nat → Reject) : Option Reject :=
  let ws := writersOf f o tid
  let rs := readersOf f o tid
  let rd := readsAll f d
  let wr := writesOf f d
  let free := fun (x : Nat) => privateTid f o x
  let sems := o.ns.flatMap fun n => (if n.d.waits then [n.d.waitSem] else []) ++ (if n.d.signals then [n.d.signalSem] else [])
  let good := fun (x : Nat) => free x || (match f.tensor x with | some t => t.space != 0 || inCorrect f t | none => true)
  firstOf
    [fails (wr.any fun x => x != tid && !free x) (r 0x0C), fails (rd.any fun x => !good x) (r 8),
     fails (rd.any fun x => (writersOf f o x).any fun w => !outsideSpan o ws rs w) (r 8),
     fails ((rd ++ wr).any fun x => free x && (match f.tensor x with | some t => liveOverlap f o ws rs t | none => false)) (r 8),
     fails (srFlag d && wr.any fun x => x != tid) (r 0x20),
     fails (d.waits && sems.contains d.waitSem) (r 2), fails (d.signals && sems.contains d.signalSem) (r 6)]

/-- Check 16 (R156, R157). A segment that R157 refuses is named by the descriptor of the replay list at fault, in the order of
the SAVES records, with the field at fault (DESIGN CHOICE, log 111). -/
def check16 (f : Folio) (o : Order) : Option Reject :=
  match f.scan (· == 8) fun k _ i e => saveBad f o e fun x => ⟨16, 0x0118, k, i, x, 0, 0⟩ with
  | some r => some r
  | none => f.scan (· == 8) fun _ _ _ e =>
      if fld e 2 1 = 1 then
        (segment f e).findSome? fun p => segmentBad f o (fld e 0 2) p.2.2 fun x => ⟨16, 0x0119, f.secNo 7 p.1, p.2.1, x, 0, 0⟩
      else none

/-! ## Deadlock (check 17) -/

/-- Positions of the lists and counts of the semaphores in the abstract run. -/
structure Abstract where
  pos : List (Nat × Nat)
  sems : List (Nat × Nat)
  moved : Bool
  deriving DecidableEq, Repr

/-- One list's head completed if its wait is satisfied (R196). -/
def Abstract.visit (f : Folio) (a : Abstract) (c : Nat) : Abstract :=
  let p := spGet (fun _ => 0) a.pos c
  match f.desc c p with
  | none => a
  | some d =>
    if d.waits && decide (spGet (fun _ => 0) a.sems d.waitSem < d.waitValue) then a
    else
      let sems := if d.signals then spSet (fun _ => 0) a.sems d.signalSem (spGet (fun _ => 0) a.sems d.signalSem + 1) else a.sems
      { pos := spSet (fun _ => 0) a.pos c (p + 1), sems := sems, moved := true }

/-- Passes over the lists until one completes nothing; `n` bounds them. -/
def Abstract.run (f : Folio) : Nat → Abstract → Abstract
  | 0, a => a
  | n + 1, a =>
    let b := engineCodes.foldl (fun b c => b.visit f c) { a with moved := false }
    if b.moved then Abstract.run f n b else b

/-- Check 17 (R196). -/
def check17 (f : Folio) : Option Reject :=
  let total := (engineCodes.map f.listLen).sum
  let start := (List.range (f.count 5 0)).foldl (fun m i =>
    match f.sec 5 0 with
    | some x => spSet (fun _ => 0) m i (fld x.bytes (4 * i) 2 + fld x.bytes (4 * i + 2) 2)
    | none => m) []
  let a := Abstract.run f (total + 1) ⟨[], start, false⟩
  engineCodes.findSome? fun c =>
    let p := spGet (fun _ => 0) a.pos c
    fails (decide (p < f.listLen c)) ⟨17, 0x011A, f.secNo 6 c, p, 2, 0, 0⟩

end Sys2Proof.Machine
end

