-- ==== Sys2Proof/Machine/Intake.lean ====
section
/-! DEFINITION. The sample intake: fragments, gaps, free space, PFC, the stopping distance (R432, R433, R437, R438). -/
namespace Sys2Proof.Machine

/-- The intake changed. -/
def State.mapIntake (s : State) (f : Intake → Intake) : State := { s with intake := f s.intake }

/-- NEXT, the next sequence number to hand over (R433). -/
def State.intakeNext (s : State) : Nat := s.get2 INT_NEXT_LO_NEXT INT_NEXT_HI_NEXT

/-- D in bytes. -/
def State.intakeDist (s : State) : Nat := 4096 * s.get INT_DIST_D

/-- D + RESUME in bytes (R437). -/
def State.resumeLevel (s : State) : Nat := s.intakeDist + 1024 * s.get INT_RESUME_KIB

/-- The instance of a host port. -/
def hostInst (h : Nat) : Inst := { port := some (24 + h) }

/-! ## PFC (R437) -/

/-- A PFC frame with the given quanta on both host ports that are up. -/
def State.sendPause (s : State) (quanta : Nat) : State :=
  [0, 1].foldl (fun s h =>
    if s.hostUp h then (s.send (.pfc (24 + h) (s.get INT_CTRL_PFC_PRIO) quanta)).countAt 0xC1 (hostInst h) 1 else s) s

/-- XON once F reaches D + RESUME (R437). -/
def State.endPause (s : State) : State :=
  if s.on INT_STATUS_PAUSED && decide (s.resumeLevel ≤ s.intake.free) then
    (s.put INT_STATUS_PAUSED 0).sendPause 0
  else s

/-- F set, with what ends a pause. -/
def State.setRingFree (s : State) (n : Nat) : State :=
  ((s.mapIntake fun i => { i with free := n }).put INT_FREE_F (n / 4096)).endPause

/-- INTAKE_PAUSE: XOFF when F falls to D or below, again every 40 µs while F stays below D + RESUME, XON at that level
(R437). -/
def execIntakePause (s : State) : Host.Outcome State Fault Refusal :=
  .next (if !s.power.mainOk || !s.on INT_CTRL_ENABLE then s
    else if s.on INT_STATUS_PAUSED then
      if s.resumeLevel ≤ s.intake.free then s.endPause
      else if s.intake.xoffAt + 40000 ≤ s.time then (s.sendPause 0xFFFF).mapIntake fun i => { i with xoffAt := s.time }
      else s
    else if s.intake.free ≤ s.intakeDist then
      (((s.put INT_STATUS_PAUSED 1).count 0xCC).sendPause 0xFFFF).mapIntake fun i =>
        { i with pausedAt := some s.time, xoffAt := s.time, pauses := i.pauses + 1, carried := 0, due := 3,
                 tail0 := s.time, tail1 := s.time }
    else s)

/-- A frame of the intake on a port: the last one yet, where no 2 µs have passed without one since the pause began (R438). -/
def Intake.heard (i : Intake) (port now : Nat) : Intake :=
  let later := fun (t : Nat) => if now < t + 2000 then now else t
  { i with carried := i.carried ||| 2 ^ port, tail0 := if port = 0 then later i.tail0 else i.tail0,
           tail1 := if port = 1 then later i.tail1 else i.tail1 }

/-- When the last frame of a pause came on a port. -/
def Intake.tail (i : Intake) (port : Nat) : Nat := if port = 0 then i.tail0 else i.tail1

/-- The measurements of a port from the last 16 pauses. -/
def Intake.rtt (i : Intake) (port : Nat) : List (Nat × Nat) :=
  (if port = 0 then i.rtt0 else i.rtt1).filter fun p => decide (i.pauses < p.1 + 16)

/-- INT_RTTp follows the measurements of the last 16 pauses: RTT_p is the largest (R438). -/
def State.noteRtt (s : State) : State :=
  let m := fun (p : Nat) => min (((s.intake.rtt p).map Prod.snd).foldl max 0) 0xFFFFFF
  let v := fun (p : Nat) => b2n !(s.intake.rtt p).isEmpty
  (((s.put INT_RTT0_NS (m 0)).put INT_RTT0_VALID (v 0)).put INT_RTT1_NS (m 1)).put INT_RTT1_VALID (v 1)

/-- INTAKE_RTT_SAMPLE: after a pause, on a port that carried frames and has had 2 µs without one, the time from the XOFF that began
the pause to the last frame before them, less T_resp, is measured (R438), once for each pause. `lastFrameNs` is that time: one that
is not the module's own is no sample. -/
def execIntakeRttSample (port lastFrameNs : Nat) (s : State) : Host.Outcome State Fault Refusal :=
  .next (match s.intake.pausedAt with
    | some t =>
      let last := s.intake.tail port
      if !s.power.mainOk || !s.on INT_CTRL_ENABLE || s.on INT_STATUS_PAUSED || decide (1 < port)
          || !bit (s.intake.due &&& s.intake.carried) port || decide (s.time < last + 2000) || decide (lastFrameNs ≠ last - t) then s
      else
        let x := (s.intake.pauses, lastFrameNs - s.get INT_PAUSE_RESP_NS)
        ((s.countAt 0xCE (hostInst port) 1).mapIntake fun i =>
          { i with rtt0 := if port = 0 then x :: i.rtt 0 else i.rtt0, rtt1 := if port = 1 then x :: i.rtt 1 else i.rtt1,
                   due := i.due - 2 ^ port }).noteRtt
    | none => s)

/-- D is HEADROOM until a measurement exists (R438). -/
def State.headDist (s : State) : State :=
  if s.on INT_RTT0_VALID || s.on INT_RTT1_VALID then s
  else s.put INT_DIST_D (max 64 (min (s.get INT_RING_MIB * 64) (ceilDiv (s.get INT_HEADROOM_KIB) 4)))

/-- Bytes that arrive on a port before a pause takes hold: R_p × (T_resp + RTT_p), in bytes. -/
def State.portStop (s : State) (h rtt : Nat) : Nat :=
  let rate := if s.get (HPT_STATUS_SPEED h) = 2 then 50 else 25
  if s.hostUp h then rate * (s.get INT_PAUSE_RESP_NS + rtt) else 0

/-- INTAKE_THRESH_MOVE: D from the rates and round trips, once a measurement exists (R438). -/
def execIntakeThreshMove (s : State) : Host.Outcome State Fault Refusal :=
  .next (
    let s := if s.power.mainOk && s.on INT_CTRL_ENABLE then s.noteRtt else s
    if !s.power.mainOk || !s.on INT_CTRL_ENABLE || !(s.on INT_RTT0_VALID || s.on INT_RTT1_VALID) then s
    else
      let d := s.portStop 0 (s.get INT_RTT0_NS) + s.portStop 1 (s.get INT_RTT1_NS) + 9216
      let d := max 64 (min (s.get INT_RING_MIB * 64) (ceilDiv d 4096))
      if d = s.get INT_DIST_D then s
      else ((s.put INT_DIST_D d).count 0xCD).endPause)

/-! ## Gaps (R433) -/

/-- Intervals of `[lo, hi]` outside a list of intervals. -/
def cutInterval (gs : List (Nat × Nat)) (lo hi : Nat) : List (Nat × Nat) :=
  gs.foldl (fun rest g => rest.flatMap fun r =>
    (if r.1 < g.1 then [(r.1, min r.2 (g.1 - 1))] else []) ++ (if g.2 < r.2 then [(max r.1 (g.2 + 1), r.2)] else []))
    (if lo ≤ hi then [(lo, hi)] else [])

/-- Is a sequence number declared absent? -/
def State.isGap (s : State) (q : Nat) : Bool := s.intake.gaps.any fun g => decide (g.1 ≤ q ∧ q ≤ g.2)

/-- Ring space of a sample (R433). -/
def Sample.space (x : Sample) : Nat := roundUp x.bytes 128

/-- Bytes of the ring that its settings give (R431). -/
def State.ringBytes (s : State) : Nat := s.get INT_RING_MIB * 1048576

/-- F as the ring stands: what no sample holds (Table 13.14). -/
def State.noteFree (s : State) : State := s.setRingFree (s.ringBytes - (s.intake.samples.map Sample.space).sum)

/-- Samples that a predicate picks leave the ring. -/
def State.releaseSamples (s : State) (p : Sample → Bool) : State :=
  let gone := s.intake.samples.filter p
  (s.mapIntake fun i => { i with samples := i.samples.filter fun x => !p x }).setRingFree
    (s.intake.free + (gone.map Sample.space).sum)

/-- One contiguous range of numbers newly declared absent: the event, its count, and what is held of it released. -/
def State.declare (s : State) (port cause : Nat) (r : Nat × Nat) : State :=
  let s := s.mapIntake fun i => { i with gaps := i.gaps ++ [r] }
  let s := s.releaseSamples fun x => decide (r.1 ≤ x.seq ∧ x.seq ≤ r.2)
  let s := (((s.put INT_STATUS_GAP 1).bump INT_GAP_COUNT_COUNT 1).countAt 0xCB (hostInst port) 1)
  s.raise 9 (le 8 r.1 ++ le 4 (r.2 + 1 - r.1) ++ le 4 cause)

/-- A frame discarded (R433). -/
def State.intakeDrop (s : State) (port : Nat) : State :=
  ((s.put INT_STATUS_DROP 1).bump INT_DROP_COUNT_COUNT 1).countAt 0xCA (hostInst port) 1

/-! ## Frames -/

/-- Is the header malformed (R432)? -/
def intakeMalformed (h : IntakeHdr) (len : Nat) : Bool :=
  decide (h.magic ≠ 0x4B544E49 ∨ h.version ≠ 1 ∨ 1 < h.kind ∨ h.rsv ≠ 0 ∨ 1 < h.sflags)
    || (h.kind == 0 && decide (h.sampleBytes = 0 ∨ 268435456 < h.sampleBytes ∨ h.fragCount ≠ ceilDiv h.sampleBytes 8192
        ∨ h.fragCount ≤ h.frag ∨ len ≠ min 8192 (h.sampleBytes - 8192 * h.frag)))
    || (h.kind == 1 && decide (len ≠ 0 ∨ h.frag ≠ 0 ∨ h.sampleBytes ≠ 0 ∨ h.fragCount ≠ 0 ∨ h.sflags ≠ 0 ∨ h.rows = 0))

/-- A sample that a header begins, at the ring lines reserved for it. -/
def sampleOf (h : IntakeHdr) (place : List (Nat × Nat)) : Sample :=
  { seq := h.sampleSeq, bytes := h.sampleBytes, fragCount := h.fragCount, sflags := h.sflags, rows := h.rows, place := place,
    frags := [] }

/-- Does a header disagree with what an earlier fragment of its sample said? -/
def Sample.differs (x : Sample) (h : IntakeHdr) : Bool := { x with frags := [] } != sampleOf h x.place

/-- The first `n` lines of stretches of lines. -/
def firstLines : Nat → List (Nat × Nat) → List (Nat × Nat)
  | _, [] => []
  | n, (a, b) :: r => if n = 0 then [] else let k := min n (b + 1 - a); (a, a + k - 1) :: firstLines (n - k) r

/-- Line `j` of stretches of lines. -/
def lineIn : List (Nat × Nat) → Nat → Nat
  | [], j => j
  | (a, b) :: r, j => if j < b + 1 - a then a + j else lineIn r (j - (b + 1 - a))

/-- The ring lines that a new sample of `n` bytes takes. The spec gives the ring's place and its free space, and no placement:
a sample takes the lowest free lines (DESIGN CHOICE, log 62). -/
def State.reserve (s : State) (n : Nat) : List (Nat × Nat) :=
  firstLines (ceilDiv n 128) (cutInterval (s.intake.samples.flatMap Sample.place) 0 (8192 * s.get INT_RING_MIB - 1))

/-- Address of the line that holds a sample's bytes from 128 × `j`. -/
def Sample.lineAt (x : Sample) (j : Nat) : Nat := ringBase + 128 * lineIn x.place j

/-- The bytes of a fragment written at their place in the sample's reservation (R433), a last short line filled with zeros. -/
def State.writeFragment (s : State) (x : Sample) (frag : Nat) (payload : List Byte) : State :=
  (chunks 128 64 payload).zipIdx.foldl (fun s c => s.lineWrite (x.lineAt (64 * frag + c.2)) c.1 false) s

/-- A fragment of a sample that is held, or that has just reserved its space. -/
def State.placeFragment (s : State) (x : Sample) (h : IntakeHdr) (payload : List Byte) : State :=
  (s.writeFragment x h.frag payload).mapIntake fun i => { i with samples := i.samples.map fun y =>
    if y.seq = h.sampleSeq then { y with frags := h.frag :: y.frags } else y }

/-- A well-formed fragment (R433). -/
def State.takeFragment (s : State) (port : Nat) (h : IntakeHdr) (payload : List Byte) : State :=
  match s.intake.samples.find? fun x => x.seq == h.sampleSeq with
  | some x =>
    if x.differs h || x.frags.contains h.frag then s.intakeDrop port else s.placeFragment x h payload
  | none =>
    if h.sampleSeq < s.intakeNext || s.isGap h.sampleSeq then s.intakeDrop port
    else if s.intakeNext + 65536 ≤ h.sampleSeq then s.declare port 2 (h.sampleSeq, h.sampleSeq)
    else if s.intake.free < roundUp h.sampleBytes 128 then s.declare port 1 (h.sampleSeq, h.sampleSeq)
    else
      let free := s.intake.free - roundUp h.sampleBytes 128
      let x := sampleOf h (s.reserve h.sampleBytes)
      ((s.mapIntake fun i => { i with samples := i.samples ++ [x] }).setRingFree free).placeFragment x h payload

/-- A well-formed GAP frame (R433). -/
def State.takeGap (s : State) (port : Nat) (h : IntakeHdr) : State :=
  let new := cutInterval s.intake.gaps (max s.intakeNext h.sampleSeq) (h.sampleSeq + h.rows - 1)
  let new := if h.sampleSeq + h.rows ≤ s.intakeNext then [] else new
  if new.isEmpty then s.intakeDrop port else new.foldl (fun s r => s.declare port 3 r) s

/-- An intake frame of one kind as a host port receives it. -/
def State.intakeFrame (s : State) (port kind : Nat) (h : IntakeHdr) (payload : List Byte) (work : State → State) : State :=
  if decide (1 < port) || !s.power.mainOk || !s.hostUp port then s
  else
    let s := (s.hostRx port).countAt 0xC9 (hostInst port) 1
    if s.on INT_CTRL_ENABLE && s.jobState == jsRunning && h.kind == kind && !intakeMalformed h payload.length then
      work (s.mapIntake fun i => i.heard port s.time)
    else s.intakeDrop port

/-- FRAGMENT. -/
def execFragment (port _prio : Nat) (h : IntakeHdr) (payload : List Byte) (s : State) : Host.Outcome State Fault Refusal :=
  .next (s.intakeFrame port 0 h payload fun s => s.takeFragment port h payload)

/-- GAP. -/
def execGap (port _prio : Nat) (h : IntakeHdr) (payload : List Byte) (s : State) : Host.Outcome State Fault Refusal :=
  .next (s.intakeFrame port 1 h payload fun s => s.takeGap port h)

/-! ## What a take does with samples (R434) -/

/-- Have all fragments arrived? -/
def Sample.complete (x : Sample) : Bool := x.frags.length == x.fragCount

/-- A sample's bytes read from the ring, each with its poison marker. -/
def State.readSample (s : State) (x : Sample) : State × List (Bool × Byte) :=
  let (s, ls) := s.takeLines .dram ((List.range (ceilDiv x.bytes 128)).map x.lineAt) false
  (s, (ls.flatMap fun l => if l.2.1.marked then List.replicate 128 (true, 0) else l.2.2.map fun b => (false, b)).take x.bytes)

/-- NEXT moved. -/
def State.setNext (s : State) (n : Nat) : State :=
  let s := s.put2 INT_NEXT_LO_NEXT INT_NEXT_HI_NEXT (n % 2 ^ 64)
  s.mapIntake fun i => { i with gaps := i.gaps.filter fun g => decide (n ≤ g.2) }

/-- The take log's next entry (R463). -/
def State.logTake (s : State) (first taken skipped gaps : Nat) : State :=
  let n := s.get INT_LOG_HEAD_ENTRIES
  let e := le 4 s.step ++ le 4 s.intake.takes ++ le 8 first ++ le 4 taken ++ le 4 skipped ++ le 4 gaps ++ le 4 0
  let old := if n % 4 = 0 then List.replicate 128 0xFF else s.intake.logLine
  let line := patch old (32 * (n % 4)) e
  let a := takeLogBase + 128 * (n % 2097152 / 4)
  ((s.lineWrite a line false).put INT_LOG_HEAD_ENTRIES ((n + 1) % 2 ^ 32)).mapIntake fun i =>
    { i with logLine := line, takes := i.takes + 1 }

end Sys2Proof.Machine
end

