-- ==== Sys2Proof/Machine/Firmware.lean ====
section
/-! DEFINITION. Flash records of the Escritoire: firmware slots and their check, identity, seal log, power log (R476,
R477, R482 to R487, R512). -/
namespace Sys2Proof.Machine

/-! ## Firmware slots (R482 to R484, Table 14.8) -/

/-- Bytes of a slot. -/
abbrev slotBytes : Nat := 48 * 1048576

/-- The byte of a slot at an offset: the newest write that covers it. -/
def slotByte (w : Slot) (o : Nat) : Option Byte :=
  match w.find? fun p => decide (p.1 ≤ o ∧ o < p.1 + p.2.length) with
  | some p => p.2[o - p.1]?
  | none => none

/-- Bytes of a slot; what nothing wrote reads 0. -/
def slotRead (w : Slot) (o n : Nat) : List Byte := (List.range n).map fun i => (slotByte w (o + i)).getD 0

/-- Is every byte up to `n` written? -/
def slotFull (w : Slot) (n : Nat) : Bool := (List.range n).all fun i => (slotByte w i).isSome

/-- What a verified image says of itself. -/
structure FwInfo where
  version : Nat
  svn : Nat
  contract : Nat
  keyFloor : Nat
  digest : List Byte
  deriving DecidableEq, Repr

/-- The five checks of R482 on a slot. -/
def State.verifySlot (s : State) (w : Slot) : Option FwInfo :=
  let h := slotRead w 0 0x1000
  let n := fld h 0x10 4
  if fld h 0 4 = 0x4D495746 ∧ n + 0x1000 ≤ slotBytes then
    let key := fld h 0x0E 1
    if slotFull w (0x1000 + n) && slice h 0x20 64 == shake256 (slotRead w 0x1000 n) 64 && decide (key ≤ 3)
        && decide (s.flash.keyFloor ≤ key) && decide (s.flash.svnFloor ≤ fld h 8 4)
        && Config.romVerify key (ascii "X8-FW") (slice h 0 0x60) (slice h 0x60 3309) then
      some { version := fld h 4 4, svn := fld h 8 4, contract := fld h 0x0C 2, keyFloor := fld h 0x0F 1,
             digest := shake256 (slotRead w 0 (0x1000 + n)) 32 }
    else none
  else none
where
  /-- The bytes of an ASCII text. -/
  ascii (t : String) : List Byte := t.toList.map fun c => BitVec.ofNat 8 c.toNat

/-- A slot by its number. -/
def State.slot (s : State) (i : Nat) : Slot := if i = 0 then s.flash.slot0 else s.flash.slot1

/-- A slot replaced. -/
def State.setSlot (s : State) (i : Nat) (w : Slot) : State :=
  if i = 0 then { s with flash := { s.flash with slot0 := w } } else { s with flash := { s.flash with slot1 := w } }

/-- The slot that takes staged images. -/
def State.staging (s : State) : Nat := 1 - s.flash.active

/-- The Escritoire changed. -/
def State.mapEsc (s : State) (f : Escritoire → Escritoire) : State := { s with esc := f s.esc }

/-! ## Power log (R397, R483, R512); its layout is the model's (log 12) -/

/-- A record: 1 gasp with step, lowest input and cause; 2 loss with state, lowest input and cause; 3 reversion. -/
def powerRecord (kind a b c : Nat) : List Byte := le 4 kind ++ le 4 a ++ le 4 b ++ le 4 c

/-- A record appended; POWER_RESTORED follows at the next standby power-up (Table 15.11). -/
def State.logPower (s : State) (r : List Byte) : State :=
  s.mapFlash fun f => { f with powerLog := f.powerLog ++ [r], restorePending := true }

/-! ## Boot (R483, R484) -/

/-- The running image: registers that show it. -/
def State.runImage (s : State) (i : Nat) (trial : Bool) (w : FwInfo) : State :=
  let s := s.mapEsc fun e => { e with running := some i, onTrial := trial, recovery := false }
  ((s.put GLB_FW_VERSION_VERSION w.version).put GLB_CONTRACT_LEVEL w.contract).put SEC_FW_RUNNING_VERSION w.version

/-- The active slot verified and started, then the other one, then ROM recovery (R484). -/
def State.bootActive (s : State) : State :=
  let a := s.flash.active
  match s.verifySlot (s.slot a) with
  | some w => s.runImage a false w
  | none =>
    match s.verifySlot (s.slot (1 - a)) with
    | some w => s.runImage (1 - a) false w
    | none => s.mapEsc fun e => { e with running := none, onTrial := false, recovery := true }

/-- The boot ROM (R483, R484): a committed trial starts first, at most twice without READY; otherwise the module goes back
and logs the reversion. -/
def State.bootRom (s : State) : State :=
  if s.flash.trial then
    match s.verifySlot (s.slot s.staging) with
    | some w =>
      if s.flash.trialStarts < 2 then
        (s.mapFlash fun f => { f with trialStarts := f.trialStarts + 1 }).runImage s.staging true w
      else ((s.mapFlash fun f => { f with trial := false, trialStarts := 0 }).logPower (powerRecord 3 s.staging 0 0)).bootActive
    | none => ((s.mapFlash fun f => { f with trial := false, trialStarts := 0 }).logPower (powerRecord 3 s.staging 0 0)).bootActive
  else s.bootActive

/-- A trial image that reaches READY: its slot becomes active and the floors rise (R483). -/
def State.trialReady (s : State) : State :=
  if s.esc.onTrial then
    match s.esc.running with
    | some i =>
      let h := slotRead (s.slot i) 0 0x10
      (s.mapFlash fun f => { f with active := i, trial := false, trialStarts := 0, svnFloor := max f.svnFloor (fld h 8 4),
                                    keyFloor := max f.keyFloor (fld h 0x0F 1) }).mapEsc fun e => { e with onTrial := false }
    | none => s
  else s

/-! ## Identity (R485 to R487) -/

/-- Bytes combined by exclusive or. -/
def xorBytes (a b : List Byte) : List Byte := List.zipWith (· ^^^ ·) a b

/-- A seed wrapped under the key `k` with a nonce (R486). -/
def wrapSeed (k xi nonce : List Byte) : Identity :=
  let c := xorBytes xi (shake256 (0x06 :: k ++ nonce) 32)
  { nonce := nonce, c := c, tag := shake256 (0x07 :: k ++ nonce ++ c) 16, pubKey := Config.mldsaPublic xi }

/-- The seed of an identity wrapped under the key `k`; none when its tag fails (R486). -/
def Identity.seed (i : Identity) (k : List Byte) : Option (List Byte) :=
  if i.tag = shake256 (0x07 :: k ++ i.nonce ++ i.c) 16 then some (xorBytes i.c (shake256 (0x06 :: k ++ i.nonce) 32)) else none

/-- The module's key, through its helper data (R486). -/
def State.pufKey (s : State) : List Byte := Config.pufKey s.flash.helper

/-- The live seed and public key, unless the module is without identity (R486). -/
def State.liveId (s : State) : Option (List Byte × List Byte) :=
  match s.flash.identity with
  | some i => (i.seed s.pufKey).map fun x => (x, i.pubKey)
  | none => none

/-- The module is without identity because the tag of the stored seed fails (R486). -/
def State.tagFailed (s : State) : Bool :=
  match s.flash.identity with | some i => (i.seed s.pufKey).isNone | none => false

/-- A fresh identity from the entropy source, which SHAKE256 conditions, under a fresh nonce (R485 to R487, log 3). -/
def State.newIdentity (s : State) : State × Identity :=
  ({ s with free := s.free + 2 },
   wrapSeed s.pufKey (shake256 (Config.freeBytes s.free 32) 32) (fit 16 (Config.freeBytes (s.free + 1) 16)))

/-- A pending identity becomes active and the old seed is erased (R487); then the identity is unwrapped and the key pair
rebuilt (R486), and SEC_ID_TAG shows its digest (R485). -/
def State.bootId (s : State) : State :=
  let s := match s.flash.pendingId with
    | some i => s.mapFlash fun f => { f with identity := some i, pendingId := none }
    | none => s
  match s.flash.identity with
  | none => s.put SEC_ID_TAG_TAG 0
  | some i =>
    match i.seed s.pufKey with
    | some x =>
      let pk := Config.mldsaPublic x
      (s.mapFlash fun f => { f with identity := some { i with pubKey := pk } }).put SEC_ID_TAG_TAG (fld (identityDigest pk) 0 4)
    | none => s.put SEC_ID_TAG_TAG 0

/-- Commissioning: helper data, the identity and its certificate (R485, R486), and R_b (R476), in flash. The spec does not say
when a module is commissioned: DESIGN CHOICE (log 115), as its Escritoire first finds the seal loop closed. -/
def State.commission (s : State) (ohms : Nat) : State :=
  let s : State := { s with free := s.free + 1, flash := { s.flash with helper := Config.freeBytes s.free 32 } }
  let r := s.newIdentity
  (r.1.mapFlash fun f => { f with commissioned := true, baseline := ohms, identity := some r.2,
                                  certificate := Config.endorsed r.2.pubKey }).bootId

/-! ## Seal log (R476, R477, Table 14.6) -/

/-- Is the loop open: above 100 kΩ? -/
def loopOpen (ohms : Option Nat) : Bool := match ohms with | some r => decide (100000 < r) | none => true

/-- Is a closed loop more than 20 % away from the baseline? -/
def loopShifted (ohms : Option Nat) (base : Nat) : Bool :=
  match ohms with
  | some r => decide (5 * (max r base - min r base) > base)
  | none => false

/-- Kind of a bad sample: 1 open, 3 shifted, 0 none (R476). -/
def sealKind (ohms : Option Nat) (base : Nat) : Nat :=
  if loopOpen ohms then 1 else if loopShifted ohms base then 3 else 0

/-- OHMS of a record. -/
def ohmsField (ohms : Option Nat) : Nat := match ohms with | some r => if 100000 < r then 0xFFFFFFFF else r | none => 0xFFFFFFFF

/-- A record of the seal log appended: into free room, over the oldest acknowledged record, or dropped with the overflow
count raised (R477). -/
def State.sealRecord (s : State) (kind : Nat) (ohms : Option Nat) : State :=
  let up := (s.time - s.power.upSince) / 1000000000
  let r := le 4 s.flash.sealSeq ++ le 1 kind ++ zeros 1 ++ le 2 (s.flash.cycle % 65536) ++ le 4 up ++ le 4 (ohmsField ohms)
  s.mapFlash fun f =>
    let f := { f with sealSeq := f.sealSeq + 1 }
    if f.sealLog.length < 64 then { f with sealLog := f.sealLog ++ [(r, kind == 4)] }
    else match f.sealLog.findIdx? fun x => x.2 with
      | some i => { f with sealLog := f.sealLog.eraseIdx i ++ [(r, kind == 4)] }
      | none => { f with sealOverflow := f.sealOverflow + 1 }

/-- A break recorded (R477): log, SEAL_BREAK, alert, event. Until SEAL_ACK the same condition records nothing again. -/
def State.sealBreakNow (s : State) (kind : Nat) (ohms : Option Nat) : State :=
  let b := if kind = 3 then 1 else 0
  if bit s.flash.sealBreak b then s
  else
    let s := (s.sealRecord kind ohms).mapFlash fun f => { f with sealBreak := orBit f.sealBreak b, sealBreaks := f.sealBreaks + 1 }
    ((s.put SEC_STATUS_SEAL_BREAK 1).alert 7).raise 0x12 (le 4 kind ++ le 4 (ohmsField ohms))

/-- What a measurement of the loop shows. -/
def State.noteLoop (s : State) (ohms : Option Nat) : State :=
  (s.mapEsc fun e => { e with sealOhms := ohms }).put SEC_STATUS_SEAL_INTACT (b2n (!loopOpen ohms))

/-! ## Presence (R473, R474) -/

/-- SEC_STATUS shows the window. -/
def State.notePresence (s : State) : State :=
  (s.put SEC_STATUS_PRESENCE_OPEN (b2n s.presenceOpen)).put SEC_STATUS_PRESENCE_STRAPPED (b2n s.esc.strapped)

/-- A PRESENCE event and its counter: 0 closed, 1 open, 2 strapped. -/
def State.raisePresence (s : State) (st : Nat) : State :=
  let s := s.notePresence
  (if st = 0 then s else s.count 0xF5).raise 0x11 (le 4 st)

/-- An open window closes. -/
def State.closeWindow (s : State) : State :=
  if s.esc.strapped || s.esc.windowEnd.isSome then
    (s.mapEsc fun e => { e with windowEnd := none, strapped := false }).raisePresence 0
  else s

end Sys2Proof.Machine
end

