-- ==== Sys2Proof/Machine/Links.lean ====
section
/-! DEFINITION. Links of the Quill fabric: training, channels, acknowledgement and retry, port and bundle loss (R336 to
R347, Tables 10.4 to 10.6). -/
namespace Sys2Proof.Machine

/-! ## Frames (R339, R341, R342) -/

/-- Lines that a frame's TYPE allows (R341). -/
def linesOk (t : Nat) (h : QHdr) : Bool :=
  if t = qWrite ∨ t = qAdd ∨ t = qMcast ∨ t = qRide ∨ t = qReadResp then
    decide (1 ≤ h.lines ∧ h.lines ≤ 32)
  else if t = 10 then decide (h.lines ≤ 1)
  else h.lines == 0

/-- POISON stands on a frame of one line of zeros (R341). -/
def poisonOk (fr : QFrame) : Bool := !fr.h.poison || (fr.h.lines == 1 && fr.payload.all fun b => b == 0)

/-- A frame that R341 and R342 let through. -/
def frameOk (t : Nat) (fr : QFrame) : Bool :=
  decide (1 ≤ t ∧ t ≤ 10) && fr.h.qver == 1 && fr.h.rsvClear && linesOk t fr.h && poisonOk fr && fr.payload.length == 128 * fr.h.lines
    && (if t = qAdd then fr.h.fmt == 1 || fr.h.fmt == 3 else fr.h.fmt == 0)

/-! ## Ports and bundles (R335, Table 10.6) -/

/-- Does a port train again now (Table 10.6)? -/
def State.retraining (s : State) (p : Nat) : Bool := (s.qport p).retrain.isSome

/-- A port that is up, or that trains again and keeps its channel. -/
def State.portAlive (s : State) (p : Nat) : Bool := s.portUp p || s.retraining p

/-- The other ports of a port's bundle (R335). -/
def bundleMates (p : Nat) : List Nat := ((List.range 4).map (p / 4 * 4 + ·)).filter (· != p)

/-- QFB_STATUS.BUNDLES_DOWN of a port's bundle. -/
def State.noteBundle (s : State) (p : Nat) : State :=
  let down := !((List.range 4).any fun i => s.portUp (p / 4 * 4 + i))
  s.put QFB_STATUS_BUNDLES_DOWN (setBits (s.get QFB_STATUS_BUNDLES_DOWN) (p / 4) (p / 4) (b2n down))

/-- A LINK event: PORT, KIND (Table 12.3). -/
def State.raiseLink (s : State) (port kind : Nat) : State := (s.raise 0xA (le 2 port ++ le 2 kind)).alert 3

/-- What training reaches with the lanes that a mask names as good, from a width of some SPEED code down: speed code and
LANES_HIGH (R337). -/
def State.trained (s : State) (p lanes width : Nat) : Option (Nat × Nat) :=
  if 2 ≤ width ∧ lanes % 256 = 255 ∧ s.on (QPT_CTRL_ALLOW_800 p) then some (2, 0)
  else if s.on (QPT_CTRL_ALLOW_400 p) ∧ lanes % 16 = 15 then some (1, 0)
  else if s.on (QPT_CTRL_ALLOW_400 p) ∧ lanes / 16 % 16 = 15 then some (1, 1)
  else none

/-- A port's link up at a speed. -/
def State.linkUp (s : State) (p speed high : Nat) : State :=
  (((s.put (QPT_STATUS_LINK_UP p) 1).put (QPT_STATUS_SPEED p) speed).put (QPT_STATUS_LANES_HIGH p) high).noteBundle p

/-- A port's link down. -/
def State.linkDown (s : State) (p : Nat) : State :=
  ((((s.put (QPT_STATUS_LINK_UP p) 0).put (QPT_STATUS_SPEED p) 0).put (QPT_STATUS_LANES_HIGH p) 0).put (QPT_PARTNER_VALID p) 0).noteBundle p

/-- The channels of a port closed. -/
def State.closeChans (s : State) (p : Nat) : State :=
  (s.mapQuill fun q => { q with chans := q.chans.filter fun c => c.port != p }).noteChans p

/-- A CTRL frame (Table 10.5): its purpose, the destination role and address, and what it carries, filled up to one line. -/
def State.sendCtrl (s : State) (p kind role mac : Nat) (data : List Byte) : State :=
  let n := ceilDiv data.length 128
  s.sendPort p n (.ctrl p kind (s.ether p mac) (s.hdr role n) (fit (128 * n) data))

/-- Where a CTRL frame of a port goes: the partner's address where a channel knows it, every station before that (log 12). -/
def State.ctrlMac (s : State) (p : Nat) : Nat :=
  match s.quill.chans.find? fun c => c.port == p && decide (c.peer < 2048) with | some c => c.mac | none => 0xFFFFFFFFFFFF

/-- The handover report for a dead channel: this side's last accepted LSEQ there, sent over the lowest surviving port of
the bundle (R347). Its payload layout is the model's (log 12). -/
def State.sendHandover (s : State) (c : Chan) (port : Nat) : State :=
  s.sendCtrl port 3 (s.peerRole c) (match s.chan port c.peer with | some x => x.mac | none => s.ctrlMac port)
    (le 1 c.port ++ zeros 1 ++ le 2 c.peer ++ le 4 ((c.rxNext + 2 ^ 32 - 1) % 2 ^ 32))

/-- The ports of a bundle that take over from a port: those that are up, or, where none is, those that train again, the lowest
first (R347, log 63). -/
def State.heirs (s : State) (p : Nat) : List Nat :=
  let ms := (bundleMates p).filter fun m => s.portAlive m
  let up := ms.filter fun m => s.portUp m
  if up.isEmpty then ms else up

/-- A port goes down (R347, Table 10.6): its frames await the handover while another port of the bundle lives; with the
last port they are discarded, the bundle is lost and the running step ends with LINK_LOST. -/
def State.portLoss (s : State) (p : Nat) : State :=
  if !s.portAlive p then s
  else
    let cs := s.quill.chans.filter fun c => c.port == p
    let s := (((s.linkDown p).closeChans p).noteRetry p).countAt 0xAC (portInst p) 1
    let s := s.onPort p fun x =>
      { x with helloSince := none, partner := none, retrain := none, stalled := [], lowMargin := 0, resends := [] }
    match s.heirs p with
    | m :: _ =>
      let s := s.put (QPT_STATUS_HANDOVER p) 1
      cs.foldl (fun s c =>
        (s.sendHandover c m).mapQuill fun q => { q with handover := q.handover ++ [(p, c.peer, c.unacked, c.waiting)] }) s
    | [] =>
      let s := s.mapQuill fun q => { q with handover := q.handover.filter fun x => x.1 / 4 != p / 4 }
      let s := (s.put QFB_STATUS_BUNDLE_LOST 1).raiseLink p 3
      if s.run.stepOn then s.voidNow false 0x0206 p 0 else s

/-- A port leaves the route masks to train again at the same width (Table 10.6); its channels and retry buffer stay. -/
def State.startRetrain (s : State) (p : Nat) : State :=
  let width := match (s.qport p).retrain with | some w => w | none => s.get (QPT_STATUS_SPEED p)
  let s := (((s.put (QPT_STATUS_LINK_UP p) 0).put (QPT_STATUS_SPEED p) 0).put (QPT_STATUS_RETRAINED p) 1).noteBundle p
  (s.countAt 0xAB (portInst p) 1).onPort p fun x => { x with retrain := some width, lowMargin := 0, resends := [] }

/-! ## Go-back-N (R345) -/

/-- Every unacknowledged frame of a channel sent again in LSEQ order. -/
def State.resend (s : State) (c : Chan) : State :=
  let p := c.port
  let s := c.unacked.foldl (fun s f =>
    let h := { f.h with lack := c.rxNext }
    let s := (s.sendPort p h.lines (.quill p (s.ether p c.mac) f.qtype h f.payload)).countAt 0xA5 (portInst p) 1
    s.bump (QPT_RETX_COUNT p) 1) (s.countAt 0xA4 (portInst p) 1)
  let s := s.setChan { c with unacked := c.unacked.map fun f => { f with sentAt := s.time } }
  let s := s.onPort p fun x => { x with resends := s.time :: x.resends.filter fun t => decide (s.time < t + 1000000) }
  let limit := let l := s.get (QPT_RETRY_CTRL_RETRY_LIMIT p); if l = 0 then 16 else l
  if limit ≤ (s.qport p).resends.length then s.startRetrain p else s

/-- A channel taken up again after a retrain: what is unacknowledged is sent again, then what waits (Table 10.6). -/
def State.resumeChan (s : State) (p peer : Nat) : State :=
  match s.chan p peer with
  | some c => (s.resend c).pumpChan p peer
  | none => s

/-- Does a LACK acknowledge a sequence number? -/
def ackCovers (lack n : Nat) : Bool := let d := (lack + 2 ^ 32 - n % 2 ^ 32) % 2 ^ 32; decide (0 < d ∧ d < 2 ^ 31)

/-- Has the link acknowledged every frame of a message of this module (R268)? -/
def State.linkAcked (s : State) (list mseq : Nat) : Bool :=
  let mine := fun (f : TxFrame) => f.h.srcRole == s.get QFB_ROLE_ROLE && f.h.srcList == list && f.h.mseq == mseq
    && f.h.step == s.step && decide (f.qtype ≤ qClose)
  !(s.quill.chans.any fun c => c.unacked.any mine || c.waiting.any mine) && !(s.quill.handover.any fun x => x.2.2.1.any mine || x.2.2.2.any mine)

/-- The message that a transmit list sent with a number. -/
def State.message (s : State) (list mseq : Nat) (d : Desc) : Option TxMsg :=
  s.quill.sent.find? fun m => m.list == list && m.mseq == mseq && m.dst == d.qDstRole && m.group == (d.kind == 0x32)

/-- A Quill descriptor completes once its frames are acknowledged by the link or, with SCOPE FABRIC, every receiver has
reported (R268, R351). -/
def State.quillCheck (s : State) (list : Nat) : State :=
  match (s.eng (0x30 + list)).phase, s.head (0x30 + list) with
  | .sent mseq r, some d =>
    let reported := match s.message list mseq d with | some m => m.left == 0 | none => true
    if (if d.scope = 3 then reported else s.linkAcked list mseq || statusVoids r.status) then s.finishEng (0x30 + list) r else s
  | _, _ => s

/-- Does a follow frame of a step wait for the link's acknowledgement? Those of Table 11.5 count (log 23). -/
def State.ridePending (s : State) (step : Nat) : Bool :=
  let mine := fun (f : TxFrame) => f.qtype == qRide && f.h.srcRole == s.get QFB_ROLE_ROLE && f.h.step == step
  s.quill.chans.any (fun c => c.unacked.any mine || c.waiting.any mine)
    || s.quill.handover.any (fun x => x.2.2.1.any mine || x.2.2.2.any mine)

/-- STEP_DONE of a completed step (R419, R428). -/
def State.reportStep (s : State) (step : Nat) : State :=
  match s.run.reports.find? fun r => r.step == step with
  | some r =>
    ((if s.mainOn then s.raiseStepTo false 1 step (r.body 1984 0) else s)).raiseStepTo true 1 step (r.body 997 0)
  | none => s

/-- Completed steps reported once their follow frames are acknowledged (R367). -/
def State.reportSteps (s : State) : State :=
  let ready := s.run.unreported.filter fun t => !s.ridePending t
  ready.foldl State.reportStep (s.mapRun fun r => { r with unreported := r.unreported.filter fun t => !ready.contains t })

/-- Every transmit list looked at, and what waits for acknowledgements of follow frames. -/
def State.quillChecks (s : State) : State := ((List.range 8).foldl State.quillCheck s).reportSteps

/-- What is acknowledged on a channel (R345): frames leave the retry buffer, waiting frames may go. -/
def State.acked (s : State) (c : Chan) (covers : Nat → Bool) : State :=
  let keep := c.unacked.filter fun f => !covers f.h.lseq
  if keep.length = c.unacked.length then s
  else
    let s := s.setChan { c with unacked := keep }
    let s := s.onPort c.port fun x => { x with resends := [] }
    (((s.noteRetry c.port).pumpPort c.port).noteRetry c.port).quillChecks

/-! ## Receiving (R343 to R345) -/

/-- The MAC address of port `p` of the module that holds a role, by the directory of the bank in force (R340, Table 10.12). -/
def State.roleMac (s : State) (role p : Nat) : Nat := (leNat (slice (bankDir s.bankNow role) 6 6).reverse + p) % 2 ^ 48

/-- A frame to a group address opens the member's channel from its source (log 13). -/
def State.openRx (s : State) (fr : QFrame) : State :=
  if s.switched && fr.group then s.openGroup fr.port (rxPeer fr) (s.roleMac fr.h.srcRole fr.port) fr.h.dst else s

/-- An ADD frame as the source of its exact adds. -/
def frameSrc (fr : QFrame) : AddSrc := .frame fr.port (rxPeer fr) fr.h.vc fr.h.lseq (fr.h.lines + 1)

/-- A frame that has been handled frees its slots, once none of its exact adds waits (R264, R344). -/
def State.freeFrame (s : State) (fr : QFrame) : State :=
  if s.addsWait (frameSrc fr) then s else s.freeSlots fr.port (rxPeer fr) fr.h.vc (fr.h.lines + 1)

/-- What a port counts of a received frame's codewords and FCS (R345, R346, Table 10.15). -/
def State.noteCode (s : State) (fr : QFrame) : State :=
  let p := fr.port
  let s := if fr.corrected = 0 then s else (s.bump (QPT_FEC_CE_COUNT p) fr.corrected).countAt 0xA7 (portInst p) fr.corrected
  let s := if fr.fec then s else (s.bump (QPT_FEC_UE_COUNT p) 1).countAt 0xA8 (portInst p) 1
  if fr.fcs then s else s.countAt 0xA9 (portInst p) 1

/-- The link layer of a received sequenced frame (R345): is it accepted? -/
def State.linkRx (s : State) (fr : QFrame) : State × Bool :=
  if !s.portUp fr.port || !s.on QFB_CTRL_ENABLE then (s, false)
  else
    let s := (s.noteCode fr).openRx fr
    match s.chan fr.port (rxPeer fr) with
    | none => (s, false)
    | some c =>
      if fr.fcs ∧ fr.fec ∧ fr.h.lseq = c.rxNext then
        let c := { c with rxNext := (c.rxNext + 1) % 2 ^ 32, nakSent := false, sinceAck := c.sinceAck + 1,
                          ackDue := some (match c.ackDue with | some t => t | none => s.time) }
        let s := (s.setChan c).countAt 0xA1 (portInst fr.port) 1
        let s := (s.countAt 0xA3 (portInst fr.port) fr.h.lines).acked c (ackCovers fr.h.lack)
        match s.chan fr.port (rxPeer fr) with
        | some c => (if 16 ≤ c.sinceAck then s.sendAck c false else s, true)
        | none => (s, true)
      else if c.nakSent then (s, false)
      else (s.sendAck c true, false)

/-- A received frame of TYPE `t` through the link to what handles it; `handle` gets the frame and leaves its slots to be
freed here, unless it answers that the frame is held (R353). -/
def State.receive (s : State) (t : Nat) (fr : QFrame) (handle : State → State × Bool) : State :=
  let (s, ok) := s.linkRx fr
  if !ok then s
  else if !frameOk t fr then
    (s.put (QPT_STATUS_BAD_FRAME fr.port) 1).freeSlots fr.port (rxPeer fr) fr.h.vc (fr.h.lines + 1)
  else
    let (s, held) := handle s
    if held then s else s.freeFrame fr

/-! ## HELLO and channels (R337, R343, R344) -/

/-- The HELLO CTRL frame of a port (R337): role, port, MAC address, and the credits it grants. The layout is the model's
(log 12). -/
def State.sendHello (s : State) (p role mac : Nat) : State :=
  s.sendCtrl p 1 role mac (le 2 (s.get QFB_ROLE_ROLE) ++ le 1 p ++ zeros 1 ++ be 6 ((s.flash.config.quillMac + p) % 2 ^ 48)
    ++ le 2 (s.slotShare p))

/-- The channels of a port to roles number at most 128 (R343). -/
def State.chanRoom (s : State) (p peer : Nat) : Bool :=
  decide (((s.roleChans p).filter fun c => c.peer != peer).length < 128)

/-- A channel put in place of the one that the port has to the peer. -/
def State.putChan (s : State) (c : Chan) : State :=
  (s.mapQuill fun q => { q with chans := q.chans.filter (fun x => !(x.port == c.port && x.peer == c.peer)) ++ [c] }).noteChans c.port

/-- This side's part of the HELLO exchange that opens a channel of a switched fabric (R343). A channel whose HELLO the peer has
sent in this exchange stands; any other begins anew at LSEQ 0, without credits before the peer's HELLO gives them, and frames wait
on it until then. -/
def State.greet (s : State) (p r : Nat) : State :=
  let mac := s.roleMac r p
  let s := match s.chan p r with
    | some c => if c.heard && !c.said then s.setChan { c with said := true }
                else s.putChan { freshChan p r mac (s.slotShare p) (s.slotShare p) with credit0 := 0, credit1 := 0, heard := false }
    | none => if s.chanRoom p r then
        s.putChan { freshChan p r mac (s.slotShare p) (s.slotShare p) with credit0 := 0, credit1 := 0, heard := false } else s
  s.sendHello p r mac

/-- The channels of a switched fabric open when the folio starts, one to each next-hop role (R343). -/
def State.openSwitched (s : State) : State :=
  if s.switched then
    (List.range 24).foldl (fun s p => if s.portUp p then (s.nextHops p).foldl (fun s r => s.greet p r) s else s) s
  else s

/-- The module that a HELLO comes from, by its base MAC address (R340). -/
def helloModule (peerPort mac : Nat) : Nat := (mac + 2 ^ 48 - peerPort % 2 ^ 48) % 2 ^ 48

/-- Does a HELLO name another module than the ports of the bundle that have heard one (R337)? -/
def State.miscabled (s : State) (p peerPort mac : Nat) : Bool :=
  !s.switched && (bundleMates p).any fun m =>
    match (s.qport m).partner with | some x => s.on (QPT_PARTNER_VALID m) && x != helloModule peerPort mac | none => false

/-- Q_HELLO: a HELLO from a port's peer (R337, R343): it opens the channel at LSEQ 0, or gives the credits of one that this side
has opened in the same exchange. -/
def State.hearHello (s : State) (p role peerPort mac c0 c1 : Nat) : State :=
  if s.miscabled p peerPort mac then
    let s := (s.put (QPT_PARTNER_ROLE p) role).put (QPT_PARTNER_PORT p) peerPort
    (((s.linkDown p).closeChans p).onPort p fun x => { x with helloSince := none, partner := none, retrain := none, stalled := [] }).put
      (QPT_STATUS_MISCABLED p) 1
  else
    let s := s.onPort p fun x => { x with helloSince := none, partner := some (helloModule peerPort mac) }
    let s := (((s.put (QPT_PARTNER_ROLE p) role).put (QPT_PARTNER_PORT p) peerPort).put (QPT_PARTNER_VALID p) 1).put (QPT_STATUS_MISCABLED p) 0
    let peer := if s.switched then role else 0
    let fresh := { freshChan p peer mac c0 c1 with said := !s.switched }
    match s.chan p peer with
    | some c =>
      if c.heard then s.putChan fresh
      else (s.setChan { c with mac := mac, credit0 := c0, credit1 := c1, allot0 := c0, allot1 := c1, heard := true }).pumpChan p peer
    | none => if s.chanRoom p peer then s.putChan fresh else s

/-! ## The commands -/

/-- PORT_TRAIN: an enabled port that is down comes up on the lanes that trained, and greets its peer (R337). A miscabled port is
held down until it is disabled or its block is reset (DESIGN CHOICE, log 107). -/
def execPortTrain (port lanes : Nat) (s : State) : Host.Outcome State Fault Refusal :=
  .next (if decide (port < 24) && s.power.mainOk && s.on (QPT_CTRL_ENABLE port) && !s.portAlive port
      && !s.on (QPT_STATUS_MISCABLED port) then
    match s.trained port lanes 2 with
    | some (speed, high) =>
      let s := (s.linkUp port speed high).onPort port fun x => { x with helloSince := some s.time, lowMargin := 0 }
      let s := if speed = 1 then s.countAt 0xB6 (portInst port) 1 else s
      s.sendHello port 0 (s.ctrlMac port)
    | none => s
  else s)

/-- Q_HELLO (R337, R343, R344). -/
def execQHello (port role peerPort mac credits0 credits1 : Nat) (s : State) : Host.Outcome State Fault Refusal :=
  .next (if s.portUp port then s.hearHello port role peerPort mac credits0 credits1 else s)

/-- Q_EQ_ADAPT: the margin sampled, one tap moved; the third low sample in a row starts a retrain (R338). -/
def execQEqAdapt (port margin lane : Nat) (s : State) : Host.Outcome State Fault Refusal :=
  .next (if s.portUp port then
    let s := ((s.put (QPT_EQ_MARGIN port) margin).put (QPT_EQ_WORST_LANE port) lane).countAt 0xB4 (portInst port) 1
    let s := s.sendCtrl port 2 (s.get (QPT_PARTNER_ROLE port)) (s.ctrlMac port) []
    let low := decide (margin < s.get (QPT_EQ_RETRAIN_MARGIN port))
    let n := if low then (s.qport port).lowMargin + 1 else 0
    let s := s.onPort port fun x => { x with lowMargin := n }
    if 3 ≤ n then s.startRetrain port else s
  else s)

/-- Did a retrain fail on a lane of the width and half that the port had (Table 10.6)? -/
def laneFailed (was high lanes : Nat) : Bool :=
  if was = 2 then lanes % 256 != 255 else if high = 0 then lanes % 16 != 15 else lanes / 16 % 16 != 15

/-- Q_RETRAIN: a retrain that a port needs, or that loss of alignment starts, ends on the lanes that trained: at its old
width, degraded to a good half, or as a port loss (Table 10.6). -/
def execQRetrain (port lanes : Nat) (alignmentLost : Bool) (s : State) : Host.Outcome State Fault Refusal :=
  .next (
    let s := if alignmentLost && s.portUp port then s.startRetrain port else s
    match (s.qport port).retrain with
    | some was =>
      match s.trained port lanes was with
      | some (speed, high) =>
        let failed := (speed = 1 ∧ was ≠ 1) ∨ laneFailed was (s.get (QPT_STATUS_LANES_HIGH port)) lanes = true
        let s := (s.linkUp port speed high).onPort port fun x => { x with retrain := none }
        let s := if failed then
            ((s.put (QPT_STATUS_DEGRADED port) 1).countAt 0xAA (portInst port) 1).countAt 0xB6 (portInst port) 1
          else s
        let s := s.releasePort port
        (s.quill.chans.filter fun c => c.port == port).foldl (fun s c => s.resumeChan port c.peer) s
      | none => s.portLoss port
    | none => s)

/-- Q_LINK_DOWN: training failed at both rates, or no HELLO came within 500 ms (Table 10.6, R347). -/
def execQLinkDown (port lanes : Nat) (s : State) : Host.Outcome State Fault Refusal :=
  .next (
    let silent := match (s.qport port).helloSince with | some t => decide (t + 500000000 ≤ s.time) | none => false
    if silent || (s.trained port lanes 2).isNone then s.portLoss port else s)

/-- The frames of a dead channel after the peer's last accepted LSEQ, the unacknowledged ones first (R347). -/
def afterLast (last : Nat) (x : Nat × Nat × List TxFrame × List TxFrame) : List TxFrame :=
  (x.2.2.1.filter fun f => !ackCovers ((last + 1) % 2 ^ 32) f.h.lseq) ++ x.2.2.2

/-- One frame of a dead channel of a port goes on, over a surviving port of the bundle that has a channel to the peer, and is counted as
Q_REROUTE (R347). -/
def State.handOn (s : State) (port peer : Nat) (f : TxFrame) : State :=
  let r := s.pickPort ((s.heirs port).filter fun m => (s.chan m peer).isSome)
  match r.2 with
  | some p => (r.1.countAt 0xAD (portInst p) 1).offer p peer { f with sentAt := 0 }
  | none => r.1

/-- Does a dead channel answer a HANDOVER of a port and peer? In a torus a port has one peer. -/
def State.handed (s : State) (port peer : Nat) (x : Nat × Nat × List TxFrame × List TxFrame) : Bool :=
  x.1 == port && (!s.switched || x.2.1 == peer)

/-- A channel whose far end is down, while the port itself is up, is dead as well: this side reports its own last LSEQ over the
lowest surviving port, and the frames of the channel await the handover (R347). -/
def State.farDown (s : State) (port peer : Nat) : State :=
  match s.chan port peer, s.heirs port with
  | some c, m :: _ =>
    let s := (s.mapQuill fun q => { q with chans := q.chans.filter fun x => !(x.port == c.port && x.peer == c.peer) }).noteChans port
    (s.sendHandover c m).mapQuill fun q => { q with handover := q.handover ++ [(port, c.peer, c.unacked, c.waiting)] }
  | _, _ => s

/-- HANDOVER: the peer's last accepted LSEQ of the dead channel that it had with a port; the frames after it go on the surviving
ports in LSEQ order, each counted as Q_REROUTE (R347). -/
def execHandover (dead : ChanEnd) (lastLseq : Nat) (s : State) : Host.Outcome State Fault Refusal :=
  .next (
    let s := if s.portUp dead.port then s.farDown dead.port dead.peer else s
    let rest := s.mapQuill fun q => { q with handover := q.handover.filter fun x => !s.handed dead.port dead.peer x }
    ((s.quill.handover.filter (s.handed dead.port dead.peer)).foldl (fun s x =>
      (afterLast lastLseq x).foldl (fun s f => s.handOn dead.port x.2.1 f) s) rest).quillChecks)

/-- ACK_TIMEOUT: the oldest unacknowledged frame of a channel has waited ACK_TIMEOUT (R345). -/
def execAckTimeout (port peer : Nat) (s : State) : Host.Outcome State Fault Refusal :=
  .next (match s.chan port peer with
    | some c =>
      let t := let v := s.get (QPT_RETRY_CTRL_ACK_TIMEOUT port); (if v = 0 then 80 else v) * 100
      match c.unacked with
      | f :: _ => if s.portUp port && decide (f.sentAt + t ≤ s.time) then s.resend c else s
      | [] => s
    | none => s)

/-- ACK_SEND: at least every 1 µs while credits or acknowledgements are pending, and after 16 frames (R344). -/
def execAckSend (port peer : Nat) (s : State) : Host.Outcome State Fault Refusal :=
  .next (match s.chan port peer with
    | some c =>
      match c.ackDue with
      | some t => if s.portUp port && (decide (t + 1000 ≤ s.time) || decide (16 ≤ c.sinceAck)) then s.sendAck c false else s
      | none => s
    | none => s)

/-- What an ACK of one member says noted on a channel to a group: slots count as free, and frames as acknowledged, once `need`
members say so (log 13). -/
def Chan.hear (c : Chan) (need : Nat) (h : QHdr) : Chan :=
  let old := match c.members.find? fun m => m.role == h.srcRole with | some m => m | none => ⟨h.srcRole, 0, 0, 0⟩
  let new : Member := ⟨h.srcRole, h.lack, old.freed0 + h.arg % 65536, old.freed1 + h.arg / 65536 % 65536⟩
  let ms := new :: c.members.filter fun m => m.role != h.srcRole
  let least := fun (get : Member → Nat) => if ms.length < need then 0 else (ms.map get).foldl min (get new)
  { c with members := ms, freed0 := max c.freed0 (least Member.freed0), freed1 := max c.freed1 (least Member.freed1),
           credit0 := min c.allot0 (c.credit0 + (least Member.freed0 - c.freed0)),
           credit1 := min c.allot1 (c.credit1 + (least Member.freed1 - c.freed1)) }

/-- An ACK taken on a channel: credits and acknowledgement (R344, R345). -/
def State.takeAck (s : State) (c : Chan) (h : QHdr) : State :=
  if c.toGroup then
    let n := s.groupNeed c
    let c := c.hear n h
    (s.setChan c).acked c fun l => decide (n ≤ (c.members.filter fun m => ackCovers m.lack l).length)
  else
    let c := { c with credit0 := min c.allot0 (c.credit0 + h.arg % 65536), credit1 := min c.allot1 (c.credit1 + h.arg / 65536 % 65536) }
    (s.setChan c).acked c (ackCovers h.lack)

/-- ACK: credits and acknowledgement; with NAK set the sender resends (R344, R345). -/
def execAck (frame : QFrame) (s : State) : Host.Outcome State Fault Refusal :=
  .next (if !s.portUp frame.port || !s.on QFB_CTRL_ENABLE then s
    else
    let s := s.noteCode frame
    if !frame.fcs || !frame.fec then s
    else if !frameOk qAck frame then s.put (QPT_STATUS_BAD_FRAME frame.port) 1
    else match s.chan frame.port frame.peer with
    | none => s
    | some c =>
      let s := s.takeAck c frame.h
      let s := if frame.h.nak then
          match s.chan frame.port frame.peer with
          | some c => if c.unacked.isEmpty then s else s.resend c
          | none => s
        else s
      s.pumpPort frame.port)

/-- BAD_FRAME: another EtherType is dropped; a frame that breaks R341 or R342 is acknowledged and discarded. An ACK or CTRL frame is
not sequenced, so that it is discarded without (R339, R341, R342). -/
def execBadFrame (frame : QFrame) (ethertypeOk : Bool) (qtype : Nat) (s : State) : Host.Outcome State Fault Refusal :=
  .next (if !s.portUp frame.port then s
    else if !ethertypeOk then s.put (QPT_STATUS_BAD_FRAME frame.port) 1
    else if frameOk qtype frame then s
    else if qtype = qAck ∨ qtype = 10 then
      let s := s.noteCode frame
      if frame.fcs && frame.fec then s.put (QPT_STATUS_BAD_FRAME frame.port) 1 else s
    else s.receive qtype frame fun s => (s, false))

/-- PFC_FRAME: a pause of 512-bit quanta on PFC_PRIO, in switched topology; elsewhere the frame is dropped (R339). -/
def execPfcFrame (port prio quanta : Nat) (s : State) : Host.Outcome State Fault Refusal :=
  .next (if !s.portUp port then s
    else if !s.switched then s.put (QPT_STATUS_BAD_FRAME port) 1
    else if prio ≠ s.get QFB_SWITCHED_PFC_PRIO then s
    else
      let ns := quanta * 512 / (if s.get (QPT_STATUS_SPEED port) = 1 then 400 else 800)
      let paused := decide (s.time < (s.qport port).pausedUntil)
      let s := s.onPort port fun x => { x with pausedUntil := s.time + ns }
      if quanta = 0 then s.releasePort port else if paused then s else s.countAt 0xB3 (portInst port) 1)

end Sys2Proof.Machine
end

