-- ==== Sys2Proof/Machine/Power.lean ====
section
/-! DEFINITION. Power, resets and start-up (chapter 15, R457, R465, R505, Table 15.9a). -/
namespace Sys2Proof.Machine

/-- The power state changed. -/
def State.mapPower (s : State) (f : Power → Power) : State := { s with power := f s.power }

/-! ## The input (R491, R492) -/

/-- A reading of the input voltage: PWR_VIN with the lowest of the last second, and the time since it fell below 48.0 V. -/
def State.noteVin (s : State) (mv : Nat) : State :=
  let vins := keepVins s.time ((s.time, mv) :: s.risk.vins)
  let s := { s with risk := { s.risk with vins := vins } }
  let s := s.mapPower fun p => { p with vinMv := mv, gasped := p.gasped && decide (mv < 33000), below48Since :=
    if mv < 48000 then (match p.below48Since with | some t => some t | none => some s.time) else none }
  (s.put PWR_VIN_VIN (mv / 10)).put PWR_VIN_VIN_MIN ((vins.map Prod.snd).foldl min mv / 10)

/-- VIN_MIN as time passes: the lowest level that the input held in the last second (R458). -/
def State.ageVin (s : State) : State :=
  let vins := keepVins s.time s.risk.vins
  if vins = s.risk.vins then s
  else ({ s with risk := { s.risk with vins := vins } } : State).put PWR_VIN_VIN_MIN ((vins.map Prod.snd).foldl min s.power.vinMv / 10)

/-! ## Configuration record (R508) -/

/-- Does start-up load a field from the configuration record? CD and RW fields, but for ENABLE (R449). -/
def FieldDef.preset (f : FieldDef) (addr : Nat) (b : BlockDef) : Bool :=
  (f.acc == .CD || f.acc == .RW || f.acc == .RWA) && !(b.enable && addr % 0x10000 == 0 && f.lo == 0)

/-- Presets of the configuration record from `lo` to below `hi`. -/
def State.loadPresets (s : State) (lo hi : Nat) : State :=
  (s.flash.config.presets.filter fun p => decide (lo ≤ p.1 ∧ p.1 < hi)).foldl (fun s p =>
    match regDef p.1, blockOf p.1 with
    | some r, some (_, b) =>
      let s := (r.fields.filter fun f => f.preset p.1 b).foldl (fun s f => s.put ⟨p.1, f.hi, f.lo⟩ (bits p.2.toNat f.hi f.lo)) s
      if p.1 = 0x4B0008 then s.headDist else s
    | _, _ => s) s

/-! ## What is lost with the main side (Table 15.9a, R510) -/

/-- Commands of the host ports end with their sessions; what the side-band waits for on the main side ends with
STATE_INVALID, but for MAIN_POWER (log 15). -/
def State.dropDeferred (s : State) : State :=
  let c := s.chembe
  let keep := c.deferred.filter fun d => d.src.isSide
  { s with chembe := { c with held := [], deferred := keep.map fun d =>
      if d.result.isNone ∧ d.op ≠ 0x0702 then { d with result := some (stState, []) } else d } }

/-- Host-port sessions end (Table 15.9a). -/
def State.dropHostSessions (s : State) : State :=
  { s with chembe := { s.chembe with sessions := s.chembe.sessions.filter fun x => x.src.isSide } }

/-- Registers of the map and states of the Drawers, and of the Plank map. -/
def mapRegister (a : Nat) : Bool :=
  decide (0x100000 ≤ a ∧ a < 0x200000 ∧ 0x100 ≤ a % 0x10000 ∧ a % 0x10000 < 0x164)
    || decide (0x80000 ≤ a ∧ a < 0xA0000 ∧ 0x10 ≤ a % 0x10000 ∧ a % 0x10000 < 0x20)

/-- Main-side logic forgets everything but DRAM, its check bytes and classes; `maps` keeps the Drawer and Plank maps, and
the timestamp runs on, and so does a last gasp (R493). The counts of CABc_STATUS follow the Drawer states kept (Table 6.10), and a row that cannot be repaired
stays known (R18). -/
def State.clearMain (s : State) (maps : Bool) : State :=
  let keep := s.regs.filter fun p =>
    decide (p.1 < 0x30000 ∨ p.1 = 0x40010 ∨ p.1 = 0x40014) || (maps && mapRegister p.1)
  let cabs := (List.range 16).map fun c => { Cab.reset with degraded := if maps then (s.cab c).degraded else [] }
  let worst := (List.range 2).map fun d => maps && s.on (DSK_ARRAY_STATUS_UNREPAIRABLE d)
  let s := { s with regs := keep, mem := { s.mem with ink := [], inkPoison := [], inkErr := [] },
                    sbd := .reset,
                    cabs := cabs, leaves := List.replicate 8 .parked, turns := [], folio := none,
                    job := .empty, run := .empty, quill := .reset, svl := .reset,
                    risk := { Risk.reset with vins := s.risk.vins, feedWarnAt := s.risk.feedWarnAt }, intake := .reset,
                    hostFrames := [0, 0] }
  let low := fun (a : Nat) => decide (a < 0x30000)
  let w := { s.win with guard := s.win.guard.filter fun g => low g.1, latched := s.win.latched.filter (fun l => low l.2.1),
                        lastWrite := s.win.lastWrite.filter fun l => low l.1 }
  let s := { s with win := w }
  let s := (s.dropDeferred.dropHostSessions).mapPower fun p =>
    { p with gasp := if maps then p.gasp else none, gate := 0, barHot := false, barMem := false, barCap := false, memSteps := 0, busy := [] }
  let s := (s.setJobState jsEmpty).put GLB_STATE_SAFE_CAUSE 0
  if maps then
    let s := (List.range 2).foldl (fun s d => s.put (DSK_ARRAY_STATUS_UNREPAIRABLE d) (b2n (worst.getD d false))) s
    (List.range 16).foldl (fun s c => (s.noteDrawers c).noteFailures c) s
  else s

/-- DRAM contents lost (R246, R510). -/
def State.clearDram (s : State) : State :=
  { s with mem := { s.mem with dram := [], check := [], lost := [], dead := [], cls := [], selfRefresh := false, coldStacks := 0 } }

/-- Registers that show the main rails off. -/
def State.railsShown (s : State) (on : Bool) : State :=
  let s := ((s.put PWR_STATUS_MAIN_OK (b2n on)).put GLB_STATE_MAIN_ON (b2n on)).put GLB_STATE_READY 0
  let s := ((s.put PWR_STATUS_CAP_LIMITED 0).put PWR_STATUS_THROTTLE 0).put PWR_STATUS_MEM_HOT 0
  let s := (s.put PWR_VDD_DESK0_MV (if on then 750 else 0)).put PWR_VDD_DESK1_MV (if on then 750 else 0)
  s.put PWR_TEMP_TJ_MAX 0

/-- MAIN_POWER commands that wait for a state of the main side end: 0 off, 1 on, 2 hold (R507). -/
def State.mainReached (s : State) (st : Nat) : State :=
  { s with chembe := { s.chembe with deferred := s.chembe.deferred.map fun d =>
      if d.op = 0x0702 ∧ d.arg = st ∧ d.result.isNone then { d with result := some (stSuccess, []) } else d } }

/-- The main rails go off, DRAM's with them: everything on the main side is lost. -/
def State.railsOff (s : State) : State :=
  let was := !(s.power.main = .off)
  let s := ((s.clearMain false).clearDram.railsShown false).mapPower fun p =>
    { p with main := .off, mainOk := false, timeOn := false, railsOffAt := if was then some s.time else p.railsOffAt }
  (({ s with regs := spClear s.regs 0x30000 0x500000 } : State)).mainReached 0

/-- MAIN_LOST (R465, Table 14.3): for the side-band alone, with ALERT_N through POWER. -/
def State.mainLostNow (s : State) (cause : Nat) : State :=
  ((s.put GLB_STATE_MAIN_ON 0).alert 4).raiseTo true 0x10 (le 4 cause)

/-- The main side goes off by a fault, without an orderly end (R465, R492, R501). -/
def State.mainFault (s : State) (cause : Nat) : State :=
  let lost := s.mainOn
  let s := s.railsOff
  if lost then s.mainLostNow cause else s

/-- A running job aborts as for STOP IMMEDIATE (R427, R510, R515). -/
def State.abortJob (s : State) : State :=
  if s.run.stepOn || s.jobState == jsRunning then s.voidNow true 0x0209 0 0 else s

/-- The main side loses its request (R510). -/
def State.loseRequest (s : State) : State :=
  match s.power.main with
  | .off => s
  | .hold => s.railsOff
  | _ => s.abortJob.railsOff.mainLostNow 4

/-- A Cabinet's migration abandoned and its queue cleared: source mapped, targets back to SPARE (Table 6.6). DESIGN CHOICE
(log 112): the retest that Table 6.6 names, for which no row is given, always passes, and a former source in RETRAINING or a spare
in TESTING is SPARE again in the same way. -/
def State.abandonEvac (s : State) (c : Nat) : State :=
  let s := s.setCab c fun k => { Cab.reset with degraded := k.degraded }
  let of := fun (k : Nat) => decide (targetCopy ≤ k) && cabOf (k - targetCopy) == c
  let s := { s with mem := { s.mem with dram := s.mem.dram.filter (fun p => !of p.1), check := s.mem.check.filter fun p => !of p.1 } }
  (List.range 68).foldl (fun s p =>
    let v := s.dstate c p
    if v = 2 ∨ v = 4 ∨ v = 5 then s.setDstate c p 1 else if v = 3 ∨ v = 6 then s.setDstate c p (s.mappedState c p) else s) s

/-- Every Cabinet's. -/
def State.abandonEvacs (s : State) : State := (List.range 16).foldl (fun s c => s.abandonEvac c) s

/-- MAIN_POWER HOLD from ON (R511): DRAM keeps its contents in self-refresh. -/
def State.enterHold (s : State) : State :=
  let s := s.abortJob.discardOpen.abandonEvacs
  let s := (s.clearMain true).railsShown false
  let s := s.mapPower fun p => { p with main := .hold, mainOk := false, railsOffAt := some s.time }
  let s := { s with mem := { s.mem with selfRefresh := true } }
  ((s.mainLostNow 4).count 0x5F).mainReached 2

/-! ## Start-up (R507 to R509, Table 15.7) -/

/-- Enabled host and Quill ports of the configuration record: they train before READY (Table 15.7). -/
def State.enablePorts (s : State) : State :=
  let c := s.flash.config
  let s := (portsOf c.quillPorts).foldl (fun s p => s.put (QPT_CTRL_ENABLE p) 1) s
  let mac := fun (s : State) (h m : Nat) =>
    ((s.put (HPT_CTRL_ENABLE h) 1).put (HPT_MAC_LO_MAC_LO h) (m % 2 ^ 32)).put (HPT_MAC_HI_MAC_HI h) (m / 2 ^ 32)
  let s := mac (mac s 0 c.mac0) 1 c.mac1
  (List.range 6).foldl (fun s b => s.noteBundle (4 * b)) s

/-- The Secretaries boot: presets of the main-side blocks, then the ports. -/
def State.bootMain (s : State) : State := (s.loadPresets 0x30000 0x500000).enablePorts

/-- Is the main side requested (R507)? -/
def State.requested (s : State) : Bool :=
  s.pins.pwrEn && s.pins.resetN && s.power.switch == .on && s.esc.ready && !s.esc.recovery

/-- Is THERM_TRIP_N high (Table 15.6)? The module drives it low on a trip and, by the model's choice, for the 10 s of R502; how
long a board that tripped the module drives it is open (DESIGN CHOICE, log 84). -/
def State.thermTripN (s : State) : Bool :=
  match s.power.trip with
  | some (t, cause) => decide (t + 10000000000 ≤ s.time) && !(cause == 4 && Config.boardTrips s.time)
  | none => true

/-- May a request take effect: R492, R502 and 100 ms since the main rails went off (R507)? -/
def State.allowed (s : State) : Bool :=
  let inlet := toSigned 16 (s.get PWR_TEMP_COOLANT_IN)
  let volt := !s.power.overvolt || (match s.power.below48Since with | some t => decide (t + 1000000000 ≤ s.time) | none => false)
  let trip := match s.power.trip with
    | some (t, _) => decide (t + 10000000000 ≤ s.time) && decide (inlet ≤ 320) && s.thermTripN
    | none => true
  let rails := match s.power.railsOffAt with | some t => decide (t + 100000000 ≤ s.time) | none => true
  volt && trip && rails && decide (inlet ≤ 360)

/-- MAIN_ON_START: rails up in order, MAIN_OK, the timestamp, the Secretaries (Tables 15.7 and 15.8); from HOLD the
timestamp runs on and DRAM stays in self-refresh (R330, R511). -/
def State.mainStart (s : State) : State :=
  let held := s.power.main = .hold
  let s := s.railsShown true
  let s := if held then s else { s with regs := spClear s.regs 0x30000 0x500000 }
  let s := s.mapPower fun p =>
    { p with main := .starting (if held then .fromHold else .cold), mainOk := true, timeOn := true, trip := none,
             overvolt := false, railsOffAt := none }
  (s.mapEsc fun e => { e with heartbeatAt := s.time }).bootMain

/-! ### Self-test (R17, R18, R236, R240, R509) -/

/-- PLANK_MAP of a Leaf from its failed Planks; bad rows keep the lowest failed column. -/
def State.setPlanks (s : State) (d l : Nat) (planks : List (Nat × Nat × Nat × Nat)) : State :=
  let w := (List.range 8).foldl (fun w r =>
    match (planks.filter fun p => p.1 == d && p.2.1 == l && p.2.2.1 == r).map fun p => p.2.2.2 with
    | [] => w + 15 * 16 ^ r
    | c :: cs => w + cs.foldl min c * 16 ^ r) 0
  s.setReg (0x80000 + 0x10000 * d + 0x10 + 4 * l) w

/-- Has a Desk a Plank row with two failed Planks (R18)? -/
def unrepairable (d : Nat) (planks : List (Nat × Nat × Nat × Nat)) : Bool :=
  (List.range 32).any fun i =>
    decide (2 ≤ ((planks.filter fun p => p.1 == d && p.2.1 == i / 8 && p.2.2.1 == i % 8).map fun p => p.2.2.2).dedup.length)

/-- The array self-test's result (R17, R18). -/
def State.plankTest (s : State) (planks : List (Nat × Nat × Nat × Nat)) : State :=
  let s := s.mapFlash fun f => { f with planks := f.planks ++ planks.filter fun p => !f.planks.contains p }
  (List.range 2).foldl (fun s d =>
    let s := (List.range 4).foldl (fun s l => s.setPlanks d l planks) s
    s.put (DSK_ARRAY_STATUS_UNREPAIRABLE d) (b2n (unrepairable d planks))) s

/-- A logical Drawer mapped onto a physical one, in the register and in the repair record (R236). -/
def State.remap (s : State) (c l p : Nat) : State :=
  ((s.setPhys c l p).mapFlash fun f =>
    { f with drawerMap := (f.drawerMap.filter fun x => !(x.1 == c && x.2.1 == l)) ++ [(c, l, p)] }).setDstate c p 0

/-- A spare takes the place of a failed Drawer at start-up (R509); without one nothing does. -/
def State.takeSpare (s : State) (c l : Nat) : State :=
  match s.lowestSpare c with
  | some t =>
    let s := s.remap c l t
    { s with mem := { s.mem with dead := s.mem.dead.filter fun d => !(d.1 == c && d.2.1 == l) } }
  | none => s

/-- Drawer maps from the repair record (Table 15.9a): mapped Drawers ACTIVE, failed ones FAILED, the rest SPARE; a logical
Drawer whose own has failed gets a spare. -/
def State.loadMaps (s : State) : State :=
  let s := s.flash.drawerMap.foldl (fun s x => s.setPhys x.1 x.2.1 x.2.2) s
  (List.range 16).foldl (fun s c =>
    let mapped := (List.range 64).map fun l => s.physOf c l
    let s := (List.range 68).foldl (fun s p =>
      s.setDstate c p (if s.flash.drawerFailed.contains (c, p) then 8 else if mapped.contains p then 0 else 1)) s
    let s := (List.range 64).foldl (fun s l => if s.dstate c (s.physOf c l) = 8 then s.takeSpare c l else s) s
    s.noteFailures c) s

/-- A Drawer that fails training at start-up: FAILED, and a spare takes its place (R509). Where DRAM was held, its lines
are lost (R239). -/
def State.failTraining (s : State) (kept : Bool) (c p : Nat) : State :=
  let logical := (List.range 64).find? fun l => s.physOf c l == p
  let s := s.failDrawer c p
  match logical with
  | some l =>
    let s := if kept then s.loseLines c l 0 else s
    let s := { s with mem := { s.mem with dead := (c, l, 0) :: s.mem.dead } }
    s.takeSpare c l
  | none => s

/-- ENABLE fields that start-up sets at READY (Table 15.7); those of the ports were set before they trained. -/
def enableFields : List Fld :=
  [DSK_CTRL_ENABLE 0, DSK_CTRL_ENABLE 1, INK_CTRL_ENABLE, DMA_CTRL_ENABLE, SBD_CTRL_ENABLE, QFB_CTRL_ENABLE,
   INT_CTRL_ENABLE, SVL_CTRL_ENABLE, RSK_CTRL_ENABLE, CNT_CTRL_ENABLE]
  ++ (List.range 16).flatMap fun c => [CAB_CTRL_ENABLE c, CAB_STATUS_ENABLED c, NIB_CTRL_ENABLE c]

/-- READY, or SAFE where the self-test or the repair record forbids it (R18, R240, R509, Table 15.7). -/
def State.startDone (s : State) (k : StartKind) (planks : List (Nat × Nat × Nat × Nat)) (drawers : List (Nat × Nat)) : State :=
  let cold := k == .cold
  let s := if cold then (s.clearDram.plankTest planks).loadMaps else
    s.mem.dead.foldl (fun s d => s.takeSpare d.1 d.2.1) ((List.range 16).foldl (fun s c => s.noteFailures c) s)
  let s : State := drawers.foldl (fun s d => s.failTraining (!cold) d.1 d.2) s
  let s := { s with mem := { s.mem with selfRefresh := false },
                    cabs := s.cabs.map fun (c : Cab) => { c with passStart := s.time, eyeAt := s.time } }
  let s := (enableFields.foldl (fun s f => s.put f 1) s).noteFree.mapPower fun p => { p with main := .on }
  let s := (s.setJobState jsEmpty).put GLB_STATE_SAFE_CAUSE 0
  let bad := (List.range 2).any fun d => s.on (DSK_ARRAY_STATUS_UNREPAIRABLE d)
  let s := if bad then s.enterSafe 0x020E else if s.worn || !s.mem.dead.isEmpty then s.enterSafe 0x0120
    else (s.put GLB_STATE_READY 1).trialReady
  s.mainReached 1

/-! ## MAIN_POWER (R507, R511, R516) -/

/-- Codes of the switch: OFF, ON, HOLD. -/
def switchOf (n : Nat) : MainSwitch := if n = 0 then .off else if n = 1 then .on else .hold

/-- What a state of the switch asks of the main side now; a command that waits keeps waiting. HOLD needs a main side that is ON
or whose DRAM holds its contents, and otherwise ends with STATE_INVALID and changes nothing (R440, R507, R511; for a start-up
from HOLD DESIGN CHOICE, log 113). Answers the final status where there is one. -/
def State.actSwitch (s : State) (on : Nat) : State × Option Nat :=
  match on, s.power.main with
  | 0, _ => (s.loseRequest, some stSuccess)
  | 1, .on => (s, some stSuccess)
  | 1, _ => (s, none)
  | _, .on => (s.enterHold, some stSuccess)
  | _, .hold => (s, some stSuccess)
  | _, .starting .fromHold => (s.enterHold, some stSuccess)
  | _, _ => (s, some stState)

/-- Does a WARM_RESET run, which a MAIN_POWER must await (R516)? -/
def State.warming (s : State) : Bool := s.power.main = .starting .warm

/-- MAIN_POWER commands that awaited the end of a reset act now, in order (R516). Their operand is held 16 higher. -/
def State.actWaiting (s : State) : State :=
  (s.chembe.deferred.filter fun d => d.op == 0x0702 && decide (16 ≤ d.arg)).foldl (fun s d =>
    let (t, r) := s.actSwitch (d.arg - 16)
    let s := if r = some stState then s else t.mapPower fun p => { p with switch := switchOf (d.arg - 16) }
    { s with chembe := { s.chembe with deferred := s.chembe.deferred.map fun x =>
        if x = d then { d with arg := d.arg - 16, result := r.map fun st => (st, []) } else x } }) s

/-! ## Resets (Table 15.9a, R513 to R516) -/

/-- WARM_RESET (R515): job aborted, dirty lines written back, main-side logic reset, DRAM kept in self-refresh. -/
def State.warmReset (s : State) : State :=
  let s := s.abortJob.discardOpen.abandonEvacs
  let s := (s.clearMain true).put GLB_STATE_READY 0
  let s := { s with mem := { s.mem with selfRefresh := true } }
  let s := ((s.put PWR_STATUS_CAP_LIMITED 0).put PWR_STATUS_THROTTLE 0).put PWR_STATUS_MEM_HOT 0
  (s.mapPower fun p => { p with main := .starting .warm }).bootMain

/-- A register word with only some of its bits kept: address, those bits, and their values. -/
def State.keepBits (s : State) (addr mask : Nat) : Nat × Nat × Nat := (addr, mask, s.reg addr &&& mask)

/-- Registers of a block that show live state, or that Table 15.9a keeps, and so stay through a block reset (log 16):
address and bits. -/
def State.liveRegs (s : State) (base : Nat) : List (Nat × Nat × Nat) :=
  let all := 0xFFFFFFFF
  if base = 0 then
    [s.keepBits 0 all, s.keepBits 4 all, s.keepBits 8 all, s.keepBits 0xC all, s.keepBits 0x10 0x10, s.keepBits 0x20 all, s.keepBits 0x50 all]
  else if base = 0x10000 then
    [s.keepBits 0x10008 0x1DF, s.keepBits 0x1000C all, s.keepBits 0x10010 all, s.keepBits 0x10014 all, s.keepBits 0x10018 all,
     s.keepBits 0x1001C all]
  else if base = 0x20000 then [s.keepBits 0x20000 all, s.keepBits 0x20004 all, s.keepBits 0x20008 all, s.keepBits 0x2000C all]
  else if base = 0x30000 then [s.keepBits 0x30004 0xFFFF0000]
  else if base = 0x40000 then
    [s.keepBits 0x40008 all, s.keepBits 0x4000C all, s.keepBits 0x40010 all, s.keepBits 0x40014 all]
      ++ (List.range 128).map fun i => s.keepBits (0x40200 + 4 * i) all
  else if base = 0x80000 ∨ base = 0x90000 then
    (List.range 4).map (fun i => s.keepBits (base + 0x10 + 4 * i) all) ++ [s.keepBits (base + 0x20) 2]
  else if 0x100000 ≤ base ∧ base < 0x200000 then
    s.keepBits (base + 4) 0xFF08 :: (List.range 25).map fun i => s.keepBits (base + 0x100 + 4 * i) all
  else if base = 0x490000 ∨ base = 0x4A0000 then [s.keepBits (base + 0x18) all, s.keepBits (base + 0x1C) all]
  else if base = 0x4C0000 then [s.keepBits 0x4C0018 all, s.keepBits 0x4C001C all]
  else []

/-- HPTh goes down (R417, R461): LINK and the counter, and LINK again where the owner's traffic now takes the other port. -/
def State.hostDown (s : State) (h : Nat) : State :=
  if !s.hostUp h then s
  else
    let s := (((s.put (HPT_STATUS_LINK_UP h) 0).put (HPT_STATUS_SPEED h) 0).put (HPT_STATUS_LANES_HIGH h) 0).put (HPT_STATUS_WENT_DOWN h) 1
    let s := (s.countAt 0xC7 { port := some (24 + h) } 1).raiseLink (24 + h) 1
    match s.hostDest with
    | some (_, _, _, true) => if s.chembe.ownerPort = h then s.raiseLink (24 + h) 2 else s
    | _ => s

/-- What a block's reset does beside its registers; a Cabinet's acts as a WARM_RESET on it, so that a spare takes the place of
a failed Drawer whose rebuild it ends (R246, R509). -/
def State.blockState (s : State) (base : Nat) : State :=
  if base = 0x50000 then { s with risk := { Risk.reset with vins := s.risk.vins, feedWarnAt := s.risk.feedWarnAt } }
  else if base = 0x80000 ∨ base = 0x90000 then
    let d := (base - 0x80000) / 0x10000
    let s := { s with leaves := (List.range 8).map fun i => if i / 4 = d then Leaf.parked else s.leaves.getD i .parked }
    s.mapJob fun j => if d = 0 then { j with standing0 := none } else { j with standing1 := none }
  else if base = 0xA0000 then { s with mem := { s.mem with ink := [], inkPoison := [], inkErr := [] } }
  else if base = 0xC0000 then
    let s := s.discardOpen
    { s with sbd := .reset }
  else if 0x100000 ≤ base ∧ base < 0x200000 then
    let c := (base - 0x100000) / 0x10000
    let s := (s.sbd.lines.filter fun l => cabOf l.addr == c).foldl (fun s l => s.writeback l.addr) s
    (s.mem.dead.filter fun d => d.1 == c).foldl (fun s d => s.takeSpare d.1 d.2.1) (s.abandonEvac c)
  else if base = 0x200000 then s.mapRun fun r => { r with pendingSteps := [] }
  else if 0x300000 ≤ base ∧ base < 0x480000 then s.portLoss ((base - 0x300000) / 0x10000)
  else if base = 0x490000 ∨ base = 0x4A0000 then 
    let h := (base - 0x490000) / 0x10000
    { s.hostDown h with hostFrames := modifyAt s.hostFrames h fun _ => 0 }
  else if base = 0x4B0000 then { s with intake := .reset }
  else if base = 0x4C0000 then
    s.mapSvl fun v => { Survival.reset with shard := v.shard, imageLen := v.imageLen, leaves := v.leaves, done := v.done }
  else s

/-- A block's registers at their Reset column, then the configuration record; live state stays. -/
def State.blockRegs (s : State) (base : Nat) : State :=
  let keep := s.liveRegs base
  let s := (s.resetRegs base (base + 0x10000)).loadPresets base (base + 0x10000)
  let s := keep.foldl (fun s k => s.setReg k.1 ((s.reg k.1 &&& (0xFFFFFFFF ^^^ k.2.1)) ||| k.2.2)) s
  if 0x100000 ≤ base ∧ base < 0x200000 then s.noteDrawers ((base - 0x100000) / 0x10000) else s

/-- CFG_IGNORED (R446, R457): sticky bit, alert, counter, and the first address. -/
def State.cfgIgnored (s : State) (addr : Nat) (mgmt : Bool) : State :=
  let s := if s.on GLB_STATUS_CFG_IGNORED then s
    else (s.put GLB_CFG_IGNORED_ADDR_ADDR addr).put GLB_CFG_IGNORED_ADDR_MASTER (b2n mgmt)
  ((s.put GLB_STATUS_CFG_IGNORED 1).alert 8).count 0xF2

/-- Blocks whose ENABLE a job protects (R447). -/
def protectedBlock (base : Nat) : Bool :=
  [0x80000, 0x90000, 0xA0000, 0xB0000, 0xC0000, 0x480000, 0x4B0000, 0x4C0000].contains base
    || decide (0x100000 ≤ base ∧ base < 0x200000 ∧ base % 0x10000 = 0)
    || decide (0x200000 ≤ base ∧ base < 0x300000 ∧ base % 0x10000 = 0)

/-- Is the job state LOADING or RUNNING? -/
def State.jobBusy (s : State) : Bool := s.jobState == jsLoading || s.jobState == jsRunning

/-- A reset of the block that bits [23:16] name (R457). -/
def State.blockReset (s : State) (blk : Nat) (mgmt : Bool) : State :=
  let base := blk % 256 * 0x10000
  match blockOf base with
  | none => s.cfgIgnored 0x40 mgmt
  | some _ =>
    if protectedBlock base && s.jobBusy then s.cfgIgnored 0x40 mgmt
    else
      let s := (s.blockState base).blockRegs base
      let s := { s with win := { s.win with guard := s.win.guard.filter fun g => g.1 != base } }
      if 0x300000 ≤ base ∧ base < 0x480000 then s.noteBundle ((base - 0x300000) / 0x10000) else s

/-- GLB_RESET_REQ takes effect (R457, R516): ignored while the main side is off or not READY. -/
def State.resetRequest (s : State) (kind blk : Nat) (mgmt : Bool) : State :=
  if kind ≠ 1 ∧ kind ≠ 2 then s
  else if !(s.power.main = .on) then s.cfgIgnored 0x40 mgmt
  else if kind = 1 then s.warmReset
  else s.blockReset blk mgmt

/-- Firmware, straps and standby registers as the Escritoire starts (R484, R486, R505, R507). -/
def State.bootEsc (s : State) (feedId slotId : Nat) : State :=
  let s := s.mapPower fun p => { p with switch := .on }
  let s := (s.loadPresets 0 0x30000).put GLB_ID_ORDER s.flash.config.order
  let s := ((s.put PWR_STRAPS_FEED_ID feedId).put PWR_STRAPS_SLOT_ID slotId).put SEC_STATUS_OWNED (b2n s.flash.owner.isSome)
  let s := s.mapEsc fun e => { e with debug := s.flash.armDebug, test := s.flash.armTest }
  let s := s.mapFlash fun f => { f with armDebug := false, armTest := false }
  let s := (s.put SEC_STATUS_DEBUG_UNLOCKED (b2n s.esc.debug)).put SEC_STATUS_TEST_MODE (b2n s.esc.test)
  let s := if s.flash.sealBreak = 0 then s else (s.put SEC_STATUS_SEAL_BREAK 1).alert 7
  s.bootRom.bootId

/-- What a RESET_N or a standby power-up leaves: flash, the input, the outside of the module. -/
def State.freshStandby (s : State) : State :=
  { State.reset with pending := s.pending, time := s.time, free := s.free, out := s.out, flash := s.flash, pins := s.pins }

/-! ## The commands -/

/-- The standby domain comes up (R494, R508, Table 15.7 up to the 20 ms line). -/
def State.coldStarted (s : State) (vinMv feedId slotId : Nat) : State :=
  let s := s.freshStandby.mapPower fun p => { p with standby := true, upSince := s.time }
  let s := (s.mapFlash fun f => { f with cycle := f.cycle + 1 }).noteVin vinMv
  let s := if s.flash.restorePending then
      (s.mapFlash fun f => { f with restorePending := false }).raisePower 9 vinMv
    else s
  if s.pins.resetN then s.bootEsc feedId slotId else s

/-- COLD_START: VIN rises through 30.0 V (R494). -/
def execColdStart (vinMv feedId slotId : Nat) (s : State) : Host.Outcome State Fault Refusal :=
  .next (if s.power.standby || decide (vinMv < 30000) then s else s.coldStarted vinMv feedId slotId)

/-- The Escritoire is ready (R464); a break of the loop seen before, or found now, is recorded (R476). -/
def State.escReady (s : State) (ohms : Option Nat) : State :=
  let s := (s.mapEsc fun e => { e with ready := true, sealBad := 0, sealBadKind := 0 }).noteLoop ohms
  let s := match ohms with
    | some r => if s.flash.commissioned || loopOpen ohms then s else s.commission r
    | none => s
  let s := if s.esc.sealLatch then (s.mapEsc fun e => { e with sealLatch := false }).sealBreakNow 1 none else s
  let kind := sealKind ohms s.flash.baseline
  if kind = 1 then s.sealBreakNow 2 ohms else if kind = 3 then s.sealBreakNow 3 ohms else s

/-- ESCRITOIRE_READY (R464, R476): the first three samples of the seal loop are taken as the one measurement given. -/
def execEscritoireReady (ohms : Option Nat) (s : State) : Host.Outcome State Fault Refusal :=
  .next (if s.power.standby && s.pins.resetN && !s.esc.ready then s.escReady ohms else s)

/-- MAIN_ON_START (R507, R508). -/
def execMainOnStart (s : State) : Host.Outcome State Fault Refusal :=
  .next (if s.requested && s.allowed && (s.power.main == .off || s.power.main == .hold) then s.mainStart else s)

/-- READY (R17, R18, R218, R240, R483, R508, R509). -/
def execReady (planks : List (Nat × Nat × Nat × Nat)) (drawers : List (Nat × Nat)) (s : State) :
    Host.Outcome State Fault Refusal :=
  .next (match s.power.main with
    | .starting k => (s.startDone k planks drawers).actWaiting
    | _ => s)

/-- The records that the loss of standby power leaves (R474, R512). -/
def State.lostStandby (s : State) (vinMv : Nat) : State :=
  let s := s.closeWindow.noteVin vinMv
  let st := match s.power.main with | .off => 0 | .on => 1 | .hold => 2 | .starting _ => 3
  if st = 1 ∨ s.power.gasped then s else s.logPower (powerRecord 2 st (10 * s.get PWR_VIN_VIN_MIN) 0x020A)

/-- STANDBY_LOSS: VIN falls below 28.0 V (R474, R494, R512). -/
def execStandbyLoss (vinMv : Nat) (s : State) : Host.Outcome State Fault Refusal :=
  .next (if s.power.standby && decide (vinMv < 28000) then (s.lostStandby vinMv).freshStandby else s)

/-- PWR_EN_RISE (R507). -/
def execPwrEnRise (s : State) : Host.Outcome State Fault Refusal :=
  .next { s with pins := { s.pins with pwrEn := true } }

/-- PWR_EN_FALL (R510, R511). -/
def execPwrEnFall (s : State) : Host.Outcome State Fault Refusal :=
  .next ({ s with pins := { s.pins with pwrEn := false } } : State).loseRequest

/-- What RESET_N leaves: the standby domain, the input, the trip record and the samples of the seal loop (Table 15.9a). -/
def State.resetAsserted (s : State) : State :=
  let s := s.closeWindow
  let off := if s.power.main = .off then s.power.railsOffAt else some s.time
  let trip := s.get PWR_STATUS_THERM_TRIP
  let r := s.freshStandby
  let r := { r with pins := { s.pins with resetN := false }, risk := { Risk.reset with vins := s.risk.vins } }
  let r := r.mapEsc fun e => { e with sealBad := s.esc.sealBad, sealBadKind := s.esc.sealBadKind, sealLatch := s.esc.sealLatch,
                                      sealOhms := s.esc.sealOhms }
  let r := r.mapPower fun p => { p with gasped := s.power.gasped, standby := s.power.standby, upSince := s.power.upSince, vinMv := s.power.vinMv,
                                        trip := s.power.trip, overvolt := s.power.overvolt,
                                        below48Since := s.power.below48Since, railsOffAt := off }
  ((r.put PWR_STATUS_THERM_TRIP trip).setReg 0x1000C (s.reg 0x1000C)).put PWR_TEMP_COOLANT_IN (s.get PWR_TEMP_COOLANT_IN)

/-- RESET_N low for 10 µs or more (R514, R516, Table 15.9a). -/
def execResetN (lowNs : Nat) (s : State) : Host.Outcome State Fault Refusal :=
  .next (if 10000 ≤ lowNs ∧ s.pins.resetN then s.resetAsserted else s)

/-- RESET_N released: the cold start from its 20 ms line (R505, R514). -/
def execResetNRelease (feedId slotId : Nat) (s : State) : Host.Outcome State Fault Refusal :=
  .next (if s.pins.resetN then s
    else
      let s := { s with pins := { s.pins with resetN := true } }
      if s.power.standby then s.bootEsc feedId slotId else s)

/-- UNDERVOLT: VIN enters or leaves the band from 33.0 to 36.0 V (R491, R519). -/
def execUndervolt (vinMv : Nat) (s : State) : Host.Outcome State Fault Refusal :=
  .next (if !s.power.standby then s
    else
      let s := s.noteVin vinMv
      let inBand := decide (33000 ≤ vinMv ∧ vinMv < 36000)
      if inBand == s.on PWR_STATUS_UNDERVOLT then s
      else (s.put PWR_STATUS_UNDERVOLT (b2n inBand)).raisePower 1 (if inBand then vinMv else 0))

/-- OVERVOLT: VIN above 50.0 V for 10 µs (R492); the event comes once for each stay above 50.0 V. -/
def execOvervolt (vinMv lastedNs : Nat) (s : State) : Host.Outcome State Fault Refusal :=
  .next (if s.power.standby && decide (50000 < vinMv ∧ 10000 ≤ lastedNs) then
    let onset := !s.power.overvolt || decide (s.power.vinMv ≤ 50000)
    let s := (s.mainFault 3).noteVin vinMv
    let s := s.mapPower fun p => { p with overvolt := true }
    if onset then s.raisePower 2 vinMv else s
  else s)

/-- The host owner's LAST_GASP on the other host port as well (Table 11.6). -/
def State.gaspTwice (s : State) : State :=
  match s.hostDest, s.chembe.host.items.reverse.find? (fun e => e.code == 8) with
  | some (p, _, num, _), some e =>
    match e.seq, s.flash.owner with
    | some n, some (own, alt) =>
      if s.hostUp (1 - p) then s.send (.event false (1 - p) (if alt = 0 then own else alt) num n e.params) else s
    | _, _ => s
  | _, _ => s

/-- The last gasp: the step is void, GASP and LAST_GASP leave, the record is written (R397, R512). -/
def State.lastGasp (s : State) (vinMv lastedNs : Nat) : State :=
  let s := ((s.noteVin vinMv).put PWR_STATUS_POWER_FAIL 1).alert 4
  let s := if s.on PWR_STATUS_UNDERVOLT then (s.put PWR_STATUS_UNDERVOLT 0).raisePower 1 0 else s
  let low := 10 * s.get PWR_VIN_VIN_MIN
  let g : GaspRun := { since := s.time - lastedNs, lowestMv := low, jobState := s.jobState }
  let s := s.mapPower fun p => { p with gasp := some g, gasped := true }
  let s := if s.run.stepOn then s.voidNow false 0x020A 0 0 else s
  let s := if s.followers.isEmpty then s
    else (s.ride 0xFF06 0 (fit 128 (le 4 s.step ++ le 4 (s.get SVL_CONFIRMED_STEP))) false).put SVL_STATUS_GASP_SENT 1
  let s := (s.raise 8 (le 4 (s.get SVL_CONFIRMED_STEP) ++ le 4 low)).gaspTwice
  s.logPower (powerRecord 1 s.step low 0x020A)

/-- POWER_FAIL: the input below 33.0 V for 5 µs (R397); in HOLD it takes the DRAM rails with it (R511). -/
def execPowerFail (vinMv lastedNs : Nat) (s : State) : Host.Outcome State Fault Refusal :=
  .next (if s.power.standby && decide (vinMv < 33000 ∧ 5000 ≤ lastedNs) && s.power.main == .on && s.power.gasp.isNone then
    s.lastGasp vinMv lastedNs
  else if s.power.standby && decide (vinMv < 33000 ∧ 5000 ≤ lastedNs) && s.power.main == .hold then (s.noteVin vinMv).railsOff
  else s)

/-- GASP_RAILS_OFF: 900 µs after the drop (R397, R493). -/
def execGaspRailsOff (s : State) : Host.Outcome State Fault Refusal :=
  .next (match s.power.gasp with
    | some g => if g.since + 900000 ≤ s.time then s.railsOff else s
    | none => s)

/-- A hardware trip (R501, R502). -/
def State.tripNow (s : State) (cause : Nat) : State :=
  let s := s.mainFault 2
  let s := s.mapPower fun p => { p with trip := some (s.time, cause) }
  (s.put PWR_STATUS_THERM_TRIP 1).raisePower 7 cause

/-- THERM_TRIP: 1 die, 2 DRAM, 3 coolant, 4 the board (R501, R502). -/
def execThermTrip (cause : Nat) (s : State) : Host.Outcome State Fault Refusal :=
  .next (if s.power.standby && decide (1 ≤ cause ∧ cause ≤ 4) then s.tripNow cause else s)

/-- FEED_WARN_N changed and stayed for 1 ms (R505). -/
def execFeedWarn (asserted : Bool) (lastedNs : Nat) (s : State) : Host.Outcome State Fault Refusal :=
  .next (if s.power.standby && decide (1000000 ≤ lastedNs) && asserted != s.on PWR_STATUS_FEED_WARN then
    let s := (s.put PWR_STATUS_FEED_WARN (b2n asserted)).raisePower 3 (b2n asserted)
    let s := { s with risk := { s.risk with feedWarnAt := some s.time } }
    if asserted then (s.alert 4).count 0xEC else s
  else s)

/-- HEARTBEAT of a Secretary (R465). -/
def execHeartbeat (_secretary : Nat) (s : State) : Host.Outcome State Fault Refusal :=
  .next (if s.power.mainOk && s.esc.ready then s.mapEsc fun e => { e with heartbeatAt := s.time } else s)

/-- The running step is void because the main side is lost: its lists stop and no results come of it. Nothing is left on the main
side that could report it (R365, log 83). -/
def State.voidLost (s : State) : State :=
  if s.run.stepOn then
    let t := s.step
    ((s.stopLists.unsendFrom t).setJobState jsLoaded).mapRun fun r => { r with halted := some t, stopAtEnd := false, safeAtEnd := none }
  else s

/-- MAIN_LOST: no heartbeat for 400 µs (R465); the running step is void (R365). -/
def execMainLost (s : State) : Host.Outcome State Fault Refusal :=
  .next (if s.power.main == .on && s.on GLB_STATE_MAIN_ON && decide (s.esc.heartbeatAt + 400000 ≤ s.time) then
    s.voidLost.dropHostSessions.noteSessions.mainLostNow 1
  else s)

/-- MAIN_RAIL_FAULT: a main rail fails in operation or does not come up (R465, R509). -/
def execMainRailFault (s : State) : Host.Outcome State Fault Refusal :=
  .next (if s.mainOn then s.mainFault 3 else s)

/-! ## The voltage loop (R495 to R499) -/

/-- A Leaf is parked (R39). -/
def State.parked (s : State) (d l : Nat) : Bool := bit (s.get (DSK_ARRAY_STATUS_PARKED d)) l

/-- A Desk's rate: the lowest of its Leaves that are not parked (R495). -/
def State.deskRate (s : State) (d : Nat) : Option Nat :=
  (((List.range 4).filter fun l => !s.parked d l).map fun l => s.get (DSK_LEAF_RATE_RATE d l)).min?

/-- The power limit in force (R496). -/
def State.powerLimit (s : State) : Nat := if s.on PWR_CTRL_MODE then s.get PWR_TARGET_CAP else 1850

/-- TJ_MAX in 1/8 °C. -/
def State.tjMax (s : State) : Int := toSigned 16 (s.get PWR_TEMP_TJ_MAX)

/-- VDD_ARRAY of a Desk in mV. -/
def vddFld (d : Nat) : Fld := if d = 0 then PWR_VDD_DESK0_MV else PWR_VDD_DESK1_MV

/-- One step of 5 mV down, not below 0.60 V. -/
def State.vddDown (s : State) (d : Nat) : State := s.put (vddFld d) (max 600 (s.get (vddFld d) - 5))

/-- One step of 5 mV up, not above 0.90 V. -/
def State.vddUp (s : State) (d : Nat) : State := s.put (vddFld d) (min 900 (s.get (vddFld d) + 5))

/-- Both Desks, as the entry moves them. -/
def State.vddBoth (s : State) (f : State → Nat → State) : State := f (f s 0) 1

/-- Both Desks in CAP mode, which come to hold the same voltage (R496): where they differ, the lower one alone takes a step up,
and the higher one alone a step down, also where nothing else moves them (DESIGN CHOICE, log 108). -/
def State.vddCap (s : State) (up down : Bool) : State :=
  let a := s.get (vddFld 0)
  let b := s.get (vddFld 1)
  if a = b then (if up then s.vddBoth State.vddUp else if down then s.vddBoth State.vddDown else s)
  else
    let low := if a < b then 0 else 1
    if up then s.vddUp low else s.vddDown (1 - low)

/-- Is raising forbidden: entries 2, 3 and 4 of Table 15.3 until their condition ends, and gating (R498)? -/
def State.barred (s : State) : Bool :=
  s.power.barHot || s.power.barMem || s.power.barCap || decide (0 < s.power.gate)

/-- Entries 5 and 6 of Table 15.3: where a Desk would move. -/
inductive Want where
  | hold | up | down
  deriving DecidableEq, Repr

/-- RATE mode: towards the target with a dead band of half a per cent; a Desk whose Leaves are all parked holds. -/
def State.rateWant (s : State) (d : Nat) : Want :=
  let t := s.get PWR_TARGET_RATE
  match s.deskRate d with
  | none => .hold
  | some r => if 1000 * r < 995 * t then .up else if 1005 * t < 1000 * r then .down else .hold

/-- May entries 4 to 6 move a Desk's voltage: not while all its Leaves are parked (R495); in CAP mode both Desks move together
(R496), so one that is not parked moves both (DESIGN CHOICE, log 108). -/
def State.mayMove (s : State) (d : Nat) : Bool :=
  (s.deskRate d).isSome || (s.on PWR_CTRL_MODE && (s.deskRate (1 - d)).isSome)

/-- CAP mode: up while the input lies more than 2 % below the cap; both Desks move together (R496). -/
def State.capWant (s : State) (powerW : Nat) : Want :=
  if 100 * powerW < 98 * s.powerLimit ∧ s.mayMove 0 then .up else .hold

/-- A Desk's move under entries 5 and 6. -/
def State.want (s : State) (powerW d : Nat) : Want := if s.on PWR_CTRL_MODE then s.capWant powerW else s.rateWant d

/-- The conditions of entries 2 to 4 remembered until raising is allowed again (Table 15.3). -/
def State.noteBars (s : State) (powerW : Nat) : State :=
  let hot := if s.on PWR_STATUS_MAIN_OK then s.tjMax else 0
  s.mapPower fun p => { p with
    barHot := decide (840 ≤ hot) || (p.barHot && decide (824 ≤ hot)),
    barMem := s.on PWR_STATUS_MEM_HOT,
    memSteps := if s.on PWR_STATUS_MEM_HOT then p.memSteps else 0,
    barCap := decide (s.powerLimit < powerW) || (p.barCap && decide (98 * s.powerLimit ≤ 100 * powerW)) }

/-- The move of one evaluation (Table 15.3); answers whether entry 4 acts or forbids a raise. -/
def State.loopMove (s : State) (powerW : Nat) : State × Bool :=
  let hot := decide (840 ≤ s.tjMax)
  let above := decide (s.powerLimit < powerW)
  if !s.on PWR_CTRL_LOOP_EN then (s, false)
  else if hot then (s.vddBoth State.vddDown, false)
  else if s.on PWR_STATUS_MEM_HOT then
    let n := s.power.memSteps
    let s' := s.mapPower fun p => { p with memSteps := (n + 1) % 100 }
    (if n = 0 then s'.vddBoth State.vddDown else s', false)
  else if above then
    let step := fun (s : State) (d : Nat) => if s.mayMove d then s.vddDown d else s
    (if s.on PWR_CTRL_MODE && s.mayMove 0 then s.vddCap false true else s.vddBoth step, true)
  else
    let capped := s.power.barCap || decide (0 < s.power.gate)
    let wants := [s.want powerW 0, s.want powerW 1]
    let go := fun (s' : State) (d : Nat) =>
      match s.want powerW d with
      | .up => if s.barred then s' else s'.vddUp d
      | .down => s'.vddDown d
      | .hold => s'
    (if s.on PWR_CTRL_MODE && s.mayMove 0 then s.vddCap (wants.contains .up && !s.barred) false else s.vddBoth go,
      capped && wants.contains .up)

/-- A status bit that follows a condition; answers whether it has just begun. -/
def State.follow (s : State) (f : Fld) (on : Bool) : State × Bool := (s.put f (b2n on), on && !s.on f)

/-- A reading of the input power, 1 ms average: PWR_DRAW (Table 13.7, Table 15.10). -/
def State.noteDraw (s : State) (powerW : Nat) : State :=
  let s := s.put PWR_DRAW_AVG_W powerW
  let s := s.put PWR_DRAW_PEAK_W (max powerW (s.get PWR_DRAW_PEAK_W))
  s.mapPower fun p => { p with peakStatus := max powerW p.peakStatus }

/-- The loop moves and shows what holds it (R495, R496, R519). -/
def State.loopWith (s : State) (powerW : Nat) : State :=
  let (s, capped) := s.loopMove powerW
  let (s, cap0) := s.follow PWR_STATUS_CAP_LIMITED capped
  let s := if cap0 then ((s.raisePower 4 s.powerLimit).alert 4).count 0xEA else s
  let (s, hot0) := s.follow PWR_STATUS_THROTTLE (s.power.barHot && s.on PWR_CTRL_LOOP_EN)
  if hot0 then ((s.raisePower 5 (s.get PWR_TEMP_TJ_MAX)).alert 5).count 0xEB else s

/-- VLOOP_STEP: one evaluation (R495, R496, R519); the power given is the average that PWR_DRAW shows. -/
def execVloopStep (powerW : Nat) (s : State) : Host.Outcome State Fault Refusal :=
  .next (if !s.power.mainOk then s else (((s.noteDraw powerW).count 0xE9).noteBars powerW).loopWith powerW)

/-- GATE_UPDATE: the gate level moves by 1 each 1 ms (R498). -/
def execGateUpdate (powerW : Nat) (s : State) : Host.Outcome State Fault Refusal :=
  .next (if !s.power.mainOk then s
    else
      let low := s.get PWR_VDD_DESK0_MV == 600 && s.get PWR_VDD_DESK1_MV == 600
      if low && decide (s.powerLimit < powerW) then s.mapPower fun p => { p with gate := min 14 (p.gate + 1) }
      else if 100 * powerW < 98 * s.powerLimit then s.mapPower fun p => { p with gate := p.gate - 1 }
      else s)

/-! ## Power commands (R507, R517, R518) -/

/-- Hottest DRAM die: the largest CABc_TEMP. -/
def State.dramMax (s : State) : Int :=
  (List.range 16).foldl (fun m c => max m (toSigned 16 (s.get (CAB_TEMP_TEMP c)))) (toSigned 16 (s.get (CAB_TEMP_TEMP 0)))

/-- The 44 bytes of Table 15.10. -/
def State.powerReply (s : State) : List Byte :=
  let on := s.power.mainOk
  let main := match s.power.main with | .hold => 2 | .off => 0 | _ => 1
  let rate := fun (d : Nat) => if on then (s.deskRate d).getD 0 else 0
  le 1 (s.get PWR_CTRL_MODE) ++ le 1 main ++ le 2 (s.reg 0x10008 % 512) ++ le 4 s.power.vinMv
    ++ le 4 (10 * s.get PWR_VIN_VIN_MIN) ++ le 4 (s.get PWR_DRAW_AVG_W) ++ le 4 s.power.peakStatus ++ le 4 s.powerLimit
    ++ le 4 (s.get PWR_TARGET_RATE) ++ le 2 (rate 0) ++ le 2 (rate 1) ++ le 2 (s.get PWR_VDD_DESK0_MV)
    ++ le 2 (s.get PWR_VDD_DESK1_MV) ++ le 2 (if on then s.get PWR_TEMP_TJ_MAX else 0x8000)
    ++ le 2 (s.get PWR_TEMP_COOLANT_IN) ++ le 2 (if on then ofSigned 16 s.dramMax else 0x8000) ++ le 1 s.power.gate ++ zeros 1

/-- POWER_STATUS (R517). -/
def execPowerStatus (h : Hdr) (s : State) : Host.Outcome State Fault Refusal :=
  .next (s.command h (opNow 0x0700 false .always) true (.powerStatus h) fun s =>
    .reply (s.mapPower fun p => { p with peakStatus := s.get PWR_DRAW_AVG_W }) stSuccess s.powerReply)

/-- A target within its range (R458). -/
def clampTo (lo hi v : Nat) : Nat := max lo (min hi v)

/-- POWER_SET (R458, R518). -/
def execPowerSet (h : Hdr) (mode target : Nat) (s : State) : Host.Outcome State Fault Refusal :=
  .next (s.command h ⟨0x0701, true, false, false, some 5, .always, false⟩ (decide (mode ≤ 1)) (.powerSet h mode target) fun s =>
    let s := s.put PWR_CTRL_MODE mode
    .ok (if mode = 0 then s.put PWR_TARGET_RATE (clampTo 1000 1850 target) else s.put PWR_TARGET_CAP (clampTo 900 1850 target)))

/-- MAIN_POWER (R507, R511, R516). -/
def execMainPower (h : Hdr) (on : Nat) (s : State) : Host.Outcome State Fault Refusal :=
  .next (s.command h ⟨0x0702, true, false, true, some 5, .always, false⟩ (decide (on ≤ 2)) (.mainPower h on) fun s =>
    let set := fun (s : State) => s.mapPower fun p => { p with switch := switchOf on }
    if !s.pins.pwrEn then .did (set s) stState []
    else if s.warming then .begun s none (16 + on)
    else
      let (t, r) := s.actSwitch on
      .begun (if r = some stState then s else set t) (r.map fun st => (st, [])) on)

end Sys2Proof.Machine
end

