-- ==== Sys2Proof/Machine/MemCmds.lean ====
section
/-! DEFINITION. Chembe memory and state commands, waiting commands, and the end of deferred commands (R412, R420 to R423,
R430, R447, R521). -/
namespace Sys2Proof.Machine

/-! ## What a memory command waits for (R421, R447) -/

/-- Does a range of bytes touch a Cabinet? A range that holds a whole group touches all of them (R214). -/
def touches (addr n c : Nat) : Bool :=
  if 262144 ≤ n then true else (linesOf addr n).any fun a => cabOf a == c

/-- Do two ranges overlap? -/
def overlaps (a n b m : Nat) : Bool := decide (n ≠ 0 ∧ m ≠ 0 ∧ a < b + m ∧ b < a + n)

/-- Does a SCRUB or DIGEST in progress overlap a range (R421)? -/
def State.scrubbing (s : State) (addr n : Nat) : Bool :=
  s.chembe.deferred.any fun d => (d.op == 0x0203 || d.op == 0x0204) && d.result.isSome && overlaps addr n d.base d.bytes

/-- Must a memory command wait: for a SCRUB or DIGEST, or, in EMPTY and LOADED, for a disabled Cabinet or SBD (R447)? -/
def State.memWaits (s : State) (addr n : Nat) : Bool :=
  let idle := s.jobState == jsEmpty || s.jobState == jsLoaded
  s.scrubbing addr n || (idle && (!s.on SBD_CTRL_ENABLE
    || (List.range 16).any fun c => !s.on (CAB_CTRL_ENABLE c) && touches addr n c))

/-- Is a range outside the decoded range (R213, R420)? -/
def outside (addr n : Nat) : Bool := decide (decodedEnd < addr + n)

/-! ## Global reads (R355, R420) -/

/-- READ_REQ frames for `n` lines from a line of a role, at most 32 lines each, in one entry (R355). The number and the
count of lines ride in MSEQ and DST_TID (log 12). `k` bounds the frames. -/
def State.requestGo (role : Nat) : Nat → Nat → Nat → State × List (Nat × Nat × Nat) → State × List (Nat × Nat × Nat)
  | 0, _, _, acc => acc
  | k + 1, a, n, (s, rs) =>
    if n = 0 then (s, rs)
    else
      let m := min 32 n
      let (s, num) := s.takeMseq 9 role false
      let s := s.routeRole qReadReq { s.hdr role 0 with arg := a / 128, mseq := num, dstTid := m } []
      State.requestGo role k (a + 128 * m) (n - m) (s, rs ++ [(num, a, m)])

/-- A fetch of `n` lines from a role begins. -/
def State.startFetch (s : State) (role a n : Nat) : State :=
  let (s, rs) := State.requestGo role (n / 32 + 1) a n (s, [])
  s.mapQuill fun q => { q with fetches := q.fetches ++ [{ role := role, addr := a, lines := n, reqs := rs, got := [] }] }

/-- A fetch that has all its lines. -/
def State.fetched (s : State) (role a n : Nat) : Option Fetch :=
  s.quill.fetches.find? fun f => f.role == role && f.addr == a && f.lines == n && f.reqs.isEmpty

/-- A fetch taken away. -/
def State.dropFetch (s : State) (f : Fetch) : State := s.mapQuill fun q => { q with fetches := q.fetches.erase f }

/-- The lines of a fetch in address order, with their marks. -/
def Fetch.data (f : Fetch) : List (List Byte × Bool) :=
  (List.range f.lines).map fun i =>
    match f.got.find? fun g => g.1 == f.addr + 128 * i with
    | some g => (if g.2.2 then zeroLine else g.2.1, g.2.2)
    | none => (zeroLine, true)

/-- Lines of a range and its first line. -/
def spanLines (addr n : Nat) : Nat × Nat := (lineOf addr, (linesOf addr n).length)

/-- Role and local address of a fabric global address (R355). -/
def globalRole (addr : Nat) : Nat := bits addr 58 48
def globalLocal (addr : Nat) : Nat := bits addr 47 0

/-- Mask of marked lines. -/
def markMask (ms : List Bool) : Nat := leNat.go ms
where
  /-- Bits of a list, the first least significant. -/
  leNat.go : List Bool → Nat
    | [] => 0
    | b :: bs => b2n b + 2 * leNat.go bs

/-! ## The acts -/

/-- A local MEM_READ. -/
def State.readLocal (s : State) (addr n : Nat) : Act :=
  if outside addr n then .no s stRange
  else if s.memWaits addr n then .hold s
  else
    let (s, dt, m) := s.readRange addr n false
    .reply s stSuccess (le 8 m ++ dt)

/-- Lines of a role all held as far copies (R254): their data, counted as FAR_HIT. -/
def State.farLines (s : State) (role a n : Nat) : Option (State × List (List Byte)) :=
  let ls := (List.range n).map fun i => s.sbd.far.find? fun x => x.1 == role && x.2.1 == a + 128 * i
  if ls.all Option.isSome then
    let s := (List.range n).foldl (fun (s : State) i => s.countAt 0x6D (cabInst (cabOf (a + 128 * i))) 1) s
    some (s, ls.filterMap fun x => x.map fun y => y.2.2)
  else none

/-- MEM_READ (R420): a global address is read by READ_REQ unless it names this module's own role. -/
def State.memReadAct (s : State) (addr n mflags : Nat) : Act :=
  if !bit mflags 0 then s.readLocal addr n
  else
    let r := globalRole addr
    let a := globalLocal addr
    if addr / 2 ^ 59 ≠ 0 ∨ outside a n then .no s stRange
    else if r = s.get QFB_ROLE_ROLE then s.readLocal a n
    else if !bit (bankRole s.bankNow r) 63 then .no s stRange
    else match s.farLines r (spanLines a n).1 (spanLines a n).2 with
    | some (s, ls) => .reply s stSuccess (le 8 0 ++ slice ls.flatten (a % 128) n)
    | none => .hold (s.startFetch r (spanLines a n).1 (spanLines a n).2)

/-- A held global MEM_READ whose lines have come. -/
def State.readFetched (s : State) (addr n : Nat) : Option (State × List Byte) :=
  let a := globalLocal addr
  match s.fetched (globalRole addr) (spanLines a n).1 (spanLines a n).2 with
  | some f =>
    let d := f.data
    some (s.dropFetch f, le 8 (markMask (d.map Prod.snd)) ++ slice (d.flatMap Prod.fst) (a % 128) n)
  | none => none

/-- MEM_WRITE (R420, R521). -/
def State.memWriteAct (s : State) (addr : Nat) (dt : List Byte) : Act :=
  if outside addr dt.length then .no s stRange
  else if s.memWaits addr dt.length then .hold s
  else
    let (s, ok) := s.writeRange addr dt
    .no s.settle (if ok then stSuccess else stPoisonKept)

/-- MEM_ATOMIC (R420, R521). -/
def State.memAtomicAct (s : State) (addr op operand comparand : Nat) : Act :=
  if outside addr 8 then .no s stRange
  else if s.memWaits addr 8 then .hold s
  else
    let (s, old, ok) := s.wordOp addr (wordNew op operand comparand) false
    .reply s.settle (if ok then stSuccess else stPoisonKept) (le 8 old)

/-- Lines of the shard within a range that a SCRUB zeroes: what every write into the shard leaves behind (R385). -/
def State.noteZeroed (s : State) (lo hi : Nat) : State :=
  s.svl.shard.foldl (fun s p =>
    let a := max lo p.1
    let b := min hi (p.1 + p.2.1)
    (linesOf a (b - a)).foldl (fun s l => s.noteWrite l zeroLine false false) s) s

/-- The deferred command of a header changed. -/
def State.onDeferred (s : State) (h : Hdr) (f : Deferred → Deferred) : State :=
  let ds := s.chembe.deferred.map fun d => if d.src.same h.src ∧ d.session = h.session ∧ d.seq = h.seq then f d else d
  { s with chembe := { s.chembe with deferred := ds } }

/-- The range of the deferred command just added (R421). -/
def State.noteRange (s : State) (h : Hdr) (base n : Nat) : State :=
  s.onDeferred h fun d => { d with base := base, bytes := n }

/-- A waiting command no longer waits. -/
def State.unhold (s : State) (i : Instr) : State := { s with chembe := { s.chembe with held := s.chembe.held.erase i } }

/-- The intake ring emptied (R423, R426, R480). -/
def State.emptyRing (s : State) : State := (s.mapIntake fun i => { i with samples := [], gaps := [] }).noteFree

/-- The work of SCRUB: the range, and what SFLAGS names, cleared; then every line read back through the Sideboard (R423). -/
def State.scrubWork (s : State) (base n sflags : Nat) : State × List Byte :=
  let s := (s.zeroRange base (base + n)).noteZeroed base (base + n)
  let s := if bit sflags 0 then { s with mem := { s.mem with ink := [], inkPoison := [], inkErr := [] } } else s
  let s := if bit sflags 1 then (s.zeroRange ringBase (ringBase + s.ringBytes)).emptyRing else s
  let (s, bs, _) := s.settle.readRange base n false
  (s, le 8 (n / 128) ++ rangeDigest base bs)

/-- The local bytes that a waiting memory command is for, at the module that holds role `own`: address and length. -/
def heldRange (own : Nat) : Instr → Option (Nat × Nat)
  | .memRead _ addr n mflags =>
    if !bit mflags 0 then some (addr, n) else if globalRole addr = own then some (globalLocal addr, n) else none
  | .memWrite _ addr _ dt => some (addr, dt.length)
  | .memAtomic _ addr _ _ _ => some (addr, 8)
  | .stateRead _ o n => some (stateBlock + o, n)
  | .stateWrite _ o dt => some (stateBlock + o, dt.length)
  | _ => none

/-- Does one of the memory commands that came before a SCRUB or DIGEST, and still wait, overlap its range (R421)? -/
def State.memBefore (s : State) (before : List Instr) (base n : Nat) : Bool :=
  before.any fun i => match heldRange (s.get QFB_ROLE_ROLE) i with | some (a, k) => overlaps a k base n | none => false

/-- SCRUB; `before` are the commands that wait since earlier. -/
def State.scrubAct (s : State) (base n sflags : Nat) (before : List Instr) : Act :=
  if outside base n then .no s stRange
  else if s.memWaits base n || s.memBefore before base n then .hold s
  else
    let (s, ps) := s.scrubWork base n sflags
    .did s stSuccess ps

/-- DIGEST. -/
def State.digestAct (s : State) (base n : Nat) (before : List Instr) : Act :=
  if outside base n then .no s stRange
  else if s.memWaits base n || s.memBefore before base n then .hold s
  else
    let (s, bs, _) := s.readRange base n false
    .did s stSuccess (rangeDigest base bs)

/-! ## Writing the state block (R430, Table 11.2) -/

/-- Is a byte of the state block reserved (Table 11.2)? -/
def blockReserved (o : Nat) : Bool :=
  decide (6 ≤ o ∧ o < 8) || decide (0x1C ≤ o ∧ o < 0x400) || decide (0x880 ≤ o ∧ o < 0x1000)
    || decide (0x1000 + 131584 ≤ o ∧ o < 0x40000) || decide (0x240000 ≤ o)

/-- Order of writing of bank `i` by the 128 bytes of a bank directory: the bank that alone of its pair carries 1 was written
last; bank 0 was written first wherever not exactly one does (Table 11.2). -/
def dirOrder (d : List Byte) (i : Nat) : Nat :=
  let first := fld d (i / 2 * 8 + 3) 1 == 1 && fld d (i / 2 * 8 + 7) 1 != 1
  if (i % 2 == 0) == first then 2 else 1

/-- A function-table bank as the directory of a state block and an image of it give it (R138, Table 11.2). -/
def dirBank (d : List Byte) (i : Nat) (image : List Byte) : Bank :=
  if fld d (4 * i + 2) 1 = 1 then { version := fld d (4 * i) 2, image := image, order := dirOrder d i }
  else { version := fld d (4 * i) 2, image := [], order := 0 }

/-- A whole line range of DRAM copied within the module. -/
def State.copyBytes (s : State) (src dst n : Nat) : State :=
  let (s, bs, _) := s.readRange src n false
  (s.writeRange dst bs).1

/-- Items of the first 256 KiB of the state block: offset and bytes (Table 11.2). -/
def blockItems : List (Nat × Nat) :=
  [(0, 4), (0x10, 8), (0x18, 4)] ++ (List.range 256).map (fun i => (0x400 + 4 * i, 4)) ++ [(0x800, 128)]
    ++ (List.range 32).map fun i => (0x1000 + 4112 * i, 4112)

/-- The function-table banks take what a write of the state block touches (R138, R430): a bank whose image or entry of the
directory is written comes from the block, and the order of a pair whose directory is written follows it. -/
def State.applyBanks (s : State) (hit : Nat → Nat → Bool) : State :=
  let dir := s.peek (stateBlock + 0x800) 128
  let image := fun (i : Nat) => s.peek (stateBlock + 0x1000 + 4112 * i) 4112
  let bankHit := fun (i : Nat) => hit (0x800 + 4 * i) 4 || hit (0x1000 + 4112 * i) 4112
  let banks := (List.range 32).map fun i =>
    let was := s.job.banks.getD i ⟨0, [], 0⟩
    if bankHit i then dirBank dir i (image i)
    else if (bankHit (i / 2 * 2) || bankHit (i / 2 * 2 + 1)) && was.order != 0 then { was with order := dirOrder dir i }
    else was
  s.mapJob fun j => { j with banks := banks, tableClock := max 2 j.tableClock }

/-- What a state block holds takes effect: the items that a write of `n` bytes at offset `o` touches (R430, R138), and what
every such write does to the step sizes (R303). A step size latched for the block's STEP stays for its replay (R305). -/
def State.applyBlock (s : State) (o n : Nat) : State :=
  let hit := fun (lo len : Nat) => overlaps o n lo len
  let s := (blockItems.filter fun x => hit x.1 x.2).foldl (fun (s : State) x => s.touch (stateBlock + x.1) x.2 false) s
  let s := s.touch stateBlock 4 false
  let get := fun (a len : Nat) => leNat (s.peek (stateBlock + a) len)
  let step := get 0 4
  let s := (if hit 0 4 then s.put GLB_STEP_STEP step else s).resetSteps step
  let s := if hit 0x10 8 then s.put2 INT_NEXT_LO_NEXT INT_NEXT_HI_NEXT (get 0x10 8) else s
  let s := if hit 0x18 4 ∧ s.get NIB0_STEP_INDEX_STEP ≠ step then s.put NIB0_STEP_VALUE_STEP_SIZE (get 0x18 4) else s
  let s := ((List.range 256).filter fun i => hit (0x400 + 4 * i) 4).foldl (fun s i =>
    let v := get (0x400 + 4 * i) 4
    s.mapJob fun j => { j with slots := spSet (fun _ => 0) j.slots i v }) s
  let s := s.applyBanks hit
  let layers := match s.folio with | some f => f.layerCount | none => 0
  let gauges := match s.folio with | some f => f.gaugeCount | none => 0
  let s := (List.range layers).foldl (fun s i =>
    if hit (0x40000 + 16 * i) 16 then s.copyBytes (stateBlock + 0x40000 + 16 * i) (layerBase + 16 * i) 16 else s) s
  (List.range gauges).foldl (fun s g =>
    if hit (0x140000 + 64 * g) 64 then s.copyBytes (stateBlock + 0x140000 + 64 * g) (gaugeBase + 64 * g) 64 else s) s

/-- Does a STATE_WRITE break R430: CONTRACT changed to another level, or a reserved byte not zero? -/
def State.badBlock (s : State) (o : Nat) (dt : List Byte) : Bool :=
  let old := s.peek stateBlock 6
  let new := (List.range 6).map fun i => if o ≤ i ∧ i < o + dt.length then dt.getD (i - o) 0 else old.getD i 0
  (fld new 4 2 != fld old 4 2 && fld new 4 2 != s.get GLB_CONTRACT_LEVEL)
    || (List.range dt.length).any fun i => blockReserved (o + i) && dt.getD i 0 != 0

/-- STATE_WRITE (R430); like any memory command it waits for a SCRUB, a DIGEST or a disabled block (R421, R447). -/
def State.stateWriteAct (s : State) (offset : Nat) (data : List Byte) : Act :=
  if s.memWaits (stateBlock + offset) data.length then .hold s
  else
    let s := s.touch stateBlock 6 false
    if s.badBlock offset data then .no s stParam
    else .ok ((s.writeRange (stateBlock + offset) data).1.applyBlock offset data.length).settle

/-! ## Waiting commands (R421, R447) -/

/-- A held deferred command's act: its entry gets the result. -/
def State.finishHeld (s : State) (h : Hdr) (i : Instr) (base n : Nat) (a : Act) : State :=
  match a with
  | .reply s st ps => (s.unhold i).onDeferred h fun d => { d with result := some (st, ps), base := base, bytes := n }
  | .begun s r _ => (s.unhold i).onDeferred h fun d => { d with result := r, base := base, bytes := n }
  | .hold _ => s

/-- A held command's act: answered, or still waiting. -/
def State.answerHeld (s : State) (h : Hdr) (i : Instr) (code : Nat) (a : Act) : State :=
  match a with
  | .reply s' st ps => (s'.unhold i).answer h code st ps
  | .begun _ _ _ => s
  | .hold _ => s

/-- One held command looked at again. -/
def State.retry (s : State) (i : Instr) : State :=
  match i with
  | .memRead h addr n mflags =>
    if bit mflags 0 ∧ ¬(globalRole addr = s.get QFB_ROLE_ROLE) then
      match s.readFetched addr n with
      | some (s', ps) => s.answerHeld h i 0x0200 (.reply s' stSuccess ps)
      | none => s
    else s.answerHeld h i 0x0200 (s.readLocal (if bit mflags 0 then globalLocal addr else addr) n)
  | .memWrite h addr _ dt => s.answerHeld h i 0x0201 (s.memWriteAct addr dt)
  | .memAtomic h addr op x y => s.answerHeld h i 0x0202 (s.memAtomicAct addr op x y)
  | .stateRead h o n => s.answerHeld h i 0x0205 (s.readLocal (stateBlock + o) n |> dropMask)
  | .stateWrite h o dt => s.answerHeld h i 0x0206 (s.stateWriteAct o dt)
  | .scrub h base n fl => s.finishHeld h i base n (s.scrubAct base n fl (s.chembe.held.takeWhile fun x => x != i))
  | .digest h base n => s.finishHeld h i base n (s.digestAct base n (s.chembe.held.takeWhile fun x => x != i))
  | _ => s
where
  /-- STATE_READ replies with the data alone. -/
  dropMask : Act → Act
    | .reply s st ps => .reply s st (ps.drop 8)
    | a => a

/-- Every held command looked at again, in order. -/
def State.runHeld (s : State) : State := s.chembe.held.foldl State.retry s

/-! ## Memory commands -/

/-- Bytes of a trailing data field behind 8 bytes of parameters, where Table 12.4 states no number: what LENGTH lets it take
on a host port, and on the side-band (R406, R408, R469). -/
def restCap (h : Hdr) (side : Nat) : Nat := if h.src.isSide then side else 8152

/-- Bytes that one memory command may carry: on a host port, and on the side-band (R469). -/
def dataCap (h : Hdr) (side : Nat) : Nat := if h.src.isSide then side else 8064

/-- MEM_READ (R420). -/
def execMemRead (h : Hdr) (addr bytes mflags : Nat) (s : State) : Host.Outcome State Fault Refusal :=
  .next (s.command h ⟨0x0200, true, false, false, none, .always, true⟩
    (decide (1 ≤ bytes ∧ bytes ≤ dataCap h 4032 ∧ mflags ≤ 1)) (.memRead h addr bytes mflags)
    fun s => s.memReadAct addr bytes mflags)

/-- MEM_WRITE (R420, R521). -/
def execMemWrite (h : Hdr) (addr mflags : Nat) (data : List Byte) (s : State) : Host.Outcome State Fault Refusal :=
  .next (s.command h ⟨0x0201, true, false, false, some 1, .memory, true⟩
    (decide (1 ≤ data.length ∧ data.length ≤ dataCap h 4048 ∧ mflags = 0)) (.memWrite h addr mflags data)
    fun s => s.memWriteAct addr data)

/-- MEM_ATOMIC on an aligned word (R420, R521, Table 7.1). -/
def execMemAtomic (h : Hdr) (addr op operand comparand : Nat) (s : State) : Host.Outcome State Fault Refusal :=
  .next (s.command h ⟨0x0202, true, false, false, some 1, .memory, true⟩
    (decide (1 ≤ op ∧ op ≤ 5 ∧ addr % 8 = 0)) (.memAtomic h addr op operand comparand)
    fun s => s.memAtomicAct addr op operand comparand)

/-- SCRUB (R421, R423). -/
def execScrub (h : Hdr) (base bytes sflags : Nat) (s : State) : Host.Outcome State Fault Refusal :=
  .next ((s.command h ⟨0x0203, true, false, true, some 1, .scrub, true⟩
    (decide (base % 2097152 = 0 ∧ bytes % 2097152 = 0 ∧ bytes ≠ 0 ∧ sflags < 4)) (.scrub h base bytes sflags)
    fun s => s.scrubAct base bytes sflags s.chembe.held).noteRange h base bytes)

/-- DIGEST (R421 to R423). -/
def execDigest (h : Hdr) (base bytes : Nat) (s : State) : Host.Outcome State Fault Refusal :=
  .next ((s.command h ⟨0x0204, true, false, true, none, .digest, true⟩ (decide (1 ≤ bytes)) (.digest h base bytes)
    fun s => s.digestAct base bytes s.chembe.held).noteRange h base bytes)

/-! ## The state block (R430, Table 11.2) -/

/-- STATE_READ (R430). -/
def execStateRead (h : Hdr) (offset bytes : Nat) (s : State) : Host.Outcome State Fault Refusal :=
  .next (s.command h ⟨0x0205, true, false, false, none, .always, true⟩
    (decide (1 ≤ bytes ∧ bytes ≤ dataCap h 4032 ∧ offset + bytes ≤ stateBlockBytes)) (.stateRead h offset bytes)
    fun s => State.retry.dropMask (s.readLocal (stateBlock + offset) bytes))

/-- STATE_WRITE (R430). -/
def execStateWrite (h : Hdr) (offset : Nat) (data : List Byte) (s : State) : Host.Outcome State Fault Refusal :=
  .next (s.command h ⟨0x0206, true, false, false, some 1, .loaded, true⟩
    (decide (data.length ≤ restCap h 4048 ∧ offset + data.length ≤ stateBlockBytes))
    (.stateWrite h offset data) fun s => s.stateWriteAct offset data)

/-! ## Deferred commands end (R412, R424) -/

/-- COMMAND_DONE: a deferred command whose work has ended is reported; a LOAD_FOLIO leaves LOADING (R424), and commands
that a SCRUB or DIGEST held back go on (R421). -/
def execCommandDone (index : Nat) (s : State) : Host.Outcome State Fault Refusal :=
  .next (match s.chembe.deferred[index]? with
    | some d =>
      match d.result with
      | some (st, ps) =>
        let s := if d.op = 0x0301 ∧ s.jobState = jsLoading then
            s.setJobState (if s.folio.isSome then jsLoaded else jsEmpty)
          else s
        (s.endDeferred d st ps).runHeld
      | none => s
    | none => s)

end Sys2Proof.Machine
end

