-- ==== Sys2Proof/Machine/Risk.lean ====
section
/-! DEFINITION. The risk estimator and the level that it sets (R378 to R382, Tables 11.3 and 11.4). -/
namespace Sys2Proof.Machine

/-- The level. -/
def State.level (s : State) : Nat := s.get RSK_STATUS_LEVEL

/-- QFB_RIDE.BUDGET of a level (Table 11.4); a seal at CALM runs its follow at the WATCH budget (R394). -/
def levelBudget (level : Nat) (sealing : Bool) : Nat :=
  if level = 0 then (if sealing then 30 else 0) else if level = 1 then 30 else 120

/-- The budget of the level in force. -/
def State.noteBudget (s : State) : State := s.put QFB_RIDE_BUDGET (levelBudget s.level s.svl.sealFollow.isSome)

/-- The floor that COLOCATED_OK sets (R378). -/
def State.riskFloor (s : State) : Nat := match s.folio with | some f => b2n f.colocated | none => 0

/-- The level changes (R381, R382): counters, event, alert, budget, the partner's MARK; BRACE asks for a checkpoint and a
second partner; at CALM a COMPLETE follow ends, and the partner seals. -/
def State.setLevel (s : State) (l : Nat) : State :=
  let old := s.level
  if l = old then s
  else
    let s := ((s.put RSK_STATUS_LEVEL l).put RSK_STATUS_CHANGED 1).count (if old < l then 0xE4 else 0xE5)
    let s := s.raise 6 (le 1 l ++ zeros 3 ++ le 4 (s.get RSK_STATUS_SCORE))
    let s := if old < 2 ∧ 2 ≤ l then s.alert 6 else s
    let s := (s.noteBudget).markLevel l
    let s := if l = 3 then s.raise 7 (le 4 1) else s
    if l = 0 ∧ s.get SVL_STATUS_OWN_FOLLOW = 2 then s.stopFollow else s

/-- What the level must be at once: the forced level, and never below the floor (R378, R381). -/
def State.clampLevel (s : State) : State :=
  let floor := s.riskFloor
  let s := s.put RSK_STATUS_FLOOR_WATCH floor
  if s.on RSK_CTRL_FORCE_EN then s.setLevel (max (s.get RSK_CTRL_FORCE_LEVEL) floor)
  else if s.level < floor then s.setLevel floor else s

/-- A value clamped to 0 to 255. -/
def clamp255 (x : Int) : Nat := (max 0 (min 255 x)).toNat

/-- Occurrences in a list of times and counts within the last `ns`. -/
def State.recent (s : State) (l : List (Nat × Nat)) (ns : Nat) : Nat :=
  ((l.filter fun p => decide (s.time < p.1 + ns)).map Prod.snd).sum

/-- 255 × n / full, where a field of 0 selects its reset value (Table 11.10). -/
def ratio (n full whenZero : Nat) : Int := (((255 * n) / (if full = 0 then whenZero else full) : Nat) : Int)

/-- The eight inputs (Table 11.3). -/
def State.riskInputs (s : State) : List Nat :=
  let r := s.risk
  let warn := s.on PWR_STATUS_FEED_WARN || (match r.feedWarnAt with | some t => decide (s.time < t + 10000000000) | none => false)
  let low := ((keepVins s.time r.vins).map Prod.snd).foldl min s.power.vinMv
  let head := 900 - (max (s.get PWR_VDD_DESK0_MV) (s.get PWR_VDD_DESK1_MV) : Nat)
  let spares := (List.range 16).foldl (fun m c => min m (s.get (CAB_STATUS_SPARES_FREE c))) 7
  [clamp255 (ratio (s.recent r.ce 1000000000) (s.get RSK_NORM_CE_FULL) 0x03E8),
   clamp255 ((64 * s.recent r.ue 60000000000 : Nat) : Int),
   clamp255 (ratio (s.recent r.retx 1000000000) (s.get RSK_NORM_RETRY_FULL) 0x2710 + ((64 * s.recent r.trains 60000000000 : Nat) : Int)),
   clamp255 (17 * (15 - (840 - s.tjMax) / 8)),
   clamp255 (255 * (50 - (head : Int)) / 50),
   if warn then 255 else clamp255 (128 * (38000 - (low : Int)) / 1000),
   clamp255 (64 * (4 - (spares : Int))),
   s.get RSK_HOST_VALUE]

/-- The weights. -/
def State.weights (s : State) : List Nat :=
  [s.get RSK_WEIGHT_LO_W0, s.get RSK_WEIGHT_LO_W1, s.get RSK_WEIGHT_LO_W2, s.get RSK_WEIGHT_LO_W3, s.get RSK_WEIGHT_HI_W4,
   s.get RSK_WEIGHT_HI_W5, s.get RSK_WEIGHT_HI_W6, s.get RSK_WEIGHT_HI_W7]

/-- The filter of R380: the new score. -/
def riskScore (r : Nat) (ws xs : List Nat) (shift : Nat) : Nat :=
  let q := min 65535 (List.zipWith (fun (w x : Nat) => w * x) ws xs).sum
  ((r : Int) + ((q : Int) - (r : Int)) / (2 ^ shift : Nat)).toNat

/-- Threshold of a level, times 256. -/
def State.threshold (s : State) (l : Nat) : Nat :=
  256 * (if l = 1 then s.get RSK_THRESH_WATCH else if l = 2 then s.get RSK_THRESH_GUARD else s.get RSK_THRESH_BRACE)

/-- The highest level whose threshold a score has reached (R381). -/
def State.reached (s : State) (r : Nat) : Nat :=
  if s.threshold 3 ≤ r then 3 else if s.threshold 2 ≤ r then 2 else if s.threshold 1 ≤ r then 1 else 0

/-- Dwell before a fall, in ns. -/
def State.dwellNs (s : State) : Nat := let d := s.get RSK_CTRL_DWELL_S; (if d = 0 then 60 else d) * 1000000000

/-- While the level is forced the dwell is watched all the same: the time since when the score has stayed low enough for a fall
(R381). -/
def State.watchDwell (s : State) (r : Nat) : State :=
  let low := decide (s.level ≠ 0 ∧ r + 256 * s.get RSK_THRESH_HYST < s.threshold s.level)
  { s with risk := { s.risk with lowSince := if low then (match s.risk.lowSince with | some t => some t | none => some s.time) else none } }

/-- R381 after a sample, where the level is not forced. -/
def State.moveLevel (s : State) (r : Nat) : State :=
  let l := s.level
  let up := max (s.reached r) s.riskFloor
  let since := fun (t : Option Nat) (s : State) => ({ s with risk := { s.risk with lowSince := t } } : State)
  if l < up then (since none (s.put RSK_STATUS_FALL_HOLD 0)).setLevel up
  else if l = 0 then s.put RSK_STATUS_FALL_HOLD 0
  else
    let low := decide (r + 256 * s.get RSK_THRESH_HYST < s.threshold l)
    let copying := s.get SVL_STATUS_OWN_FOLLOW == 1
    if !low then since none (s.put RSK_STATUS_FALL_HOLD 0)
    else match s.risk.lowSince with
    | none => since (some s.time) s
    | some t =>
      if s.time < t + s.dwellNs then s
      else if l = 1 && copying then s.put RSK_STATUS_FALL_HOLD 1
      else if l ≤ s.riskFloor then s
      else (since none (s.put RSK_STATUS_FALL_HOLD 0)).setLevel (l - 1)

/-- RISK_SAMPLE: every 100 ms while the estimator runs (R379 to R381). -/
def execRiskSample (s : State) : Host.Outcome State Fault Refusal :=
  .next (if !s.power.mainOk || !s.on RSK_CTRL_ENABLE then s
    else
      let xs := s.riskInputs
      let s := (List.range 8).foldl (fun s i => s.put (RSK_INPUT_X i) (xs.getD i 0)) s
      let r := riskScore (s.get RSK_STATUS_SCORE) s.weights xs (s.get RSK_CTRL_SHIFT)
      let s := (s.put RSK_STATUS_SCORE r).put RSK_STATUS_FLOOR_WATCH s.riskFloor
      if s.on RSK_CTRL_FORCE_EN then s.clampLevel.watchDwell r else s.moveLevel r)

end Sys2Proof.Machine
end

