-- ==== Sys2Proof/Machine/Registers.lean ====
section
/-! DEFINITION. Reads and writes of the register window by its two masters (R442 to R455, R462, Table 13.2), and the
requests that a register starts (R231, R331, R359, R457). -/
namespace Sys2Proof.Machine

/-! ## Addresses (R442, R444, R450) -/

/-- The register address under an address: its alias bits removed. -/
def regAddr (addr : Nat) : Nat := addr / 0x10000 * 0x10000 + addr % 0x4000

/-- The alias of an address: 0 own, 1 set, 2 clear, 3 toggle (R444). -/
def aliasOf (addr : Nat) : Nat := addr % 0x10000 / 0x4000

/-- Has the register at an address a GP field (R450)? -/
def guarded (a : Nat) : Bool := match regDef a with | some r => r.fields.any fun f => f.acc == .GP | none => false

/-- Base of the block of an address. -/
def baseOf (addr : Nat) : Nat := addr / 0x10000 * 0x10000

/-- Is an address aligned and within a block (R442)? -/
def addrOk (addr : Nat) : Bool := addr % 4 == 0 && (blockOf addr).isSome

/-! ## Reads -/

/-- GAU_LAYER_STATE: the live record of the selected layer (Tables 8.4 and 9.5). -/
def State.layerState (s : State) : Nat :=
  let l := s.get GAU_LAYER_SEL_LAYER
  match s.folio with
  | some f => if l < f.layerCount then fld (s.peek (layerBase + 16 * l) 4) 0 4 else 0
  | none => 0

/-- SEC_STATUS.WINDOW_S: whole seconds left, or 0xFFFF while strapped (Table 13.8, log 17). -/
def State.windowSeconds (s : State) : Nat :=
  if s.esc.strapped then 0xFFFF
  else match s.esc.windowEnd with
    | some t => (t - s.time) / 1000000000
    | none => 0

/-- What a register shows: stored, or computed where it shows live state. -/
def State.shown (s : State) (a : Nat) : Nat :=
  if a = 0x30014 then s.layerState
  else if a = 0x20000 then setBits (s.reg a) 31 16 s.windowSeconds
  else if a = 0x490008 ∨ a = 0x4A0008 then s.hostFec 0 ((a - 0x490000) / 0x10000)
  else if a = 0x49000C ∨ a = 0x4A000C then s.hostFec 1 ((a - 0x490000) / 0x10000)
  else if 4 ≤ a ∧ guarded (a - 4) then 0xFFFFFFFF - s.reg (a - 4)
  else s.reg a

/-- Does the name of the register at an address end in _LO (R449)? -/
def isLo (a : Nat) : Bool := match regDef a with | some r => r.isLo | none => false

/-- One word read by a master (R443, R444, R449): a _HI word latched before, and what the read itself changes. -/
def State.readReg (s : State) (mgmt : Bool) (addr : Nat) : State × Nat :=
  let a := regAddr addr
  if !s.answers a then (s, 0)
  else match s.win.latched.find? fun l => l.1 == mgmt && l.2.1 == a with
    | some l => ({ s with win := { s.win with latched := s.win.latched.erase l } }, l.2.2.toNat)
    | none =>
      let v := s.shown a
      let s := if isLo a then
          let hi := a + 4
          let rest := s.win.latched.filter fun l => !(l.1 == mgmt && l.2.1 == hi)
          { s with win := { s.win with latched := (mgmt, hi, BitVec.ofNat 32 (s.shown hi)) :: rest } }
        else s
      (if a = 0x10010 then s.put PWR_DRAW_PEAK_W (s.get PWR_DRAW_AVG_W) else s, v)

/-- `n` words read in ascending order (R442). -/
def State.readRegs (s : State) (mgmt : Bool) (addr n : Nat) : State × List Byte :=
  (List.range n).foldl (fun (acc : State × List Byte) i =>
    let (s, v) := acc.1.readReg mgmt (addr + 4 * i)
    (s, acc.2 ++ le 4 v)) (s, [])

/-! ## Writes of fields (Table 13.2, R444 to R448) -/

/-- Is the block of a register disabled before a write (R446)? -/
def State.blockDisabled (s : State) (a : Nat) : Bool :=
  match blockOf a with
  | some (base, b) => if b.enable then !bit (s.reg base) 0 else s.jobState != jsRunning
  | none => true

/-- A field's new value at the register's own address: old and written value, whether the block is disabled, and whether
a guarded pair brings the write. -/
def FieldDef.wrote (f : FieldDef) (old v : Nat) (disabled pair : Bool) : Nat :=
  let o := bits old f.hi f.lo
  let n := bits v f.hi f.lo
  match f.acc with
  | .RW | .RWA => n
  | .RO | .WO => o
  | .W1C => o - (o &&& n)
  | .CD => if disabled then n else o
  | .GP => if pair then n else o

/-- A field's new value at an alias (R444): only RWA fields act. -/
def FieldDef.aliased (f : FieldDef) (al old v : Nat) : Nat :=
  let o := bits old f.hi f.lo
  let n := bits v f.hi f.lo
  if f.acc = .RWA then (if al = 1 then o ||| n else if al = 2 then o - (o &&& n) else o ^^^ n) else o

/-- A register word with some fields replaced. -/
def putFields (fs : List FieldDef) (w : Nat) (g : FieldDef → Nat) : Nat :=
  fs.foldl (fun w f => setBits w f.hi f.lo (g f)) w

/-- Was a CD field of an enabled block written with another value (R446)? -/
def cdIgnored (fs : List FieldDef) (old v : Nat) (disabled : Bool) : Bool :=
  !disabled && fs.any fun f => f.acc == .CD && bits old f.hi f.lo != bits v f.hi f.lo

/-- TEST_TOUCHED (R448). -/
def State.testTouched (s : State) : State := ((s.put GLB_STATUS_TEST_TOUCHED 1).alert 8).count 0xF4

/-- Sources of ALERT_N whose condition lasts are set again (R456, log 18): POWER while FEED_WARN or CAP_LIMITED holds,
THERMAL while THROTTLE or MEM_HOT holds. -/
def State.holdAlerts (s : State) : State :=
  let s := if s.on PWR_STATUS_FEED_WARN || s.on PWR_STATUS_CAP_LIMITED then s.alert 4 else s
  if s.on PWR_STATUS_THROTTLE || s.on PWR_STATUS_MEM_HOT then s.alert 5 else s

/-! ## What a write starts -/

/-- A snapshot of the counters (R331). -/
def State.snapshot (s : State) : State :=
  let s := (List.range 64).foldl (fun s k =>
    (s.setReg (0x40400 + 8 * k) (s.reg (0x40200 + 8 * k))).setReg (0x40404 + 8 * k) (s.reg (0x40204 + 8 * k))) s
  (s.put2 CNT_SNAP_TIME_LO_SNAP_TIME CNT_SNAP_TIME_HI_SNAP_TIME s.stamp).put CNT_SNAP_STEP_STEP s.step

/-- Every counter and CNT_OVF at zero (R331). -/
def State.clearCounters (s : State) : State := (s.resetRegs 0x40200 0x40400).resetRegs 0x40008 0x40010

/-- May ARM_STEP take a value (R359)? It lies above the current step, or at it while that step is stopped after a fault;
0xFFFFFFFF disarms. -/
def State.armOk (s : State) (v : Nat) : Bool :=
  v == 0xFFFFFFFF || decide (s.step < v)
    || (s.run.halted == some v && v == s.step)

/-- Is a setting of the intake outside Table 12.6? -/
def State.intakeBad (s : State) : Bool :=
  let ring := s.get INT_RING_MIB
  let head := s.get INT_HEADROOM_KIB
  let hyst := s.get INT_RESUME_KIB
  decide (s.get INT_CTRL_UDP_PORT < 1024 ∨ ring < 64 ∨ 1024 < ring ∨ head < 256 ∨ ring * 256 < head ∨ hyst < 64 ∨ 16384 < hyst)
    || s.flash.config.chembePrio == some (s.get INT_CTRL_PFC_PRIO)

/-- Port, Cabinet or Desk whose ENABLE at its CTRL has fallen or risen; weights stand no longer on a disabled Desk (R144). -/
def State.enableMoved (s : State) (a : Nat) (on : Bool) : State :=
  if 0x300000 ≤ a ∧ a < 0x480000 then
    let p := (a - 0x300000) / 0x10000
    if on then s else ((s.portLoss p).noteBundle p).put (QPT_STATUS_MISCABLED p) 0
  else if a = 0x4B0000 then (if on then s.noteFree else s)
  else if a = 0x480000 then (if on then (List.range 24).foldl State.releasePort s else s)
  else if a = 0x490000 ∨ a = 0x4A0000 then (if on then s else s.hostDown ((a - 0x490000) / 0x10000))
  else if 0x100000 ≤ a ∧ a < 0x200000 then
    let s := s.put (CAB_STATUS_ENABLED ((a - 0x100000) / 0x10000)) (b2n on)
    if on then s.runHeld else s
  else if a = 0xC0000 ∧ on then s.runHeld
  else if a = 0x80000 ∧ !on then s.mapJob fun j => { j with standing0 := none }
  else if a = 0x90000 ∧ !on then s.mapJob fun j => { j with standing1 := none }
  else s

/-- What a register's new value sets off, beside the value: `old` is the word before, `v` the word written. -/
def State.afterWrite (s : State) (a old v : Nat) (mgmt : Bool) : State :=
  if a = 0x10004 then
    (s.put PWR_TARGET_RATE (clampTo 1000 1850 (s.get PWR_TARGET_RATE))).put PWR_TARGET_CAP
      (clampTo 900 1850 (s.get PWR_TARGET_CAP))
  else if a = 0x40000 then
    let s := if bit v 1 then s.snapshot else s
    if bit v 2 then s.clearCounters else s
  else if a = 0x2C then s.holdAlerts
  else if a = 0x50000 then s.clampLevel
  else if a = 0x4B0008 then
    s.headDist
  else if a = 0x4B0000 ∧ !bit old 0 ∧ bit v 0 ∧ s.intakeBad then (s.put INT_CTRL_ENABLE 0).cfgIgnored a mgmt
  else match blockOf a with
    | some (base, b) =>
      if b.enable && a == base && bit old 0 != bit (s.reg a) 0 then s.enableMoved a (bit (s.reg a) 0) else s
    | none => s

/-- What a guarded pair that took effect sets off. GLB_RESET_REQ begins after the reply. -/
def State.afterPair (s : State) (a old : Nat) (mgmt : Bool) : State :=
  if a = 0x40 then
    let k := s.get GLB_RESET_REQ_KIND
    if k = 1 ∨ k = 2 then
      let due := some (k, s.get GLB_RESET_REQ_BLOCK, mgmt)
      { (s.put GLB_RESET_REQ_KIND 0) with win := { s.win with resetDue := due } }
    else s
  else if a = 0x480014 then
    let v := s.get QFB_ROUTE_ARM_ARM_STEP
    if s.armOk v then s.put QFB_ROUTE_STATUS_ARMED (b2n (v != 0xFFFFFFFF)) else s.setReg a old
  else if 0x100000 ≤ a ∧ a < 0x200000 then
    let c := (a - 0x100000) / 0x10000
    if s.on (CAB_EVAC_REQ_START c) then (s.put (CAB_EVAC_REQ_START c) 0).evacTrigger c (s.get (CAB_EVAC_REQ_LCHAN c)) else s
  else s

/-- The fields of a register take a write at its own address (R445 to R448). -/
def State.writeOwn (s : State) (mgmt : Bool) (a v : Nat) (pair : Bool) : State :=
  match regDef a with
  | none => s
  | some r =>
    let old := s.reg a
    let disabled := s.blockDisabled a
    let new := putFields r.fields v fun f => f.wrote old v disabled pair
    let rsv := fun (w : Nat) => putFields r.fields w fun _ => 0
    let guardEn := a == baseOf a && protectedBlock a && s.jobBusy && bit old 0 && !bit new 0
    let new := if guardEn then orBit new 0 else new
    let s := s.setReg a new
    let s := if rsv old = rsv v then s else s.testTouched
    let s := if guardEn || cdIgnored r.fields old v disabled then s.cfgIgnored a mgmt else s
    let s := s.afterWrite a old v mgmt
    if pair then s.afterPair a old mgmt else s

/-- The RWA fields of a register take a write at an alias (R444). -/
def State.writeAlias (s : State) (a al v : Nat) : State :=
  match regDef a with
  | none => s
  | some r =>
    let old := s.reg a
    s.setReg a (putFields r.fields old fun f => f.aliased al old v)

/-! ## Guarded pairs and collisions (R450, R454, R455) -/

/-- GUARD_FAULT: sticky bit, alert, counter and the first address (R450). -/
def State.guardFault (s : State) (addr : Nat) (mgmt : Bool) : State :=
  let s := if s.on GLB_STATUS_GUARD_FAULT then s
    else (s.put GLB_GUARD_ADDR_ADDR addr).put GLB_GUARD_ADDR_MASTER (b2n mgmt)
  ((s.put GLB_STATUS_GUARD_FAULT 1).alert 8).count 0xF3

/-- A write at `addr` to the register at `a` noted, and the collision that it makes with a write by the other master (R454). -/
def State.noteCollision (s : State) (a addr : Nat) (mgmt : Bool) : State :=
  let win := s.get GLB_LOCK_CTRL_COLLIDE_US * 1000
  let hit := s.win.lastWrite.any fun l => l.1 == a && l.2.1 == !mgmt && decide (0 < win ∧ s.time ≤ l.2.2 + win)
  let rest := s.win.lastWrite.filter fun l => !(l.1 == a && l.2.1 == mgmt)
  let s := { s with win := { s.win with lastWrite := (a, mgmt, s.time) :: rest } }
  if hit then
    let s := if s.on GLB_STATUS_REG_COLLISION then s
      else (s.put GLB_COLLISION_ADDR_ADDR addr).put GLB_COLLISION_ADDR_MASTER (b2n mgmt)
    ((s.put GLB_STATUS_REG_COLLISION 1).alert 8).count 0xF1
  else s

/-- A write to a register with its collision check; offsets without a register take none. -/
def State.collide (s : State) (a addr : Nat) (mgmt : Bool) : State :=
  if (regDef a).isSome then s.noteCollision a addr mgmt else s

/-- The pending half of a block (R450). -/
def State.pendingHalf (s : State) (base : Nat) : Option (Nat × Nat × Word × Bool × Nat) :=
  s.win.guard.find? fun g => g.1 == base

/-- The pending half of a block discarded. -/
def State.dropHalf (s : State) (base : Nat) : State :=
  { s with win := { s.win with guard := s.win.guard.filter fun g => g.1 != base } }

/-- A half put on hold. -/
def State.holdHalf (s : State) (a : Nat) (v : Word) (mgmt : Bool) : State :=
  { s with win := { s.win with guard := s.win.guard ++ [(baseOf a, a % 0x10000, v, mgmt, s.time)] } }

/-- Does a write complete the pending half? -/
def completes (g : Nat × Nat × Word × Bool × Nat) (addr : Nat) (v : Word) (mgmt : Bool) : Bool :=
  g.2.2.2.1 == mgmt && aliasOf addr == 0 && addr % 0x10000 == g.2.1 + 4 && v == ~~~ g.2.2.1

/-- One register write from check 3 of R455 on: status and state. -/
def State.writeReg (s : State) (mgmt : Bool) (addr : Nat) (v : Word) : State × Nat :=
  let a := regAddr addr
  let al := aliasOf addr
  match s.pendingHalf (baseOf addr) with
  | some g =>
    let s := s.dropHalf g.1
    if completes g addr v mgmt then
      let a := g.1 + g.2.1
      if s.answers a then (((s.writeOwn mgmt a g.2.2.1.toNat true).collide a addr mgmt), stSuccess) else (s, stSuccess)
    else (s.guardFault addr mgmt, stGuard)
  | none =>
    if (al == 0 && decide (4 ≤ a) && guarded (a - 4)) || (al != 0 && guarded a) then (s.guardFault addr mgmt, stGuard)
    else if !s.answers a then (s, stSuccess)
    else if guarded a then ((s.holdHalf a v mgmt).collide a addr mgmt, stSuccess)
    else if al = 0 then ((s.writeOwn mgmt a v.toNat false).collide a addr mgmt, stSuccess)
    else ((s.writeAlias a al v.toNat).collide a addr mgmt, stSuccess)

/-- Both halves of a pair with nothing between them (R451). -/
def State.writePair (s : State) (mgmt : Bool) (addr : Nat) (v : Word) : State × Nat :=
  let a := regAddr addr
  if (s.pendingHalf (baseOf addr)).isSome || aliasOf addr != 0 then ((s.dropHalf (baseOf addr)).guardFault addr mgmt, stGuard)
  else if !s.answers a then (s, stSuccess)
  else ((s.writeOwn mgmt a v.toNat true).collide a addr mgmt, stSuccess)

/-! ## The commands -/

/-- A reset that the command asked for begins after its reply (R457). -/
def State.afterReply (s : State) : State :=
  match s.win.resetDue with
  | some (k, b, m) => ({ s with win := { s.win with resetDue := none } } : State).resetRequest k b m
  | none => s

/-- An act that answers with a status alone. -/
def Act.status (p : State × Nat) : Act := .reply p.1 p.2 []

/-- A command of class REGISTERS (Table 13.4). -/
abbrev opReg (code : Nat) : OpInfo := ⟨code, true, false, false, some 0, .always, false⟩

/-- REG_READ (R442, R443, R449). -/
def execRegRead (h : Hdr) (addr count : Nat) (s : State) : Host.Outcome State Fault Refusal :=
  let ok := addrOk addr && decide (1 ≤ count ∧ count ≤ 64 ∧ addr / 0x10000 = (addr + 4 * (count - 1)) / 0x10000)
  .next (s.command h (opNow 0x0100 false .always) ok (.regRead h addr count) fun s =>
    let (s, ws) := s.readRegs h.src.isSide addr count
    .reply s stSuccess ws)

/-- REG_WRITE (R445 to R455). -/
def State.regWrite (s : State) (h : Hdr) (addr : Nat) (value : Word) (i : Instr) : State :=
  (s.command h (opReg 0x0101) (addrOk addr) i fun s => .status (s.writeReg h.src.isSide addr value)).afterReply

/-- REG_WRITE_PAIR (R451). -/
def State.regWritePair (s : State) (h : Hdr) (addr : Nat) (value : Word) (i : Instr) : State :=
  (s.command h (opReg 0x0102) (addrOk addr && guarded (regAddr addr)) i fun s =>
    .status (s.writePair h.src.isSide addr value)).afterReply

/-- REG_WRITE. -/
def execRegWrite (h : Hdr) (addr : Nat) (value : Word) (s : State) : Host.Outcome State Fault Refusal :=
  .next (s.regWrite h addr value (.regWrite h addr value))

/-- REG_WRITE_PAIR. -/
def execRegWritePair (h : Hdr) (addr : Nat) (value : Word) (s : State) : Host.Outcome State Fault Refusal :=
  .next (s.regWritePair h addr value (.regWritePair h addr value))

/-- WARM_RESET: GLB_RESET_REQ with KIND 1 (R457, R515). -/
def execWarmReset (h : Hdr) (s : State) : Host.Outcome State Fault Refusal :=
  .next (s.regWritePair h 0x40 1 (.warmReset h))

/-- A block reset: GLB_RESET_REQ with KIND 2 and a block (R457). -/
def execBlockReset (h : Hdr) (block : Nat) (s : State) : Host.Outcome State Fault Refusal :=
  .next (s.regWritePair h 0x40 (BitVec.ofNat 32 (2 + 256 * (block % 256))) (.blockReset h block))

/-- CABc_EVAC_REQ with START (R231, R233). -/
def execEvacReq (h : Hdr) (cab lchan : Nat) (s : State) : Host.Outcome State Fault Refusal :=
  .next (s.regWritePair h (0x100008 + 0x10000 * (cab % 16)) (BitVec.ofNat 32 (lchan % 64 + 256)) (.evacReq h cab lchan))

/-- CNT_CTRL.SNAP written with 1, the other fields as they read (R331). -/
def execSnap (h : Hdr) (s : State) : Host.Outcome State Fault Refusal :=
  .next (s.regWrite h 0x40000 (BitVec.ofNat 32 (orBit (s.reg 0x40000) 1)) (.snap h))

/-- CNT_CTRL.CLEAR written with 1, the other fields as they read (R331). -/
def execClear (h : Hdr) (s : State) : Host.Outcome State Fault Refusal :=
  .next (s.regWrite h 0x40000 (BitVec.ofNat 32 (orBit (s.reg 0x40000) 2)) (.clear h))

/-- GUARD_TIMEOUT: a first half that has been pending for 10 ms is discarded (R450). -/
def execGuardTimeout (block : Nat) (s : State) : Host.Outcome State Fault Refusal :=
  let base := block * 0x10000
  .next (match s.pendingHalf base with
    | some g => if g.2.2.2.2 + 10000000 ≤ s.time then (s.dropHalf base).guardFault (g.1 + g.2.1) g.2.2.2.1 else s
    | none => s)

end Sys2Proof.Machine
end

