-- ==== Sys2Proof/Machine/Load.lean ====
section
/-! DEFINITION. Checks 19 to 21, the acceptance of a folio, and the commands that load one (R189, R190, R203, R218, R316,
R357, R368, R373, R378, R425). -/
namespace Sys2Proof.Machine

/-! ## Check 19: routes (R357) -/

/-- A refusal at a field of the ROUTES section: byte offset of the structure and of the field in it (R527). -/
def routeNo (f : Folio) (start o : Nat) : Reject := ⟨19, 0x011C, f.secNo 0x0B 0, start, o, 0, 0⟩

/-- What the checks of one bank need. -/
structure BankCheck where
  /-- The bank's bytes and its offset in the section. -/
  bytes : List Byte
  start : Nat
  switched : Bool
  roles : Nat
  groups : Nat
  own : Nat
  /-- Ports that the configuration record enables. -/
  ports : Nat

/-- Is a role PRESENT in the directory of a bank? -/
def bankPresent (b : List Byte) (r : Nat) : Bool := bit (fld (bankDir b r) 0 1) 0

/-- Role table entry `r` (items 3, 4 and 8). -/
def roleBad (c : BankCheck) (f : Folio) (r : Nat) : Option Reject :=
  let e := bankRole c.bytes r
  let no := fun (o : Nat) => routeNo f (c.start + 8 * r) o
  if c.roles ≤ r then fails (e != 0) (no 0)
  else if r = c.own then firstOf [fails (!bit e 63) (no 7), fails (!bit e 31) (no 3), fails (bits e 23 0 != 0) (no 0),
      fails (bits e 30 26 != 0) (no 3), fails (bits e 62 43 != 0) (no 5)]
  else
    let next := bits e 42 32
    firstOf
      [fails (bit e 31) (no 3), fails (bits e 30 26 != 0) (no 3), fails (bits e 62 43 != 0) (no 5),
       fails (bit e 63 && bits e 23 0 == 0) (no 0), fails (bit e 63 && bits e 25 24 == 3) (no 3),
       fails (bit e 63 && !c.switched && next != 0) (no 4),
       fails (bit e 63 && c.switched && (decide (c.roles ≤ next) || !bankPresent c.bytes next)) (no 4),
       fails (bit e 63 && c.switched && bits e 23 0 - (bits e 23 0 &&& c.ports) != 0) (no 0)]

/-- Group table entry `g` (items 5 and 8). -/
def groupBad (c : BankCheck) (f : Folio) (g : Nat) : Option Reject :=
  let e := bankGroup c.bytes g
  let no := fun (o : Nat) => routeNo f (c.start + 0x4000 + 8 * g) o
  if c.groups ≤ g then fails (e != 0) (no 0)
  else firstOf [fails (bits e 30 26 != 0) (no 3), fails (bits e 62 44 != 0) (no 5), fails (bit e 63 && bits e 43 32 == 0) (no 4)]

/-- Directory entry `r` (items 3, 7 and 8). -/
def dirBad (c : BankCheck) (f : Folio) (r : Nat) : Option Reject :=
  let e := bankDir c.bytes r
  let no := fun (o : Nat) => routeNo f (c.start + 0x4800 + 16 * r) o
  if c.roles ≤ r then fails (e.any (· != 0)) (no 0)
  else firstOf
    [fails (r == c.own && !bit (fld e 0 1) 0) (no 0), fails (fld e 0 1 / 4 != 0) (no 0), fails (fld e 1 1 / 16 != 0) (no 1),
     fails (fld e 5 1 != 0) (no 5), fails (bit (fld e 0 1) 0 && bit (fld e 6 1) 0) (no 6)]

/-- Roles and groups that the folio names (item 6). A MEMBER at or above ROLE_COUNT is no role; R203 refuses it. -/
def namedRoles (f : Folio) : List Nat :=
  ((List.range 8).flatMap fun q => (f.entries 6 (0x30 + q) 64).filterMap fun (d : Desc) =>
      if d.kind = 0x30 ∨ d.kind = 0x31 then some d.qDstRole else none)
    ++ (match f.partner with | some (p, w, _, _) => if w = 0xFFFF then [p] else [p, w] | none => [])
    ++ (match f.sec 0x0E 0 with
      | some x => ((List.range (min 64 (fld x.bytes 0 1))).map fun i => fld x.bytes (0x10 + 2 * i) 2).filter (decide <| · < f.roleCount)
      | none => [])

/-- Groups that a QMCAST names. -/
def namedGroups (f : Folio) : List Nat :=
  (List.range 8).flatMap fun q => (f.entries 6 (0x30 + q) 64).filterMap fun (d : Desc) =>
    if d.kind = 0x32 then some d.qDstRole else none

/-- One bank: tables in order, then what the folio names. -/
def bankBad (c : BankCheck) (f : Folio) : Option Reject :=
  firstOf
    [(List.range 2048).findSome? (roleBad c f), (List.range 256).findSome? (groupBad c f),
     (List.range 2048).findSome? (dirBad c f),
     (namedRoles f).findSome? fun r => fails (!bit (bankRole c.bytes r) 63) (routeNo f (c.start + 8 * r) 7),
     (namedGroups f).findSome? fun g =>
       fails (decide (c.groups ≤ g) || !bit (bankGroup c.bytes g) 63) (routeNo f (c.start + 0x4000 + 8 * g) 7)]

/-- Banks 0 and 1 of a ROUTES section (Table 10.8). -/
def Folio.routeBank (f : Folio) (b : Nat) : List Byte :=
  match f.sec 0x0B 0 with | some x => slice x.bytes (0x40 + 51200 * b) 51200 | none => []

/-- Header of the ROUTES section (items 1, 2, 8, 9). -/
def routeHeader (f : Folio) (x : Section) (topology : Bool) : Option Reject :=
  let no := fun (o : Nat) => routeNo f 0 o
  let t := fld x.bytes 0 1
  let dim := fun (i : Nat) => fld x.bytes (1 + i) 1
  let roles := fld x.bytes 4 2
  firstOf
    [fails (decide (1 < t)) (no 0),
     (List.range 3).findSome? fun i =>
       fails (if t = 0 then decide (dim i = 0 ∨ 32 < dim i) else dim i != 0) (no (1 + i)),
     fails (decide (roles = 0 ∨ 2048 < roles ∨ roles ≤ f.role)) (no 4),
     fails (t == 0 && decide (dim 0 * dim 1 * dim 2 < roles)) (no 4),
     fails (decide (256 < fld x.bytes 6 2)) (no 6),
     (List.range 56).findSome? fun i => fails (fld x.bytes (8 + i) 1 != 0) (no (8 + i)),
     fails ((t == 1) != topology) (no 0)]

/-! ## Check 19: the sequence-group record (R203) -/

/-- Do the elements of a tensor lie in a REMOTE_IN region? -/
def inRemote (f : Folio) (t : Tensor) : Bool :=
  t.space == 0 && (match regionOf f.regions t.elemBase t.elemBytes with | some r => r.remoteIn | none => false)

/-- Does a tensor lie whole in REMOTE_IN regions, its scale array too? -/
def wholeRemote (f : Folio) (t : Tensor) : Bool :=
  inRemote f t && (t.blk == 0 || (match regionOf f.regions t.scaleBase t.scaleBytes with | some r => r.remoteIn | none => false))

/-- The sequence-group record. Where MEMBER[POS] is not the header's ROLE, the refusal names POS (DESIGN CHOICE, log 102). -/
def seqGroupBad (f : Folio) : Option Reject :=
  match f.sec 0x0E 0 with
  | none => none
  | some x =>
    let no := fun (o : Nat) => (⟨19, 0x011D, f.secNo 0x0E 0, 0, o, 0, 0⟩ : Reject)
    let n := fld x.bytes 0 1
    let mem := fun (i : Nat) => fld x.bytes (0x10 + 2 * i) 2
    let recv := fun (o : Nat) =>
      match f.tensor (fld x.bytes o 2), f.tensor (fld x.bytes 2 2) with
      | some t, some k => fails (!wholeRemote f t || [t.d0, t.d1, t.d2, t.d3] != [k.d0, k.d1, k.d2, k.d3]) (no o)
      | _, _ => some (no o)
    firstOf
      [fails (decide (n < 2 ∨ 64 < n)) (no 0), fails (decide (n ≤ fld x.bytes 1 1)) (no 1),
       fails (mem (fld x.bytes 1 1) != f.role) (no 1), fails (f.tensor (fld x.bytes 2 2)).isNone (no 2),
       recv 4, recv 6, fails (fld x.bytes 8 8 != 0) (no 8),
       (List.range n).findSome? fun i =>
         fails (decide (f.roleCount ≤ mem i) || !bankPresent (f.routeBank 0) (mem i) || !bankPresent (f.routeBank 1) (mem i)
           || ((List.range i).any fun j => mem j == mem i)) (no (0x10 + 2 * i)),
       (List.range 64).findSome? fun i => fails (decide (n ≤ i) && mem i != 0xFFFF) (no (0x10 + 2 * i))]

/-- Check 19: the two sections in ascending number (R189). -/
def check19 (f : Folio) (topology : Bool) (ports : Nat) : Option Reject :=
  match f.sec 0x0B 0 with
  | none => none
  | some x =>
    let bank := fun (b : Nat) => bankBad
      { bytes := f.routeBank b, start := 0x40 + 51200 * b, switched := fld x.bytes 0 1 == 1, roles := f.roleCount,
        groups := f.groupCount, own := f.role, ports := ports } f
    if f.secNo 0x0E 0 < f.secNo 0x0B 0 then firstOf [seqGroupBad f, routeHeader f x topology, bank 0, bank 1]
    else firstOf [routeHeader f x topology, bank 0, bank 1, seqGroupBad f]

/-! ## Checks 20 and 21 -/

/-- Check 20: the SHADOW region of a partner record. -/
def check20 (f : Folio) : Option Reject :=
  match f.partner with
  | none => none
  | some (_, _, base, n) =>
    let have' := match f.regions.find? fun r => r.base == base && r.shadow with | some r => r.bytes | none => 0
    let all := (f.regions.map fun r => r.bytes).sum
    let no : Reject := ⟨20, 0x011E, f.secNo 0x0A 0, 0, 0x10, 0, 0⟩
    firstOf [fails (decide (have' < n)) (no.capacity n have'), fails (decide (systemBase < all)) (no.capacity all systemBase)]

/-- Check 21: the partner's feed domain in both directories against the module's own. -/
def check21 (f : Folio) (feed : Nat) : Option Reject :=
  match f.partner with
  | none => none
  | some (p, _, _, _) =>
    let of := fun (b : Nat) => fld (bankDir (f.routeBank b) p) 1 1 % 16
    let bad := fun (b : Nat) => of b == feed % 16 || of b == 15 || feed % 16 == 15
    fails (!f.colocated && (bad 0 || bad 1)) ⟨21, 0x011F, f.secNo 0x0A 0, 0, 0, 0, 0⟩

/-! ## The whole loader (R189, R190) -/

/-- The loader on an image: the folio as it is accepted, or the refusal record. -/
def loadImage (img : List Byte) (n : Nat) (topology : Bool) (ports feed : Nat) : Reject ⊕ Folio :=
  match check1 img n with
  | some r => .inl r
  | none =>
    let f := parseFolio img
    match firstOf [check2 f, check3 f, check4 f, check5 f, check6 f, check7 f, check8 f, check9 f] with
    | some r => .inl r
    | none =>
      let f := f.setElastic
      match firstOf [check10 f, check11 f] with
      | some r => .inl r
      | none =>
        let f := f.resolveShapes
        match firstOf [check12 f, check13 f, check14 f] with
        | some r => .inl r
        | none =>
          let f := f.elide
          let o := f.order
          match firstOf [check15 f o, check16 f o, check17 f, check18 f o, check19 f topology ports, check20 f, check21 f feed] with
          | some r => .inl r
          | none => .inr { f with digest := shake256 (img.take n) 32 }

/-! ## Acceptance (R138, R218, R285, R303, R316, R425) -/

/-- A page put into a class: where that changes its class, every line of it is zeroed (R218). -/
def State.setClass (s : State) (p c : Nat) : State :=
  if spGet (fun _ => 0) s.mem.cls p = c then s
  else
    let s := s.zeroRange (2097152 * p) (2097152 * (p + 1))
    { s with mem := { s.mem with cls := spSet (fun _ => 0) s.mem.cls p c } }

/-- Classes of the folio's pages: a region's pages take its class, every other page is CORRECT (R217). -/
def State.setClasses (s : State) (f : Folio) : State :=
  let inDetect := fun (p : Nat) => f.regions.any fun r => r.detect && decide (r.base ≤ 2097152 * p ∧ 2097152 * p < r.base + r.bytes)
  let s := (s.mem.cls.filter fun p => !inDetect p.1).foldl (fun s p => s.setClass p.1 0) s
  (f.regions.filter fun r => r.detect).foldl (fun s r =>
    (List.range (r.bytes / 2097152)).foldl (fun s i => s.setClass (r.base / 2097152 + i) 1) s) s

/-- Bank 0 of each table from the folio's images, bank 1 empty (R138). -/
def folioBanks (f : Folio) : List Bank :=
  (List.range 32).map fun i =>
    match f.sec 0x0C (i / 2) with
    | some x => if i % 2 = 0 then { version := fld x.bytes 0 2, image := fit 4112 x.bytes, order := 1 } else ⟨0, [], 0⟩
    | none => ⟨0, [], 0⟩

/-- Shape slots of the SLOTS section: entry i is slot i + 1 (R107). -/
def folioSlots (f : Folio) : List (Nat × Nat) :=
  (List.range (f.count 4 0)).foldl (fun m i =>
    match f.sec 4 0 with | some x => spSet (fun _ => 0) m (i + 1) (fld x.bytes (4 * i) 4) | none => m) []

/-- First live record of a layer (Table 8.4). -/
def layerStart (l : List Byte) : List Byte :=
  le 1 (fld l 3 1) ++ le 1 (fld l 3 1) ++ zeros 6 ++ le 4 0x3F800000 ++ le 4 0xFFFFFFFF

/-- First gauge record (R316). -/
def gaugeStart : List Byte := zeros 40 ++ le 2 0x7FFF ++ le 2 0x8000 ++ le 4 0xFFFFFFFF ++ zeros 16

/-- Bytes written to the system region: whole lines, the last one filled with zeros (R320). -/
def State.writeSystem (s : State) (a : Nat) (bs : List Byte) : State :=
  (s.writeRange a (bs ++ zeros (roundUp bs.length 128 - bs.length))).1

/-- The bank directory of the state block, 128 bytes (Table 11.2). -/
def bankDirectory (bs : List Bank) : List Byte :=
  (List.range 32).flatMap fun i =>
    let b := bs.getD i ⟨0, [], 0⟩
    let other := bs.getD (if i % 2 = 0 then i + 1 else i - 1) ⟨0, [], 0⟩
    le 2 b.version ++ le 1 (b2n (b.order != 0)) ++ le 1 (b2n (b.order != 0 && decide (other.order < b.order)))

/-- The first 256 KiB and the records of the state block, as the module stands (R373, Table 11.2). -/
def State.blockBytes (s : State) (step : Nat) : List (Nat × List Byte) :=
  let slot := fun (i : Nat) => le 4 (spGet (fun _ => 0) s.job.slots i)
  let head := le 4 step ++ le 2 (s.get GLB_CONTRACT_LEVEL) ++ zeros 2 ++ (s.peek (stateBlock + 8) 8)
    ++ le 8 (s.get2 INT_NEXT_LO_NEXT INT_NEXT_HI_NEXT) ++ le 4 s.stepSize ++ zeros 996
  let head := head ++ (List.range 256).flatMap slot ++ bankDirectory s.job.banks ++ zeros 1920
  let images := (List.range 32).flatMap fun i => fit 4112 (s.job.banks.getD i ⟨0, [], 0⟩).image
  let layers := match s.folio with | some f => f.layerCount | none => 0
  let gauges := match s.folio with | some f => f.gaugeCount | none => 0
  [(0, head), (0x1000, images), (0x40000, s.peek layerBase (16 * layers)), (0x140000, s.peek gaugeBase (64 * gauges))]

/-- What the state block takes from memory, read through the Sideboard (R249): the seed, the live records. -/
def State.readBlock (s : State) : State :=
  let layers := match s.folio with | some f => f.layerCount | none => 0
  let gauges := match s.folio with | some f => f.gaugeCount | none => 0
  ((s.touch (stateBlock + 8) 8 false).touch layerBase (16 * layers) false).touch gaugeBase (64 * gauges) false

/-- The state block assembled. It is written whole (log 21). -/
def State.assembleBlock (s : State) (step : Nat) : State :=
  let s := s.readBlock
  (s.blockBytes step).foldl (fun s p => (s.writeRange (stateBlock + p.1) p.2).1) s

/-- The state block of a newly loaded folio: everything else zero, STEP and INTAKE_SEQ 0, SEED kept (R373, R425). -/
def State.freshBlock (s : State) : State :=
  let (s, seed, _) := s.readRange (stateBlock + 8) 8 false
  let s := s.zeroRange stateBlock (stateBlock + stateBlockBytes)
  ((s.writeRange (stateBlock + 8) seed).1).assembleBlock 0

/-- Live layer and gauge records of a newly loaded folio (R285, R316). -/
def State.freshRecords (s : State) (f : Folio) : State :=
  let s := s.writeSystem layerBase ((List.range f.layerCount).flatMap fun i => layerStart (f.layer i))
  s.writeSystem gaugeBase ((List.range f.gaugeCount).flatMap fun _ => gaugeStart)

/-- The fabric's and the survival path's view of a newly loaded folio: both banks, bank 0 in force from step 0, nothing
armed, role and partner, the shard image (R356, R359, R368, R372). -/
def State.freshPaths (s : State) (f : Folio) : State :=
  let s := s.dropHeld.mapQuill fun q => { q with bank0 := f.routeBank 0, bank1 := f.routeBank 1 }
  let s := ((s.resetRegs 0x48000C 0x480018).put QFB_ROLE_ROLE f.role).put QFB_RIDE_PARTNER_ROLE
    (match f.partner with | some (p, _, _, _) => p | none => 0)
  let s := s.stopFollow.mapSvl fun v => { v with shard := f.shard, imageLen := shardLen f.shard, leaves := [], due := none, done := [] }
  (s.put2 SVL_IMAGE_LO_BYTES SVL_IMAGE_HI_BYTES (shardLen f.shard)).put SVL_CONFIRMED_STEP 0xFFFFFFFF

/-- A folio accepted (R425). -/
def State.accept (s : State) (f : Folio) : State :=
  let s := s.setClasses f
  let s := { s with folio := some f, job := { Job.empty with slots := folioSlots f, banks := folioBanks f, tableClock := 1 } }
  let s := s.mapRun fun r => { Run.empty with reports := r.reports }
  let s := ((s.notePending.put NIB0_STEP_INDEX_STEP 0xFFFFFFFF).put NIB0_STEP_VALUE_STEP_SIZE 0).put NIB0_STEP_QUEUE_STALE_NOW 0
  let s := (s.freshRecords f).put GLB_STEP_STEP 0
  let s := (s.put2 INT_NEXT_LO_NEXT INT_NEXT_HI_NEXT 0).put GAU_STATUS_GAUGE_COUNT f.gaugeCount
  ((s.freshPaths f).freshBlock).clampLevel

/-! ## The commands -/

/-- FOLIO_DATA (R425). -/
def execFolioData (h : Hdr) (offset : Nat) (data : List Byte) (s : State) : Host.Outcome State Fault Refusal :=
  .next (s.command h ⟨0x0300, true, false, false, some 2, .folioData, true⟩
    (decide (1 ≤ data.length ∧ data.length ≤ dataCap h 4048 ∧ offset + data.length ≤ 0x80000000)) (.folioData h offset data)
    fun s => .ok (s.writeRange (stagingBase + offset) data).1.settle)

/-- LOAD_FOLIO's work (R425). It requires that no line is open (R276); which status it gets while one is, is the model's
choice (DESIGN CHOICE, log 97). -/
def State.loadAct (s : State) (n : Nat) (digest : List Byte) : Act :=
  if !s.sbd.openLines.isEmpty then .no s stBusy
  else
  let (s, img, _) := s.readRange stagingBase n false
  let s := s.setJobState jsLoading
  if shake256 img 32 ≠ digest then .did s 0x0121 []
  else
    match loadImage img n s.switched s.flash.config.quillPorts (s.get PWR_STRAPS_FEED_ID) with
    | .inl r => .did s r.code r.bytes
    | .inr f => .did (s.accept f) stSuccess f.digest

/-- LOAD_FOLIO (R189, R425). -/
def execLoadFolio (h : Hdr) (imageBytes : Nat) (digest : List Byte) (s : State) : Host.Outcome State Fault Refusal :=
  .next (s.command h ⟨0x0301, true, false, true, some 2, .loadFolio, true⟩ (decide (1 ≤ imageBytes ∧ imageBytes ≤ 0x80000000))
    (.loadFolio h imageBytes digest) fun s => s.loadAct imageBytes digest)

end Sys2Proof.Machine
end

