-- ==== Sys2Proof/Machine/Restore.lean ====
section
/-! DEFINITION. The shadow that a partner holds as its reader sees it, and the fetch of an image from it: RESTORE and ADOPT
(R303, R355, R368, R371, R377, R395, R399, R400). -/
namespace Sys2Proof.Machine

/-! ## The ward (R376, R377, R396) -/

/-- Role whose shadow this module holds: the folio's ward, or the role that a Bench without a folio follows. -/
def State.wardRole (s : State) : Option Nat :=
  match s.folio with
  | some f => match f.partner with | some (_, w, _, _) => if w = 0xFFFF then none else some w | none => none
  | none => s.svl.wardOf

/-- Local address of the ward's image: 2 MiB into the SHADOW region, or 0 in a Bench (R377, R396). -/
def State.wardBase (s : State) : Nat :=
  match s.folio with
  | some f => match f.partner with | some (_, _, b, _) => b + 0x200000 | none => 0
  | none => 0

/-- The map as a folio: regions, layers, their tensors, one Nib list; the packing is that of `shardMap` (log 12). -/
def mapFolio (m : List Byte) : Folio :=
  let n1 := fld m 4 4
  let o2 := 8 + 16 * n1
  let n2 := fld m o2 4
  let o3 := o2 + 4 + 64 * n2
  let n3 := fld m o3 4
  let o4 := o3 + 4 + 64 * n3
  let n4 := fld m o4 4
  { hdr := [], digest := [], elided := [],
    secs := [⟨2, 0, n1, slice m 8 (16 * n1)⟩, ⟨9, 0, n2, slice m (o2 + 4) (64 * n2)⟩, ⟨1, 0, n3, slice m (o3 + 4) (64 * n3)⟩,
             ⟨6, 0x40, n4, slice m (o4 + 4) (64 * n4)⟩] }

/-- Bytes of the map received so far. -/
def State.wardMapBytes (s : State) : List Byte := (s.svl.wardMap.map Prod.snd).flatten

/-- The ward's map once it is whole. -/
def State.wardFolio (s : State) : Option Folio :=
  let m := s.wardMapBytes
  if 4 ≤ m.length ∧ 4 + fld m 0 4 ≤ m.length then some (mapFolio m) else none

/-- Have all the ward's ranges landed (R386)? -/
def State.wardAll (s : State) (f : Folio) : Bool :=
  let n := (shardRanges f).length
  n != 0 && (List.range n).all fun i => bit s.svl.wardReplay i

/-- Is the ward's image whole: have all ranges of its map landed? -/
def State.wardWhole (s : State) : Bool := match s.wardFolio with | some f => s.wardAll f | none => false

/-- The ward's digest registers. -/
def State.wardDigest (s : State) : List Byte := (List.range 8).flatMap fun w => le 4 (s.reg (0x4C0040 + 4 * w))

/-- The newest MARK LATCH of the ward: present, step, value, stale. It outlives its stage, which goes with a void step, since the
replay and an adoption take the value from it (R305, R399). -/
def State.stagedLatch (s : State) : List Byte :=
  if s.svl.wardLatch.isEmpty then zeros 16 else le 4 1 ++ s.svl.wardLatch

/-- Where the SHADOW region begins that this module keeps for its ward (R377). -/
def State.headBase (s : State) : Option Nat :=
  match s.folio with
  | some f => match f.partner with | some (_, w, b, _) => if w = 0xFFFF then none else some b | none => none
  | none => none

/-- The first three lines of the SHADOW region's header: the seal record (R394), the staging state, the ward's PAIR frame.
Their layout is the model's (log 12). -/
def State.shadowHead (s : State) (i : Nat) : List Byte :=
  if i = 0 then
    match s.svl.record with
    | some (role, step, len, digest, kind) =>
      fit 128 (le 2 role ++ le 1 kind ++ le 1 (s.get SVL_STATUS_SNAPSHOT_VALID) ++ le 4 step ++ le 8 len ++ digest)
    | none => zeroLine
  else if i = 1 then
    fit 128 (le 4 (s.get SVL_WARD_STEP_STEP) ++ le 1 (s.get SVL_STATUS_WARD_FOLLOW) ++ le 1 (b2n s.wardWhole) ++ zeros 2 ++ s.wardDigest ++ s.stagedLatch)
  else if i = 2 then fit 128 s.svl.wardPair
  else zeroLine

/-- The header's lines written where they have changed (R377, R394). A Bench without a folio has no SHADOW region and keeps its
image at 0 (R396), so that its header stands in no memory (log 69). -/
def State.syncHead (s : State) : State :=
  match s.headBase with
  | some b =>
    (List.range 3).foldl (fun s i =>
      let d := s.shadowHead i
      if s.peekLine (b + 128 * i) = d && !s.peekMarked (b + 128 * i) then s else s.lineWrite (b + 128 * i) d false) s
  | none => s

/-- Addresses from which the ward's READ_REQ names offsets in the SHADOW region (log 12). -/
abbrev shadowSpace : Nat := 0x800000000000

/-- A line of the SHADOW region as its ward reads it: data and marker. -/
def State.shadowRead (s : State) (reader off : Nat) : State × List Byte × Bool :=
  if s.wardRole ≠ some reader then (s, zeroLine, true)
  else if off < 0x200000 then
    match s.headBase with
    | some b =>
      let (s, o, d) := s.syncHead.lineRead (b + off) false false
      (s, if o.marked then zeroLine else d, o.marked)
    | none => (s, s.shadowHead (off / 128), false)
  else if decodedEnd ≤ s.wardBase + (off - 0x200000) then (s, zeroLine, true)
  else
    let (s, o, d) := s.lineRead (s.wardBase + (off - 0x200000)) false false
    (s, if o.marked then zeroLine else d, o.marked)

/-! ## What a header says (R395, R399, R400) -/

/-- The digest of the image that the partner holds at step `st` for a role: an applied follow at it, COMPLETE or frozen with
every range landed, or a seal at it. An image with ranges that have not landed is none (Table 11.8). The answer also says whether the
landed ranges stay landed and the follow goes on (R399). -/
def headDigest (hd : List (List Byte)) (role st : Nat) : Option (List Byte × Bool) :=
  let rec' := hd.getD 0 []
  let stg := hd.getD 1 []
  let fol := fld stg 4 1
  if (fol = 2 ∨ fol = 4) ∧ fld stg 5 1 = 1 ∧ fld stg 0 4 = st then some (slice stg 8 32, true)
  else if fld rec' 3 1 = 1 ∧ fld rec' 0 2 = role ∧ fld rec' 4 4 = st then some (slice rec' 16 32, false)
  else none

/-- The staged latch of a header, if it is of a step: value and stale. -/
def headLatch (hd : List (List Byte)) (step : Nat) : Option (Nat × Nat) :=
  let stg := hd.getD 1 []
  if fld stg 40 4 = 1 ∧ fld stg 44 4 = step then some (fld stg 48 4, fld stg 52 4) else none

/-- Does a Bench fit the role's PAIR record: contract level and folio digest (R400)? -/
def State.fitsPair (s : State) (f : Folio) (pair : List Byte) : Bool :=
  fld pair 0x18 2 == s.get GLB_CONTRACT_LEVEL && slice pair 8 16 == f.digest.take 16

/-! ## Which leaves (R395) -/

/-- Does a line read as LOST? -/
def State.peekLost (s : State) (a : Nat) : Bool :=
  match s.held a with
  | some l => l.outcome == .lost
  | none => (decodeLine (s.detect a) (s.rawData (s.readKey a)) (s.rawCheck (s.readKey a))).1 == .lost

/-- Does the module hold its image at step `st`? -/
def State.holdsImage (s : State) (st : Nat) : Bool := s.svl.done.any fun p => p.1 == st

/-- Leaves of the own image. -/
def State.leafCount (s : State) : Nat := ceilDiv s.svl.imageLen 1048576

/-- Bytes of leaf `i`. -/
def State.leafBytes (s : State) (i : Nat) : Nat := min 1048576 (s.svl.imageLen - 1048576 * i)

/-- Must leaf `i` be fetched: written after boundary `st`, or holding a LOST line; every leaf where no image is held? -/
def State.leafDue (s : State) (st i : Nat) : Bool :=
  !s.holdsImage st
    || (match s.svl.leaves.find? fun p => p.1 == i with | some p => decide (st < p.2 ∨ st = 0xFFFFFFFF) | none => false)
    || (List.range (s.leafBytes i / 128)).any fun j =>
      match shardAddr s.svl.shard (1048576 * i + 128 * j) with | some a => s.peekLost a | none => false

/-! ## The fetch -/

/-- The role of the partner. -/
def State.partnerRole (s : State) : Option Nat :=
  match s.folio with | some f => (match f.partner with | some (p, _) => some p | none => none) | none => none

/-- An image line written into the own shard, with none of what a step's write leaves behind. -/
def State.putImage (s : State) (o : Nat) (d : List Byte) (marked : Bool) : State :=
  match shardAddr s.svl.shard o with
  | some a =>
    let v := s.svl
    let t := s.get SVL_STATUS_SHARD_TOUCHED
    let s := s.lineWrite a d marked
    { s.put SVL_STATUS_SHARD_TOUCHED t with svl := { v with due := s.svl.due } }
  | none => s

/-- The fetches of leaves under way. -/
def State.leafFetches (s : State) (p : Nat) : List Fetch :=
  s.quill.fetches.filter fun f => f.role == p && decide (shadowSpace + 0x200000 ≤ f.addr)

/-- The leaves that are due asked for, one fetch each. -/
def State.askLeaves (s : State) (p : Nat) (due : Nat → Bool) : State :=
  (((List.range s.leafCount).filter due).foldl (fun s i =>
    s.startFetch p (shadowSpace + 0x200000 + 1048576 * i) (s.leafBytes i / 128)) s).mapSvl fun v =>
      { v with recover := v.recover.map fun r => { r with asked := true } }

/-- What the leaves of a fetch hold written into the own image. -/
def State.placeLeaves (s : State) (fs : List Fetch) : State :=
  fs.foldl (fun s f =>
    (f.data.zipIdx.foldl (fun s x => s.putImage (f.addr - shadowSpace - 0x200000 + 128 * x.2) x.1.1 x.1.2) s).dropFetch f) s

/-- An image at step `st` in place (R303, R368, R395): SVL_CONFIRMED, the state block's items, what the leaves tell. -/
def State.imageAt (s : State) (st : Nat) (digest : List Byte) : State :=
  let s := (s.put SVL_CONFIRMED_STEP st).applyBlock 0 stateBlockBytes
  s.mapSvl fun v => { v with recover := none, echoes := [], leaves := v.leaves.map (fun p => (p.1, min p.2 st)),
                             done := (st, digest) :: v.done.filter fun p => decide (p.1 < st) }

/-- What an adoption adds (R276, R303, R399): far copies discarded, the latched step size of step `st` + 1, the follow that goes on, an empty shadow of
the own ward, and PAIR. -/
def State.adopted (s : State) (f : Folio) (st : Nat) (latch : Option (Nat × Nat)) (goes : Bool) : State :=
  let t := (st + 1) % 2 ^ 32
  let s := s.discardFar
  let s := match latch with
    | some (v, stale) => ((s.put NIB0_STEP_VALUE_STEP_SIZE v).put NIB0_STEP_INDEX_STEP t).put NIB0_STEP_QUEUE_STALE_NOW stale
    | none =>
      (s.put NIB0_STEP_VALUE_STEP_SIZE (leNat (s.peek (stateBlock + 0x18) 4))).put NIB0_STEP_INDEX_STEP 0xFFFFFFFF
  let s := s.mapSvl fun v => { v with wardMap := [], stages := [], wardReplay := 0, wardLanded := [], wardOf := none,
                                      rideHeld := [], rideNext := [], wardPair := [], wardGasp := none, record := none, partner2 := none }
  let s := (s.put SVL_STATUS_WARD_FOLLOW 0).put SVL_STATUS_SNAPSHOT_VALID 0
  let s := if goes && s.on SVL_CTRL_ENABLE && s.on SVL_CTRL_FOLLOW_EN then
      ((s.mapSvl fun v => { v with mapSent := (shardMap f).length / 128,
                                   ranges := (shardRanges f).map fun r => { r with state := .replay } }).put
        SVL_STATUS_OWN_FOLLOW 2).noteRanges
    else s
  s.sendPairs f

/-- A RESTORE or ADOPT ends with a status. -/
def State.endRecover (s : State) (adopt : Bool) (status : Nat) (digest : List Byte) : State :=
  (s.mapSvl fun v => { v with recover := none }).finishOp (if adopt then 0x0502 else 0x0501) status
    (if status = stSuccess then fit 32 digest else [])

/-- Status of a failed recovery. -/
def recoverFail (adopt : Bool) : Nat := if adopt then stAdoptRefused else stRestoreMismatch

/-- The leaves are in place: the digest decides (R395, R400). -/
def State.verifyImage (s : State) (f : Folio) (r : Recover) (digest : List Byte) (latch : Option (Nat × Nat)) (goes : Bool) : State :=
  let (s, d) := s.ownDigest
  if d = digest then
    let s := s.imageAt r.step digest
    (if r.adopt then s.adopted f r.step latch goes else s).endRecover r.adopt stSuccess digest
  else (s.mapSvl fun v => { v with done := v.done.filter fun p => decide (p.1 < r.step) }).endRecover r.adopt (recoverFail r.adopt) []

/-- The recovery looked at again after a READ_RESP: the header first, then the leaves, then the digest. -/
def State.recoverGo (s : State) : State :=
  match s.svl.recover, s.folio, s.partnerRole with
  | some r, some f, some p =>
    match s.fetched p shadowSpace 3 with
    | none => s
    | some hf =>
      let hd := hf.data.map Prod.fst
      match headDigest hd f.role r.step with
      | none => (s.dropFetch hf).endRecover r.adopt (recoverFail r.adopt) []
      | some (digest, goes) =>
        if r.adopt && !s.fitsPair f (hd.getD 2 []) then (s.dropFetch hf).endRecover true stAdoptRefused []
        else
          let s := if r.asked then s else s.askLeaves p fun i => r.adopt || s.leafDue r.step i
          if (s.leafFetches p).all fun x => x.reqs.isEmpty then
            let s := (s.placeLeaves (s.leafFetches p)).dropFetch hf
            s.verifyImage f r digest (headLatch hd ((r.step + 1) % 2 ^ 32)) goes
          else s
  | _, _, _ => s

/-- A recovery begins with the header. -/
def State.startRecover (s : State) (p st : Nat) (adopt : Bool) : State :=
  (s.mapSvl fun v => { v with recover := some { step := st, adopt := adopt, asked := false } }).startFetch p shadowSpace 3

/-! ## The commands -/

/-- RESTORE(s) (R395): with no partner no image can match. -/
def execRestore (h : Hdr) (step : Nat) (s : State) : Host.Outcome State Fault Refusal :=
  .next (s.command h ⟨0x0501, true, false, true, some 4, .loaded, true⟩ true (.restore h step) fun s =>
    if s.svl.recover.isSome then .no s stBusy
    else match s.partnerRole with
      | some p => .begun (s.startRecover p step false) none 0
      | none => .did s stRestoreMismatch [])

/-- An image of `n` lines from a base address on read line by line: data and marker of each, and whether one of them reads as LOST
or FAILED (R223, R249, R393). -/
def State.readImage (s : State) (base n : Nat) : State × List (List Byte × Bool) × Bool :=
  (List.range n).foldl (fun (acc : State × List (List Byte × Bool) × Bool) i =>
    let (s, o, d) := acc.1.lineRead (base + 128 * i) false false
    (s, acc.2.1 ++ [(d, o.marked)], acc.2.2 || o == .lost || o == .failed)) (s, [], false)

/-- The image that a Bench holds as second partner copied into its own shard (R396, R399). The first partner has had the same
frames, so its follow goes on (DEDUCED, log 67). -/
def State.adoptHere (s : State) (f : Folio) (st : Nat) : State :=
  let (s, img, _) := s.readImage 0 (s.svl.imageLen / 128)
  let digest := s.wardDigest
  let latch := headLatch [[], s.shadowHead 1] ((st + 1) % 2 ^ 32)
  if !s.fitsPair f s.svl.wardPair then s.endRecover true stAdoptRefused []
  else
    let s := img.zipIdx.foldl (fun s x => s.putImage (128 * x.2) x.1.1 x.1.2) s
    s.verifyImage f { step := st, adopt := true, asked := true } digest latch true

/-- ADOPT(r, t) (R399, R400). A Bench that is r's second partner and has applied step t − 1 fetches nothing. -/
def execAdopt (h : Hdr) (role step : Nat) (s : State) : Host.Outcome State Fault Refusal :=
  let st := (step + 2 ^ 32 - 1) % 2 ^ 32
  .next (
    let s' := s.command h ⟨0x0502, true, false, true, some 4, .loaded, true⟩ true (.adopt h role step) fun s =>
      if s.svl.recover.isSome then .no s stBusy
      else match s.folio, s.partnerRole with
        | some f, some p =>
          if f.role ≠ role then .did s stAdoptRefused []
          else if s.svl.wardOf = some role ∧ s.wardWhole = true ∧ [2, 4].contains (s.get SVL_STATUS_WARD_FOLLOW) ∧ s.get SVL_WARD_STEP_STEP = st then
            .begun (s.mapSvl fun v => { v with recover := some { step := st, adopt := true, asked := true } }) none 0
          else .begun (s.startRecover p st true) none 0
        | _, _ => .did s stAdoptRefused []
    match s'.svl.recover, s'.folio with
    | some r, some f =>
      if s.svl.recover.isNone && r.adopt && r.asked then s'.adoptHere f r.step else s'
    | _, _ => s')

end Sys2Proof.Machine
end

