-- ==== Sys2Proof/Machine/QuillRx.lean ====
section
/-! DEFINITION. Receiving on the Quill fabric: data frames, delivery, reports, reads of remote memory (R341, R350 to R355,
R358, Table 10.7). -/
namespace Sys2Proof.Machine

/-! ## Where a frame goes (R358) -/

/-- Is a role held here, by the bank that a frame's step selects? -/
def State.localRole (s : State) (h : QHdr) : Bool := bit (bankRole (s.bank (s.bankNo h.step)) h.dst) 31

/-- A frame for a role: handled where it is LOCAL, sent on otherwise. `handle` answers whether the frame is held. -/
def State.toRole (s : State) (t : Nat) (fr : QFrame) (handle : State → State × Bool) : State × Bool :=
  if s.localRole fr.h then handle s else (s.routeRole t fr.h fr.payload, false)

/-! ## Reports (R350, R353) -/

/-- ARG of a report: KIND, GROUP, group index (R341). -/
def reportArg (kind : Nat) (group : Bool) (dst : Nat) : Nat := kind + (if group then 256 + 512 * dst else 0)

/-- A report to the source of a message (log 12): its list and number ride in SRC and MSEQ, its step in STEP. -/
def State.sendReport (s : State) (srcRole srcList dst : Nat) (group : Bool) (mseq step kind : Nat) : State :=
  let h := { s.hdr srcRole 0 with srcList := srcList, step := step, mseq := mseq, arg := reportArg kind group dst }
  s.routeRole qReport h []

/-- A frame discarded with a report: LATE or REFUSED (R353). -/
def State.refuse (s : State) (h : QHdr) (group late : Bool) : State :=
  let s := if late then s.put QFB_STATUS_LATE 1 else s.put QFB_STATUS_REFUSED 1
  s.sendReport h.srcRole h.srcList h.dst group h.mseq h.step (if late then 3 else 4)

/-! ## Messages (R350) -/

/-- Is an entry a message of a stream with a number? -/
def RxMsg.is (m : RxMsg) (srcRole srcList dst : Nat) (group : Bool) (mseq : Nat) : Bool :=
  m.srcRole == srcRole && m.srcList == srcList && m.dst == dst && m.group == group && m.mseq == mseq

/-- An open or waiting message. -/
def State.rxMsg (s : State) (srcRole srcList dst : Nat) (group : Bool) (mseq : Nat) : Option RxMsg :=
  s.quill.rx.find? fun m => m.is srcRole srcList dst group mseq

/-- The next number to deliver of a stream. -/
def State.nextDelivery (s : State) (srcRole srcList dst : Nat) (group : Bool) : Nat :=
  match s.quill.delivered.find? fun x => x.1 == srcRole && x.2.1 == srcList && x.2.2.1 == dst && x.2.2.2.1 == group with
  | some x => x.2.2.2.2
  | none => 0

/-- Is a message complete? -/
def RxMsg.complete (m : RxMsg) : Bool := match m.close with | some (n, _, _) => m.lines == n | none => false

/-- A message noted: `lines` of it have come, or its CLOSE. Q_HELD_ORDER is counted where it completes before its turn. -/
def State.noteMsg (s : State) (fr : QFrame) (group : Bool) (lines : Nat) (close : Option (Nat × Nat × Bool)) : State :=
  let h := fr.h
  let old := match s.rxMsg h.srcRole h.srcList h.dst group h.mseq with
    | some m => m
    | none => { port := fr.port, srcRole := h.srcRole, srcList := h.srcList, dst := h.dst, group := group, mseq := h.mseq, lines := 0,
                close := none, fabric := h.fabric }
  let new := { old with port := fr.port, lines := old.lines + lines, close := if close.isSome then close else old.close }
  let s := s.mapQuill fun q => { q with rx := (q.rx.filter fun m => !m.is h.srcRole h.srcList h.dst group h.mseq) ++ [new] }
  let s := s.put QFB_STATUS_OPEN_HIGH (max (s.get QFB_STATUS_OPEN_HIGH) s.quill.rx.length)
  if new.complete && decide (s.nextDelivery h.srcRole h.srcList h.dst group < h.mseq) then s.countAt 0xAE (portInst fr.port) 1 else s

/-- Has the table of messages room for a frame's? -/
def State.rxRoom (s : State) (h : QHdr) (group : Bool) : Bool :=
  (s.rxMsg h.srcRole h.srcList h.dst group h.mseq).isSome || decide (s.quill.rx.length < 4096)

/-! ## Data (R341, R350, R353) -/

/-- The tensor that a data frame writes, where R353 lets it. -/
def State.target (s : State) (h : QHdr) : Option Tensor :=
  match s.folio with
  | some f =>
    match f.tensor h.dstTid with
    | some t => if inRemote f t && decide (128 * (h.arg + h.lines) ≤ t.elemBytes) then some t else none
    | none => none
  | none => none

/-- Does R353 let a frame of TYPE `t` in by its tensor? A CLOSE carries no lines, so that only its tensor counts. -/
def State.lets (s : State) (t : Nat) (h : QHdr) : Bool :=
  if t = qClose then (match s.folio with
    | some f => (match f.tensor h.dstTid with | some x => inRemote f x | none => false)
    | none => false)
  else (s.target h).isSome

/-- The lines of a WRITE or MCAST frame written (R350). -/
def State.writeLines (s : State) (fr : QFrame) (t : Tensor) : State :=
  (List.range fr.h.lines).foldl (fun s i =>
    s.lineWrite (t.elemBase + 128 * (fr.h.arg + i)) (slice fr.payload (128 * i) 128) fr.h.poison) s

/-- The elements of an ADD frame added (R257, R260, R341). -/
def State.addLines (s : State) (fr : QFrame) (t : Tensor) : State :=
  let w := fmtBytes fr.h.fmt
  let n := 128 * fr.h.lines / w
  let s := (List.range n).foldl (fun s i =>
    s.exactAdd (t.elemBase + 128 * fr.h.arg + w * i) fr.h.fmt (codeAt fr.payload w i) fr.h.poison (frameSrc fr)) s
  s.countAt 0xB1 (portInst fr.port) n

/-- A frame of a message, of TYPE `t`, against the own step (R353): held, late or refused, or taken by `take`. `group` marks
multicast; `new` says that the frame has just come, so that Q_HELD_STEP counts it where it is early. -/
def State.byStep (s : State) (t : Nat) (fr : QFrame) (group new : Bool) (take : State → State) : State × Bool :=
  let h := fr.h
  if s.jobState ≠ jsRunning then (s.refuse h group false, false)
  else if s.step < h.step ∨ (h.step = s.step ∧ !s.run.stepOn) ∨ (h.step = s.step ∧ !s.rxRoom h group) then
    let s := if new && decide (s.step < h.step) then s.countAt 0xAF (portInst fr.port) 1 else s
    (s.mapQuill fun q => { q with held := q.held ++ [(t, group, fr)] }, true)
  else if h.step < s.step then (s.refuse h group true, false)
  else if !s.lets t h then (s.refuse h group false, false)
  else (take s, false)

/-- A WRITE, ADD, MCAST or CLOSE frame at its receiver: its lines, or REMOTE_SEM in ARG [15:0] with the length in lines above
(R341, R350). -/
def State.takeData (s : State) (t : Nat) (fr : QFrame) (group new : Bool) : State × Bool :=
  s.byStep t fr group new fun s =>
    if t = qClose then s.noteMsg fr group 0 (some (bits fr.h.arg 47 16, bits fr.h.arg 15 0, fr.h.signal))
    else match s.target fr.h with
      | some x => ((if t = qAdd then s.addLines fr x else s.writeLines fr x).noteMsg fr group fr.h.lines none).settle
      | none => s

/-- Group table entry of a frame's step. -/
def State.groupOf (s : State) (h : QHdr) : Nat := bankGroup (s.bank (s.bankNo h.step)) h.dst

/-- A frame of a group: delivered at a member, and in a torus sent on along the tree (R358). -/
def State.toGroup (s : State) (t : Nat) (fr : QFrame) (handle : State → State × Bool) : State × Bool :=
  let e := s.groupOf fr.h
  if !bit e 63 then (s.put QFB_STATUS_UNROUTABLE 1, false)
  else
    let s := if s.switched then s else s.routeGroup (some fr.port) t fr.h fr.payload
    if bit e 31 then handle s else (s, false)

/-- The key under which a multicast message that passes is noted. -/
def passKey (h : QHdr) : Nat × Nat × Nat × Nat × Nat := (h.srcRole, h.srcList, h.dst, h.mseq, h.step)

/-- Is a CLOSE one of a group? In switched topology its address says so. In a torus the header does not: it is where an MCAST
frame of that message has come this way and its CLOSE has not (log 22). -/
def State.groupClose (s : State) (fr : QFrame) : Bool := fr.group || (!s.switched && s.quill.passing.contains (passKey fr.h))

/-- An MCAST frame in a torus noted, so that its CLOSE is known; the CLOSE takes the note away. -/
def State.notePass (s : State) (t : Nat) (h : QHdr) : State :=
  if s.switched then s
  else s.mapQuill fun q =>
    { q with passing := (if t = qClose then [] else [passKey h]) ++ q.passing.filter fun k => k != passKey h }

/-- A frame handled by its TYPE, once the link has taken it. Answers whether it is held. -/
def State.handleData (s : State) (t : Nat) (fr : QFrame) : State × Bool :=
  if t = qMcast ∨ (t = qClose ∧ s.groupClose fr) then
    let s := if t = qMcast then s.countAt 0xB0 (portInst fr.port) 1 else s
    (s.notePass t fr.h).toGroup t fr fun s => s.takeData t fr true true
  else s.toRole t fr fun s => s.takeData t fr false true

/-- Held frames looked at again, in order; one that is taken frees its slots (R353). -/
def State.releaseHeld (s : State) : State :=
  let hs := s.quill.held
  hs.foldl (fun s x =>
    let (s, k) := s.takeData x.1 x.2.2 x.2.1 false
    if k then s else s.freeFrame x.2.2) (s.mapQuill fun q => { q with held := [] })

/-! ## Delivery (R350) -/

/-- DELIVERY of a message whose turn it is. With FABRIC its bytes must have completed, so none of its adds waits. -/
def State.deliver (s : State) (srcRole srcList dst : Nat) (group : Bool) (mseq : Nat) : State :=
  match s.rxMsg srcRole srcList dst group mseq with
  | none => s
  | some m =>
    if !m.complete || decide (s.nextDelivery srcRole srcList dst group ≠ mseq) || (m.fabric && !s.sbd.waiting.isEmpty)
        || !s.run.stepOn then s
    else
      let s := s.mapQuill fun q =>
        { q with rx := q.rx.filter (fun x => !x.is srcRole srcList dst group mseq),
                 delivered := (srcRole, srcList, dst, group, mseq + 1) :: q.delivered.filter fun x =>
                   !(x.1 == srcRole && x.2.1 == srcList && x.2.2.1 == dst && x.2.2.2.1 == group) }
      let s := match m.close with
        | some (_, sem, true) => s.signal sem (if m.fabric then 3 else 2)
        | _ => s
      let s := s.sendReport srcRole srcList dst group mseq s.step (if m.fabric then 2 else 1)
      if s.quill.rx.length = 4095 then s.releaseHeld else s

/-! ## Reports at the source (R351, R353) -/

/-- The message that a report speaks of: its list, destination, number. -/
def reported (s : State) (h : QHdr) (m : TxMsg) : Bool :=
  let group := bit h.arg 8
  m.list == h.srcList && m.mseq == h.mseq && m.group == group && m.dst == (if group then bits h.arg 16 9 else h.srcRole)
    && h.step == s.step

/-- A Quill descriptor's record takes the status of a LATE or REFUSED report of its message. -/
def State.noteRefused (s : State) (h : QHdr) (status : Nat) : State :=
  let list := 0x30 + h.srcList
  match (s.eng list).phase, s.head list with
  | .sent n r, some d =>
    match s.message h.srcList n d with
    | some m => if reported s h m then s.setPhase list (.sent n { r with status := status }) else s
    | none => s
  | _, _ => s

/-- REPORT: DELIVERED and COMPLETE count a receiver off; LATE and REFUSED void the step (R351, R353, Table 12.8). -/
def State.takeReport (s : State) (h : QHdr) : State :=
  if !s.run.stepOn || !(s.quill.sent.any (reported s h)) then s
  else
    let kind := bits h.arg 7 0
    let off := fun (m : TxMsg) => if reported s h m then { m with left := if kind ≤ 2 then m.left - 1 else 0 } else m
    let s := s.mapQuill fun q => { q with sent := q.sent.map off }
    let s := if kind ≤ 2 then s
      else
        let st := if kind = 3 then 0x0207 else 0x0208
        (s.voidStep st (0x30 + h.srcList) 0).noteRefused h st
    s.quillChecks

/-! ## Reads of remote memory (R355) -/

/-- READ_RESP frames for the lines asked for, poisoned lines alone, as many lines to a frame as the channels to the reader carry
(R341, R344, R355). Lines past the decoded range read as
poisoned; high addresses name the SHADOW region kept for the reader (log 12). -/
def State.answerRead (s : State) (h : QHdr) : State :=
  let n := min 32 h.dstTid
  let (s, ls) := (List.range n).foldl (fun (acc : State × List (List Byte × Bool)) i =>
    let a := 128 * (h.arg + i)
    if shadowSpace ≤ a then
      let (s, d, m) := acc.1.shadowRead h.srcRole (a - shadowSpace)
      (s, acc.2 ++ [(d, m)])
    else if decodedEnd ≤ a then (acc.1, acc.2 ++ [(zeroLine, true)])
    else
      let (s, o, d) := acc.1.lineRead a false false
      (s, acc.2 ++ [(if o.marked then zeroLine else d, o.marked)])) (s, [])
  let width := max 1 (s.frameLines (bankRole (s.bank (s.bankNo h.step)) h.srcRole))
  (linePieces width 0 ls).foldl (fun s p =>
    let r := { s.hdr h.srcRole p.2.1.length with poison := p.2.2, mseq := h.mseq, step := h.step }
    s.routeRole qReadResp r p.2.1.flatten) s.settle

/-- Ways of a set that far copies may use (Table 7.10). -/
def State.farWays (s : State) : Nat := min 2 (s.get SBD_CTRL_FAR_WAYS)

/-- The far copies of each set, the newest that its ways hold (R254). -/
def State.trimFar (s : State) : State :=
  let far := s.sbd.far.reverse.foldl (fun (keep : List (Nat × Nat × List Byte)) x =>
    if (keep.filter fun y => setOf y.2.1 == setOf x.2.1).length < s.farWays then x :: keep else keep) []
  { s with sbd := { s.sbd with far := far } }

/-- One far copy kept, in the set of its remote address: it takes the place of the set's oldest one where the ways are full,
and otherwise, where it must, of a line that the set holds (R248, R254). -/
def State.keepOne (s : State) (role : Nat) (l : Nat × List Byte) : State :=
  let far := s.sbd.far.filter fun x => !(x.1 == role && x.2.1 == l.1)
  let s := ({ s with sbd := { s.sbd with far := far ++ [(role, l.1, l.2)] } } : State).trimFar
  let held := s.sbd.lines.filter fun x => setOf x.addr == setOf l.1
  let s := if s.cacheWays l.1 < held.length then (match held.head? with | some x => s.evict x.addr | none => s) else s
  s.countAt 0x6C (cabInst (cabOf l.1)) 1

/-- Far copies of lines received (R254); those of a SHADOW region go by its remote address (log 12). -/
def State.keepFar (s : State) (role : Nat) (ls : List (Nat × List Byte)) : State :=
  if s.farWays = 0 then s.trimFar else ls.foldl (fun s l => s.keepOne role l) s

/-- Lines of a READ_RESP given to the read that asked for them. -/
def Fetch.take (f : Fetch) (num : Nat) (pl : List Byte) (marked : Bool) (n : Nat) : Fetch :=
  match f.reqs.find? fun r => r.1 == num with
  | none => f
  | some r =>
    let k := min n r.2.2
    let got := (List.range k).map fun i => (r.2.1 + 128 * i, slice pl (128 * i) 128, marked)
    let left := (r.1, r.2.1 + 128 * k, r.2.2 - k)
    { f with got := f.got ++ got, reqs := (if left.2.2 = 0 then [] else [left]) ++ f.reqs.filter fun x => x.1 != num }

/-- READ_RESP at the module that asked. -/
def State.takeResp (s : State) (fr : QFrame) : State :=
  let h := fr.h
  match s.quill.fetches.find? fun f => f.role == h.srcRole && f.reqs.any fun r => r.1 == h.mseq with
  | none => s
  | some f =>
    let f' := f.take h.mseq fr.payload h.poison h.lines
    let new := (f'.got.drop f.got.length).filter fun g => !g.2.2
    let s := s.keepFar h.srcRole (new.map fun g => (g.1, g.2.1))
    (s.mapQuill fun q => { q with fetches := q.fetches.map fun x => if x = f then f' else x }).runHeld.recoverGo

/-! ## The commands -/

/-- WRITE (R350). -/
def execQFrameWrite (frame : QFrame) (s : State) : Host.Outcome State Fault Refusal :=
  .next (s.receive qWrite frame fun s => s.handleData qWrite frame)

/-- ADD (R350). -/
def execQFrameAdd (frame : QFrame) (s : State) : Host.Outcome State Fault Refusal :=
  .next (s.receive qAdd frame fun s => s.handleData qAdd frame)

/-- MCAST (R350, R358). -/
def execQFrameMcast (frame : QFrame) (s : State) : Host.Outcome State Fault Refusal :=
  .next (s.receive qMcast frame fun s => s.handleData qMcast frame)

/-- CLOSE (R349, R350). -/
def execQFrameClose (frame : QFrame) (s : State) : Host.Outcome State Fault Refusal :=
  .next (s.receive qClose frame fun s => s.handleData qClose frame)

/-- DELIVERY (R350). -/
def execDelivery (srcRole srcList dst : Nat) (group : Bool) (mseq : Nat) (s : State) : Host.Outcome State Fault Refusal :=
  .next (s.deliver srcRole srcList dst group mseq)

/-- REPORT (R351). -/
def execReport (frame : QFrame) (s : State) : Host.Outcome State Fault Refusal :=
  .next (s.receive qReport frame fun s => s.toRole qReport frame fun s => (s.takeReport frame.h, false))

/-- READ_REQ (R355). -/
def execReadReq (frame : QFrame) (s : State) : Host.Outcome State Fault Refusal :=
  .next (s.receive qReadReq frame fun s => s.toRole qReadReq frame fun s => (s.answerRead frame.h, false))

/-- READ_RESP (R355). -/
def execReadResp (frame : QFrame) (s : State) : Host.Outcome State Fault Refusal :=
  .next (s.receive qReadResp frame fun s => s.toRole qReadResp frame fun s => (s.takeResp frame, false))

end Sys2Proof.Machine
end

