-- ==== Sys2Proof/Machine/Steps.lean ====
section
/-! DEFINITION. The boundary of a step and the commands that run a job (R173, R174, R202, R286, R303, R304, R320 to R324,
R359, R366, R373, R375, R426 to R429). -/
namespace Sys2Proof.Machine

/-! ## Gauges (R316, R320) -/

/-- A committed gauge record of 64 bytes, from the record before it. -/
def gaugeRecord (old : List Byte) (a : GaugeAcc) (step : Nat) : List Byte :=
  le 8 a.written ++ le 8 a.zero ++ le 8 a.sat ++ le 8 a.nonfin ++ le 8 a.loss ++ le 2 (ofSigned 16 a.emin)
    ++ le 2 (ofSigned 16 a.emax) ++ le 4 step ++ le 8 (fld old 0x30 8 + a.sat) ++ le 8 (fld old 0x38 8 + a.nonfin)

/-- Every gauge of the folio committed, two to a line (R320). -/
def State.commitGauges (s : State) (f : Folio) : State :=
  let rec' := fun (s : State) (g : Nat) =>
    if g < f.gaugeCount then gaugeRecord (s.peek (gaugeBase + 64 * g) 64) (gaugeIn s.job.gauges g) s.step else zeros 64
  (List.range ((f.gaugeCount + 1) / 2)).foldl (fun s j =>
    let s := s.touch (gaugeBase + 128 * j) 128 true
    s.lineWrite (gaugeBase + 128 * j) (rec' s (2 * j) ++ rec' s (2 * j + 1)) false) s

/-! ## Layers (R286, R323) -/

/-- The live record of a layer (Table 8.4). -/
def State.liveLayer (s : State) (l : Nat) : List Byte := s.peek (layerBase + 16 * l) 16

/-- The live record of a layer read through the Sideboard (R249). -/
def State.readLayer (s : State) (l : Nat) (faults : Bool) : State := s.touch (layerBase + 16 * l) 16 faults

/-- A live record written. -/
def State.setLayer (s : State) (l : Nat) (r : List Byte) : State := (s.writeRange (layerBase + 16 * l) r).1

/-- R286 for a layer that was updated. -/
def State.updateLayer (s : State) (a : LayerAcc) : State :=
  let s := s.readLayer a.layer true
  let r := s.liveLayer a.layer
  if a.updated then
    s.setLayer a.layer (r.take 1 ++ r.take 1 ++ slice r 2 2 ++ le 4 (fld r 4 4 + 1) ++ le 4 a.pnow ++ le 4 s.step)
  else s

/-- DRY_ALARM for a layer (R324). -/
def State.dryAlarm (s : State) (l sv : Nat) : State :=
  let s := if s.on GAU_STATUS_DRY_ALARM then s
    else (s.put GAU_ALARM_LAYER_LAYER l).put GAU_ALARM_STEP_STEP s.step
  ((s.put GAU_STATUS_DRY_ALARM 1).count 0x92).raise 5 (le 2 l ++ le 1 sv ++ zeros 1)

/-- DRY for a layer (R324). -/
def State.dryEvent (s : State) (l sv : Nat) : State :=
  ((s.put GAU_STATUS_DRY_EVENT 1).count 0x91).raise 4 (le 2 l ++ le 1 sv ++ zeros 1)

/-- dry_at_boundary (R323) on a layer record and its counts. -/
def State.dryLayer (s : State) (rec' : List Byte) (a : LayerAcc) : State :=
  let t := let v := fld rec' 5 1; if v = 0 then 128 else v
  let lim := let v := fld rec' 6 2; if v = 0 then 64 else v
  let rescale := bit (fld rec' 0 2) 3
  let event := bit (fld rec' 0 2) 4
  let s := s.readLayer a.layer true
  let r := s.liveLayer a.layer
  let sv := fld r 0 1
  let ceil := fld rec' 4 1
  let put := fun (s : State) (sv dry : Nat) => s.setLayer a.layer (le 1 sv ++ slice r 1 1 ++ le 2 dry ++ slice r 4 12)
  if a.e = 0 then s
  else if 256 * a.z < t * a.e then put s sv 0
  else
    let dry := min (fld r 2 2 + 1) 0xFFFF
    let s := s.count 0x90
    if dry < lim || (!rescale && !event) then put s sv dry
    else if rescale && sv == ceil then put (s.dryAlarm a.layer sv) sv 0
    else
      let up := ofSigned 8 (min (toSigned 8 sv + 4) (toSigned 8 ceil))
      let sv' := if rescale then up else sv
      let s := if rescale then s.count 0x93 else s
      put (if event then s.dryEvent a.layer sv' else s) sv' 0

/-- Step 2 of R173: gauges, the snapshot of R331, layer records, the dry counter. -/
def State.commitStep (s : State) (f : Folio) : State :=
  let s := s.commitGauges f
  let s := if s.on CNT_CTRL_STEP_SNAP then s.snapshot else s
  let ls := s.job.layers.mergeSort fun a b => decide (a.layer ≤ b.layer)
  let s := ls.foldl State.updateLayer s
  ls.foldl (fun s a => s.dryLayer (f.layer a.layer) a) s

/-! ## Routes (R359) -/

/-- An armed switch of route banks takes effect as a step begins. -/
def State.switchBank (s : State) (step : Nat) : State :=
  if s.on QFB_ROUTE_STATUS_ARMED && decide (s.get QFB_ROUTE_ARM_ARM_STEP ≤ step) then
    let s := s.put QFB_ROUTE_FROM_FROM_STEP (s.get QFB_ROUTE_ARM_ARM_STEP)
    let s := (s.put QFB_ROUTE_STATUS_ACTIVE_BANK (1 - s.get QFB_ROUTE_STATUS_ACTIVE_BANK)).put QFB_ROUTE_STATUS_ARMED 0
    ((s.put QFB_ROUTE_ARM_ARM_STEP 0xFFFFFFFF).count 0xB5).discardFar
  else s

/-! ## Beginning a step -/

/-- A step begins: follow of the own shard where the level asks for it (R382), MARK STEP_BEGIN, with MARK LATCH again where the step
has latched before it was void (R305, R389), the held frames of the step (R353), the copy. -/
def State.beginStep (s : State) : State :=
  let s := s.freshStep.count 0xF6
  let wants := decide (1 ≤ s.get RSK_STATUS_LEVEL) || s.svl.sealFollow.isSome
  let off := s.get SVL_STATUS_OWN_FOLLOW == 0 || s.get SVL_STATUS_OWN_FOLLOW == 3
  let s := if wants && off then s.startFollow else s
  let s := s.markBegin
  let s := if s.latched then s.markLatch s.stepSize (s.on NIB0_STEP_QUEUE_STALE_NOW) else s
  s.releaseHeld.rideMore

/-! ## The boundary (R173) -/

/-- Have all lists completed and all messages been acknowledged, with nothing left to add? -/
def State.stepOver (s : State) : Bool :=
  s.run.stepOn && s.power.gasp.isNone && s.sbd.waiting.isEmpty && s.job.replays.isEmpty
    && s.job.engines.all (fun e => e.phase == .idle && s.listDone e.code) && s.quill.sent.all fun m => m.left == 0

/-- Lateness of each micro-batch (R202): signed 32 bits, saturating. No check refuses a record whose ENGINE and INDEX name no
descriptor, and the spec gives it no value: it reads 0 (DESIGN CHOICE, log 103). -/
def State.lateness (s : State) (f : Folio) : List Int :=
  (f.entries 0x0D 0 16).map fun e =>
    match s.run.ends.find? fun x => x.1 == fld e 0 1 && x.2.1 == fld e 4 4 with
    | some x => max (-(2 ^ 31 : Int)) (min (2 ^ 31 - 1) ((x.2.2 : Int) - (fld e 8 4 : Nat)))
    | none => 0

/-- The report of the completed step (R419, R428). -/
def State.stepReport (s : State) (f : Folio) (digest : List Byte) : Report :=
  let stale := s.latched && s.on NIB0_STEP_QUEUE_STALE_NOW
  { step := s.step, status := s.run.firstStatus, flags := s.run.sflags ||| b2n stale, size := s.stepSize,
    duration := s.time - s.run.stepStart, next := s.get2 INT_NEXT_LO_NEXT INT_NEXT_HI_NEXT, digest := digest,
    late := s.lateness f }

/-- The run ends at a boundary: LOADED, or SAFE where a stack was exhausted meanwhile (R240, R426, R427). -/
def State.endRun (s : State) : State :=
  let safe := s.run.safeAtEnd
  let s := s.mapRun fun r => { r with stepOn := false, stopAtEnd := false, safeAtEnd := none, stepsLeft := none }
  let s := s.setJobState jsLoaded
  match safe with
  | some c => s.enterSafe c
  | none => s

/-- The rest of the boundary of a step that completes with results (R173, R320, R373, R375, R389). -/
def State.boundary (s : State) (f : Folio) : State :=
  let t := s.step
  let s := ((s.switchBank (t + 1)).assembleBlock ((t + 1) % 2 ^ 32)).settle
  let (s, d) := s.ownDigest
  let s := (s.setDigestRegs 0x4C0020 d).markEnd d
  let r := s.stepReport f d
  let s := s.mapRun fun x => { x with reports := (r :: x.reports).take 16, unreported := x.unreported ++ [t], firstStatus := 0 }
  let s := s.retryFailed.mapSvl fun v => { v with done := (t, d) :: v.done }
  let late := (r.late.filter fun x => decide (0 < x)).length
  let s := (s.count 0xE0).countAt 0xE3 {} late
  let s := s.mapJob fun j => { j with engines := freshEngines, replays := [], found := [], bound := [], gauges := [], layers := [], scanHits := [] }
  (s.put GLB_STEP_STEP ((t + 1) % 2 ^ 32)).mapRun fun x => { x with stepsLeft := x.stepsLeft.map (· - 1) }

/-- After the boundary: the run ends, or the next step begins. SHARD_TOUCHED is cleared either way (R370). -/
def State.goOn (s : State) : State :=
  let stop := s.run.stopAtEnd || s.run.safeAtEnd.isSome || s.run.stepsLeft == some 0
  (if stop then s.endRun.put SVL_STATUS_SHARD_TOUCHED 0 else s.beginStep).reportSteps

/-- The open lines sealed and, where no fault has been found, the records of the step committed (R173). -/
def State.commitEnd (s : State) (f : Folio) : State :=
  let s := s.sealAll
  if s.run.fault.isSome then s else (s.mapJob fun j => { j with sems := [], narrow := [] }).commitStep f

/-- STEP_END: the open lines seal and the records are committed; with a fault found in the step, by a seal or in reading a record,
it ends void, otherwise it completes (R173, R251, R276, R366, R428). -/
def execStepEnd (s : State) : Host.Outcome State Fault Refusal :=
  .next (match s.folio with
    | some f =>
      if !s.stepOver then s
      else
        let s := s.commitEnd f
        match s.run.fault with
        | some (st, unit, addr) => s.voidNow false st unit addr
        | none => (s.boundary f).goOn
    | none => s)

/-- STEP_TIMEOUT: STEP_LIMIT_MS after the step began (R174). -/
def execStepTimeout (s : State) : Host.Outcome State Fault Refusal :=
  .next (match s.folio with
    | some f =>
      if s.run.stepOn && decide (s.run.stepStart + f.stepLimitMs * 1000000 ≤ s.time) then (s.count 0xE2).voidNow false 0x0205 0 0
      else s
    | none => s)

/-! ## START (R376, R426) -/

/-- ENABLE fields that START needs (R447). -/
def startEnables : List Fld :=
  [DSK_CTRL_ENABLE 0, DSK_CTRL_ENABLE 1, INK_CTRL_ENABLE, DMA_CTRL_ENABLE, SBD_CTRL_ENABLE, QFB_CTRL_ENABLE,
   INT_CTRL_ENABLE, SVL_CTRL_ENABLE] ++ (List.range 16).flatMap fun c => [CAB_CTRL_ENABLE c, NIB_CTRL_ENABLE c]

/-- The PAIR frame received from a role. -/
def State.pairFrom (s : State) (r : Nat) : Option (List Byte) := (s.svl.pairs.find? fun p => p.1 == r).map Prod.snd

/-- Does START await the PAIR exchange? -/
def State.startPending (s : State) : Bool := s.jobState == jsRunning && !s.run.stepOn

/-- START ends without a step: LOADED, with a status (R376). -/
def State.startFails (s : State) (st : Nat) : State :=
  let safe := s.run.safeAtEnd
  let s := ((s.setJobState jsLoaded).finishOp 0x0302 st []).mapRun fun r => { r with stopAtEnd := false, safeAtEnd := none }
  match safe with
  | some c => s.enterSafe c
  | none => s

/-- Roles whose PAIR a START awaits: the ward's only where its frames are taken (Table 11.12). -/
def State.awaited (s : State) (f : Folio) : List Nat :=
  (pairRoles f).filter fun r => s.on SVL_CTRL_WARD_EN || s.wardRole != some r

/-- The PAIR exchange of a START looked at: a mismatch ends it, a whole exchange runs the first step (R376, R426); a module
whose tag failed, or without identity before a partner, matches no directory (R486). -/
def State.tryStart (s : State) : State :=
  match s.folio with
  | some f =>
    if !s.startPending then s
    else
      let bad := s.tagFailed || (!(s.awaited f).isEmpty && s.liveId.isNone) || (s.awaited f).any fun r => match s.pairFrom r with | some p => s.pairMismatch f r p | none => false
      let drop := fun (s : State) => s.mapSvl fun v => { v with pairs := [] }
      if bad then (drop s).startFails stPartnerMismatch
      else if (s.awaited f).all fun r => (s.pairFrom r).isSome then
        (((drop s).finishOp 0x0302 stSuccess []).switchBank s.step).beginStep
      else s
  | none => s

/-- What START sets before the PAIR exchange: the step, the state block's STEP, the confirmed step, the intake and the seed from
the state block, an empty ring, the job state RUNNING and the PAIR frames (R376, R426). -/
def State.started (s : State) (f : Folio) (firstStep steps : Nat) : State :=
  let s := ((s.writeRange stateBlock (le 4 firstStep)).1.touch (stateBlock + 8) 16 false).settle
  let s := ((s.put GLB_STEP_STEP firstStep).put SVL_CONFIRMED_STEP ((firstStep + 2 ^ 32 - 1) % 2 ^ 32)).resetSteps firstStep
  let s := s.mapSvl fun v => { v with done := v.done.filter fun p => decide (p.1 < firstStep) }
  let s := (s.put2 INT_NEXT_LO_NEXT INT_NEXT_HI_NEXT (leNat (s.peek (stateBlock + 0x10) 8))).emptyRing.put INT_LOG_HEAD_ENTRIES 0
  let s := s.mapRun fun r =>
    { r with seed := leNat (s.peek (stateBlock + 8) 8), stepsLeft := if steps = 0 then none else some steps,
             stopAtEnd := false, safeAtEnd := none, halted := none, stepOn := false }
  (s.setJobState jsRunning).openSwitched.sendPairs f

/-- START. -/
def State.startAct (s : State) (firstStep steps : Nat) : Act :=
  match s.folio with
  | none => .no s stState
  | some f =>
    if startEnables.any fun x => !s.on x then .did s stState [] else .begun (s.started f firstStep steps) none 0

/-- START (R426). -/
def execStart (h : Hdr) (firstStep steps : Nat) (s : State) : Host.Outcome State Fault Refusal :=
  .next ((s.command h ⟨0x0302, true, false, true, some 2, .loaded, true⟩ true (.start h firstStep steps) fun s =>
    s.startAct firstStep steps).tryStart)

/-! ## STOP, step size, seed (R303, R304, R427, R429) -/

/-- STOP. -/
def State.stopAct (s : State) (mode : Nat) : Act :=
  let at' := fun (s : State) (n : Nat) => Act.reply s stSuccess (le 4 n)
  if s.jobState = jsLoaded then at' s s.step
  else if !s.run.stepOn then at' (s.startFails 0x0209) s.step
  else if mode = 0 then at' (s.mapRun fun r => { r with stopAtEnd := true }) ((s.step + 1) % 2 ^ 32)
  else at' (s.voidNow true 0x0209 0 0) s.step

/-- STOP (R427). -/
def execStop (h : Hdr) (mode : Nat) (s : State) : Host.Outcome State Fault Refusal :=
  .next (s.command h ⟨0x0303, true, false, false, some 2, .active, true⟩ (decide (mode ≤ 1)) (.stop h mode) fun s => s.stopAct mode)

/-- A step size accepted: a value that the Nibs hold for comes into effect at once (R304). -/
def State.takeSize (s : State) (tagStep value : Nat) : State :=
  let s := (s.mapRun fun r =>
    { r with pendingSteps := r.pendingSteps.filter (fun p => p.1 != tagStep) ++ [(tagStep, value)] }).notePending
  if s.run.stepOn && s.run.holdSince.isSome && tagStep == s.step then s.latch value false else s

/-- SET_STEP_SIZE (R303). -/
def execSetStepSize (h : Hdr) (tagStep value : Nat) (s : State) : Host.Outcome State Fault Refusal :=
  .next (s.command h ⟨0x0304, true, false, false, some 2, .active, true⟩ true (.setStepSize h tagStep value) fun s =>
    let last := s.get NIB0_STEP_INDEX_STEP
    if tagStep < s.step ∨ (tagStep = last ∧ last ≠ 0xFFFFFFFF) then .no (s.count 0x8B) stTagLate
    else if !(s.run.pendingSteps.any fun p => p.1 == tagStep) && decide (8 ≤ s.run.pendingSteps.length) then .no s stBusy
    else .ok (s.takeSize tagStep value))

/-- STEP_SIZE_STALE: the Nibs have held for WAIT_US and the previous value stays (R304). -/
def execStepSizeStale (s : State) : Host.Outcome State Fault Refusal :=
  .next (match s.run.holdSince with
    | some t =>
      if s.run.stepOn && decide (t + 1000 * s.get NIB0_STEP_CTRL_WAIT_US ≤ s.time) then s.latch s.stepSize true else s
    | none => s)

/-- SET_SEED (R429). -/
def execSetSeed (h : Hdr) (seed : Nat) (s : State) : Host.Outcome State Fault Refusal :=
  .next (s.command h ⟨0x0305, true, false, false, some 2, .loaded, true⟩ true (.setSeed h seed) fun s =>
    .ok ((s.writeRange (stateBlock + 8) (le 8 seed)).1.settle))

/-! ## ROUTE_WRITE and ROUTE_ARM (R359, R419) -/

/-- Has the module completed step FROM_STEP, so that the bank out of force is free? -/
def State.bankFree (s : State) (bank : Nat) : Bool :=
  bank != s.get QFB_ROUTE_STATUS_ACTIVE_BANK && decide (s.get QFB_ROUTE_FROM_FROM_STEP < s.step)

/-- ROUTE_WRITE (R359). -/
def execRouteWrite (h : Hdr) (bank offset : Nat) (data : List Byte) (s : State) : Host.Outcome State Fault Refusal :=
  .next (s.command h ⟨0x0400, true, false, false, some 3, .active, true⟩
    (decide (bank ≤ 1 ∧ data.length ≤ restCap h 4056 ∧ offset + data.length ≤ 51200))
    (.routeWrite h bank offset data) fun s =>
      if !s.bankFree bank then .no s stBusy
      else .ok (s.mapQuill fun q =>
        if bank = 0 then { q with bank0 := patch q.bank0 offset data } else { q with bank1 := patch q.bank1 offset data }))

/-- ROUTE_ARM: the guarded pair of QFB_ROUTE_ARM (R359, R419). -/
def execRouteArm (h : Hdr) (armStep : Nat) (s : State) : Host.Outcome State Fault Refusal :=
  .next (s.command h ⟨0x0401, true, false, false, some 3, .active, true⟩ true (.routeArm h armStep) fun s =>
    if !s.armOk armStep then .no s stParam else .status (s.writePair h.src.isSide 0x480014 (BitVec.ofNat 32 armStep)))

end Sys2Proof.Machine
end

