-- ==== Sys2Proof/Machine/Mm.lean ====
section
/-! DEFINITION. The MM stroke: exact block sums, window sums, stations, split-three F32, the drain, standing weights,
rotation and array faults (R28 to R33, R45 to R57, R84 to R94, R108 to R111, R117 to R126, R142 to R144, R149 to R153). -/
namespace Sys2Proof.Machine

/-! ## One product (R85 to R93) -/

/-- The block sum of some products: exact, or by the window; marked where any input is (R130). -/
def blockSum (exact : Bool) (ps : List Val) : Val :=
  ⟨ps.any (·.mark), if exact then exactSum (ps.map (·.x)) else windowSum (ps.map (·.x))⟩

/-- The cell product of two elements under their scales; in passes 1 and 2 of split-three a product with a non-finite
factor is +0 (R93). Scales enter the product: a power of two that a whole block shares leaves exact sums, windows and
the station's sum the same as R88's 2^(sa + sb). -/
def cellProduct (guard : Bool) (a b : Val) : Val :=
  ⟨a.mark || b.mark, if guard && !(a.x.isFin && b.x.isFin) then .zero else a.x.mul b.x⟩

/-- One pass over the contraction: a station every `gs` elements, ascending (R29, R88). -/
def dotPass (gs : Nat) (exact guard : Bool) (acc : Val) (a b : List Val) : Val :=
  (chunks gs a.length (List.zipWith (cellProduct guard) a b)).foldl (fun acc ps =>
    let v := blockSum exact ps
    ⟨acc.mark || v.mark, station acc.x v.x 0 0⟩) acc

/-- hi and lo of every element (R92). -/
def hiAll (vs : List Val) : List Val := vs.map fun v => { v with x := splitHi v.x }
def loAll (vs : List Val) : List Val := vs.map fun v => { v with x := splitLo v.x }

/-- A whole product: three passes in F32, one otherwise (R93). -/
def dotProduct (f32 exact : Bool) (gs : Nat) (acc : Val) (a b : List Val) : Val :=
  if f32 then
    let s := dotPass 16 false true acc (loAll a) (hiAll b)
    let s := dotPass 16 false true s (hiAll a) (loAll b)
    dotPass 16 false false s (hiAll a) (hiAll b)
  else dotPass gs exact false acc a b

/-- The running sum as it stands before the last contraction pass: `n` elements of the last sweep are in it (R93, R121). -/
def dotParked (f32 exact : Bool) (gs : Nat) (acc : Val) (a b : List Val) (n : Nat) : Val :=
  if f32 then
    let s := dotPass 16 false true acc (loAll a) (hiAll b)
    let s := dotPass 16 false true s (hiAll a) (loAll b)
    dotPass 16 false false s (hiAll (a.take n)) (hiAll (b.take n))
  else dotPass gs exact false acc (a.take n) (b.take n)

/-! ## Geometry (Tables 1.9, 3.5 and 4.1, R119 to R121) -/

/-- Streamed rows, output columns and contraction of a stroke as it runs. -/
def Stroke.rowsP (k : Stroke) : Nat := if k.d.dir = 2 then k.x.k else k.x.m
def Stroke.colsQ (k : Stroke) : Nat := if k.d.dir = 1 then k.x.k else k.x.n
def Stroke.depth (k : Stroke) : Nat := if k.d.dir = 0 then k.x.k else if k.d.dir = 1 then k.x.n else k.x.m

/-- Row of index `i` of group `g`: G is outermost where it is above 1 (R108). -/
def Stroke.rowOf (k : Stroke) (t : Tensor) (g i : Nat) : Nat := if k.d.groups ≤ 1 then i else g * t.d1 + i

/-- Physical column of the Plank at logical column `c` of a Plank row whose field of Table 1.16 is `out` (R16): a field of
8 or 15 maps out no column in use. -/
def physicalCol (out c : Nat) : Nat := if c < out then c else c + 1

/-- The logical column that a physical Plank serves; none for a Plank that is mapped out, or a spare not in use. -/
def logicalCol (out p : Nat) : Option Nat := (List.range 8).find? fun c => physicalCol out c == p

/-- The field of DSKn_PLANK_MAP_Lk for a Plank row (Table 1.16). -/
def State.rowOut (s : State) (desk leaf row : Nat) : Nat :=
  bits (s.reg (0x80000 + 0x10000 * desk + 0x10 + 4 * leaf)) (4 * row + 3) (4 * row)

/-- The shape that a stroke takes: BWD_DATA has no SPLIT placement (R32). -/
def Stroke.shapeRun (k : Stroke) : Nat := if k.d.dir = 1 ∧ (k.d.shape = 1 ∨ k.d.shape = 2) then 0 else k.d.shape

/-- Problems per Leaf (Table 1.9): group `g` is problem `g % problems` of group set `g / problems` (R120). -/
def Stroke.problems (k : Stroke) : Nat := if k.shapeRun = 1 then 2 else if k.shapeRun = 2 then 4 else 1

/-- Leaves of one chain of a CASCADE shape; in reversed reading no sums pass between Leaves (R32, Table 1.11). -/
def Stroke.chain (k : Stroke) : Nat := if k.d.dir = 1 then 1 else if k.shapeRun = 5 then 4 else if k.shapeRun = 4 then 2 else 1

/-- Columns that logical position `q` produces (R119); with weights standing, the whole output for a chain of quarters, a K
slice for each Leaf of a CASCADE chain (R123). In reversed reading each Leaf of a CASCADE chain takes its own slice of the
chain's columns (R32); DESIGN CHOICE (log 110): equal slices in the unit of R119. -/
def Stroke.cols (k : Stroke) (w : Option Standing) (q : Nat) : Nat × Nat :=
  let t := k.need 0x0C
  let n := k.colsQ
  let b := max 16 t.bsize
  let part := fun (i w : Nat) => (i * w, min ((i + 1) * w) n)
  let own := fun (x : Nat × Nat) (i m : Nat) =>
    let w := b * ceilDiv (x.2 - x.1) (m * b)
    (min (x.1 + i * w) x.2, min (x.1 + (i + 1) * w) x.2)
  match w with
  | some w => if w.shape = 4 then part (q % 2) 512 else if w.shape = 5 then part q 512 else (0, n)
  | none =>
    if k.shapeRun = 5 then (if k.chain = 1 then own (0, n) q 4 else (0, n))
    else if k.shapeRun = 4 then
      let x := part (q / 2) (b * ceilDiv n (2 * b))
      if k.chain = 1 then own x (q % 2) 2 else x
    else part q (quarterWidth t n)

/-- Contraction passes of the walk (R121); standing weights are read in one. -/
def Stroke.passes (k : Stroke) (w : Option Standing) : Nat := if w.isSome then 1 else ceilDiv k.depth (passWidth k.d)

/-- Columns of one tile of the walk. -/
def Stroke.tileWidth (k : Stroke) (w : Option Standing) : Nat :=
  if w.isSome then max 1 k.colsQ else if k.shapeRun = 3 then 256 else 512

/-- Rows of one chunk, per problem (R121). -/
def Stroke.chunk (k : Stroke) : Nat := 2048 / k.problems

/-- Has logical position `q` a slice of the contraction in pass `kt`? In a chain each Leaf holds 512 contraction rows. -/
def Stroke.hasSlice (k : Stroke) (w : Option Standing) (q kt : Nat) : Bool :=
  w.isSome || decide (kt * passWidth k.d + q % k.chain * 512 < k.depth)

/-- The streamed rows of this Desk, ascending, slice by slice (R117, R128). -/
def Stroke.slices (k : Stroke) : List (List Nat) := deskSlices k.d k.rowsP (if k.d.dir = 2 then k.d.kPlan else k.d.mPlan)
def Stroke.streamed (k : Stroke) : List Nat := k.slices.flatMap id

/-- The chunks of the walk: every slice begins a chunk of its own (R121, R128). -/
def Stroke.chunked (k : Stroke) : List (List Nat) := k.slices.flatMap fun rows => chunks k.chunk rows.length rows

/-- Number of the chunk that holds the row of index `i`, and its place in it. -/
def chunkAt : List (List Nat) → Nat → Nat × Nat
  | [], i => (0, i)
  | c :: cs, i => if i < c.length then (0, i) else let (n, r) := chunkAt cs (i - c.length); (n + 1, r)

/-- Chunk, and row in the chunk, of the Desk's row of index `i`. -/
def Stroke.placeOf (k : Stroke) (i : Nat) : Nat × Nat := chunkAt k.chunked i

/-- Is one place of the walk at or before another: group set, chunk, tile, pass, row (R121)? -/
def walkLe : List Nat → List Nat → Bool
  | a :: as, b :: bs => decide (a < b) || (a == b && walkLe as bs)
  | _, _ => true

/-- Does a fault reach the output element at group `g`, the streamed row at index `i` of the Desk's rows, column `col`
(R55)? Its Leaf, or chain, produces the element; the fault lies in the element's problem or in parts that the Leaf's problems
share; and the element's line is written at or after the fault. -/
def Stroke.strikes (k : Stroke) (w : Option Standing) (x : ArrayFault) (rho g i col : Nat) : Bool :=
  let (lo, hi) := k.cols w ((x.leaf + 4 - rho) % 4)
  let p := k.problems
  let line := k.streamed.idxOf x.line
  decide (lo ≤ col ∧ col < hi) && (x.shared || g == p * x.set + x.row / (8 / p))
    && walkLe [x.set, (k.placeOf line).1, x.tile, x.pass, line]
      [g / p, (k.placeOf i).1, (col - lo) / k.tileWidth w, k.passes w - 1, i]

/-! ## Rotation (R45 to R48) -/

/-- ρ before a stroke that loads its own weights. -/
def State.rotate (s : State) (desk : Nat) : State :=
  let old := s.get (DSK_ROT_STATUS_OFFSET desk)
  let tj := (List.range 4).map fun l => toSigned 16 (s.get (DSK_LEAF_RATE_TJ desk l))
  let spread := tj.foldl max (tj.getD 0 0) - tj.foldl min (tj.getD 0 0)
  let new := match s.get (DSK_ROT_CTRL_MODE desk) with
    | 0 => 0
    | 1 => if (s.get (DSK_ROT_CTRL_SPREAD_THRESH desk) : Int) < spread then (old + 1) % 4 else old
    | 2 => s.get (DSK_ROT_CTRL_FIXED_OFFSET desk)
    | _ => (old + 1) % 4
  if new = old then s
  else ((s.put (DSK_ROT_STATUS_OFFSET desk) new).bump (DSK_ROT_STATUS_ROT_COUNT desk) 1).countAt 0x0D { desk := some desk } 1

/-! ## Standing weights (R123, R144) -/

/-- Does a FWD stroke leave one tile of W on each Leaf? -/
def Stroke.oneTile (k : Stroke) (t : Tensor) : Bool :=
  let n := k.x.n
  let b := max 16 t.bsize
  let w := quarterWidth t n
  k.d.groups == 1 && match k.d.shape with
    | 0 => decide (k.x.k ≤ 512 ∧ w ≤ 512 ∧ 3 * w < n)
    | 3 => decide (k.x.k ≤ 512 ∧ w ≤ 256 ∧ 3 * w < n)
    | 4 => decide (512 < k.x.k ∧ k.x.k ≤ 1024 ∧ b * ceilDiv n (2 * b) ≤ 512 ∧ b * ceilDiv n (2 * b) < n)
    | 5 => decide (1536 < k.x.k ∧ k.x.k ≤ 2048 ∧ n ≤ 512)
    | _ => false

/-- The weights that a BWD_DATA stroke finds standing (R144). -/
def State.reuses (s : State) (k : Stroke) : Option Standing :=
  (s.standing k.desk).filter fun w => k.d.dir == 1 && w.tid == k.d.tidB && w.kPlan == k.d.kPlan && w.nPlan == k.d.nPlan
    && w.k == k.x.k && w.n == k.x.n

/-- What stands on the Desk once a stroke has run; `rows` is W as it was read. -/
def Stroke.leaves (k : Stroke) (t : Tensor) (rows : List (List (Bool × Nat × Nat))) : Option Standing :=
  if k.d.dir = 0 ∧ k.oneTile t ∧ rows ≠ [] then
    some { tid := k.d.tidB, kPlan := k.d.kPlan, nPlan := k.d.nPlan, k := k.x.k, n := k.x.n, shape := k.d.shape, rows := rows }
  else none

/-! ## The drain (R109, R126, R152) -/

/-- What one output row needs beside its operands: initial sums, bias, saved elements. -/
structure RowArg where
  init : List Val
  bias : List Val
  saved : List Val

/-- Steps 1 to 3 of R109 on one sum; `e` is the power of two of step 2. -/
def Stroke.drain (k : Stroke) (e : Int) (s : Val) (bias saved : Option Val) : BVal :=
  let s := match bias with | some b => opA40 XV.add s b | none => s
  let s := { s with x := roundA40 (s.x.scale e) }
  match saved with
  | some a => fuseDeriv k.d.k35 k.img s a
  | none => fuse k.d.k30 k.img s

/-- One output row. -/
def Stroke.mmRow (k : Stroke) (t : Tensor) (e : Int) (a : List Val) (cols : List (List Val)) (r : RowArg) : List BVal :=
  let exact := k.d.dir != 1 && t.blk != 0
  cols.zipIdx.map fun c =>
    let acc := (r.init[c.2]?).getD ⟨false, .zero⟩
    k.drain e (dotProduct (t.fmt == fF32) exact (if t.blk = 0 then 16 else t.bsize) acc a c.1) r.bias[c.2]? r.saved[c.2]?

/-- The sums of one output row that the pass before the last one parks, as A40 codes (R121). -/
def Stroke.parkedRow (k : Stroke) (t : Tensor) (a : List Val) (cols : List (List Val)) (init : List Val) : List Nat :=
  let exact := k.d.dir != 1 && t.blk != 0
  let n := (k.passes none - 1) * passWidth k.d
  if k.passes none ≤ 1 then []
  else cols.zipIdx.map fun c =>
    let acc := (init[c.2]?).getD ⟨false, .zero⟩
    (encodeXV fA40 .rne (dotParked (t.fmt == fF32) exact (if t.blk = 0 then 16 else t.bsize) acc a c.1 n).x).1

/-- Power of two of R109 step 2: the layer's update exponent, or OUT_EXP. -/
def State.drainExp (s : State) (d : Desc) : Int := if d.expLayer then toSigned 8 (fld (s.liveLayer d.layer) 0 1) else d.outExp

/-- The rows of the stationary operand of group `g` (Table 4.1): the weights that stand in the cells, or as memory holds
them. -/
def State.weightRows (s : State) (k : Stroke) (w : Option Standing) (g : Nat) : State × List (List (Bool × Nat × Nat)) :=
  match w with
  | some w => (s, w.rows)
  | none =>
    let b := k.need 0x0A
    let rows := (List.range (if k.d.dir = 1 then k.depth else k.colsQ)).map fun i => k.rowOf b g i
    let n := if k.d.dir = 1 then k.colsQ else k.depth
    let (s, buf) := s.strokeRows k b rows n
    (s, rows.map fun r => (List.range n).map fun i => buf.raw r i)

/-- Columns of the stationary operand, each as a list over the contraction. -/
def Stroke.weightCols (k : Stroke) (rows : List (List (Bool × Nat × Nat))) : List (List Val) :=
  let b := k.need 0x0A
  let vals := rows.map fun r => r.map fun x => (⟨x.1, readElem b.fmt b.blk x.2.1 x.2.2⟩ : Val)
  if k.d.dir = 1 then (List.range k.colsQ).map fun q => vals.map fun r => r.getD q ⟨false, .zero⟩ else vals

/-- `n` values of one row of a tensor that the stroke may name. -/
def State.rowIf (s : State) (k : Stroke) (use : Bool) (t : Option Tensor) (row : Tensor → Nat) (n : Nat) : State × List Val :=
  match t with
  | some t =>
    if use then let (s, b) := s.strokeRows k t [row t] n; (s, b.row (row t) n) else (s, [])
  | none => (s, [])

/-- One output row of the walk: group, streamed row and its index among the Desk's, the row as written, the clamps on its way,
and the sums parked. -/
structure WalkRow where
  g : Nat
  p : Nat
  i : Nat
  out : RowOut
  clamps : Nat
  parked : List Nat

/-- Output row `p` of group `g`. `hit` says which columns a fault poisons. -/
def State.mmOut (s : State) (k : Stroke) (e : Int) (cols : List (List Val)) (bias : List Val) (hit : Nat → Bool) (g p i : Nat) :
    State × WalkRow :=
  let c := k.need 0x0C
  let q := k.colsQ
  let row := k.rowOf c g p
  let (s, vs, parked) :=
    if k.depth = 0 then (s, List.replicate q ((⟨false, .zero⟩, 0) : BVal), [])
    else
      let (s, a) := s.rowIf k true (k.tensor 0x08) (fun t => k.rowOf t g p) k.depth
      let (s, init) := s.rowIf k k.d.accum (k.tensor 0x0C) (fun t => k.rowOf t g p) q
      let (s, saved) := s.rowIf k (k.d.dir == 1 && k.d.k35 != 0) (k.tensor 0x0E) (fun t => k.rowOf t g p) q
      (s, k.mmRow (k.need 0x08) e a cols ⟨init, bias, saved⟩, k.parkedRow (k.need 0x08) a cols init)
  let vals := vs.zipIdx.map fun v => if hit v.2 then { v.1.1 with mark := true } else v.1.1
  (s, { g := g, p := p, i := i, out := s.outRow k c row vals, clamps := (vs.map Prod.snd).sum, parked := parked })

/-- One group: its stationary operand, its bias row (Table 3.5), and its rows. A share without rows reads nothing. -/
def State.mmGroup (s : State) (k : Stroke) (w : Option Standing) (e : Int) (hit : Nat → Nat → Nat → Bool) (g : Nat) :
    State × List WalkRow × List (List (Bool × Nat × Nat)) :=
  if k.streamed.isEmpty then (s, [], [])
  else
    let (s, ws) := s.weightRows k w g
    let cols := k.weightCols ws
    let (s, bias) := s.rowIf k (k.d.dir == 0 && k.depth != 0) (k.tensor 0x0E) (fun _ => if k.d.groups ≤ 1 then 0 else g) k.colsQ
    let (s, rows) := k.streamed.zipIdx.foldl (fun (acc : State × List WalkRow) p =>
      let (s, o) := acc.1.mmOut k e cols bias (hit g p.2) g p.1 p.2
      (s, acc.2 ++ [o])) (s, [])
    (s, rows, ws)

/-- Row statistics written to TID_STATS (R111, R131): poisoned lines, non-finite values, saturations. -/
def State.putStats (s : State) (k : Stroke) (rows : List WalkRow) (bad : List Nat) : State × Nat × Nat × Nat :=
  match k.tensor 0x26 with
  | some t =>
    let c := k.need 0x0C
    let outs := rows.map fun r =>
      let v := rowStat k.d.k34 (quarterWidth c k.colsQ) (r.out.held c bad k.colsQ)
      encodeRow t (if k.d.groups ≤ 1 then 0 else r.g) r.p [(if v.mark then ⟨true, .nan⟩ else v, .rne)]
    s.putRows t outs 0 0
  | none => (s, 0, 0, 0)

/-- The registers of an array fault at a physical Plank (R54). -/
def State.noteArrayFault (s : State) (desk leaf row col : Nat) : State :=
  let s := if s.on (DSK_ARRAY_STATUS_ARRAY_FAULT desk) then s else
    ((s.put (DSK_ARRAY_STATUS_FAULT_LEAF desk) leaf).put (DSK_ARRAY_STATUS_FAULT_ROW desk) row).put
      (DSK_ARRAY_STATUS_FAULT_COL desk) col
  ((s.put (DSK_ARRAY_STATUS_ARRAY_FAULT desk) 1).bump (DSK_ARRAY_STATUS_PARITY_COUNT desk) 1).countAt 0x0E
    { desk := some desk, leaf := some leaf } 1

/-- Does values' movement pass a physical Plank of a Leaf: it exists, the map uses it, and no gated column holds it (R16, R50,
R55)? -/
def State.plankMoves (s : State) (desk leaf row col cols : Nat) : Bool :=
  decide (leaf < 4 ∧ row < 8) && (logicalCol (s.rowOut desk leaf row) col).any fun c => decide (c < cols)

/-- Does this stroke show a fault: the Plank is in use, and the walk gives its Leaf work at the place named (R54, R55)? -/
def State.showsFault (s : State) (k : Stroke) (w : Option Standing) (x : ArrayFault) : Bool :=
  let q := (x.leaf + 4 - s.get (DSK_ROT_STATUS_OFFSET k.desk)) % 4
  let (lo, hi) := k.cols w q
  let p := k.problems
  let shape := match w with | some w => w.shape | none => k.shapeRun
  s.plankMoves k.desk x.leaf x.row x.col (if shape = 3 then 4 else 8)
    && decide (lo + x.tile * k.tileWidth w < hi) && decide (x.pass < k.passes w) && k.hasSlice w q x.pass
    && k.streamed.contains x.line && decide ((if x.shared then p * x.set else p * x.set + x.row / (8 / p)) < max 1 k.d.groups)

/-- The Leaves of a Desk changed, each with its logical position (R45). -/
def State.deskLeaves (s : State) (desk : Nat) (f : Nat → Leaf → Leaf) : State :=
  let rho := s.get (DSK_ROT_STATUS_OFFSET desk)
  { s with leaves := s.leaves.zipIdx.map fun l => if l.2 / 4 = desk then f ((l.2 % 4 + 4 - rho) % 4) l.1 else l.1 }

/-- Does a stroke run in ELASTIC mode (R43)? -/
def State.runsElastic (s : State) (k : Stroke) : Bool := k.d.elastic || s.on (DSK_CTRL_ELASTIC_FORCE k.desk)

/-- The sequencer sets the Desk's Leaves for a stroke: formats, stations, problems, columns in use, mode, direction and chain
links (R28, R31, R43, R45, R50, R123, Table 1.9). -/
def State.setLeaves (s : State) (k : Stroke) (w : Option Standing) : State :=
  let a := k.need 0x08
  let b := k.need 0x0A
  let el := s.runsElastic k
  let shape := match w with | some w => w.shape | none => k.shapeRun
  let long := if w.isSome && (shape == 0 || shape == 3) then 4 else k.chain
  s.deskLeaves k.desk fun q (l : Leaf) =>
    { l with fmtA := a.fmt, fmtB := b.fmt, blk := a.blk, elastic := el, problems := k.problems,
             width := if shape = 3 then 256 else 512, reversed := k.d.dir == 1,
             chainIn := decide (q % long ≠ 0), chainOut := decide (q % long + 1 < long) }

/-- One cell of a weight tile: a marked element, and a cell beyond the tile, holds zero (R23). -/
def cellOf (rows : List (List (Bool × Nat × Nat))) (r c : Nat) : Nat × Nat :=
  match (rows[r]?).bind (·[c]?) with
  | some x => (if x.1 then 0 else x.2.1, x.2.2)
  | none => (0, 127)

/-- The tile of W that the walk loads last into the Leaf of logical position `q`, from the rows of the stationary operand of
every group: the last group set, column tile and pass (R121, R123). A row of cells is followed by its scale bytes. -/
def Stroke.lastTile (k : Stroke) (ws : List (List (List (Bool × Nat × Nat)))) (q : Nat) : List (List Nat) :=
  let (lo, hi) := k.cols none q
  let tw := k.tileWidth none
  let first := lo + (ceilDiv (hi - lo) tw - 1) * tw
  let wide := if k.shapeRun = 3 then 256 else 512
  let high := 512 / k.problems
  let set := (ceilDiv (max 1 k.d.groups) k.problems - 1) * k.problems
  let cell := fun (r c : Nat) =>
    let g := ws.getD (set + r / high) []
    if k.d.dir = 1 then
      if first + r < hi ∧ r < tw ∧ c < wide then cellOf g ((ceilDiv k.depth wide - 1) * wide + c) (first + r) else (0, 127)
    else if first + c < hi ∧ c < tw then
      cellOf g (first + c) ((k.passes none - 1) * passWidth k.d + q % k.chain * 512 + r % high)
    else (0, 127)
  (List.range 512).map fun r =>
    let cells := (List.range 512).map (cell r)
    cells.map Prod.fst ++ cells.map Prod.snd

/-- Once a stroke has walked, every Leaf with work holds the last tile loaded in its front planes, and its back planes are
free (R21, R121). -/
def State.loadPlanes (s : State) (k : Stroke) (ws : List (List (List (Bool × Nat × Nat)))) : State :=
  s.deskLeaves k.desk fun q (l : Leaf) =>
    let x := k.cols none q
    if x.1 < x.2 then { l with front := k.lastTile ws q, back := [], backFull := false } else l

/-- The partial area of a Leaf of a Desk (R122). -/
def Folio.partialArea (f : Folio) (desk leaf : Nat) : Option Nat :=
  ((f.entries 3 0 16).find? fun e => fld e 0 1 == desk && fld e 1 1 == leaf).map fun e => fld e 4 4

/-- The physical Leaf that parks or writes for logical position `q`: its own, or the end of its chain (R45, R121). -/
def Stroke.endLeaf (k : Stroke) (rho q : Nat) : Nat :=
  (q / k.chain * k.chain + k.chain - 1 + rho) % 4

/-- Logical positions that park and write, each chain once. -/
def Stroke.ends (k : Stroke) : List Nat := (List.range 4).filter fun q => q % k.chain == 0

/-- What one row leaves in the partial areas (R121, R122): 5-byte sums at the row and column that its chunk and tile give it. -/
def State.parkRow (s : State) (k : Stroke) (r : WalkRow) : State :=
  let rho := s.get (DSK_ROT_STATUS_OFFSET k.desk)
  k.ends.foldl (fun s q =>
    let (lo, hi) := k.cols none q
    match k.f.partialArea k.desk (k.endLeaf rho q) with
    | some area =>
      let row := r.g % k.problems * k.chunk + (k.placeOf r.i).2
      let cells := (List.range (hi - lo)).flatMap fun c =>
        cellsOf (area + (row * 512 + c % k.tileWidth none) * 5) (le 5 (r.parked.getD (lo + c) 0))
      -- a later tile parks over an earlier one
      (chunks (5 * k.tileWidth none) cells.length cells).foldl (fun s cs => s.storeCells (.ink k.desk) cs [] false) s
    | none => s) s

/-- Partial sums parked over a stroke of more than one contraction pass, and what the walk counts (R121, R124). -/
def State.walked (s : State) (k : Stroke) (w : Option Standing) (rows : List WalkRow) : State :=
  let rho := s.get (DSK_ROT_STATUS_OFFSET k.desk)
  let s := if k.passes w ≤ 1 then s else rows.foldl (fun s r => s.parkRow k r) s
  let sets := ceilDiv (max 1 k.d.groups) k.problems
  -- chunks with an odd number of rows (R124)
  let odd := if (k.need 0x08).fmt = fE2M1 ∧ k.problems ≠ 4 then (k.chunked.filter fun c => c.length % 2 == 1).length else 0
  k.ends.foldl (fun s q =>
    let (lo, hi) := k.cols w q
    let tiles := ceilDiv (hi - lo) (k.tileWidth w)
    let i : Inst := { desk := some k.desk, leaf := some (k.endLeaf rho q) }
    (s.countAt 0x1C i (sets * k.chunked.length * tiles * (k.passes w - 1))).countAt 0x1D i
      (max 1 k.d.groups * odd * tiles * k.passes w)) s

/-- The work of an MM stroke. -/
def State.mmWork (x : Option ArrayFault) (s : State) (k : Stroke) : State × Rec :=
  let c := k.need 0x0C
  let w := s.reuses k
  let loads := w.isNone && k.depth != 0 && !k.streamed.isEmpty
  let s := if w.isSome then s.countAt 0x0C { desk := some k.desk } 1 else if loads then s.rotate k.desk else s
  let s := s.setLeaves k w
  let shown := x.filter (s.showsFault k w)
  let s := match shown with | some x => s.noteArrayFault k.desk x.leaf x.row x.col | none => s
  let rho := s.get (DSK_ROT_STATUS_OFFSET k.desk)
  let hit := fun (g i col : Nat) => match shown with | some x => k.strikes w x rho g i col | none => false
  let s := if k.d.expLayer then s.readLayer k.d.layer true else s
  let e := s.drainExp k.d
  let groups := max 1 k.d.groups
  let (s, rows, ws) := (List.range groups).foldl (fun (acc : State × List WalkRow × List (List (List (Bool × Nat × Nat)))) g =>
    let (s, rs, ws) := acc.1.mmGroup k w e hit g
    (s, acc.2.1 ++ rs, acc.2.2 ++ [ws])) (s, [], [])
  let s := if loads then s.loadPlanes k ws else s
  let s := (s.walked k w rows).setStanding k.desk (k.leaves c (ws.headD []))
  let outs := rows.map (·.out)
  let (s, bad, nf, sat) := s.putRows c outs 0 (rows.map (·.clamps)).sum
  let (s, bad2, nf2, sat2) := if k.d.k34 = 0 then (s, 0, 0, 0) else s.putStats k rows (outs.flatMap fun o => o.bad c)
  let status := if shown.isSome then 0x0201 else 0
  let spared := (List.range groups).any fun g =>
    !rows.any fun r => r.g == g && (List.range k.colsQ).any fun q => hit g r.i q
  let part := if shown.isSome && spared then flPartial else 0
  (s, k.record status (wroteFlags (bad + bad2) (nf + nf2) (sat + sat2) ||| part) (bad + bad2) 0)

/-- Zero extents that leave an MM stroke nothing to do (R125, R126). -/
def mmEmpty (k : Stroke) : Bool := k.rowsP == 0 || k.colsQ == 0 || (k.depth == 0 && k.d.accum)

/-- MM. -/
def execMm (desk : Nat) (fault : Option ArrayFault) (s : State) : Host.Outcome State Fault Refusal :=
  .next (s.stroke desk 0x10 mmEmpty (State.mmWork fault))

end Sys2Proof.Machine
end

