-- ==== Sys2Proof/Machine/Arrays.lean ====
section
/-! DEFINITION. The arrays wave by wave: activity, ballast and parking, the Feeds, the planes, the sums that leave a Leaf,
the Desk broadcast, parity, the wave-rate windows, and the mutual-exclusion elements (R21 to R29, R37 to R44, R49, R51,
R54, R198, R199). -/
namespace Sys2Proof.Machine

/-! ## A Leaf -/

/-- Waves that one activation row occupies (Table 1.2); E2M1 takes a row pair in one. -/
def Leaf.rowWaves (l : Leaf) : Nat := if l.fmtA = fF32 then 6 else if l.fmtA = fBF16 then 2 else 1

/-- Rows of cells that one problem holds (R49). -/
def Leaf.problemRows (l : Leaf) : Nat := 512 / max 1 l.problems

/-- Extent of the contraction: cell rows of a problem, or columns in use in reversed reading (R31, R49, Table 1.11). A row
leaves one such fill depth after it entered. -/
def Leaf.depth (l : Leaf) : Nat := if l.reversed then l.width else l.problemRows

/-- Lanes in use (Table 1.9). -/
def Leaf.used (l : Leaf) : List Lane := l.lanes.take l.problems

/-- The marker or the row at the head of a lane's Feed. -/
def Lane.atMarker (n : Lane) : Bool := match n.feed with | x :: _ => x.marker | [] => false

/-- The first row of a new tile stands at the head of every lane: the old tile's last problem has finished (R21, R58). -/
def Leaf.tileWaits (l : Leaf) : Bool := l.used.all Lane.atMarker

/-- Are the new tile's rows withheld, because its back plane is not complete (R22)? -/
def Leaf.withheld (l : Leaf) : Bool := l.tileWaits && !l.backFull

/-- May a lane's head enter: a valid row, not of a tile that waits, with the sums that it needs from the chain (R29)? -/
def Lane.offers (n : Lane) (swaps sumsHere : Bool) : Bool :=
  match n.feed with
  | x :: _ => x.row.isSome && (swaps || !x.marker) && sumsHere
  | [] => false

/-- Is a valid row ready in the Feed (R39)? -/
def Leaf.ready (l : Leaf) (sumsHere : Bool) : Bool := l.used.any fun n => n.offers (l.tileWaits && l.backFull) sumsHere

/-- Are rows in flight? -/
def Leaf.flying (l : Leaf) : Bool := l.lanes.any fun n => !n.flight.isEmpty

/-- The Feed is dry: the Leaf performs waves and has no valid row ready (Table 1.8). -/
def Leaf.dry (l : Leaf) (sumsHere : Bool) : Bool := decide (0 < l.level) && !l.ready sumsHere

/-- A lane that carries bubbles while another problem of the tile still has rows (R49, R58). -/
def Leaf.laneIdle (l : Leaf) (i : Nat) : Bool :=
  let has := fun (n : Lane) => !n.feed.isEmpty && !n.atMarker
  decide (1 < l.problems) && !has (l.used.getD i ⟨[], 0, []⟩) && l.used.any has

/-- The level is on its way (R38). -/
def Leaf.ramping (l : Leaf) : Bool := decide (0 < l.level ∧ l.level < 8)

/-- Is an output slot free: in the Blotter, or in the chain link, of one row, or 16 in ELASTIC mode (Tables 1.8, 1.11)? -/
def Leaf.slot (l : Leaf) (blotterFree : Bool) : Bool :=
  if l.chainOut then decide (l.link.length < if l.elastic then 16 else 1) else blotterFree

/-- next_wave of R38: the Leaf with its activity state moved, and whether the wave is active. -/
def Leaf.nextWave (l : Leaf) (target : Nat) : Leaf × Bool :=
  let level := if l.stepCount = 0 then (if l.level < target then l.level + 1 else if target < l.level then l.level - 1 else l.level)
    else l.level
  let acc := l.acc + level
  ({ l with level := level, stepCount := (l.stepCount + 1) % 6, acc := if 8 ≤ acc then acc - 8 else acc }, decide (8 ≤ acc))

/-! ## Sums -/

/-- Elements of an activation row, with their scales (R24, R69). -/
def Leaf.acts (l : Leaf) (r : LaneRow) : List Val :=
  r.codes.zipIdx.map fun c => ⟨false, readElem l.fmtA l.blk c.1 (r.scales.getD (c.2 / blkSize l.blk) 127)⟩

/-- A weight of a plane, with its block's scale. -/
def Leaf.weight (l : Leaf) (plane : List (List Nat)) (k c : Nat) : Val :=
  let row := plane.getD k []
  ⟨false, readElem l.fmtB l.blk (row.getD c 0) (row.getD (512 + c) 127)⟩

/-- What a row of problem `p` becomes at the south edge, or at the east edge in reversed reading (R29, R31, R49): one sum for
each column in use, or for each cell row in reversed reading. Columns that NARROW gates take no part (R50). -/
def Leaf.sums (l : Leaf) (r : LaneRow) (entry : List Nat) (p : Nat) : List Nat :=
  let gs := if l.blk = 0 then 16 else blkSize l.blk
  let a := (l.acts r).take l.depth
  (List.range (if l.reversed then 512 else l.width)).map fun c =>
    let w := (List.range a.length).map fun i =>
      if l.reversed then l.weight l.front c i else l.weight l.front (p * l.problemRows + i) c
    let acc : Val := ⟨false, decode fA40 (entry.getD c 0)⟩
    (encodeXV fA40 .rne (dotProduct (l.fmtA == fF32) (!l.reversed && l.blk != 0) gs acc a w).x).1

/-! ## Rows entering -/

/-- The planes swap as the marker passes, once the back plane is complete and every lane has come to the new tile (R21,
R22, R58). -/
def Leaf.swap (l : Leaf) : Leaf :=
  if l.tileWaits && l.backFull then
    { l with front := l.back, back := [], backFull := false,
             lanes := l.lanes.map fun (n : Lane) => { n with feed := modifyAt n.feed 0 fun x => { x with marker := false } } }
  else l

/-- Rows that enter in one wave: a pair in E2M1, but one row per problem in SPLIT4 (R24, R51). -/
def Leaf.perWave (l : Leaf) : Nat := if l.fmtA = fE2M1 ∧ l.problems ≠ 4 then 2 else 1

/-- The rows of the tile at the head of a lane, at most `n`; a last row without a partner is paired with a bubble (R124). -/
def headRows : Nat → List FeedSlot → List LaneRow × List FeedSlot
  | 0, f => ([], f)
  | _, [] => ([], [])
  | n + 1, x :: f =>
    match x.marker, x.row with
    | false, some r => let (rs, f) := headRows n f; (r :: rs, f)
    | false, none => ([], f)
    | true, _ => ([], x :: f)

/-- A lane at an active wave in which its head may move: the row's waves pass, and with the last of them it enters with the
sums that the chain brings. `place` is where an entering row stands. -/
def Leaf.enterLane (l : Leaf) (place : List (List Nat)) (chain : List (List Nat)) (p : Nat) (n : Lane) : Lane :=
  let left := if n.sub = 0 then l.rowWaves - 1 else n.sub - 1
  match n.feed with
  | ⟨false, some _⟩ :: _ =>
    if left ≠ 0 then { n with sub := left }
    else
      let (rs, feed) := headRows l.perWave n.feed
      let sums := rs.zipIdx.map fun r => l.sums r.1 (if l.chainIn then chain.getD r.2 [] else r.1.entry) p
      { feed := feed, sub := 0, flight := n.flight ++ [{ left := l.depth, place := place, sums := sums }] }
  | ⟨false, none⟩ :: feed => { n with feed := feed }
  | _ => n

/-! ## Planks of an ELASTIC Leaf (R34, R44, Tables 1.8 and 1.11) -/

/-- Plank rows of one problem, and Plank columns in use. -/
def Leaf.plankRows (l : Leaf) : Nat := 8 / max 1 l.problems
def Leaf.plankCols (l : Leaf) : Nat := l.width / 64

/-- Where a row stands at a Plank. -/
def Flying.at' (f : Flying) (r c : Nat) : Nat := (f.place.getD r []).getD c 0

/-- Slices that have left Plank (r, c) and that the Plank at (r', c') has not taken: they fill the link's four slots. -/
def linkFill (rows : List Flying) (r c r' c' : Nat) : Nat :=
  (rows.filter fun f => f.at' r c == 65 && f.at' r' c' == 0).length

/-- The problem's lane brings no row in an active wave: its Feed is dry, its rows wait for a new tile, or the sums of the chain
are not here (Table 1.8). -/
def Leaf.laneDry (l : Leaf) (sumsHere : Bool) (n : Lane) : Bool := !n.offers (l.tileWaits && l.backFull) sumsHere

/-- A Plank cannot pass its oldest slice on: a link's four slots are full, or at the edge where sums leave no slot is free. -/
def Leaf.blocked (l : Leaf) (rows : List Flying) (slotFree : Bool) (r c : Nat) : Bool :=
  let last := if l.reversed then decide (c + 1 = l.plankCols) else decide (r + 1 = l.plankRows)
  rows.any (fun f => f.at' r c == 64)
    && ((last && !slotFree)
      || (decide (c + 1 < l.plankCols) && decide (4 ≤ linkFill rows r c r (c + 1)))
      || (decide (r + 1 < l.plankRows) && decide (4 ≤ linkFill rows r c (r + 1) c)))

/-- Can a Plank take a row: its west and north slices have arrived, the row before it has passed in, and it is not
blocked? -/
def Leaf.takes (l : Leaf) (rows : List Flying) (slotFree : Bool) (before : Option Flying) (f : Flying) (r c : Nat) : Bool :=
  (c == 0 || f.at' r (c - 1) == 65) && (r == 0 || f.at' (r - 1) c == 65)
    && (match before with | some b => decide (0 < b.at' r c) | none => true) && !l.blocked rows slotFree r c

/-- One wave of a row among the rows of its problem, Plank by Plank. With a dry Feed the west Plank column stalls; the slices
past it go on until the links that they fill are full (Table 1.8). -/
def Leaf.moveRow (l : Leaf) (rows : List Flying) (slotFree dry : Bool) (before : Option Flying) (f : Flying) : Flying :=
  { f with place := (List.range l.plankRows).map fun r => (List.range l.plankCols).map fun c =>
      let x := f.at' r c
      if dry && c == 0 then x
      else if x = 0 then (if l.takes rows slotFree before f r c then 1 else 0)
      else if x = 65 ∨ l.blocked rows slotFree r c then x else x + 1 }

/-- Has a row passed every Plank at the edge where sums leave? -/
def Leaf.passed (l : Leaf) (f : Flying) : Bool :=
  if l.reversed then (List.range l.plankRows).all fun r => f.at' r (l.plankCols - 1) == 65
  else (List.range l.plankCols).all fun c => f.at' (l.plankRows - 1) c == 65

/-- The place of a row that enters: its first slice lies in the Plank at the corner. -/
def Leaf.corner (l : Leaf) : List (List Nat) :=
  (List.range l.plankRows).map fun r => (List.range l.plankCols).map fun c => if r = 0 ∧ c = 0 then 1 else 0

/-- Rows of an ELASTIC lane after one wave. -/
def Leaf.moveRows (l : Leaf) (slotFree dry : Bool) (rows : List Flying) : List Flying :=
  rows.zipIdx.map fun f => l.moveRow rows slotFree dry (if f.2 = 0 then none else rows[f.2 - 1]?) f.1

/-- May a new row enter an ELASTIC lane: the corner Plank has room? -/
def Leaf.cornerFree (l : Leaf) (slotFree : Bool) (rows : List Flying) : Bool := !l.blocked rows slotFree 0 0

/-- Planks of a problem in which no slice moves in a wave, nor a wave of a row enters: in an active wave each of these stalled
Planks performs ballast (R44). -/
def Leaf.still (l : Leaf) (p : Nat) (enters : Bool) (before after : List Flying) : List (Nat × Nat) :=
  let moved := fun (r c : Nat) => after.zipIdx.any fun f => f.1.at' r c != (match before[f.2]? with | some b => b.at' r c | none => 0)
  (List.range l.plankRows).flatMap fun r => (List.range l.plankCols).filterMap fun c =>
    if moved r c || (enters && r == 0 && c == 0) then none else some (p * l.plankRows + r, c)

/-- Can a wave of a row enter a lane of an ELASTIC Leaf? -/
def Leaf.laneEnters (l : Leaf) (slotFree sumsHere : Bool) (n : Lane) : Bool :=
  !l.laneDry sumsHere n && l.cornerFree slotFree n.flight

/-- Can anything move in an active wave of an ELASTIC Leaf? -/
def Leaf.canMove (l : Leaf) (slotFree sumsHere : Bool) : Bool :=
  l.used.any fun n => l.laneEnters slotFree sumsHere n || l.moveRows slotFree (l.laneDry sumsHere n) n.flight != n.flight

/-- The activity target (R39, DEDUCED, log 25): 8 while a row is ready or in flight and an output slot is free, or in ELASTIC
mode while a row can enter or move; 0 once 512 waves have passed with no row in or out, hold waves among them; a parked Leaf
stays parked. -/
def Leaf.target (l : Leaf) (slotFree sumsHere : Bool) : Nat :=
  if (if l.elastic then l.canMove slotFree sumsHere else slotFree && (l.ready sumsHere || l.flying)) then 8
  else if 512 ≤ l.idle ∨ l.level = 0 then 0 else 8

/-! ## One wave -/

/-- Every Plank in use (R50). -/
def Leaf.planks (l : Leaf) : List (Nat × Nat) :=
  (List.range 8).flatMap fun r => (List.range l.plankCols).map fun c => (r, c)

/-- Rows that leave go to the Blotter, or into the chain link. -/
def Leaf.deliver (l : Leaf) (out : List Flying) : Leaf :=
  if out.isEmpty then l
  else if l.chainOut then { l with link := l.link ++ out.map (·.sums) }
  else { l with drained := out.flatMap (·.sums) }

/-- One wave of a native Leaf in which rows move: those at the edge leave, and in an active wave the head of every lane
enters, a bubble where it has none (R34, R40, R49). Answers whether a valid row entered and whether one left. -/
def Leaf.nativeWave (l : Leaf) (active : Bool) (chain : Option (List (List Nat))) : Leaf × Bool × Bool :=
  let here := !l.chainIn || chain.isSome
  let valid := active && l.ready here
  let l := if active then l.swap else l
  let moved := l.lanes.map fun (n : Lane) => { n with flight := n.flight.map fun (f : Flying) => { f with left := f.left - 1 } }
  let out := moved.flatMap fun n => n.flight.filter fun f => f.left == 0
  let lanes := moved.zipIdx.map fun (n : Lane × Nat) =>
    let m : Lane := { n.1 with flight := n.1.flight.filter fun f => f.left != 0 }
    if active && here && decide (n.2 < l.problems) then l.enterLane [] (chain.getD []) n.2 m else m
  (({ l with lanes := lanes, ballast := if active && !valid then l.planks else [] } : Leaf).deliver out, valid, !out.isEmpty)

/-- One wave of an ELASTIC Leaf: each Plank moves what it can; in a wave that is not active a bubble moves the west column on
(R34, R38, R44). Answers whether a wave of a valid row entered and whether a row left. -/
def Leaf.elasticWave (l : Leaf) (active slotFree : Bool) (chain : Option (List (List Nat))) : Leaf × Bool × Bool :=
  let l := if active then l.swap else l
  let here := !l.chainIn || chain.isSome
  let next := l.lanes.zipIdx.map fun (n : Lane × Nat) =>
    let m : Lane := { n.1 with flight := l.moveRows slotFree (active && l.laneDry here n.1) n.1.flight }
    let enters := active && decide (n.2 < l.problems) && l.laneEnters slotFree here n.1
    let takes := active && here && decide (n.2 < l.problems) && l.cornerFree slotFree n.1.flight
    let m := if takes then l.enterLane l.corner (chain.getD []) n.2 m else m
    (m, enters, l.still n.2 enters n.1.flight m.flight)
  let out := next.flatMap fun n => n.1.flight.filter l.passed
  let l' := { l with lanes := next.map fun (n : Lane × Bool × List (Nat × Nat)) => { n.1 with flight := n.1.flight.filter fun f => !l.passed f },
                     ballast := if active then (next.take l.problems).flatMap (fun (n : Lane × Bool × List (Nat × Nat)) => n.2.2) else [] }
  (l'.deliver out, next.any fun (n : Lane × Bool × List (Nat × Nat)) => n.2.1, !out.isEmpty)

/-- Rows that entered between two states of a Leaf. -/
def Leaf.entered (before after : Leaf) : Bool :=
  (before.lanes.zip after.lanes).any fun n => decide ((n.2.feed.filter (·.row.isSome)).length < (n.1.feed.filter (·.row.isSome)).length)

/-- One wave: the Leaf after it, whether the wave was active, and whether it carried a valid row. `chain` is the row of sums
that waits in the chain link before the Leaf. In native mode a wave without a free output slot is a hold wave, which moves
nothing (R41); in ELASTIC mode the stall climbs Plank by Plank (Table 1.8). -/
def Leaf.wave (l : Leaf) (target : Nat) (slotFree : Bool) (chain : Option (List (List Nat))) : Leaf × Bool × Bool :=
  let (l, active) := l.nextWave target
  if !slotFree && !l.elastic then
    ({ l with idle := min 512 (l.idle + 1), held := true, ballast := if active then l.planks else [] }, active, false)
  else
    let (l', valid, left) := if l.elastic then l.elasticWave active slotFree chain else l.nativeWave active chain
    ({ l' with idle := if valid || left then 0 else min 512 (l.idle + 1), held := !slotFree }, active, valid)

/-- A Leaf whose level has reached 0 parks (R38, R39). -/
def Leaf.park (l : Leaf) : Leaf := if l.level = 0 then { l with acc := 7, stepCount := 0 } else l

/-! ## WAVE -/

/-- A physical Leaf. -/
def State.leaf (s : State) (d l : Nat) : Leaf := s.leaves.getD (d * 4 + l) .parked

/-- A physical Leaf changed; DSKn_ARRAY_STATUS shows whether it is parked (Table 1.17). -/
def State.setLeaf (s : State) (d l : Nat) (x : Leaf) : State :=
  let parked := s.get (DSK_ARRAY_STATUS_PARKED d)
  ({ s with leaves := modifyAt s.leaves (d * 4 + l) fun _ => x } : State).put (DSK_ARRAY_STATUS_PARKED d)
    (if x.level = 0 then orBit parked l else clearBit parked l)

/-- An event counted where a condition holds. -/
def State.countIf (s : State) (c : Bool) (code : Nat) (i : Inst) : State := if c then s.countAt code i 1 else s

/-- The counters of one wave (Table 9.3); `here` says whether the sums that the Leaf needs from its chain are there. -/
def State.countWave (s : State) (i : Inst) (before after : Leaf) (active valid here : Bool) : State :=
  let s := s.countAt 0x00 i 1
  let s := s.countIf valid 0x01 i
  let s := s.countIf (!after.ballast.isEmpty) 0x02 i
  let s := s.countIf (!active) 0x03 i
  let s := s.countIf (after.held && !after.elastic) 0x04 i
  let s := s.countIf (after.level == 0) 0x05 i
  let s := s.countIf (!before.ramping && after.ramping) 0x06 i
  let s := s.countIf (after.elastic && ((!before.dry here && after.dry here) || (!before.held && after.held))) 0x07 i
  let s := s.countIf (!before.dry here && after.dry here) 0x08 i
  let s := s.countIf (!before.held && after.held) 0x09 i
  let s := s.countIf before.withheld 0x0A i
  (List.range 4).foldl (fun s n => s.countIf (!before.laneIdle n && after.laneIdle n) 0x1E i) s

/-- WAVE: one handshake cycle of a Leaf's wavefront (R38 to R42). A parked Leaf with nothing to do performs none; the
Leaves of a disabled Desk ramp down (Table 1.13), and so do all while the last gasp runs (R397). A Leaf of a chain takes the sums that wait in the link of the Leaf before
it in the ring (R45). Parity is checked on values that move (R54, R55). -/
def execWave (desk leaf : Nat) (slotFree : Bool) (parity : Option (Nat × Nat)) (s : State) : Host.Outcome State Fault Refusal :=
  .next (
    let l := s.leaf desk leaf
    let up := s.leaf desk ((leaf + 3) % 4)
    let chain := if l.chainIn then up.link.head? else none
    let here := !l.chainIn || chain.isSome
    let free := l.slot slotFree
    let target := if s.on (DSK_CTRL_ENABLE desk) && s.power.gasp.isNone then l.target free here else 0
    if 2 ≤ desk ∨ 4 ≤ leaf ∨ !s.answers 0x80000 ∨ (l.level = 0 ∧ target = 0) then s
    else
      let (l', active, valid) := l.wave target free chain
      let i : Inst := { desk := some desk, leaf := some leaf }
      let s := (s.countWave i l l' active valid here).setLeaf desk leaf l'.park
      let s := if l.chainIn ∧ l.entered l' then s.setLeaf desk ((leaf + 3) % 4) { up with link := up.link.drop 1 } else s
      match parity with
      | some (row, col) =>
        if (free || l.elastic) && (l.flying || valid) && s.plankMoves desk leaf row col l.plankCols then
          s.noteArrayFault desk leaf row col
        else s
      | none => s)

/-- WEIGHT_ROW_LOAD: the next weight row into the back planes, in ascending order (R27); the tile is complete with row
511. A complete tile waits for its swap marker. -/
def execWeightRowLoad (desk leaf : Nat) (codes : List Nat) (s : State) : Host.Outcome State Fault Refusal :=
  .next (
    let l := s.leaf desk leaf
    if 2 ≤ desk ∨ 4 ≤ leaf ∨ !s.on (DSK_CTRL_ENABLE desk) ∨ l.backFull then s
    else
      let back := l.back ++ [codes]
      let full := decide (512 ≤ back.length)
      (s.setLeaf desk leaf { l with back := back, backFull := full }).countIf full 0x0B { desk := some desk, leaf := some leaf })

/-- A row taken into a Leaf's Feed: each problem's part into its own lane, nothing where the part's valid bit is 0, but the
marker into every lane (R21, R49). -/
def Leaf.accept (l : Leaf) (r : FeedRow) : Leaf :=
  { l with waits := false,
           lanes := l.lanes.zipIdx.map fun (n : Lane × Nat) =>
             let x := ((r.lanes[n.2]?).getD none)
             if n.2 < l.problems ∧ (r.marker ∨ x.isSome) then { n.1 with feed := n.1.feed ++ [⟨r.marker, x⟩] } else n.1 }

/-- Is a Leaf's Feed buffer full (R26)? -/
def Leaf.feedFull (l : Leaf) : Bool := l.lanes.any fun n => decide (64 ≤ n.feed.length)

/-- BROADCAST_ROW: lane q goes to the Leaf of logical position q (R45). The row completes once every Leaf that takes it
has room; until then the broadcast waits (R26). -/
def execBroadcastRow (desk : Nat) (lanes : List FeedRow) (s : State) : Host.Outcome State Fault Refusal :=
  .next (
    if 2 ≤ desk ∨ !s.on (DSK_CTRL_ENABLE desk) then s
    else
      let rho := s.get (DSK_ROT_STATUS_OFFSET desk)
      let at' := ((lanes.take 4).zipIdx).map fun r => ((r.2 + rho) % 4, r.1)
      if at'.any fun r => (s.leaf desk r.1).feedFull then
        at'.foldl (fun s r =>
          let l := s.leaf desk r.1
          (s.countIf (!l.waits && l.feedFull) 0x0F { desk := some desk, leaf := some r.1 }).setLeaf desk r.1
            { l with waits := l.feedFull }) s
      else at'.foldl (fun s r => s.setLeaf desk r.1 ((s.leaf desk r.1).accept r.2)) s)

/-- LEAF_RATE_WINDOW: the rate and temperature of a Leaf, measured over 1 µs (R37); the hottest Leaf gives TJ_MAX
(R495). -/
def execLeafRateWindow (desk leaf rate tj : Nat) (s : State) : Host.Outcome State Fault Refusal :=
  .next (
    if 2 ≤ desk ∨ 4 ≤ leaf ∨ !s.answers 0x80000 then s
    else
      let s := (s.put (DSK_LEAF_RATE_RATE desk leaf) (rate % 65536)).put (DSK_LEAF_RATE_TJ desk leaf) (tj % 65536)
      let tjs := (List.range 8).map fun i => toSigned 16 (s.get (DSK_LEAF_RATE_TJ (i / 4) (i % 4)))
      s.put PWR_TEMP_TJ_MAX (ofSigned 16 (tjs.foldl max (tjs.getD 0 0))))

/-! ## Mutual-exclusion elements as commands (R198, R199) -/

/-- TIE: two requests meet. With TURN set, the input that it names wins without settling and TURN clears. Otherwise the
element settles on either (free value), and TURN names the loser. DESIGN CHOICE (log 26): an element of these rows shows its
grants only at its ties, so TURN stays set until the next of them. -/
def execTie (element : Nat) (s : State) : Host.Outcome State Fault Refusal := .next (s.tie element).1

/-- TIE_FORCED: the element has not settled within 2.0 ns and grants input 0; TURN names input 1. -/
def execTieForced (element : Nat) (s : State) : Host.Outcome State Fault Refusal :=
  .next (
    if s.turn element ≠ 0 then s.setTurn element 0
    else ((s.setTurn element 2).countAt 0xED (meInst element) 1).countAt 0xEE (meInst element) 1)

end Sys2Proof.Machine
end

