-- ==== Sys2Proof/Machine/Cabinets.lean ====
section
/-! DEFINITION. What the Cabinets do beside serving lines: background classes, refresh, temperature, patrol scrub, the read
eye, evacuation, pause retrain and hard failure (R226 to R246). -/
namespace Sys2Proof.Machine

/-- A Cabinet's own work: none while the main rails are off or the Cabinet is disabled. -/
def State.cabinet (s : State) (c : Nat) (work : State → State) : State :=
  if decide (15 < c) || !s.power.mainOk || !s.on (CAB_CTRL_ENABLE c) then s else work s

/-- What a stack does by itself, whether or not its Cabinet serves requests: none while the main rails are off (R244, R245). -/
def State.stack (s : State) (c : Nat) (work : State → State) : State :=
  if decide (15 < c) || !s.power.mainOk then s else work s

/-! ## Background classes (R242, R243): 0 SCRUB, 1 WRITEBACK, 2 RIDE, 3 TELEMETRY -/

/-- Patience of a class in ns; 0 selects the reset value (Table 6.16). -/
def State.patience (s : State) (c k : Nat) : Nat :=
  let v := s.get ⟨0x100020 + 0x10000 * c + 4 * k, 23, 0⟩
  100 * (if v = 0 then [0x186A0, 0xC8, 0x7D0, 0x2710].getD k 0 else v)

/-- Times since when the requests of a class wait, the oldest first: those of WRITEBACK are the slice's dirty lines. -/
def State.asksOf (s : State) (c k : Nat) : List Nat :=
  if k = 1 then (s.sbd.dirtyAt.filter fun x => cabOf x.1 == c).map Prod.snd else (s.cab c).asks.getD k []

/-- The oldest waiting request of a class. -/
def State.oldestOf (s : State) (c k : Nat) : Option Nat := (s.asksOf c k).head?

/-- A class has a request that has waited for `age` ns, where none is known to wait. -/
def State.noteAge (s : State) (c k age : Nat) : State :=
  match s.oldestOf c k with
  | some _ => s
  | none => s.setCab c fun x => { x with asks := modifyAt x.asks k fun _ => [s.time - age] }

/-- Has a class a request that has waited so long? Requests of WRITEBACK are all known; of another class one that nothing
here has seen may wait. -/
def State.aged (s : State) (c k age : Nat) : Bool :=
  match s.oldestOf c k with
  | some t => decide (t + age ≤ s.time)
  | none => k != 1

/-- Classes leave urgency, and are overdue no longer, where their oldest request is young enough or none waits (R243). -/
def State.settleClasses (s : State) (c : Nat) : State :=
  let old := fun (k age : Nat) => match s.oldestOf c k with | some t => decide (t + age ≤ s.time) | none => false
  let keep := fun (age : Nat → Nat) (m : Nat) => (List.range 4).foldl (fun m k => if bit m k && !old k (age k) then m - 2 ^ k else m) m
  s.setCab c fun x => { x with urgent := keep (fun k => s.patience c k * 3 / 4) x.urgent, overdue := keep (s.patience c) x.overdue }

/-- BG_URGENT: the oldest request of a class reaches three quarters of its patience (R243). -/
def execBgUrgent (cab cls : Nat) (s : State) : Host.Outcome State Fault Refusal :=
  .next (s.cabinet cab fun s =>
    let s := s.settleClasses cab
    let age := s.patience cab cls * 3 / 4
    if decide (3 < cls) || bit (s.cab cab).urgent cls || !s.aged cab cls age then s
    else ((s.noteAge cab cls age).setCab cab fun x => { x with urgent := x.urgent ||| 2 ^ cls }).countAt 0x58 (cabInst cab) 1)

/-- BG_OVERDUE: it reaches full patience (R243). -/
def execBgOverdue (cab cls : Nat) (s : State) : Host.Outcome State Fault Refusal :=
  .next (s.cabinet cab fun s =>
    let s := s.settleClasses cab
    let age := s.patience cab cls
    if decide (3 < cls) || bit (s.cab cab).overdue cls || !s.aged cab cls age then s
    else ((s.noteAge cab cls age).setCab cab fun x => { x with overdue := x.overdue ||| 2 ^ cls }).countAt 0x59 (cabInst cab) 1)

/-- Requests that wait unseen: a scrub pass that runs, a copy-ride under way. TELEMETRY exports the counters, of which there
is always more to export: DESIGN CHOICE (log 79), it asks again from the slot in which it was served. -/
def State.noteWaiting (s : State) (c : Nat) : State :=
  let s := if (s.cab c).passOn then s.noteAge c 0 0 else s
  let s := if s.svl.ranges.any fun r => match r.state with | .copying _ => true | _ => false then s.noteAge c 2 0 else s
  s.noteAge c 3 0

/-- The mutual-exclusion element between two classes of a Cabinet, the lower one at input 0, by the model's numbering
(log 26). -/
def classElement (c i j : Nat) : Nat := 2 + c + 32 * (4 * min i j + max i j)

/-- A grant clears TURN wherever it names the class that is granted (R199). -/
def State.granted (s : State) (c k : Nat) : State :=
  ((List.range 4).filter (· != k)).foldl (fun s j =>
    if s.turn (classElement c k j) = (if k < j then 1 else 2) then s.setTurn (classElement c k j) 0 else s) s

/-- The class with the oldest request among those that a predicate picks; `ties` says that a dead tie is settled by R198,
as between overdue requests. -/
def State.eldest (s : State) (c : Nat) (p : Nat → Bool) (ties : Bool) : State × Option Nat :=
  ((List.range 4).filter p).foldl (fun (acc : State × Option Nat) i =>
    match s.oldestOf c i, acc.2 with
    | some t, some b =>
      let u := (s.oldestOf c b).getD 0
      if t < u then (acc.1, some i)
      else if t = u ∧ ties then
        let (s, w) := acc.1.tie (classElement c b i)
        (s, some (if w = 0 then b else i))
      else acc
    | some _, none => (acc.1, some i)
    | none, _ => acc) (s, none)

/-- The requests of a class after a slot has served the oldest of them. -/
def State.serve (s : State) (c k : Nat) : State :=
  if k = 1 then
    match s.sbd.dirtyAt.find? fun x => cabOf x.1 == c with
    | some x => { s with sbd := { s.sbd with dirtyAt := s.sbd.dirtyAt.erase x } }
    | none => s
  else s.setCab c fun x => { x with asks := modifyAt x.asks k List.tail }

/-- A slot goes to a background class: its oldest request is served (R243). DESIGN CHOICE (log 112): only a slot that the class
takes by its urgency counts among the last 16 that went to urgent classes (`urgent`), not one granted because it is overdue or
while demand is idle. -/
def State.grantClass (s : State) (c k : Nat) (urgent : Bool) : State :=
  let s := ((s.serve c k).granted c k).settleClasses c
  (s.setCab c fun x => { x with grants := urgent :: x.grants.take 15 }).countAt (0x5A + k) (cabInst c) 1

/-- A slot goes elsewhere. -/
def State.grantOther (s : State) (c : Nat) : State := s.setCab c fun x => { x with grants := false :: x.grants.take 15 }

/-- GRANT_SLOT: grant_slot of R243. -/
def execGrantSlot (cab : Nat) (demand : Bool) (s : State) : Host.Outcome State Fault Refusal :=
  .next (s.cabinet cab fun s =>
    let s := (s.noteWaiting cab).settleClasses cab
    let k := s.cab cab
    if k.refreshDue then (s.setCab cab fun x => { x with refreshDue := false }).grantOther cab
    else match s.eldest cab (fun i => bit k.overdue i) true with
      | (s, some i) => s.grantClass cab i false
      | (s, none) =>
        match (List.range 4).find? (fun i => bit k.urgent i), k.grants.contains true with
        | some i, false => s.grantClass cab i true
        | _, _ =>
          if demand then s.grantOther cab
          else match s.eldest cab (fun _ => true) false with
            | (s, some i) => s.grantClass cab i false
            | (s, none) => s)

/-! ## Refresh and temperature (R244, R245) -/

/-- Does a stack refresh itself, in self-refresh? -/
def State.selfRefreshing (s : State) (c : Nat) : Bool := s.mem.selfRefresh || bit s.mem.coldStacks c

/-- REFRESH: a per-bank refresh falls due and takes the next slot before everything else; until then the Cabinet is in
REFRESH_WAIT. -/
def execRefresh (cab _die : Nat) (s : State) : Host.Outcome State Fault Refusal :=
  .next (s.stack cab fun s =>
    if s.selfRefreshing cab then s
    else
      let s := if !(s.cab cab).refreshDue then s.countAt 0x5E (cabInst cab) 1 else s
      (s.setCab cab fun x => { x with refreshDue := true }).countAt 0x54 (cabInst cab) 1)

/-- The stacks' MEM_HOT joined: PWR_STATUS, and at its onset the event, the alert (Tables 13.7 and 15.11). -/
def State.noteMemHot (s : State) : State :=
  let hot := (List.range 16).any fun c => s.on (CAB_STATUS_MEM_HOT c)
  let old := s.on PWR_STATUS_MEM_HOT
  let s := s.put PWR_STATUS_MEM_HOT (b2n hot)
  if hot && !old then (s.raisePower 6 (ofSigned 16 s.dramMax)).alert 5 else s

/-- A Cabinet's hottest die in 1/8 °C, as 16-bit two's complement (R245): MEM_HOT at 95 °C, the trip at 105 °C,
self-refresh below 0 °C. -/
def State.noteCabTemp (s : State) (c temp : Nat) : State :=
  let t := toSigned 16 (temp % 65536)
  let s := s.put (CAB_TEMP_TEMP c) (temp % 65536)
  let hot := decide (760 ≤ t)
  let s := if hot && !s.on (CAB_STATUS_MEM_HOT c) then s.countAt 0x56 (cabInst c) 1 else s
  let s := (s.put (CAB_STATUS_MEM_HOT c) (b2n hot)).noteMemHot
  let cold := decide (t < 0)
  let was := bit s.mem.coldStacks c
  let s := if cold && !was then s.countAt 0x5F (cabInst c) 1 else s
  let s := if cold == was then s
    else { s with mem := { s.mem with coldStacks := if cold then s.mem.coldStacks + 2 ^ c else s.mem.coldStacks - 2 ^ c } }
  if 840 ≤ t then s.tripNow 2 else s

/-- REFRESH_RATE_READ: the highest indication of the stack's dies and the hottest die (R244, R245). -/
def execRefreshRateRead (cab rate temp : Nat) (s : State) : Host.Outcome State Fault Refusal :=
  .next (s.stack cab fun s =>
    let s := if s.get (CAB_TEMP_REFRESH_RATE cab) < rate % 16 then s.countAt 0x55 (cabInst cab) 1 else s
    (s.put (CAB_TEMP_REFRESH_RATE cab) (rate % 16)).noteCabTemp cab temp)

/-! ## Patrol scrub (R226 to R229) -/

/-- Pass period in ns: SCRUB_HOURS, 24 h for 0 and above 24 (Table 6.9). -/
def State.scrubPeriod (s : State) (c : Nat) : Nat :=
  let h := s.get (CAB_CTRL_SCRUB_HOURS c)
  3600000000000 * (if h = 0 ∨ 24 < h then 24 else h)

/-- A spare that fails its test (R229, Table 6.5). -/
def State.spareFails (s : State) (c p : Nat) : State := (s.loseDrawer c p).countAt 0x57 (cabInst c) 1

/-- SCRUB_PASS: a pass begins once the period since the last one has passed; of the spares that it tests, those named fail. -/
def execScrubPass (cab : Nat) (badSpares : List Nat) (s : State) : Host.Outcome State Fault Refusal :=
  .next (s.cabinet cab fun s =>
    if !s.on (CAB_CTRL_SCRUB_EN cab) || (s.cab cab).passOn || decide (s.time < (s.cab cab).passStart + s.scrubPeriod cab) then s
    else
      let s := s.setCab cab fun x => { x with passOn := true, passStart := s.time, passChan := 0, passLate := false }
      let s := ((s.noteAge cab 0 0).put (CAB_SCRUB_STATUS_PASS_POS cab) 0).countAt 0x49 (cabInst cab) 1
      (badSpares.filter fun p => decide (p < 68)).foldl (fun s p => if s.dstate cab p = 1 then s.spareFails cab p else s) s)

/-- What patrol scrub does with a line (R227, R228). -/
def State.scrubAt (s : State) (a : Nat) : State :=
  let c := cabOf a
  let (s, o, dt) := s.decodeAt a
  match o with
  | .corrected => (((s.cabWrite a dt 0).bump (CAB_CE_COUNT_COUNT c) 1).countAt 0x42 (cabInst c) 1).noteCE a
  | .failed =>
    if s.detect a then (s.bump (CAB_DF_COUNT_COUNT c) 1).countAt 0x44 (cabInst c) 1
    else
      let s := ((s.cabWrite a zeroLine lostMask).bump (CAB_UE_COUNT_COUNT c) 1).countAt 0x43 (cabInst c) 1
      (s.reportLine a 1).evacTrigger c (lchanOf a)
  | _ => s

/-- SCRUB_LINE: the pass's next line, in ascending group and logical Drawer (R226). -/
def execScrubLine (cab : Nat) (s : State) : Host.Outcome State Fault Refusal :=
  .next (s.cabinet cab fun s =>
    if !(s.cab cab).passOn || !s.on (CAB_CTRL_SCRUB_EN cab) then s
    else
      let grp := s.get (CAB_SCRUB_STATUS_PASS_POS cab)
      let l := (s.cab cab).passChan
      let s := (s.scrubAt (lineAt cab l grp)).countAt 0x47 (cabInst cab) 1
      if l < 63 then s.setCab cab fun x => { x with passChan := l + 1 }
      else
        let s := (s.setCab cab fun x => { x with passChan := 0 }).put (CAB_SCRUB_STATUS_PASS_POS cab) (grp + 1)
        if grp + 1 < groupCount then s
        else (s.setCab cab fun x => { x with passOn := false }).put (CAB_SCRUB_STATUS_PASS_COUNT cab)
          ((s.get (CAB_SCRUB_STATUS_PASS_COUNT cab) + 1) % 256))

/-- SCRUB_LATE: a pass not complete after 24 h, found once (R226). -/
def execScrubLate (cab : Nat) (s : State) : Host.Outcome State Fault Refusal :=
  .next (s.cabinet cab fun s =>
    if (s.cab cab).passOn && !(s.cab cab).passLate && decide ((s.cab cab).passStart + 86400000000000 ≤ s.time) then
      ((s.setCab cab fun x => { x with passLate := true }).put (CAB_STATUS_SCRUB_LATE cab) 1).countAt 0x48 (cabInst cab) 1
    else s)

/-! ## The read eye (R230, R231) -/

/-- Consecutive low samples of a physical Drawer. -/
def Cab.lowOf (k : Cab) (p : Nat) : Nat := spGet (fun _ => 0) k.low p

/-- Is the read eye of a physical Drawer measured (R230)? -/
def State.eyed (s : State) (c p : Nat) : Bool := decide (p < 68) && [0, 3, 4].contains (s.dstate c p)

/-- One Drawer's margin: EYE_LOW, and the third low sample in a row triggers an evacuation of the logical Drawer. -/
def State.noteMargin (s : State) (c : Nat) (m : Nat × Nat) : State :=
  if m.2 < s.get (CAB_EYE_CTRL_EVAC_MARGIN c) then
    let n := min 3 ((s.cab c).lowOf m.1 + 1)
    let s := (s.setCab c fun x => { x with low := spSet (fun _ => 0) x.low m.1 n }).countAt 0x4B (cabInst c) 1
    match (List.range 64).find? fun l => s.physOf c l == m.1 with
    | some l => if n = 3 ∧ s.on (CAB_CTRL_EVAC_AUTO c) then s.evacTrigger c l else s
    | none => s
  else s.setCab c fun x => { x with low := spSet (fun _ => 0) x.low m.1 0 }

/-- The lowest margin of a sample. -/
def worstMargin (l : List (Nat × Nat)) : Option (Nat × Nat) :=
  l.foldl (fun (w : Option (Nat × Nat)) m =>
    match w with
    | some x => if m.2 < x.2 then some m else some x
    | none => some m) none

/-- A setting moved by at most one step towards the centre of its eye, which the spec leaves to the physical Drawer (log 93). -/
def State.eyeStep (s : State) (c i : Nat) (v : Int) : Int :=
  match Config.eyeStep c i s.time % 3 with
  | 0 => v
  | 1 => v + 1
  | _ => v - 1

/-- The receive reference and the sixteen lanes' deskew of a physical Drawer after a sample (R230). -/
def State.moveEye (s : State) (c p : Nat) : State :=
  let k := s.cab c
  let vref := spSet (fun _ => 0) k.vref p (s.eyeStep c p (spGet (fun _ => 0) k.vref p))
  let deskew := (List.range 16).foldl (fun m i =>
    spSet (fun _ => 0) m (16 * p + i) (s.eyeStep c (128 + 16 * p + i) (spGet (fun _ => 0) m (16 * p + i)))) k.deskew
  s.setCab c fun x => { x with vref := vref, deskew := deskew }

/-- The sample period in ns; 0 selects 1 ms (Table 6.14). -/
def State.samplePeriod (s : State) (c : Nat) : Nat := 1000000 * max 1 (s.get (CAB_EYE_CTRL_SAMPLE_MS c))

/-- EYE_SAMPLE: once the period since the last sample has passed, the margins of the physical Drawers as measured, in
1/256 UI. -/
def execEyeSample (cab : Nat) (margins : List (Nat × Nat)) (s : State) : Host.Outcome State Fault Refusal :=
  .next (s.cabinet cab fun s =>
    if s.time < (s.cab cab).eyeAt + s.samplePeriod cab then s
    else
    let s := s.setCab cab fun x => { x with eyeAt := s.time }
    let seen := (margins.filter fun m => s.eyed cab m.1).map fun (m : Nat × Nat) => (m.1, min m.2 255)
    match worstMargin seen with
    | none => s
    | some w =>
      let s := ((s.put (CAB_EYE_CTRL_WORST_MARGIN cab) w.2).put (CAB_EYE_CTRL_WORST_DRAWER cab) w.1).countAt 0x4A (cabInst cab) 1
      let s := s.setCab cab fun x => { x with low := x.low.filter fun p => seen.any fun m => m.1 == p.1 }
      seen.foldl (fun s m => (s.moveEye cab m.1).noteMargin cab m) s)

/-! ## Evacuation (R232 to R238) -/

/-- PREPARE ends: the target passes into MIGRATE, or it is FAILED and the next spare is tried (Table 6.5). -/
def execPrepare (cab : Nat) (passed : Bool) (s : State) : Host.Outcome State Fault Refusal :=
  .next (s.cabinet cab fun s =>
    if s.get (CAB_EVAC_STATUS_PHASE cab) ≠ 1 then s
    else
      let l := s.get (CAB_EVAC_STATUS_LCHAN cab)
      let t := s.get (CAB_EVAC_STATUS_DST cab)
      if passed then
        let s := (s.setDstate cab t 4).setDstate cab (s.get (CAB_EVAC_STATUS_SRC cab)) 3
        ((s.put (CAB_EVAC_STATUS_PHASE cab) 2).put (CAB_EVAC_WMARK_WMARK cab) 0).countAt 0x4F (cabInst cab) 1
      else ((s.endEvac cab).spareFails cab t).startEvac cab l)

/-- The copy of one line to the target (R234, R235). -/
def State.migrateLine (s : State) (a : Nat) : State :=
  let c := cabOf a
  let d := s.rawCheck a
  let (o, dt) := decodeLine (s.detect a) (s.rawData a) d
  match o with
  | .corrected => (((s.cabWrite a dt 0).bump (CAB_CE_COUNT_COUNT c) 1).countAt 0x42 (cabInst c) 1).noteCE a
  | .failed =>
    if s.detect a then s.putRaw (a + targetCopy) (s.rawData a) d
    else (((s.cabWrite a zeroLine lostMask).bump (CAB_UE_COUNT_COUNT c) 1).countAt 0x43 (cabInst c) 1).reportLine a 1
  | _ => s.putRaw (a + targetCopy) (s.rawData a) d

/-- SWITCH (R236): the map entry moves to the target and into the repair record; the source is trained and tested. -/
def State.switchDrawer (s : State) (c : Nat) : State :=
  let l := s.get (CAB_EVAC_STATUS_LCHAN c)
  let src := s.get (CAB_EVAC_STATUS_SRC c)
  let s := s.adoptDrawer c l groupCount []
  let s := ((s.remap c l (s.get (CAB_EVAC_STATUS_DST c))).setDstate c src 5).endEvac c
  ((s.bump (CAB_STATUS_EVAC_COUNT c) 1).countAt 0x4D (cabInst c) 1).nextEvac c

/-- MIGRATE: the line at the watermark is copied and the watermark moves on; behind the last group comes SWITCH. A target
that is lost aborts the migration (Table 6.6). -/
def execMigrate (cab : Nat) (targetLost : Bool) (s : State) : Host.Outcome State Fault Refusal :=
  .next (s.cabinet cab fun s =>
    if s.get (CAB_EVAC_STATUS_PHASE cab) ≠ 2 then s
    else if targetLost then s.abortTarget cab
    else
      let wm := s.get (CAB_EVAC_WMARK_WMARK cab)
      let s := (s.migrateLine (lineAt cab (s.get (CAB_EVAC_STATUS_LCHAN cab)) wm)).put (CAB_EVAC_WMARK_WMARK cab) (wm + 1)
      if wm + 1 < groupCount then s else s.switchDrawer cab)

/-- RETRAINING: the former source is SPARE or FAILED (R236). One that passes is DEGRADED no longer (Table 6.4). -/
def execRetraining (cab drawer : Nat) (passed : Bool) (s : State) : Host.Outcome State Fault Refusal :=
  .next (s.cabinet cab fun s =>
    if decide (67 < drawer) || s.dstate cab drawer != 5 then s
    else if passed then
      (s.setCab cab fun x => { x with degraded := x.degraded.map fun d => if d.1 = drawer then (drawer, false) else d }).setDstate
        cab drawer 1
    else s.loseDrawer cab drawer)

/-- The end of a pause retrain (R238): ACTIVE, or DEGRADED, which is a permanent failure. -/
def State.endPauseRetrain (s : State) (c l margin : Nat) : State :=
  let p := s.physOf c l
  let s := (s.setCab c fun x => { x with pause := none }).put (CAB_STATUS_PAUSE_RETRAIN c) 0
  let s := if s.get (CAB_EYE_CTRL_EVAC_MARGIN c) ≤ margin then
      (s.setCab c fun x => { x with degraded := x.degraded.map fun d => if d.1 = p then (p, false) else d }).setDstate c p 0
    else
      let s := s.setCab c fun x => { x with degraded := (x.degraded.filter fun d => d.1 != p) ++ [(p, true)] }
      (((s.setDstate c p 7).countAt 0x51 (cabInst c) 1).noteFailures c).noteWorn c
  s.nextEvac c

/-- PAUSE_SLICE: one slice, 100 µs after the last one and not over a refresh that is due; `last`, or the 2,048th, ends the
retrain with the eye margin found (R238). -/
def execPauseSlice (cab : Nat) (last : Bool) (margin : Nat) (s : State) : Host.Outcome State Fault Refusal :=
  .next (s.cabinet cab fun s =>
    match (s.cab cab).pause with
    | none => s
    | some (l, n, t) =>
      if (s.cab cab).refreshDue || decide (0 < n ∧ s.time < t + 100000) then s
      else
        let s := (s.setCab cab fun x => { x with pause := some (l, n + 1, s.time) }).countAt 0x50 (cabInst cab) 1
        if last || decide (2048 ≤ n + 1) then s.endPauseRetrain cab l margin else s)

/-! ## Hard failure (R239) -/

/-- SAFE at once, over a step or a START that runs (R240). -/
def State.safeAtOnce (s : State) (c : Nat) : State :=
  let s := if s.run.stepOn then s.voidNow false 0x0204 c 0
    else if s.jobState = jsRunning then s.finishOp 0x0302 0x0120 [] else s
  s.enterSafe 0x0120

/-- A physical Drawer gives out hard while no logical Drawer is on it: the fifth failure makes the module SAFE at once. -/
def State.loseHard (s : State) (c p : Nat) : State :=
  let s := s.failDrawer c p
  if s.on (CAB_STATUS_EXHAUSTED c) then s.safeAtOnce c else s

/-- A mapped Drawer fails hard: the target of its evacuation, or the lowest spare, will take its place; with none the logical
Drawer is reported and the module is SAFE (R239). -/
def State.hardMapped (s : State) (c l p : Nat) : State :=
  let moving := s.on (CAB_STATUS_EVAC_ACTIVE c) && s.get (CAB_EVAC_STATUS_LCHAN c) == l
  let wm := if s.get (CAB_EVAC_STATUS_PHASE c) = 2 ∧ moving then s.get (CAB_EVAC_WMARK_WMARK c) else 0
  let s := s.loseLines c l wm
  let s := match (s.cab c).pause with
    | some (q, _, _) => if q = l then (s.setCab c fun x => { x with pause := none }).put (CAB_STATUS_PAUSE_RETRAIN c) 0 else s
    | none => s
  let spare := if moving then some (s.get (CAB_EVAC_STATUS_DST c)) else s.lowestSpare c
  let s := (if moving then s.endEvac c else s).failDrawer c p
  let s := { s with mem := { s.mem with dead := (c, l, wm) :: s.mem.dead.filter fun d => !(d.1 == c && d.2.1 == l) } }
  match spare with
  | none => (s.reportLine (lineAt c l (min wm (groupCount - 1))) 4).safeAtOnce c
  | some t =>
    let s := (s.setDstate c t 2).setCab c fun x => { x with rebuild := x.rebuild ++ [(l, t, wm)] }
    if s.on (CAB_STATUS_EXHAUSTED c) then s.safeAtOnce c else s

/-- A spare that a rebuild was to use fails: the next one, or SAFE. -/
def State.hardSpare (s : State) (c l p : Nat) : State :=
  let s := s.loseHard c p
  match s.lowestSpare c with
  | none => ((s.setCab c fun x => { x with rebuild := x.rebuild.filter fun r => r.1 != l }).reportLine (lineAt c l 0) 4).safeAtOnce c
  | some t =>
    (s.setDstate c t 2).setCab c fun x =>
      { x with rebuild := x.rebuild.map fun (r : Nat × Nat × Nat) => if r.1 = l then (l, t, r.2.2) else r }

/-- HARD_FAIL of a physical Drawer: the running step ends, and the Drawer is FAILED (R239). For the target of a migration
Table 6.6 says what happens instead. -/
def execHardFail (cab drawer : Nat) (s : State) : Host.Outcome State Fault Refusal :=
  .next (s.cabinet cab fun s =>
    if decide (67 < drawer) || s.dstate cab drawer == 8 then s
    else
      let s := s.countAt 0x52 (cabInst cab) 1
      match (List.range 64).find? fun l => s.physOf cab l == drawer with
      | some l =>
        let s := if s.run.stepOn then s.voidNow false 0x0204 cab (lineAt cab l 0) else s
        s.hardMapped cab l drawer
      | none =>
        if s.on (CAB_STATUS_EVAC_ACTIVE cab) ∧ s.get (CAB_EVAC_STATUS_DST cab) = drawer then
          let s := s.abortTarget cab
          if s.on (CAB_STATUS_EXHAUSTED cab) then s.safeAtOnce cab else s
        else
          let s := if s.run.stepOn then s.voidNow false 0x0204 cab 0 else s
          match (s.cab cab).rebuild.find? fun r => r.2.1 == drawer with
          | some (l, _, _) => s.hardSpare cab l drawer
          | none => s.loseHard cab drawer)

/-- REBUILD: the first rebuild of the Cabinet ends: the map entry moves to the spare, the logical Drawer is reported, and the
next evacuation may begin. DESIGN CHOICE (log 112): the report gives the line of the first lost group, and ERR_ADDR_HI.DRAWER
names the spare that the map then shows. -/
def execRebuild (cab : Nat) (s : State) : Host.Outcome State Fault Refusal :=
  .next (s.cabinet cab fun s =>
    match (s.cab cab).rebuild with
    | [] => s
    | (l, t, wm) :: rest =>
      let s := (s.setCab cab fun x => { x with rebuild := rest }).remap cab l t
      let s := { s with mem := { s.mem with dead := s.mem.dead.filter fun d => !(d.1 == cab && d.2.1 == l) } }
      let s := ((s.put (CAB_STATUS_REBUILD cab) 1).countAt 0x53 (cabInst cab) 1).reportLine (lineAt cab l (min wm (groupCount - 1))) 4
      s.nextEvac cab)

end Sys2Proof.Machine
end

