-- ==== Sys2Proof/Machine/Dma.lean ====
section
/-! DEFINITION. The DMA engines: copies, conversions, transposes, fills, table loads, shape slots, intake takes, and their
stop and restart around an activation replay (R95 to R98, R138, R139, R145 to R148, R158, R179 to R181, R434, R529). -/
namespace Sys2Proof.Machine

/-! ## Slices (R529) -/

/-- First index and count of a slice; none where the runtime extent lies above the limit. -/
def State.dmaSlice (s : State) (d : Desc) (limit plan : Nat) : Option (Nat × Nat) :=
  if d.sliceCount = 0xFFFFFFFF then
    let e := if d.extSlot = 0 then plan else s.shape d.extSlot
    if limit < e then none else some (d.sliceFirst, e - d.sliceFirst)
  else some (d.sliceFirst, d.sliceCount)

/-- Rows of one index of a tensor's outermost dimension. -/
def Tensor.inner (t : Tensor) : Nat := if t.rank ≤ 2 then 1 else if t.rank = 3 then t.d1 else t.d1 * t.d2

/-- A stretch of a slice: destination row and first column, and the source element of each of its elements. -/
structure Stretch where
  row : Nat
  col : Nat
  src : List (Nat × Nat)

/-- The stretches of a slice along the outermost dimension: the same elements of source and destination. -/
def straight (t : Tensor) (first n : Nat) : List Stretch :=
  if t.rank ≤ 1 then [⟨0, first, (List.range n).map fun i => (0, first + i)⟩]
  else (List.range (n * t.inner)).map fun i =>
    let r := first * t.inner + i
    ⟨r, 0, (List.range t.d0).map fun c => (r, c)⟩

/-- What an engine reads together, as rows, first columns and lengths of the source, and the stretches that it writes then. -/
structure Tile where
  reads : List (Nat × Nat × Nat)
  parts : List Stretch

/-- A slice moved straight, row by row; of a tensor of one dimension the slice only. -/
def rowTiles (t : Tensor) (first n : Nat) : List Tile :=
  (straight t first n).map fun p =>
    ⟨[if t.rank ≤ 1 then (p.row, first, n) else (p.row, 0, t.d0)], [p]⟩

/-- A transposing slice of source `t`, in ascending row-major order of its tiles of 128 × 128, edge tiles smaller (R145): the
destination row z × DIM0 + j takes column j of the source rows. -/
def crossTiles (t : Tensor) (first n : Nat) : List Tile :=
  (List.range (t.d2 * t.d3)).flatMap fun z => (List.range (ceilDiv n 128)).flatMap fun a =>
    (List.range (ceilDiv t.d0 128)).map fun b =>
      let rows := (List.range (min 128 (n - 128 * a))).map fun i => z * t.d1 + first + 128 * a + i
      let w := min 128 (t.d0 - 128 * b)
      { reads := rows.map fun r => (r, 128 * b, w),
        parts := (List.range w).map fun j =>
          ⟨z * t.d0 + 128 * b + j, first + 128 * a, rows.map fun r => (r, 128 * b + j)⟩ }

/-- Lines read in the order given, up to the first failed one where the engine would stop there (R158). -/
def State.takeUntil (s : State) (p : Place) (as : List Nat) (spill : Bool) : State × Lines :=
  as.foldl (fun (acc : State × Lines) a =>
    if spill && acc.2.any fun l => l.2.1 == .failed then acc
    else
      let (s, o, d) := acc.1.takeLine p a spill
      (s, acc.2 ++ [(a, o, d)])) (s, [])

/-- Tiles read in order, each line once: the lines, and how many tiles were read whole. -/
def State.readTiles (s : State) (c : Nat) (t : Tensor) (tiles : List Tile) (spill : Bool) : State × Buf × Nat :=
  let (s, ls, k) := tiles.foldl (fun (acc : State × Lines × Nat) x =>
    if spill && acc.2.1.any fun l => l.2.1 == .failed then acc
    else
      let as := (x.reads.flatMap fun r => t.elemLines r.1 r.2.1 r.2.2) ++ (x.reads.flatMap fun r => t.scaleLines r.1 r.2.1 r.2.2)
      let (s, ls) := acc.1.takeUntil (t.readPlace c) (as.dedup.filter fun a => !acc.2.1.any fun l => l.1 == a) spill
      let failed := spill && ls.any fun l => l.2.1 == .failed
      (s, acc.2.1 ++ ls, if failed then acc.2.2 else acc.2.2 + 1)) (s, [], 0)
  (s, { t := t, elems := ls, scales := ls }, k)

/-! ## One stretch -/

/-- How a COPY converts: destination, SR, EXP_LAYER's s, whether it keeps format, block size and block axis, and
whether the source is block-scaled. -/
structure Conv where
  t : Tensor
  fmt : Nat
  blk : Nat
  sr : Bool
  exp : Option Int
  keep : Bool

/-- A raw source element: marker, code, scale byte. -/
abbrev RawElem := Bool × Nat × Nat

/-- Its exact value, times 2^s (R148). -/
def Conv.val (k : Conv) (x : RawElem) : Val :=
  { mark := x.1, x := (readElem k.fmt k.blk x.2.1 x.2.2).scale (k.exp.getD 0) }

/-- Counts of unmarked values of a tensor as read back (R318). -/
def countRead (t : Tensor) (xs : List RawElem) : GaugeAcc :=
  xs.foldl (fun g x => if x.1 then g else g.one (readElem t.fmt t.blk x.2.1 x.2.2)) (.empty 0)

/-- Unmarked elements that are not finite. -/
def nonfinites (t : Tensor) (xs : List RawElem) : Nat :=
  if t.index then 0 else (xs.filter fun x => !x.1 && !(readElem t.fmt t.blk x.2.1 x.2.2).isFin).length

/-- One block, or one stretch of an unblocked tensor, copied verbatim (R97). -/
def verbatim (t : Tensor) (xs : List RawElem) : Nat × List Nat × GaugeAcc :=
  let codes := xs.map fun x => if x.1 then 0 else x.2.1
  (match xs.find? fun x => !x.1 with | some x => x.2.2 | none => 0x7F,
   if t.blk = 0 then codes else codes ++ List.replicate (t.bsize - codes.length) 0, countRead t xs)

/-- Re-ink losses of one block (R96): elements whose written value differs from the source value. A saturation is one of
them, besides being counted as a saturation, and so is an infinity written as NaN; a NaN written as NaN is not. -/
def losses (t : Tensor) (scale : Nat) (codes : List Nat) (vs : List Val) : Nat :=
  ((codes.zip vs).filter fun p =>
    let y := readElem t.fmt t.blk p.1 scale
    !p.2.mark && !y.eqv p.2.x && !(y == .nan && p.2.x == .nan)).length

/-- One stretch written (R73, R77, R95 to R97, R148): what goes to the row, and the non-finite values written. Under
EXP_LAYER the scaled values are encoded anew by R73, in the source's own format too (DEDUCED, log 44): R148's larger scale
bytes and unchanged codes follow wherever the source block is what R73 writes.
DESIGN CHOICE (log 44): R96 counts losses of an EXP_LAYER copy, and counts none where the source is unblocked; the model
counts them where an unblocked source goes into a block-scaled destination under EXP_LAYER. -/
def State.convert (s : State) (k : Conv) (row col : Nat) (xs : List RawElem) : RowOut × Nat :=
  let marks := (xs.zipIdx.filter fun x => x.1.1).map fun x => col + x.2
  let blocks := fun (bs : List (Nat × List Nat × GaugeAcc)) =>
    ({ row := row, col := col, codes := bs.flatMap fun b => b.2.1, scales := if k.t.blk = 0 then [] else bs.map fun b => b.1,
       marks := marks, gauge := bs.foldl (fun g b => g.join b.2.2) (.empty 0) } : RowOut)
  let cut := if k.t.blk = 0 then max 1 xs.length else k.t.bsize
  if k.keep && k.exp.isNone then (blocks ((chunks cut xs.length xs).map (verbatim k.t)), nonfinites k.t xs)
  else
    let vs := xs.map k.val
    let o := encodeRow k.t row col (s.withRnd k.t k.sr row col vs)
    let lost := if k.t.blk != 0 && (k.blk != 0 || k.exp.isSome) then
        ((o.scales.zip ((chunks cut o.codes.length o.codes).zip (chunks cut vs.length vs))).map fun b => losses k.t b.1 b.2.1 b.2.2).sum
      else 0
    ({ o with gauge := { o.gauge with loss := lost } }, o.gauge.nonfin)

/-! ## Counting -/

/-- Inkwell traffic names its Desk. -/
def Tensor.inst (t : Tensor) : Inst := if t.space = 1 then { desk := some 0 } else if t.space = 2 then { desk := some 1 } else {}

/-- Rows written by a DMA engine: memory, gauge, event counters; the poisoned lines. -/
def State.dmaStore (s : State) (t : Tensor) (rows : List (RowOut × Nat)) : State × Nat × Nat × Nat :=
  let (s, bad, g) := s.storeRows t (rows.map Prod.fst) false
  let s := if t.index then s else s.gauge t g
  let i := t.inst
  let lines := ((rows.flatMap fun o => t.elemLines o.1.row o.1.col o.1.codes.length).dedup).length
  let nf := (rows.map Prod.snd).sum
  let s := (((s.countAt 0x21 i lines).countAt 0x23 i g.loss).countAt 0x24 i g.sat).countAt 0x25 i nf
  (s, bad, nf, g.sat)

/-- The record of a slice moved (R181). -/
def dmaRec (n bad nonfin sat : Nat) : Rec :=
  { Rec.zero with m := n, poison := bad, flags := wroteFlags bad nonfin sat }

/-! ## The kinds (R180, R138) -/

/-- What a descriptor's work comes to: its record, or the SPILL tensor in which it met a failed line (R158). -/
abbrev DmaEnd := Rec ⊕ Nat

/-- Does a read of a tensor by a DMA engine stop at a failed line (R158, R161)? -/
def State.spills (s : State) (f : Folio) (tid : Nat) : Bool :=
  (match f.save tid with | some e => bits (fld e 2 1) 1 0 == 1 | none => false)
    && decide (spGet (fun _ => 0) s.job.replayCount tid < 3)

/-- A failed line of a SPILL tensor that is taken as poison (R161). -/
def State.replayFailed (s : State) (f : Folio) (b : Buf) (spill : Bool) : State :=
  let kept := match f.save b.t.tid with | some e => bits (fld e 2 1) 1 0 == 1 | none => false
  if kept && !spill && b.failedAt.isSome && !b.t.index then (s.put DMA_STATUS_REPLAY_FAIL 1).countAt 0x29 b.t.inst 1 else s

/-- COPY. -/
def State.copyWork (s : State) (c : Nat) (f : Folio) (d : Desc) (replay : Bool) : State × DmaEnd :=
  match f.tensor (fld d 8 2), f.tensor (fld d 0x0A 2) with
  | some t, some u =>
    match sliceOf d (some t) (some u) with
    | none => (s, .inl .zero)
    | some (_, limit, plan) =>
      match s.dmaSlice d limit plan with
      | none => (s, .inl { Rec.zero with status := 0x0202 })
      | some (first, n) =>
        let tiles := if d.dTranspose then crossTiles t first n else rowTiles t first n
        let s := if d.dExpLayer = 0xFFFF then s else s.readLayer d.dExpLayer true
        let spill := !replay && s.spills f t.tid
        let (s, b, whole) := s.readTiles c t tiles spill
        let outs := fun (s : State) (tiles : List Tile) =>
          let exp := if d.dExpLayer = 0xFFFF then none else some (toSigned 8 (fld (s.liveLayer d.dExpLayer) 0 1))
          let same := t.index || (t.fmt == u.fmt && t.blk == u.blk)
          let k : Conv := { t := u, fmt := t.fmt, blk := t.blk, sr := d.dSr, exp := exp,
                            keep := same && (!d.dTranspose || t.blk == 0) }
          tiles.flatMap fun x => x.parts.map fun p => s.convert k p.row p.col (p.src.map fun x => b.raw x.1 x.2)
        if spill && b.failedAt.isSome then
          -- what it has written stays in place; its counts are discarded (R158, R319)
          ((s.storeRows u ((outs s (tiles.take whole)).map Prod.fst) false).1, .inr t.tid)
        else
          let s := if replay then s else s.replayFailed f b spill
          let (s, bad, nf, sat) := (s.countAt 0x22 u.inst (if d.dTranspose then tiles.length else 0)).dmaStore u (outs s tiles)
          (s, .inl (dmaRec n bad nf sat))
  | _, _ => (s, .inl .zero)

/-- FILL. -/
def State.fillWork (s : State) (f : Folio) (d : Desc) : State × DmaEnd :=
  match f.tensor (fld d 0x0A 2) with
  | some u =>
    match s.dmaSlice d (u.limit (u.rank - 1)) u.outer with
    | none => (s, .inl { Rec.zero with status := 0x0202 })
    | some (first, n) =>
      let k : Conv := { t := u, fmt := u.fmt, blk := u.blk, sr := false, exp := none, keep := true }
      let outs := (straight u first n).map fun p => s.convert k p.row p.col (p.src.map fun _ => (false, 0, 0x7F))
      let (s, bad, _, _) := s.dmaStore u outs
      (s.countAt 0x33 u.inst 1, .inl (dmaRec n bad 0 0))
  | none => (s, .inl .zero)

/-- The bank that a load of a table writes (R138): index among the 32. -/
def State.loadBank (s : State) (table : Nat) : Nat :=
  let b0 := s.job.banks.getD (2 * table) ⟨0, [], 0⟩
  let b1 := s.job.banks.getD (2 * table + 1) ⟨0, [], 0⟩
  if b0.order = 0 then 2 * table else if b1.order = 0 then 2 * table + 1
  else if b1.order < b0.order then 2 * table + 1 else 2 * table

/-- `n` bytes from an address of a tensor read by a DMA engine; bytes of a marked line are free values (log 3). -/
def State.dmaBytes (s : State) (c : Nat) (t : Tensor) (n : Nat) (spill : Bool) : State × List Byte × Buf :=
  let (s, ls) := s.takeLines (t.readPlace c) (linesOf t.elemBase n) spill
  let b : Buf := { t := t, elems := ls, scales := [] }
  let free := Config.openBytes t.elemBase n
  let got := (List.range n).map fun i =>
    let x := ls.byte (t.elemBase + i)
    if x.1 then free.getD i 0 else x.2
  (s, got, b)

/-- TABLE_LOAD, once no stroke is bound to the bank. -/
def State.tableWork (s : State) (c : Nat) (f : Folio) (d : Desc) (replay : Bool) : State × DmaEnd :=
  match f.tensor (fld d 8 2) with
  | some t =>
    let spill := !replay && s.spills f t.tid
    let (s, bs, b) := s.dmaBytes c t 4112 spill
    if spill && b.failedAt.isSome then (s, .inr t.tid)
    else
      let v := d.imm % 65536
      let k := s.loadBank d.kspec
      let s := s.mapJob fun j =>
        { j with tableClock := j.tableClock + 1, banks := j.banks.set k { version := v, image := bs, order := j.tableClock + 1 } }
      (s.countAt 0x2F t.inst 1, .inl { Rec.zero with kind := v })
  | none => (s, .inl .zero)

/-- SLOT_SET. -/
def State.slotWork (s : State) (c : Nat) (f : Folio) (d : Desc) (replay : Bool) : State × DmaEnd :=
  match f.tensor (fld d 8 2) with
  | some t =>
    let spill := !replay && s.spills f t.tid
    let (s, bs, b) := s.dmaBytes c t 4 spill
    if spill && b.failedAt.isSome then (s, .inr t.tid)
    else ((s.setShape d.kspec (leNat bs)).countAt 0x31 t.inst 1, .inl .zero)
  | none => ((s.setShape d.kspec d.imm).count 0x31, .inl .zero)

/-! ## Starting, stopping, ending -/

/-- The Desk whose Inkwell an engine's head descriptor reads or writes, if any (Table 9.3). -/
def State.dmaInst (s : State) (c : Nat) : Inst :=
  match s.folio, s.head c with
  | some f, some d =>
    let at' := fun (o : Nat) => match f.tensor (fld d o 2) with | some t => t.inst | none => {}
    if (at' 8).desk.isSome then at' 8 else at' 0x0A
  | _, _ => {}

/-- DMA_BUSY and DMA_STOPPED follow the engines; a stopped engine is busy while it runs a replay descriptor (R158), and an
engine that becomes busy counts (Table 9.3). -/
def State.noteDma (s : State) : State :=
  let mask := fun (p : Phase → Bool) =>
    ((List.range 32).filter fun e => p (s.eng (0x10 + e)).phase).foldl (fun m e => m + 2 ^ e) 0
  let stopped := fun (p : Phase) => match p with | .stopped _ => true | _ => false
  let busy := ((List.range 32).filter fun e =>
      let p := (s.eng (0x10 + e)).phase
      (p != .idle && !stopped p) || s.replayPending (0x10 + e)).foldl (fun m e => m + 2 ^ e) 0
  let old := s.get DMA_BUSY_ENGINES
  let s := ((List.range 32).filter fun e => bit busy e && !bit old e).foldl (fun s e => s.countAt 0x26 (s.dmaInst (0x10 + e)) 1) s
  (s.put DMA_BUSY_ENGINES busy).put DMA_STOPPED_ENGINES (mask stopped)

/-- How a descriptor's work ends for its engine: the record follows, or it stops, and the counts that it had staged are discarded
(R158, R319), which is what STAGED_DISCARD counts (DEDUCED, log 82). -/
def State.dmaEnds (s : State) (c : Nat) (e : DmaEnd) : State :=
  match e with
  | .inl r => s.setPhase c (.done r)
  | .inr tid =>
    (((s.setPhase c (.stopped tid)).countAt 0x27 (s.dmaInst c) 1).countAt 0x2B (s.dmaInst c) 1).mapJob fun j =>
      if (j.replays.any fun r => r.tid == tid) || (j.found.any fun x => x.1 == tid) then j
      else { j with found := j.found ++ [(tid, c)] }

/-- The work of a kind. -/
def State.dmaWork (s : State) (c : Nat) (d : Desc) (replay : Bool) : State × DmaEnd :=
  match s.folio with
  | none => (s, .inl .zero)
  | some f =>
    match d.kind with
    | 0x20 => s.copyWork c f d replay
    | 0x21 => s.tableWork c f d replay
    | 0x22 => s.slotWork c f d replay
    | _ => s.fillWork f d

/-- The record of work that cannot stop. -/
def DmaEnd.rec (e : DmaEnd) : Rec := match e with | .inl r => r | .inr _ => .zero

/-- The Inkwell, if any, that a TABLE_LOAD reads. -/
def State.srcTensorInst (s : State) (d : Desc) : Inst :=
  match s.folio with
  | some f => (match f.tensor (fld d 8 2) with | some t => t.inst | none => {})
  | none => {}

/-- A TABLE_LOAD waits while a stroke is bound to its bank (R139). -/
def State.loadWaits (s : State) (d : Desc) : Bool := d.kind == 0x21 && s.job.bound.any fun b => b.2 == s.loadBank d.kspec

/-- An engine's descriptor of a kind, its wait satisfied. -/
def State.dmaBegin (s : State) (c : Nat) (d : Desc) : State :=
  let s := (s.acquire d).setEng { s.eng c with since := s.time }
  if s.headElided c then s.setPhase c (.done .zero)
  else if s.loadWaits d then (s.setPhase c .heldTable).countAt 0x30 (s.srcTensorInst d) 1
  else
    let (s, e) := s.dmaWork c d false
    s.dmaEnds c e

/-- A DMA command of a kind on engine `e`: a replay descriptor of a stopped engine, or the head of its list. -/
def State.dma (s : State) (e kind : Nat) : State :=
  if 32 ≤ e then s
  else
    let c := 0x10 + e
    let s := match s.replayReady c with
      | some (r, d) =>
        if d.kind = kind ∧ ¬s.loadWaits d then
          s.replayWork c r d fun s d => let (s, x) := s.dmaWork c d true; (s, x.rec)
        else s
      | none =>
        match s.ready c with
        | some d => if d.kind = kind then s.dmaBegin c d else s
        | none =>
          match (s.eng c).phase, s.head c with
          | .heldTable, some d =>
            if d.kind = kind && s.mayRun && !s.loadWaits d then let (s, x) := s.dmaWork c d false; s.dmaEnds c x else s
          | _, _ => s
    s.noteDma.settle

/-- COPY. -/
def execCopy (dma : Nat) (s : State) : Host.Outcome State Fault Refusal := .next (s.dma dma 0x20)

/-- FILL. -/
def execFill (dma : Nat) (s : State) : Host.Outcome State Fault Refusal := .next (s.dma dma 0x23)

/-- TABLE_LOAD. -/
def execTableLoad (dma : Nat) (s : State) : Host.Outcome State Fault Refusal := .next (s.dma dma 0x21)

/-- SLOT_SET. -/
def execSlotSet (dma : Nat) (s : State) : Host.Outcome State Fault Refusal := .next (s.dma dma 0x22)

/-! ## INTAKE_TAKE (R434) -/

/-- A sample's rows written to a tensor from row `row`: bytes that carry the marker, or lie under a scale byte that does, turn
their lines into poison (R130, R131). Answers the poisoned lines. -/
def State.putSample (s : State) (t : Tensor) (row rows : Nat) (bs : List (Bool × Byte)) : State × Nat :=
  let w := t.rowBytes + t.rowBlocks * b2n (t.blk != 0)
  let at' := fun (i j : Nat) => bs.getD (w * i + j) (false, 0)
  let marked := fun (i j : Nat) => (at' i j).1 || (t.blk != 0 && (at' i (t.rowBytes + j * 8 / t.width / t.bsize)).1)
  let cells := (List.range rows).flatMap fun i => (List.range t.rowBytes).map fun j => (t.elemAddr (row + i) 0 + j, (at' i j).2)
  let bad := ((List.range rows).flatMap fun i => ((List.range t.rowBytes).filter (marked i)).map fun j =>
    lineOf (t.elemAddr (row + i) 0 + j)).dedup
  let own := if t.blk = 0 then [] else (List.range rows).flatMap fun i => (List.range t.rowBlocks).map fun k =>
    let e := t.elemAddr (row + i) (k * t.bsize)
    (t.scaleAddr (row + i) (k * t.bsize), if bad.contains (lineOf e) then 0x7F else (at' i (t.rowBytes + k)).2)
  let scales := own ++ (bad.flatMap t.poisonScales).filter fun x => !own.any fun y => y.1 == x.1
  let s := t.writePlaces.foldl (fun s p => (s.storeCells p cells bad false).storeCells p scales [] false) s
  (s.countAt 0x21 t.inst ((cells.map fun c => lineOf c.1).dedup).length, bad.length)

/-- The end of a gap that holds NEXT. -/
def State.gapEnd (s : State) : Option Nat :=
  match s.intake.gaps.find? fun g => decide (g.1 ≤ s.intakeNext ∧ s.intakeNext ≤ g.2) with
  | some g => some g.2
  | none => none

/-- One sample or gap of a take: none where it waits; the take so far, and whether it ends. -/
def State.takeOne (s : State) (t : Tensor) (k : Take) : Option (State × Take × Bool) :=
  match s.gapEnd with
  | some q => some (s.setNext (q + 1), { k with gaps := k.gaps + (q + 1 - s.intakeNext) }, false)
  | none =>
    match s.intake.samples.find? fun x => x.seq == s.intakeNext && x.complete with
    | none => none
    | some x =>
      let w := t.rowBytes + t.rowBlocks * b2n (t.blk != 0)
      let last := bit x.sflags 0
      let leave := fun (s : State) => (s.releaseSamples fun y => y.seq == x.seq).setNext (s.intakeNext + 1)
      if k.short || x.bytes ≠ x.rows * w then some (leave s, { k with skipped := k.skipped + 1 }, last)
      else if t.allocRows < k.rows + x.rows then some (leave s, { k with skipped := k.skipped + 1, short := true }, last)
      else
        let (s, bs) := s.readSample x
        let (s, bad) := s.putSample t k.rows x.rows bs
        some (leave s, { k with rows := k.rows + x.rows, poison := k.poison + bad, taken := k.taken + 1 }, last)

/-- Samples and gaps one after the other, as far as they have come; `fuel` bounds what the intake holds. -/
def State.takeAll (t : Tensor) : Nat → State → Take → State × Take × Bool
  | 0, s, k => (s, k, false)
  | n + 1, s, k =>
    match s.takeOne t k with
    | none => (s, k, false)
    | some (s, k, true) => (s, k, true)
    | some (s, k, false) => State.takeAll t n s k

/-- A take goes on: to its end, or until it waits for a sample. -/
def State.takeOn (s : State) (c : Nat) (t : Tensor) (d : Desc) (k : Take) : State :=
  let (s, k, ends) := State.takeAll t (s.intake.samples.length + s.intake.gaps.length + 1) s k
  if ends then
    let r := { Rec.zero with status := if k.short then 2 else 0, flags := wroteFlags k.poison 0 0, m := k.rows,
                             poison := k.poison, kind := k.taken }
    (((s.setShape d.kspec k.rows).countAt 0x32 t.inst 1).setPhase c (.done r)).mapIntake fun i => { i with ended := i.ended ++ [(c, k)] }
  else s.setPhase c (.heldSample k)

/-- INT_STATUS.TAKE_WAIT follows the engines; a first wait counts INTAKE_EMPTY. -/
def State.noteTakeWait (s : State) : State :=
  let waits := s.job.engines.any fun e => match e.phase with | .heldSample _ => true | _ => false
  let s := if waits && !s.on INT_STATUS_TAKE_WAIT then s.count 0xCF else s
  s.put INT_STATUS_TAKE_WAIT (b2n waits)

/-- The destination of a take. -/
def State.takeTensor (s : State) (d : Desc) : Option Tensor :=
  match s.folio with
  | some f => f.tensor (fld d 0x0A 2)
  | none => none

/-- INTAKE_TAKE begins. -/
def State.takeBegin (s : State) (c : Nat) : State :=
  match s.ready c with
  | some d =>
    match s.takeTensor d with
    | some t =>
      if d.kind ≠ 0x24 then s
      else
        let s := (s.acquire d).setEng { s.eng c with since := s.time }
        if s.headElided c then s.setPhase c (.done .zero) else s.takeOn c t d ⟨0, 0, 0, 0, 0, s.intakeNext, false⟩
    | none => s
  | none => s

/-- INTAKE_TAKE. -/
def execIntakeTake (dma : Nat) (s : State) : Host.Outcome State Fault Refusal :=
  .next (if 32 ≤ dma then s else (s.takeBegin (0x10 + dma)).noteTakeWait.noteDma.settle)

/-- TAKE_WAIT: a take that waited goes on with what has come. -/
def execTakeWait (dma : Nat) (s : State) : Host.Outcome State Fault Refusal :=
  .next (if 32 ≤ dma then s
    else
      let c := 0x10 + dma
      match (s.eng c).phase, s.head c with
      | .heldSample k, some d =>
        match s.takeTensor d with
        | some t => if s.mayRun then (s.takeOn c t d k).noteTakeWait.noteDma.settle else s
        | none => s
      | _, _ => s)

/-! ## DMA_DONE, ACT_REPLAY, REPLAY_RESTART -/

/-- The take log's entry of a take that ended, after its record (R463). -/
def State.logEnded (s : State) (c : Nat) : State :=
  match s.intake.ended.find? fun x => x.1 == c with
  | some (_, k) =>
    (s.logTake k.first k.taken k.skipped k.gaps).mapIntake fun i => { i with ended := i.ended.filter fun x => x.1 != c }
  | none => s

/-- DMA_DONE: the record, then the signal (R134, R181). -/
def execDmaDone (dma : Nat) (s : State) : Host.Outcome State Fault Refusal :=
  .next (if 32 ≤ dma then s
    else
      let c := 0x10 + dma
      let i := s.dmaInst c
      let s := if s.replayPending c then (s.replayDone c).countAt 0x20 i 1
        else match (s.eng c).phase with
          | .done r => ((s.finishEng c r).logEnded c).countAt 0x20 i 1
          | _ => s
      s.noteDma.settle)

/-- Semaphores that a segment uses. -/
def segSems (f : Folio) (tid : Nat) : List Nat :=
  match f.save tid with
  | none => []
  | some e =>
    ([0, 1, 2].flatMap fun k =>
      (List.range (fld e (6 + 4 * k) 2)).flatMap fun i =>
        match f.replayDesc (if k = 2 then 0x80 else k) (fld e (4 + 4 * k) 2 + i) with
        | some d => (if d.waits then [d.waitSem] else []) ++ (if d.signals then [d.signalSem] else [])
        | none => []).dedup

/-- The segment of a tensor in which a stopped engine found a failed line is queued (R158). -/
def State.queueReplay (s : State) (c : Nat) (tid : Nat) (f : Folio) : State :=
  match f.save tid with
  | none => s
  | some e =>
    if s.job.replays.any fun r => r.tid == tid then s
    else
      let s := (segSems f tid).foldl (fun s i => s.setSem i 0) s
      let r : Replay := { tid := tid, pos0 := fld e 4 2, pos1 := fld e 8 2, posD := fld e 0x0C 2, dma := c,
                          done0 := none, done1 := none, doneD := none }
      let s := s.mapJob fun j =>
        { j with replays := j.replays ++ [r], replayCount := spSet (fun _ => 0) j.replayCount tid (spGet (fun _ => 0) j.replayCount tid + 1) }
      ((s.put DMA_STATUS_REPLAY 1).bump DMA_REPLAY_COUNT_COUNT 1).countAt 0x28 (match f.tensor tid with | some t => t.inst | none => {}) 1

/-- The failures found, up to the one in a tensor: it is the last of them. -/
def upTo (tid : Nat) : List (Nat × Nat) → List (Nat × Nat)
  | [] => []
  | x :: l => if x.1 = tid then [x] else x :: upTo tid l

/-- The failures found, up to the one in a tensor, queued in the order of finding (R159). -/
def State.queueFound (s : State) (tid : Nat) (f : Folio) : State :=
  if s.job.found.any fun x => x.1 == tid then
    let l := upTo tid s.job.found
    (l.foldl (fun s x => s.queueReplay x.2 x.1 f) s).mapJob fun j => { j with found := j.found.drop l.length }
  else s

/-- ACT_REPLAY: the replay of the tensor in which the engine stopped is queued, behind those of failures found before
(R158, R159). -/
def execActReplay (dma : Nat) (s : State) : Host.Outcome State Fault Refusal :=
  .next (match (s.eng (0x10 + dma)).phase, s.folio with
    | .stopped tid, some f => if dma < 32 then s.queueFound tid f else s
    | _, _ => s)

/-- Engines stopped for a tensor at the heads of their lists again (R159). -/
def State.unstop (s : State) (tid : Nat) : State :=
  s.mapJob fun j => { j with engines := j.engines.map fun e => if e.phase = .stopped tid then { e with phase := .idle } else e }

/-- REPLAY_RESTART: the segment has completed and the stopped descriptor starts again from its first byte; any other that
waited for the replay may start (R158, R159). A TABLE_LOAD whose bank a stroke has bound meanwhile waits for it (R139). -/
def execReplayRestart (dma : Nat) (s : State) : Host.Outcome State Fault Refusal :=
  .next (match s.job.replays, s.folio with
    | r :: rest, some f =>
      let c := 0x10 + dma
      if r.dma == c && decide (dma < 32) && segDone f r && s.mayRun then
        match s.head c with
        | some d =>
          let s := ((s.mapJob fun j => { j with replays := rest }).unstop r.tid).setEng { s.eng c with since := s.time, phase := .idle }
          if s.loadWaits d then ((s.setPhase c .heldTable).countAt 0x30 (s.srcTensorInst d) 1).noteDma.settle
          else
            let (s, x) := s.dmaWork c d false
            (s.dmaEnds c x).noteDma.settle
        | none => s
      else s
    | _, _ => s)

end Sys2Proof.Machine
end

