-- ==== Sys2Proof/Machine/Hosts.lean ====
section
/-! DEFINITION. The host ports as Ethernet ports: training, loss of the link, and the packets that are neither Chembe nor
intake (R404, R405, R417, R461). -/
namespace Sys2Proof.Machine

/-- A frame received on a host port that is up (R405); nothing on a port that is down. -/
def State.hostFrame (s : State) (port : Nat) (work : State → State) : State :=
  if decide (1 < port) || !s.hostUp port then s else work (s.hostRx port)

/-- A datagram discarded and counted in HPTh_DROP (R405). -/
def State.hostDiscard (s : State) (port : Nat) : State := s.bump (HPT_DROP_COUNT port) 1

/-- Addresses of a host port in the configuration record (R405). -/
def ConfigRec.ipv4 (c : ConfigRec) (port : Nat) : Nat := if port = 0 then c.ipv40 else c.ipv41

/-- The IPv6 address. -/
def ConfigRec.ipv6 (c : ConfigRec) (port : Nat) : Nat := if port = 0 then c.ipv60 else c.ipv61

/-- The MAC address. -/
def ConfigRec.mac (c : ConfigRec) (port : Nat) : Nat := if port = 0 then c.mac0 else c.mac1

/-- An answer sent on a host port, when the address asked for is the port's own. -/
def State.hostAnswer (s : State) (port kind own target peer : Nat) (data : List Byte) : State :=
  if target = own then (s.send (.net port kind own peer data)).countAt 0xC1 { port := some (24 + port) } 1
  else s.hostDiscard port

/-- ARP: the port answers a request for its own IPv4 address with its MAC address (R405). -/
def execArp (port targetIp senderIp _senderMac : Nat) (s : State) : Host.Outcome State Fault Refusal :=
  .next (s.hostFrame port fun s =>
    s.hostAnswer port 0 (s.flash.config.ipv4 port) targetIp senderIp (be 6 (s.flash.config.mac port)))

/-- NEIGHBOR_DISCOVERY: the same for its IPv6 address. -/
def execNeighborDiscovery (port targetIp senderIp _senderMac : Nat) (s : State) : Host.Outcome State Fault Refusal :=
  .next (s.hostFrame port fun s =>
    s.hostAnswer port 1 (s.flash.config.ipv6 port) targetIp senderIp (be 6 (s.flash.config.mac port)))

/-- ECHO_REQUEST: the data comes back (R405). -/
def execEchoRequest (port : Nat) (v6 : Bool) (targetIp senderIp : Nat) (data : List Byte) (s : State) :
    Host.Outcome State Fault Refusal :=
  .next (s.hostFrame port fun s =>
    if v6 then s.hostAnswer port 3 (s.flash.config.ipv6 port) targetIp senderIp data
    else s.hostAnswer port 2 (s.flash.config.ipv4 port) targetIp senderIp data)

/-- Does a port accept a packet: UDP to its own address in its VLAN, on the Chembe port or the intake port (R405)? That a packet
of another VLAN or for another address is not for the port is DEDUCED (log 116). -/
def State.takesDatagram (s : State) (d : Stray) : Bool :=
  let c := s.flash.config
  d.dst == (if d.v6 then c.ipv6 d.port else c.ipv4 d.port) && d.vlan == c.vlan
    && (d.udp == some c.chembePort || d.udp == some (s.get INT_CTRL_UDP_PORT))

/-- DATAGRAM_DROP: a packet that the port does not accept is discarded and counted (R405); one that it accepts is a Chembe or
an intake row. -/
def execDatagramDrop (packet : Stray) (s : State) : Host.Outcome State Fault Refusal :=
  .next (if s.takesDatagram packet then s else s.hostFrame packet.port fun s => s.hostDiscard packet.port)

/-- H_LINK_DOWN (R417). -/
def execHLinkDown (port : Nat) (s : State) : Host.Outcome State Fault Refusal :=
  .next (if 1 < port then s else s.hostDown port)

/-- What training reaches with the lanes that a mask names as good: speed code and LANES_HIGH (Table 12.1). -/
def State.hostTrained (s : State) (h lanes : Nat) : Option (Nat × Nat) :=
  if s.on (HPT_CTRL_ALLOW_400 h) ∧ lanes % 16 = 15 then some (2, 0)
  else if s.on (HPT_CTRL_ALLOW_200 h) ∧ lanes % 4 = 3 then some (1, 0)
  else if s.on (HPT_CTRL_ALLOW_200 h) ∧ lanes / 4 % 4 = 3 then some (1, 1)
  else none

/-- HOST_PORT_TRAIN: an enabled port that is down trains on the lanes of the mask `lanes`, and comes up at 400 Gb/s or falls
back to 200 Gb/s (R404, Table 13.12); events that waited for a port leave (R417). -/
def execHostPortTrain (port lanes : Nat) (s : State) : Host.Outcome State Fault Refusal :=
  .next (if decide (1 < port) || !s.power.mainOk || !s.on (HPT_CTRL_ENABLE port) || s.hostUp port then s
    else
      match s.hostTrained port lanes with
      | none => s
      | some (speed, high) =>
        let s := ((s.put (HPT_STATUS_LINK_UP port) 1).put (HPT_STATUS_SPEED port) speed).put (HPT_STATUS_LANES_HIGH port) high
        let s := if speed = 1 ∧ s.on (HPT_CTRL_ALLOW_400 port) then s.put (HPT_STATUS_DEGRADED port) 1 else s
        s.pump false)

end Sys2Proof.Machine
end

