-- ==== Sys2Proof/Machine/Nib.lean ====
section
/-! DEFINITION. The Nibs: spans, the four rules, passes and their barrier, sparse rows, the hold for the step size and for
a confirmation (R278 to R311, R388, R392). -/
namespace Sys2Proof.Machine

/-! ## F32 arithmetic (R287) -/

/-- f of R287: round to F32 in RNE. -/
def f32 (x : XV) : XV := roundXV fF32 x

/-- Does f clamp a value? -/
def f32Clamps (x : XV) : Bool := match x with | .fin n m e => (roundQ fF32 .rne n m 1 e).2 | _ => false

/-- f of a quotient, correctly rounded. -/
def f32Div (x y : XV) : XV := (divRound fF32 x y).1

/-- f of a square root. -/
def f32Sqrt (x : XV) : XV := sqrtRound fF32 x

/-- The F32 value of bits. -/
def ofF32 (n : Nat) : XV := decode fF32 n

/-- 1.0. -/
def XV.one : XV := .fin false 1 0

/-- pow_f32 of R290. -/
def powF32 (b : XV) (t : Nat) : XV :=
  (List.range 32).foldl (fun r i =>
    let r := f32 (r.mul r)
    if bit t (31 - i) then f32 (r.mul b) else r) .one

/-! ## A descriptor at one Nib -/

/-- Rule parameters of a layer in a step (R282, R287, R288). -/
structure Rule where
  rule : Nat
  frozen : Bool
  sparse : Bool
  nfSkip : Bool
  /-- S and S_MOM of the live state. -/
  sv : Int
  smom : Int
  updates : Nat
  /-- DECAY of the live state. -/
  decay : XV
  b1 : XV
  b2 : XV
  c1 : XV
  c2 : XV
  dk : XV
  es : XV
  esClamps : Bool
  lrU : XV
  nesterov : Bool
  biasCorr : Bool
  srCompute : Bool
  maxAge : Nat

/-- The rule of a layer as the step stands. -/
def State.rule (s : State) (f : Folio) (l : Nat) : Rule :=
  let r := f.layer l
  let live := s.liveLayer l
  let p := fun (o : Nat) => ofF32 (fld r (0x18 + o) 4)
  let sv := toSigned 8 (fld live 0 1)
  let lr := f32 ((ofF32 s.stepSize).mul (p 0))
  let es := (p 0x10).scale sv
  let rf := fld r 0x2C 4
  let age := fld r 0x16 2
  { rule := fld r 2 1, frozen := bit (fld r 0 2) 0, sparse := bit (fld r 0 2) 1, nfSkip := bit (fld r 0 2) 2, sv := sv,
    smom := toSigned 8 (fld live 1 1), updates := fld live 4 4, decay := ofF32 (fld live 8 4), b1 := p 8, b2 := p 0x0C,
    c1 := f32 (XV.one.sub (p 8)), c2 := f32 (XV.one.sub (p 0x0C)), dk := f32 (lr.mul (p 4)), es := f32 es,
    esClamps := f32Clamps es, lrU := if fld r 2 1 = 0 then f32 (lr.scale (-sv)) else lr, nesterov := bit rf 0,
    biasCorr := bit rf 1, srCompute := bit rf 2, maxAge := if age = 0 then 4 * fld r 0x14 2 else age }

/-- P_now of R302. -/
def Rule.pnow (k : Rule) : XV := f32 (k.decay.mul (f32 (XV.one.sub k.dk)))

/-- What a Nib works on: its number, the folio, the layer's record and number, the descriptor, the rule. -/
structure NibJob where
  nib : Nat
  f : Folio
  rec' : List Byte
  layer : Nat
  d : Desc
  k : Rule

/-- A tensor that the layer record names at an offset. -/
def NibJob.tensor (j : NibJob) (o : Nat) : Option Tensor := j.f.tensor (fld j.rec' o 2)

/-- The master. -/
def NibJob.master (j : NibJob) : Tensor := (j.tensor 8).getD (parseTensor [])

/-- A span: row, first column, elements (R278). -/
structure Span where
  row : Nat
  col : Nat
  n : Nat
  deriving DecidableEq, Repr

/-- Spans of a row. -/
def rowSpans (t : Tensor) (r : Nat) : List Span :=
  (List.range (ceilDiv t.d0 128)).map fun i => ⟨r, 128 * i, min 128 (t.d0 - 128 * i)⟩

/-- The Cabinet whose Nib owns a span (R278). -/
def spanNib (t : Tensor) (x : Span) : Nat := cabOf (lineOf (t.elemAddr x.row x.col))

/-- Is a span of the master in the descriptor's range? -/
def NibJob.inRange (j : NibJob) (x : Span) : Bool :=
  let (a, n) := nibRange j.d j.master
  let e := x.row * j.master.d0 + x.col
  decide (a ≤ e ∧ e < a + n)

/-- The Nib's spans among some rows. -/
def NibJob.spansOf (j : NibJob) (rows : List Nat) : List Span :=
  (rows.flatMap (rowSpans j.master)).filter fun x => j.inRange x && spanNib j.master x == j.nib

/-- The Nib's spans of its descriptor. -/
def NibJob.spans (j : NibJob) : List Span := j.spansOf (List.range j.master.rows)

/-! ## Reading (R279, R388) -/

/-- Is a range in replay mode for a step (R386)? -/
def Rng.replays (r : Rng) (step : Nat) : Bool :=
  match r.state with
  | .replay => true
  | .sent b => decide (b < step)
  | _ => false

/-- Addresses that stand for Inkwell lines in an INPUT frame: this, and the line's key above it (DESIGN CHOICE, log 106). -/
abbrev inkInput : Nat := 0x400000000000

/-- The address that an INPUT frame gives a line read at a place. -/
def inputAddr (p : Place) (a : Nat) : Nat := match p with | .dram => a | .ink d => inkInput + inkKey d a

/-- INPUT frames for lines that the Nibs read for a range in replay mode: those outside the shard, or written earlier in
the step by another writer (R388). -/
def State.sendInputs (s : State) (layer : Nat) (p : Place) (ls : Lines) : State :=
  if s.followed && s.svl.ranges.any (fun r => r.layer == some layer && r.replays s.step) then
    ls.foldl (fun s l =>
      let a := inputAddr p l.1
      let due := (shardOffset s.svl.shard a).isNone || s.svl.written.contains a
      if due && !s.svl.inputs.contains a then
        (s.ride 0xFF04 (a / 128) (if l.2.1.marked then zeroLine else l.2.2) l.2.1.marked).mapSvl fun v =>
          { v with inputs := a :: v.inputs, inputCount := v.inputCount + 1 }
      else s) s
  else s

/-- Elements of a row read by a Nib. -/
def State.nibBuf (s : State) (j : NibJob) (t : Tensor) (rows : List Nat) (c n : Nat) : State × Buf :=
  let (s, b) := s.readRows (0x40 + j.nib) t rows c n false
  (s.sendInputs j.layer (t.readPlace (0x40 + j.nib)) (b.elems ++ b.scales), b)

/-- Values of a span of a tensor, or zeros where the layer names none. -/
def State.nibVals (s : State) (j : NibJob) (t : Option Tensor) (r c n : Nat) : State × List Val :=
  match t with
  | some t =>
    let (s, b) := s.nibBuf j t [r] c n
    (s, (List.range n).map fun i => b.val r (c + i))
  | none => (s, List.replicate n ⟨false, .zero⟩)

/-! ## What a Nib counts -/

/-- Figures of one descriptor at one Nib: those of its record, the lines that it has written as poison, each counted once however
many spans share it (R311), saturations and non-finite values, E and Z. -/
structure NibTally where
  r : Rec
  bad : List Nat
  sat : Nat
  nonfin : Nat
  e : Nat
  z : Nat

/-- Nothing counted. -/
def NibTally.zero : NibTally := ⟨.zero, [], 0, 0, 0, 0⟩

/-- A record carried over a barrier, as figures that still count. -/
def NibTally.ofRec (r : Rec) : NibTally := ⟨r, [], b2n (bit r.flags 2), b2n (bit r.flags 1), 0, 0⟩

/-- The record with its flags (R311). -/
def NibTally.toRec (a : NibTally) (stale : Bool) : Rec :=
  { a.r with flags := a.r.flags ||| wroteFlags a.r.poison a.nonfin a.sat ||| (if stale then flStale else 0) }

/-- Values written to a span of a tensor by a rule. -/
def State.nibWrite (s : State) (nib : Nat) (t : Option Tensor) (r c : Nat) (vs : List (Val × Rnd)) (a : NibTally) : State × NibTally :=
  match t with
  | some t =>
    let row := encodeRow t r c vs
    let new := (row.bad t).dedup.filter fun l => !a.bad.contains l
    let (s, _, g) := s.storeRows t [row] true
    let s := (s.countAt 0x8D (cabInst nib) new.length).countAt 0x8E (cabInst nib) g.sat
    (s.gauge t g, { a with r := { a.r with poison := a.r.poison + new.length }, bad := new ++ a.bad, sat := a.sat + g.sat, nonfin := a.nonfin + g.nonfin })
  | none => (s, a)

/-- Figures of a layer added to the step's (R286, R322). -/
def State.noteLayer (s : State) (l e z : Nat) (pnow : XV) : State :=
  let code := (encodeXV fF32 .rne pnow).1
  s.mapJob fun j =>
    let old := match j.layers.find? fun x => x.layer == l with | some x => x | none => ⟨l, 0, 0, true, code⟩
    { j with layers := ⟨l, old.e + e, old.z + z, true, code⟩ :: j.layers.filter fun x => x.layer != l }

/-! ## Moments under another exponent (R299) -/

/-- A stored value rescaled by 2^k: the value, and whether f clamped it. -/
def rescale (k : Int) (v : Val) : Val × Nat :=
  if k = 0 then (v, 0) else ({ v with x := f32 (v.x.scale k) }, b2n (f32Clamps (v.x.scale k)))

/-- Values rescaled, with the clamps counted. -/
def rescaleAll (k : Int) (vs : List Val) : List Val × Nat :=
  ((vs.map fun v => (rescale k v).1), (vs.map fun v => (rescale k v).2).sum)

/-- Powers by which m1 and m2 are rescaled for a difference of exponents. -/
def Rule.shifts (k : Rule) (diff : Int) : Int × Int :=
  (if k.rule ≤ 1 then diff else 0, if k.rule = 0 then 0 else 2 * diff)

/-! ## The rules (R289 to R292) -/

/-- One element's inputs: gradient, raw gradient, moments, FACTORED v, and whether its roots are fresh. -/
structure Elem where
  g : XV
  raw : XV
  m1 : XV
  m2 : XV
  v : XV
  fresh : Bool

/-- u and the new moments; `t` is the update number, `hasM1` says that TID_M1 is named. -/
def Rule.direction (k : Rule) (t : Nat) (hasM1 : Bool) (x : Elem) : XV × XV × XV :=
  let ema := fun (b c m y : XV) => f32 ((f32 (b.mul m)).add (f32 (c.mul y)))
  let corr := fun (m b : XV) => f32Div m (f32 (XV.one.sub (powF32 b t)))
  let den := fun (h : XV) => f32 ((f32Sqrt h).add k.es)
  match k.rule with
  | 0 =>
    if !hasM1 then (x.g, x.m1, x.m2)
    else
      let m1 := f32 ((f32 (k.b1.mul x.m1)).add x.g)
      (if k.nesterov then f32 (x.g.add (f32 (k.b1.mul m1))) else m1, m1, x.m2)
  | 1 =>
    let m1 := ema k.b1 k.c1 x.m1 x.g
    let m2 := ema k.b2 k.c2 x.m2 (f32 (x.g.mul x.g))
    let h1 := if k.biasCorr then corr m1 k.b1 else m1
    let h2 := if k.biasCorr then corr m2 k.b2 else m2
    (f32Div h1 (den h2), m1, m2)
  | 2 =>
    let d := f32Div x.g (den x.v)
    if hasM1 then let m1 := ema k.b1 k.c1 x.m1 d; (m1, m1, x.m2) else (d, x.m1, x.m2)
  | _ =>
    let m2 := ema k.b2 k.c2 x.m2 (f32 (x.raw.mul x.raw))
    let h2 := if k.biasCorr then corr m2 k.b2 else m2
    let d := if x.fresh then x.g else f32Div x.raw (den h2)
    let m1 := ema k.b1 k.c1 x.m1 d
    (m1, m1, m2)

/-- The new master value before rounding (R293); `catch'` is the decay that a sparse row missed (R302). -/
def Rule.newMaster (k : Rule) (catch' w u : XV) : XV :=
  let w := if catch'.eqv .one then w else f32 (w.mul catch')
  w.sub (f32 ((f32 (k.lrU.mul u)).add (f32 (k.dk.mul (f32 w)))))

/-! ## One span -/

/-- What a span needs beside the tensors: update number, exponent difference, missed decay. -/
structure SpanArg where
  t : Nat
  diff : Int
  catch' : XV

/-- Is a root fresh (R292)? -/
def rootFresh (step maxAge x : Nat) : Bool := x != 0xFFFFFFFF && decide (x ≤ step ∧ step - x ≤ maxAge)

/-- Root status elements of a KRONECKER layer for the columns of a span and for its row. One that carries the poison marker tells no
step, so that its root is not fresh and the diagonal fallback applies (DESIGN CHOICE, log 114). -/
def State.rootAges (s : State) (j : NibJob) (x : Span) : State × (Nat → Bool) :=
  match j.tensor 0x34, j.tensor 0x36 with
  | some t2, some t3 =>
    let row := x.row % j.master.d1
    let (s, b2) := s.nibBuf j t2 [0] (x.col / 512) ((x.col + x.n - 1) / 512 + 1 - x.col / 512)
    let (s, b3) := s.nibBuf j t3 [0] (row / 512) 1
    let ok := fun (m : Bool × Nat) => !m.1 && rootFresh s.step j.k.maxAge m.2
    (s, fun i => ok (b2.idx 0 ((x.col + i) / 512)) && ok (b3.idx 0 (row / 512)))
  | _, _ => (s, fun _ => false)

/-- FACTORED's v for the columns of a span: f(f(R_i × C_j) / Rt), NaN wherever Rt is 0, with its marker (R291). -/
def State.factored (s : State) (j : NibJob) (x : Span) : State × List Val :=
  match j.tensor 0x0C, j.tensor 0x12, j.tensor 0x30 with
  | some tr, some tc, some rs =>
    let (s, br) := s.nibBuf j tr [0] x.row 1
    let (s, bc) := s.nibBuf j tc [0] x.col x.n
    let (s, bt) := s.nibBuf j rs [0] j.master.d1 1
    let r := br.val 0 x.row
    let rt := bt.val 0 j.master.d1
    (s, (List.range x.n).map fun i =>
      let c := bc.val 0 (x.col + i)
      ⟨r.mark || c.mark || rt.mark, if rt.x.isZero then .nan else f32Div (f32 (r.x.mul c.x)) rt.x⟩)
  | _, _, _ => (s, List.replicate x.n ⟨false, .nan⟩)

/-- The apply pass on one span (R293, R298, R299). A span reads its lines as they stand, so that where an earlier span of the Nib has
written a shared line as poison it takes that marker (R131, R521; DESIGN CHOICE, log 114). Outside FACTORED only a Nib that
rescales a moment sets RESCALED (log 114). -/
def State.applySpan (s : State) (j : NibJob) (x : Span) (arg : SpanArg) (a : NibTally) : State × NibTally :=
  let k := j.k
  let m := j.master
  let tm1 := j.tensor 0x0A
  let tm2 := if k.rule = 2 then none else j.tensor 0x0C
  let (s, w) := s.nibVals j (some m) x.row x.col x.n
  let (s, g) := s.nibVals j (j.tensor 0x10) x.row x.col x.n
  let (s, raw) := if k.rule = 3 then s.nibVals j (j.tensor 0x30) x.row x.col x.n else (s, g)
  let (s, m1) := s.nibVals j tm1 x.row x.col x.n
  let (s, m2) := s.nibVals j tm2 x.row x.col x.n
  let (s, v) := if k.rule = 2 then s.factored j x else (s, List.replicate x.n ⟨false, .zero⟩)
  let (s, fresh) := if k.rule = 3 then s.rootAges j x else (s, fun _ => true)
  let sh := k.shifts arg.diff
  let (m1, n1) := if tm1.isSome then rescaleAll sh.1 m1 else (m1, 0)
  let (m2, n2) := if tm2.isSome then rescaleAll sh.2 m2 else (m2, 0)
  let z : Val := ⟨false, .zero⟩
  let outs := (List.range x.n).map fun i =>
    let at' := fun (l : List Val) => l.getD i z
    let mark := (at' w).mark || (at' g).mark || (at' raw).mark || (at' m1).mark || (at' m2).mark || (at' v).mark
    let (u, a1, a2) := k.direction arg.t tm1.isSome ⟨f32 (at' g).x, f32 (at' raw).x, f32 (at' m1).x, f32 (at' m2).x, (at' v).x, fresh i⟩
    let e := x.row * m.d0 + x.col + i
    let wn := encodeXV fW24 (.sr (srWord s.run.seed m.tid e s.step)) (k.newMaster arg.catch' (at' w).x u)
    (mark, k.newMaster arg.catch' (at' w).x u, a1, a2, decode fW24 wn.1, e)
  let key := fun (tid e : Nat) => Rnd.sr (srWord s.run.seed tid e s.step)
  let (s, a) := s.nibWrite j.nib (some m) x.row x.col (outs.map fun o => (⟨o.1, o.2.1⟩, key m.tid o.2.2.2.2.2)) a
  let (s, a) := s.nibWrite j.nib tm1 x.row x.col (outs.map fun o => (⟨o.1, o.2.2.1⟩, .rne)) a
  let (s, a) := s.nibWrite j.nib tm2 x.row x.col (outs.map fun o => (⟨o.1, o.2.2.2.1⟩, .rne)) a
  let tc := j.tensor 0x0E
  let rnd := fun (e : Nat) =>
    match tc with
    | some t => if k.srCompute && t.blk != 0 then key t.tid e else .rne
    | none => .rne
  let (s, a) := s.nibWrite j.nib tc x.row x.col (outs.map fun o => (⟨o.1, o.2.2.2.2.1⟩, rnd o.2.2.2.2.2)) a
  let fall := if k.rule = 3 then ((List.range x.n).filter fun i => !fresh i).length else 0
  let zg := if k.rule = 3 then raw else g
  let resc := (decide (sh.1 ≠ 0) && tm1.isSome) || (decide (sh.2 ≠ 0) && tm2.isSome)
  (s, { a with e := a.e + x.n, z := a.z + (zg.filter fun y => !y.mark && y.x.isZero).length, sat := a.sat + n1 + n2,
               r := { a.r with m := a.r.m + x.n, n := a.r.n + 1, kind := a.r.kind + fall,
                               flags := a.r.flags ||| (if resc then flRescaled else 0) } })

/-! ## Sparse rows (R301, R302) -/

/-- The row record of a sparse row: count, S_ROW, P_row bits. A record that carries the poison marker reads as zeros, and its marker
goes no further (DESIGN CHOICE, log 114). -/
def State.rowRecord (s : State) (j : NibJob) (r : Nat) : State × Nat × Int × Nat :=
  match j.tensor 0x12 with
  | some t =>
    let (s, b) := s.nibBuf j t [r] 0 4
    (s, (b.idx r 0).2, toSigned 8 ((b.idx r 1).2 % 256), (b.idx r 2).2)
  | none => (s, 0, 0, 0)

/-- The touched list up to its first pad index or its end, which lies at OUTER_ALLOC (R115): row numbers with their markers. -/
def State.touchedList (s : State) (j : NibJob) : State × List (Bool × Nat) :=
  match j.f.tensor j.d.nTouched with
  | some t =>
    let (s, b) := s.nibBuf j t (List.range t.allocRows) 0 (t.allocDim 0)
    let all := (List.range t.allocRows).flatMap fun r => (List.range (t.allocDim 0)).map fun i => b.idx r i
    (s, all.takeWhile fun m => m.1 || m.2 != 0xFFFFFFFF)
  | none => (s, [])

/-- Rows that the descriptor touches, ascending, the indices that it skips, and whether one of these was marked. -/
def State.touchedRows (s : State) (j : NibJob) : State × List Nat × Nat × Bool :=
  if j.d.kind = 0x41 then
    let (s, l) := s.touchedList j
    let good := (l.filter fun m => !m.1 && decide (m.2 < j.master.d1)).map Prod.snd
    (s, good.dedup.mergeSort fun a b => decide (a ≤ b), l.length - good.length, l.any Prod.fst)
  else (s, List.range j.master.rows, 0, false)

/-- The apply pass of a sparse layer. -/
def State.applySparse (s : State) (j : NibJob) (a : NibTally) : State × NibTally :=
  let (s, rows, skipped, marked) := s.touchedRows j
  let s := (s.countAt 0x88 (cabInst j.nib) skipped).countAt 0x87 (cabInst j.nib) (rows.filter fun r => !(j.spansOf [r]).isEmpty).length
  let a := { a with r := { a.r with kind := a.r.kind + skipped, flags := a.r.flags ||| (if marked then flPoisonIndex else 0) } }
  rows.foldl (fun (acc : State × NibTally) r =>
    let (s, cnt, srow, prow) := acc.1.rowRecord j r
    let p := ofF32 prow
    let c := if p.isZero then XV.one else f32Div j.k.decay p
    (j.spansOf [r]).foldl (fun (acc : State × NibTally) x =>
      acc.1.applySpan j x ⟨(cnt + 1) % 2 ^ 32, j.k.sv - srow, c⟩ acc.2) (s, acc.2)) (s, a)

/-- The row records that the Nib owns, written after the barrier (R302). -/
def State.writeRows (s : State) (j : NibJob) : State :=
  let (s, rows, _, _) := s.touchedRows j
  match j.tensor 0x12 with
  | none => s
  | some t =>
    rows.foldl (fun s r =>
      if spanNib j.master ⟨r, 0, 0⟩ = j.nib then
        let (s, cnt, _, _) := s.rowRecord j r
        let bs := le 4 (cnt + 1) ++ le 4 (ofSigned 8 j.k.sv) ++ le 4 (encodeXV fF32 .rne j.k.pnow).1 ++ le 4 0
        s.storeCells .dram (cellsOf (t.elemAddr r 0) bs) [] true
      else s) s

/-! ## FACTORED's first passes (R291) -/

/-- Lines of a tensor in one Cabinet. -/
def linesIn (t : Tensor) (c : Nat) : List Nat := (linesOf t.elemBase (t.d0 * t.width / 8)).filter fun a => cabOf a == c

/-- What the gauge of a tensor counts of `n` elements written as +0 (Table 9.1). -/
def zeroTally (t : Tensor) (n : Nat) : GaugeAcc := (encodeRow t 0 0 (List.replicate n (⟨false, .zero⟩, .rne))).gauge

/-- Elements of a one-row tensor that lie in a line. -/
def elemsIn (t : Tensor) (a : Nat) : Nat := ((List.range t.d0).filter fun i => lineOf (t.elemAddr 0 i) == a).length

/-- Pass 0: +0 in the lines of RS and CS of the Nib's Cabinet, which their gauges count as any write (R291, R317). No
writer other than a Nib has written them (R388). -/
def State.clearSums (s : State) (j : NibJob) : State :=
  ([j.tensor 0x30, j.tensor 0x32].filterMap id).foldl (fun s t =>
    (linesIn t j.nib).foldl (fun (s : State) a =>
      let w := (s.lineWrite a zeroLine false).gauge t (zeroTally t (elemsIn t a))
      { w with svl := { w.svl with written := s.svl.written } }) s) s

/-- Pass 1: squares added to RS and CS. -/
def State.addSquares (s : State) (j : NibJob) : State :=
  match j.tensor 0x30, j.tensor 0x32 with
  | some rs, some cs =>
    j.spans.foldl (fun s x =>
      let (s, g) := s.nibVals j (j.tensor 0x10) x.row x.col x.n
      (List.range x.n).foldl (fun s i =>
        let v := g.getD i ⟨false, .zero⟩
        let q := (encodeXV fF32 .rne ((f32 v.x).mul (f32 v.x))).1
        let src := AddSrc.engine (0x40 + j.nib)
        (s.exactAdd (rs.elemAddr 0 x.row) fF32 q v.mark src).exactAdd (cs.elemAddr 0 (x.col + i)) fF32 q v.mark src) s) s
  | _, _ => s

/-- Spans of a statistics tensor that the Nib owns (R278). -/
def statSpans (t : Tensor) (c : Nat) : List Span := (rowSpans t 0).filter fun x => spanNib t x == c

/-- Pass 2 on one statistics tensor, from its sums as the sealed lines gave them: the new statistics, and for rows their
sum into RS[D1]. -/
def State.statPass (s : State) (j : NibJob) (t : Tensor) (sums : Buf) (total : Option Nat) (a : NibTally) : State × NibTally :=
  (statSpans t j.nib).foldl (fun (acc : State × NibTally) x =>
    let (s, olds) := acc.1.nibVals j (some t) 0 x.col x.n
    let (olds, n) := rescaleAll (2 * (j.k.sv - j.k.smom)) olds
    let news := (List.range x.n).map fun i =>
      let o := olds.getD i ⟨false, .zero⟩
      let q := sums.val 0 (x.col + i)
      (⟨o.mark || q.mark, f32 ((f32 (j.k.b2.mul (f32 o.x))).add (f32 (j.k.c2.mul q.x)))⟩ : Val)
    let (s, a) := s.nibWrite j.nib (some t) 0 x.col (news.map fun v => (v, .rne)) { acc.2 with sat := acc.2.sat + n }
    let s := match total with
      | some addr => news.foldl (fun s v => s.exactAdd addr fF32 (encodeXV fF32 .rne (roundXV t.fmt v.x)).1 v.mark (.engine (0x40 + j.nib))) s
      | none => s
    (s, a)) (s, a)

/-- Pass 2 at one Nib. RESCALED stands in the records of all sixteen Nibs, also of one that owns none of the statistics (DESIGN
CHOICE, log 114). -/
def State.factorStats (s : State) (j : NibJob) (bufs : Option (Buf × Buf)) (a : NibTally) : State × NibTally :=
  match bufs, j.tensor 0x0C, j.tensor 0x12, j.tensor 0x30 with
  | some (rb, cb), some tr, some tc, some rs =>
    let (s, a) := s.statPass j tr rb (some (rs.elemAddr 0 j.master.d1)) a
    let (s, a) := s.statPass j tc cb none a
    (s, { a with r := { a.r with flags := a.r.flags ||| (if j.k.sv = j.k.smom then 0 else flRescaled) } })
  | _, _, _, _ => (s, a)

/-- The sums of RS and CS, whose reading seals their lines before any Nib adds to RS[D1] (R291, log 24). -/
def State.readSums (s : State) (j : NibJob) : State × Option (Buf × Buf) :=
  match j.tensor 0x30, j.tensor 0x32 with
  | some rs, some cs =>
    let (s, rb) := s.nibBuf j rs [0] 0 rs.d0
    let (s, cb) := s.nibBuf j cs [0] 0 cs.d0
    (s, some (rb, cb))
  | _, _ => (s, none)

/-! ## Passes (R280, R297) -/

/-- The passes of a descriptor. -/
inductive Pass where
  | scan | clear | squares | stats | apply | rows
  deriving DecidableEq, Repr

/-- The passes that a rule runs, in order. -/
def Rule.passes (k : Rule) : List Pass :=
  (if k.nfSkip then [Pass.scan] else [])
    ++ (if k.rule = 2 then [.clear, .squares, .stats, .apply] else if k.sparse then [.apply, .rows] else [.apply])

/-- Does a scan of the descriptor's whole range find a non-finite or poisoned element (R297)? -/
def State.scanPass (s : State) (j : NibJob) : State × Bool :=
  j.spans.foldl (fun (acc : State × Bool) x =>
    let (s, g) := acc.1.nibVals j (j.tensor 0x10) x.row x.col x.n
    let (s, raw) := if j.k.rule = 3 then s.nibVals j (j.tensor 0x30) x.row x.col x.n else (s, [])
    (s, acc.2 || (g ++ raw).any fun v => v.mark || !v.x.isFin)) (s, false)

/-- The apply pass of a dense layer. -/
def State.applyDense (s : State) (j : NibJob) (a : NibTally) : State × NibTally :=
  j.spans.foldl (fun (acc : State × NibTally) x =>
    acc.1.applySpan j x ⟨(j.k.updates + 1) % 2 ^ 32, j.k.sv - j.k.smom, .one⟩ acc.2) (s, a)

/-- One pass at one Nib, with the record so far. -/
def State.nibPass (s : State) (j : NibJob) (p : Pass) (bufs : Option (Buf × Buf)) (r : Rec) : State × Rec :=
  let a := NibTally.ofRec r
  match p with
  | .scan =>
    let (s, hit) := s.scanPass j
    (if hit then s.mapJob fun b => { b with scanHits := if b.scanHits.contains j.layer then b.scanHits else j.layer :: b.scanHits }
      else s, r)
  | .clear => (s.clearSums j, r)
  | .squares => (s.addSquares j, r)
  | .stats => let (s, a) := s.factorStats j bufs a; (s, a.toRec false)
  | .apply =>
    let (s, a) := if j.k.sparse then s.applySparse j a else s.applyDense j a
    let a := { a with sat := a.sat + b2n j.k.esClamps }
    let stale := s.on NIB0_STEP_QUEUE_STALE_NOW
    let diag := if j.k.rule = 3 then a.r.kind else 0
    let s := ((s.noteLayer j.layer a.e a.z j.k.pnow).bump (NIB_DIAG_COUNT_DIAG_FALLBACK j.nib) diag).countAt 0x85 (cabInst j.nib) diag
    (s.countAt 0x81 (cabInst j.nib) a.r.m, a.toRec stale)
  | .rows => (s.writeRows j, r)

/-! ## A Nib's list -/

/-- The work of a Nib on its head descriptor. -/
def State.nibJob (s : State) (c : Nat) : Option NibJob :=
  match s.folio, s.head (0x40 + c) with
  | some f, some d => some ⟨c, f, f.layer d.nLayer, d.nLayer, d, s.rule f d.nLayer⟩
  | _, _ => none

/-- A Nib's descriptor completes: status bits, counters, record (R306, R311, Table 8.9). -/
def State.nibDone (s : State) (c : Nat) (r : Rec) : State :=
  let set := fun (on : Bool) (x : Fld) (s : State) => if on then s.put x 1 else s
  let s := set (bit r.flags 6) (NIB_STATUS_NF_SKIP c) (s.put (NIB_STATUS_BUSY c) 0)
  let s := set (r.status == 1) (NIB_STATUS_FROZEN_SKIP c) s
  let s := set (bit r.flags 0) (NIB_STATUS_POISON_OUT c) s
  let s := set (bit r.flags 2) (NIB_STATUS_SATURATED c) s
  let s := set (bit r.flags 8) (NIB_STATUS_RESCALED c) s
  let s := if bit r.flags 8 then s.countAt 0x86 (cabInst c) 1 else s
  (s.countAt 0x80 (cabInst c) 1).finishEng (0x40 + c) r

/-- Pass `i` at one Nib, and what follows it: the barrier, or the record. -/
def State.runPass (s : State) (j : NibJob) (i : Nat) (bufs : Option (Buf × Buf)) (r : Rec) : State :=
  match j.k.passes[i]? with
  | none => s.nibDone j.nib r
  | some p =>
    let (s, r) := s.nibPass j p bufs r
    if i + 1 < j.k.passes.length then (s.setPhase (0x40 + j.nib) (.atBarrier i r)).countAt 0x82 (cabInst j.nib) 1
    else s.nibDone j.nib r

/-- STEP_SIZE_STALE of a record of a step that latched stale (R304, R311). -/
def State.staleFlag (s : State) : Nat := if s.on NIB0_STEP_QUEUE_STALE_NOW then flStale else 0

/-- A skipped descriptor (R297). -/
def State.nibSkip (s : State) (c : Nat) : State :=
  ((s.bump (NIB_SKIP_COUNT_NF_SKIP c) 1).countAt 0x84 (cabInst c) 1).nibDone c { Rec.zero with flags := flNfSkipped ||| s.staleFlag }

/-- A FROZEN layer's descriptor (R306). -/
def State.nibFrozen (s : State) (c : Nat) : State :=
  ((s.bump (NIB_SKIP_COUNT_FROZEN_SKIP c) 1).countAt 0x83 (cabInst c) 1).nibDone c { Rec.zero with status := 1, flags := s.staleFlag }

/-! ## Holds (R304, R392) -/

/-- Is step `step` - 2 confirmed (R392)? -/
def State.confirmedFor (s : State) (step : Nat) : Bool :=
  let d := (s.get SVL_CONFIRMED_STEP + 2 ^ 32 + 2 - step) % 2 ^ 32
  decide (d < 2 ^ 31)

/-- Before the first Nib descriptor of the step: the hold for a confirmation (R392), then the latch of the step size or
the hold of every Nib for it (R304). Answers whether the descriptor may run. -/
def State.nibGate (s : State) : State × Bool :=
  if s.latched then (s, true)
  else if s.followed && !s.confirmedFor s.step then
    ((s.put SVL_STATUS_CONFIRM_HOLD 1).mapRun fun r => { r with confirmWait := true }, false)
  else
    let s := (s.put SVL_STATUS_CONFIRM_HOLD 0).mapRun fun r => { r with confirmWait := false }
    match s.run.pendingSteps.find? fun p => p.1 == s.step with
    | some p => (s.latch p.2 false, true)
    | none =>
      if s.get NIB0_STEP_CTRL_WAIT_US = 0 then (s.latch s.stepSize true, true)
      else if s.run.holdSince.isSome then (s, false)
      else ((List.range 16).foldl (fun s n => s.countAt 0x8A (cabInst n) 1)
        (s.mapRun fun r => { r with holdSince := some s.time }), false)

/-- A Nib's head descriptor of a kind starts: FROZEN, or its first pass. -/
def State.nibStart (s : State) (c kind : Nat) : State :=
  if 16 ≤ c then s
  else match s.ready (0x40 + c) with
  | none => s
  | some d =>
    if d.kind ≠ kind then s
    else
      let (s, go) := s.nibGate
      if !go then s
      else
        let s := (s.acquire d).setEng { s.eng (0x40 + c) with since := s.time }
        match s.nibJob c with
        | none => s
        | some j =>
          if j.k.frozen then s.nibFrozen c
          else (((s.readLayer j.layer true).put (NIB_STATUS_BUSY c) 1).countAt 0x8F (cabInst c) 1).runPass j 0 none .zero

/-- Has a Nib ended a pass, with none of its exact adds waiting (R264)? -/
def State.passEnded (s : State) (p c : Nat) : Bool :=
  (match (s.eng (0x40 + c)).phase with | .atBarrier q _ => q == p | _ => false) && !s.addsWait (.engine (0x40 + c))

/-- The barrier that all sixteen Nibs have reached: the pass that they ended. -/
def State.barrierPass (s : State) : Option Nat :=
  match (s.eng 0x40).phase with
  | .atBarrier p _ => if (List.range 16).all (s.passEnded p) then some p else none
  | _ => none

/-- The next pass at every Nib. -/
def State.passBarrier (s : State) (p : Nat) : State :=
  let (s, bufs) := match s.nibJob 0 with
    | some j => if j.k.passes[p + 1]? = some .stats then s.readSums j else (s, none)
    | none => (s, none)
  (List.range 16).foldl (fun s c =>
    match s.nibJob c, (s.eng (0x40 + c)).phase with
    | some j, .atBarrier _ r => if s.job.scanHits.contains j.layer then s.nibSkip c else s.runPass j (p + 1) bufs r
    | _, _ => s) s

/-! ## The commands -/

/-- UPDATE (R183, R280). -/
def execUpdate (nib : Nat) (s : State) : Host.Outcome State Fault Refusal :=
  .next ((s.nibStart nib 0x40).settle)

/-- SPARSE_UPDATE (R183, R302). -/
def execSparseUpdate (nib : Nat) (s : State) : Host.Outcome State Fault Refusal :=
  .next ((s.nibStart nib 0x41).settle)

/-- NIB_BARRIER: all sixteen Nibs have ended a pass and go on (R280). -/
def execNibBarrier (s : State) : Host.Outcome State Fault Refusal :=
  .next (match s.barrierPass with
    | some p => (s.passBarrier p).settle
    | none => s)

/-- CONFIRM_HOLD: the step that the first Nib descriptor waits for is confirmed, and the descriptor may start (R392). -/
def execConfirmHold (s : State) : Host.Outcome State Fault Refusal :=
  .next (if s.run.confirmWait && s.confirmedFor s.step then s.nibGate.1 else s)

end Sys2Proof.Machine
end

