-- ==== Sys2Proof/Machine/Ward.lean ====
section
/-! DEFINITION. The partner's side of survival: RIDE frames of the ward, staged steps, their application, seals, and the
commands that confirm, seal and name a second partner (R366, R367, R376, R377, R382 to R398). -/
namespace Sys2Proof.Machine

/-! ## Ranges of the ward -/

/-- Ranges of the ward in replay mode in step `u` (R386): landed and confirmed, or landed at the end of an earlier step. -/
def State.wardReplays (s : State) (u : Nat) : Nat :=
  (s.svl.wardLanded.filter fun p => decide (p.1 < u)).foldl (fun m p => m ||| p.2) s.svl.wardReplay

/-- The range of an image line. -/
def rangeOfLine (rs : List Rng) (l : Nat) : Option Nat := rs.findIdx? fun r => r.holds l

/-- Where the two stage halves lie behind the ward's image, and the bytes of each (R377): what SHADOW_BYTES leaves beside the
header and the image; in a Bench, whose image is at 0, what lies below the system region (log 68). -/
def State.stageArea (s : State) : Option (Nat × Nat) :=
  match s.wardFolio with
  | none => none
  | some f =>
    let len := shardLen f.shard
    let room := match s.folio with
      | some g => match g.partner with | some (_, _, _, n) => n - 0x200000 | none => systemBase
      | none => systemBase
    some (s.wardBase + len, (room - len) / 256 * 128)

/-! ## The follow of the ward ends (R393) -/

/-- A staged step changed; a step's first frame makes it. -/
def State.onStage (s : State) (u : Nat) (f : Stage → Stage) : State :=
  s.mapSvl fun v =>
    if v.stages.any fun g => g.step == u then { v with stages := v.stages.map fun g => if g.step = u then f g else g }
    else { v with stages := v.stages ++ [f { step := u, half := none, lines := 0, frames := [], copied := 0, echoed := 0 }] }

/-- Does the partner follow, or stand frozen after a GASP with staged steps that the host may still confirm (R398)? -/
def State.following (s : State) : Bool := [1, 2, 4].contains (s.get SVL_STATUS_WARD_FOLLOW)

/-- The ward told that its follow is LOST: MARK UNLAND of every range (log 12). -/
def State.tellLost (s : State) : State :=
  match s.wardRole with
  | some w => s.rideTo w 0xFF05 5 (fit 128 (le 4 0xFFFFFFFF)) false
  | none => s

/-- The follow of the ward is LOST; the ward hears of it by MARK UNLAND of every range (log 12). The next frame of its RIDE
stream counts as the one whose turn it is. -/
def State.loseWard (s : State) : State :=
  let s := (s.put SVL_STATUS_WARD_FOLLOW 3).put SVL_STATUS_FOLLOW_LOST 1
  let s := s.mapSvl fun v => { v with stages := [], wardReplay := 0, wardLanded := [], rideNext := [], rideHeld := [] }
  s.tellLost

/-- The host is told of what the partner found (R398, Table 11.8): by HOST_REQUEST, with a KIND that the spec leaves open beside
its 1 (DESIGN CHOICE, log 70). -/
def State.tellHost (s : State) : State :=
  ({ s with free := s.free + 1 } : State).raise 7 (le 4 (Config.freeNat s.free))

/-- The digests differ (R393); the host is told (Table 11.8). -/
def State.loseDigest (s : State) : State := ((s.put SVL_STATUS_DIGEST_MISMATCH 1).count 0xE8).loseWard.tellHost

/-- A stage half that no staged step has (R377). -/
def freeHalf (gs : List Stage) : Option Nat := [0, 1].find? fun h => !(gs.any fun g => g.half == some h)

/-- The half of a staged step: the one that it has, or one that is free. -/
def State.halfFor (s : State) (u : Nat) : Option Nat :=
  match s.svl.stages.find? fun g => g.step == u with
  | some g => match g.half with | some h => some h | none => freeHalf s.svl.stages
  | none => freeHalf s.svl.stages

/-- Lines that a staged step has taken of its half. -/
def State.stagedLines (s : State) (u : Nat) : Nat := match s.svl.stages.find? fun g => g.step == u with | some g => g.lines | none => 0

/-- A frame staged in its step's half: its payload is written to the next line there (R377, R387). Lines that no longer fit a
half end the follow, as do those of a third step while both halves are taken (R393); a MARK that finds no half stays in the
header's staging state (log 68). -/
def State.stageFrame (s : State) (u kind arg : Nat) (data : List Byte) (marked : Bool) : State :=
  let mark := kind == 0xFF05
  let kept := if mark then data else []
  match s.stageArea, s.halfFor u with
  | some (a, n), some h =>
    let k := s.stagedLines u
    let s := s.onStage u fun g => { g with half := some h, lines := k + 1, frames := g.frames ++ [⟨kind, arg, some k, kept⟩] }
    if 128 * (k + 1) ≤ n then s.lineWrite (a + n * h + 128 * k) data marked else s.loseWard
  | _, _ => if mark then s.onStage u fun g => { g with frames := g.frames ++ [⟨kind, arg, none, kept⟩] } else s.loseWard

/-! ## Seals (R394) -/

/-- Does the digest of the image differ from the one that STEP_END gave (Table 11.4)? A shadow is then not sealed. -/
def State.sealDiffers (s : State) : Bool := s.svl.wardTold != [] && s.svl.wardTold != s.wardDigest

/-- The ward's shadow sealed at the last applied step, with a kind: 1 CALM, 2 SEAL command, 3 GASP. -/
def State.sealWard (s : State) (kind : Nat) : State :=
  let d := s.wardDigest
  if s.sealDiffers then s.loseDigest
  else
    let len := match s.wardFolio with | some f => shardLen f.shard | none => 0
    let step := s.get SVL_WARD_STEP_STEP
    let s := s.mapSvl fun v => { v with record := some (s.wardRole.getD 0, step, len, d, kind) }
    ((s.put SVL_STATUS_SNAPSHOT_VALID 1).put SVL_SEAL_STEP_STEP step).count 0xE7

/-- After a seal at CALM the partner stops following (Table 11.4, R394). -/
def State.stopWard (s : State) : State :=
  if s.svl.wardLevel = 0 ∧ s.get SVL_STATUS_WARD_FOLLOW = 2 then
    (s.put SVL_STATUS_WARD_FOLLOW 0).mapSvl fun v => { v with stages := [], wardReplay := 0, wardLanded := [] }
  else s

/-- Status and parameters of a SEAL, once the shadow has been sealed or its digest found to differ (log 70). -/
def State.sealAnswer (s : State) (differs : Bool) : Nat × List Byte :=
  if differs then (stState, []) else (stSuccess, le 4 (s.get SVL_SEAL_STEP_STEP) ++ s.wardDigest)

/-- A SEAL that waits is carried out: COMMAND_DONE carries the step and the digest. -/
def State.sealNow (s : State) : State :=
  let s := s.mapSvl fun v => { v with sealWait := none }
  let differs := s.sealDiffers
  let s := s.sealWard 2
  let r := s.sealAnswer differs
  (s.finishOp 0x0500 r.1 r.2).stopWard

/-! ## A staged step applied (R390) -/

/-- Lines of the image that this module's memory lists: the others read as zero (R218). -/
def State.imageHeld (s : State) (base len : Nat) : List Nat :=
  let at' := fun (a : Nat) => if base ≤ a ∧ a < base + len then some ((a - base) / 128) else none
  ((s.mem.dram.filterMap fun p => at' p.1) ++ (s.mem.check.filterMap fun p => at' p.1)
    ++ (s.sbd.lines.filterMap fun l => at' l.addr)).dedup

/-- A staged line read back: image line or address, data, marked. -/
structure Restaged where
  kind : Nat
  arg : Nat
  data : List Byte
  marked : Bool
  deriving DecidableEq, Repr

/-- The staged lines of a step read back from its half, and whether one of them reads as LOST or FAILED (R377, log 68). -/
def State.unstage (s : State) (g : Stage) : State × List Restaged × Bool :=
  match s.stageArea, g.half with
  | some (a, n), some h =>
    g.frames.foldl (fun (acc : State × List Restaged × Bool) x =>
      match x.slot with
      | some k =>
        if x.kind = 0xFF05 then acc
        else
          let (s, o, d) := acc.1.lineRead (a + n * h + 128 * k) false false
          (s, acc.2.1 ++ [⟨x.kind, x.arg, d, o.marked⟩], acc.2.2 || o == .lost || o == .failed)
      | none => acc) (s, [], false)
  | _, _ => (s, [], false)

/-- An INPUT line put where the owner's Nibs read it: in its Inkwell where the address says so (log 106), in DRAM otherwise. -/
def State.placeInput (v : State) (x : Restaged) : State :=
  let a := 128 * x.arg
  if a < inkInput then
    let ls := ⟨a, x.data, if x.marked then .poison else .good, true⟩ :: v.sbd.lines.filter fun l => l.addr != a
    { v with sbd := { v.sbd with lines := ls } }
  else v.storeLine (.ink ((a - inkInput) / inkKey 1 0)) ((a - inkInput) % inkKey 1 0) (cellsOf ((a - inkInput) % inkKey 1 0) x.data) x.marked false

/-- The owner as its Nibs saw it in step `u`: the image, as `readImage` has just read it, at its own addresses, the INPUT lines over it, the latched value
(R390, R391). Nothing of this state but its shard lines comes back. -/
def State.ownerView (s : State) (f : Folio) (u latched : Nat) (inputs : List Restaged) : State :=
  let m := f.shard
  let base := s.wardBase
  let img := (s.imageHeld base (shardLen m)).filterMap fun l =>
    match shardAddr m (128 * l) with
    | some a => some (⟨a, s.peekLine (base + 128 * l), if s.peekMarked (base + 128 * l) then .poison else .good, true⟩ : SLine)
    | none => none
  let blank := State.reset
  let v : State := { blank with
    regs := s.regs, time := s.time, folio := some f, cabs := s.cabs,
    sbd := { blank.sbd with lines := img },
    svl := { blank.svl with shard := m, imageLen := shardLen m },
    run := { blank.run with seed := 0, stepOn := true } }
  let v := inputs.foldl State.placeInput v
  let v := ((v.put SVL_STATUS_OWN_FOLLOW 0).put GLB_STEP_STEP u).put NIB0_STEP_VALUE_STEP_SIZE latched
  let v := v.mapRun fun r => { r with seed := leNat (v.peek (stateBlock + 8) 8) }
  (v.writeRange layerBase (v.peek (stateBlock + 0x40000) (16 * f.layerCount))).1

/-- One descriptor of the map's Nib list at all sixteen Nibs, pass by pass; a scan that finds a non-finite or poisoned
element skips it (R297). `n` bounds the passes. -/
def State.replayPasses (f : Folio) (d : Desc) : Nat → Nat → List Rec → State → State
  | 0, _, _, v => v
  | n + 1, i, rs, v =>
    let job := fun (c : Nat) => (⟨c, f, f.layer d.nLayer, d.nLayer, d, v.rule f d.nLayer⟩ : NibJob)
    match (job 0).k.passes[i]? with
    | none => v
    | some p =>
      let (v, bufs) := if p = .stats then v.readSums (job 0) else (v, none)
      let (v, rs) := (List.range 16).foldl (fun (acc : State × List Rec) c =>
        let (v, r) := acc.1.nibPass (job c) p bufs (rs.getD c .zero)
        (v, acc.2 ++ [r])) (v, [])
      if p = .scan ∧ v.job.scanHits.contains d.nLayer then v else State.replayPasses f d n (i + 1) rs v

/-- Every Nib descriptor in list order, for layers whose range is in replay mode. -/
def State.replayNibs (v : State) (f : Folio) (rs : List Rng) (mask : Nat) : State :=
  let on := fun (l : Nat) => rs.zipIdx.any fun r => r.1.layer == some l && bit mask r.2
  ((List.range (f.listLen 0x40)).filterMap fun i => f.desc 0x40 i).foldl (fun v d =>
    if (d.kind = 0x40 ∨ d.kind = 0x41) ∧ on d.nLayer ∧ ¬(v.rule f d.nLayer).frozen then
      State.replayPasses f d 8 0 [] (v.mapJob fun j => { j with scanHits := [] })
    else v) v

/-- Lines that the owner's view lists after a replay, in the slices and in memory. -/
def State.viewLines (v : State) : List Nat :=
  (v.sbd.lines.map (fun l => l.addr) ++ v.mem.dram.map (fun p => lineOf p.1) ++ v.mem.check.map (fun p => lineOf p.1)).dedup

/-- Lines that the replay changed, written into the image. -/
def State.takeReplay (s v0 v : State) (m : List (Nat × Nat × Nat)) : State :=
  let base := s.wardBase
  v.viewLines.foldl (fun s a =>
    match shardOffset m a with
    | some o =>
      if v0.peekLine a = v.peekLine a ∧ v0.peekMarked a = v.peekMarked a then s
      else s.lineWrite (base + o) (v.peekLine a) (v.peekMarked a)
    | none => s) s

/-- Frames of a kind in a stage half. -/
def Stage.of (g : Stage) (kind : Nat) : List Staged := g.frames.filter fun x => x.kind == kind

/-- The staged MARK of a code. -/
def Stage.markOf (g : Stage) (code : Nat) : Option (List Byte) :=
  ((g.of 0xFF05).filter fun x => x.arg == code).getLast?.map fun x => x.data

/-- Do the counts of STEP_END agree with what came, its own frames among it (R389, R390, R393)? -/
def Stage.counts (g : Stage) (e : List Byte) : Bool :=
  fld e 4 4 == g.copied && fld e 8 4 == g.echoed + (g.of 0xFF03).length && fld e 12 4 == (g.of 0xFF04).length
    && ((g.of 0xFF05).filter fun x => x.arg == 3).length == fld e 18 2

/-- Where the digest unit keeps the hashes of the ward's image (Table 6.2a). -/
abbrev wardDigestBase : Nat := digestBase + 0x8000000

/-- The image's digest into the registers (R390); every leaf is hashed. -/
def State.noteWardDigest (s : State) (f : Folio) : State :=
  let base := s.wardBase
  let (s, step, _) := s.readRange base 4 false
  let (s, d) := s.digestImage wardDigestBase (fun o => some (base + o)) (shardLen f.shard) (leNat step) fun _ => true
  s.setDigestRegs 0x4C0040 d

/-- Landed ranges of the steps up to `u` are in replay mode; with all of them the follow is COMPLETE (R386). -/
def State.landWard (s : State) (f : Folio) (u : Nat) : State :=
  let s := s.mapSvl fun v =>
    { v with wardReplay := (v.wardLanded.filter fun p => decide (p.1 ≤ u)).foldl (fun m p => m ||| p.2) v.wardReplay,
             wardLanded := v.wardLanded.filter fun p => decide (u < p.1), stages := v.stages.filter fun g => decide (u < g.step) }
  if s.wardAll f ∧ s.get SVL_STATUS_WARD_FOLLOW = 1 then s.put SVL_STATUS_WARD_FOLLOW 2 else s

/-- After the application: the comparison that GUARD and BRACE ask for, and a seal that waits for this step. -/
def State.afterApply (s : State) (f : Folio) (u : Nat) (told : List Byte) : State :=
  if s.wardAll f ∧ 2 ≤ s.svl.wardLevel ∧ told ≠ s.wardDigest then s.loseDigest
  else match s.svl.sealWait with
  | some (t, _) => if s.wardAll f ∧ t ≤ u then s.sealNow else s
  | none => s

/-- Steps 2 to 4 of R390 on the lines of a staged step as they read back: the Nib rules, the staged echoes in stream order, the
digest and what follows from it. Where the owner's Nibs have latched nothing, the value in force is that of its state block. -/
def State.applyStage (s : State) (f : Folio) (u : Nat) (g : Stage) (e : List Byte) (xs : List Restaged) : State :=
  let (s, old, _) := s.readRange (s.wardBase + 0x18) 4 false
  let latched := match g.markOf 2 with | some m => fld m 4 4 | none => leNat old
  let v0 := s.ownerView f u latched (xs.filter fun x => x.kind == 0xFF04)
  let v := (v0.replayNibs f (shardRanges f) (s.wardReplays u)).sealAll
  let s := s.takeReplay v0 v f.shard
  let s := (xs.filter fun x => x.kind == 0xFF03).foldl (fun s x => s.lineWrite (s.wardBase + 128 * x.arg) x.data x.marked) s
  let s := (s.put SVL_WARD_STEP_STEP u).noteWardDigest f
  let told := slice e 24 32
  ((s.mapSvl fun v => { v with wardTold := told }).landWard f u).afterApply f u told

/-- Does the ward's RIDE stream wait for a frame that has not come? -/
def State.rideGap (s : State) : Bool := s.svl.rideHeld.any fun fr => s.wardRole == some fr.h.srcRole

/-- The staged step `u` of the ward applied. A step of which STEP_END, or a frame before it, has not come does not agree with its
counts (R393). -/
def State.applyWard (s : State) (u : Nat) : State :=
  if !s.following then s
  else
  match s.svl.stages.find? fun g => g.step == u, s.wardFolio with
  | some g, some f =>
    match g.markOf 3 with
    | none => s.loseWard
    | some e =>
      if !g.counts e then s.loseWard
      else
        let (s, xs, bad) := s.unstage g
        let (s, _, torn) := s.readImage s.wardBase (shardLen f.shard / 128)
        if bad || torn then s.loseWard else s.applyStage f u g e xs
  | _, _ => if s.rideGap then s.loseWard else s

/-! ## RIDE frames at the partner (R383, R387) -/

/-- A RIDE frame at its receiver: from the ward it is taken where WARD_EN allows it and no GASP has stopped the follow
(R398). -/
def State.fromWard (s : State) (fr : QFrame) (take : State → State) : State × Bool :=
  if s.wardRole ≠ some fr.h.srcRole then (s, false)
  else if !s.on SVL_CTRL_ENABLE || !s.on SVL_CTRL_WARD_EN then (s.put QFB_STATUS_REFUSED 1, false)
  else if s.get SVL_STATUS_WARD_FOLLOW = 4 then (s, false)
  else ((take s).syncHead.settle, false)

/-- A MAP frame: the first begins the follow afresh (R384). -/
def State.takeMap (s : State) (fr : QFrame) : State :=
  let s := if fr.h.arg = 0 then
      (s.put SVL_STATUS_WARD_FOLLOW 1).mapSvl fun v =>
        { v with wardMap := [], wardLatch := [], wardReplay := 0, wardLanded := [], wardTold := [], stages := v.stages.map fun g => { g with copied := 0, echoed := 0 } }
    else s
  if fr.h.arg = s.wardMapBytes.length / 128 then s.mapSvl fun v => { v with wardMap := v.wardMap ++ [(fr.h.arg, fr.payload)] } else s

/-- Lines of an image frame that lie in the image: offset, data. -/
def imagePart (f : Folio) (fr : QFrame) : List (Nat × List Byte) :=
  ((List.range fr.h.lines).map fun i => (fr.h.arg + i, slice fr.payload (128 * i) 128)).filter fun x =>
    decide (128 * x.1 < shardLen f.shard)

/-- A COPY frame (R387); its first line makes a snapshot invalid (R394). -/
def State.takeCopy (s : State) (fr : QFrame) : State :=
  match s.wardFolio with
  | some f =>
    if !s.following then s
    else
      let ls := imagePart f fr
      let s := ls.foldl (fun s x => s.lineWrite (s.wardBase + 128 * x.1) x.2 fr.h.poison) (s.put SVL_STATUS_SNAPSHOT_VALID 0)
      s.onStage fr.h.step fun g => { g with copied := g.copied + ls.length }
  | none => s

/-- An ECHO frame: staged for a range in replay mode, written on arrival otherwise (R387). -/
def State.takeEcho (s : State) (fr : QFrame) : State :=
  match s.wardFolio with
  | some f =>
    if !s.following then s
    else
      let staged := match rangeOfLine (shardRanges f) fr.h.arg with
        | some i => bit (s.wardReplays fr.h.step) i
        | none => false
      if staged then s.stageFrame fr.h.step 0xFF03 fr.h.arg (fit 128 fr.payload) fr.h.poison
      else
        let ls := imagePart f fr
        let s := ls.foldl (fun s x => s.lineWrite (s.wardBase + 128 * x.1) x.2 fr.h.poison) s
        s.onStage fr.h.step fun g => { g with echoed := g.echoed + ls.length }
  | none => s

/-- An INPUT frame. -/
def State.takeInput (s : State) (fr : QFrame) : State :=
  if s.following then s.stageFrame fr.h.step 0xFF04 fr.h.arg (fit 128 fr.payload) fr.h.poison else s

/-- Landed ranges as one frame of STEP_END gives them, one bit each. -/
def stepEndBits (e : List Byte) : Nat := fld e 56 72 * 2 ^ (576 * fld e 16 2)

/-- Ranges that land with step `u` noted, beside those that an earlier frame of its STEP_END named. -/
def noteLanded (m : List (Nat × Nat)) (u bits : Nat) : List (Nat × Nat) :=
  (u, (match m.find? fun p => p.1 == u with | some p => p.2 | none => 0) ||| bits) :: m.filter fun p => p.1 != u

/-- A MARK frame of the ward (R382, R387, R389, R393). -/
def State.takeMark (s : State) (fr : QFrame) : State :=
  let u := fr.h.step
  let stage := fun (s : State) => s.stageFrame u 0xFF05 fr.h.arg (fit 128 fr.payload) fr.h.poison
  if fr.h.arg = 1 then
    -- a step that begins again takes the place of its void run, with every later one (R366)
    if s.get SVL_STATUS_WARD_FOLLOW = 3 then s
    else stage (s.mapSvl fun v => { v with stages := v.stages.filter (fun g => decide (g.step < u)),
                                           wardLanded := v.wardLanded.filter fun p => decide (p.1 < u) })
  else if fr.h.arg = 2 then
    if s.following then stage (s.mapSvl fun v => { v with wardLatch := fr.payload.take 12 }) else s
  else if fr.h.arg = 3 then
    if s.following then
      stage (s.mapSvl fun v => { v with wardLanded := noteLanded v.wardLanded u (stepEndBits fr.payload) })
    else s
  else if fr.h.arg = 4 then
    let s := s.mapSvl fun v => { v with wardLevel := fld fr.payload 0 4 }
    if fld fr.payload 0 4 = 0 ∧ s.get SVL_STATUS_WARD_FOLLOW = 2 then (s.sealWard 1).stopWard else s
  else if fr.h.arg = 5 then
    let i := fld fr.payload 0 4
    s.mapSvl fun v => { v with wardReplay := clearBit v.wardReplay i, wardLanded := v.wardLanded.map fun p => (p.1, clearBit p.2 i) }
  else s

/-- The partner has lost the own shadow: every range is copied again (R393). -/
def State.ownLost (s : State) : State :=
  if s.followed then
    ((s.put SVL_STATUS_OWN_FOLLOW 3).put SVL_STATUS_FOLLOW_LOST 1).mapSvl fun v =>
      { v with ranges := v.ranges.map fun r => { r with state := .unsent, touched := none }, mapSent := 0 }
  else s

/-- A GASP of the ward (R398). -/
def State.takeGasp (s : State) : State :=
  ((s.put SVL_STATUS_GASP_RECEIVED 1).put SVL_STATUS_WARD_FOLLOW 4).mapSvl fun v => { v with wardGasp := some s.time }

/-- What is left of a GASP settled: the stages that the host has not confirmed go, an image whose ranges have all landed is sealed
with kind GASP, and the host is told (R398). -/
def State.settleGasp (s : State) : State :=
  let s := s.mapSvl fun v => { v with wardGasp := none, stages := [] }
  (if s.wardWhole then s.sealWard 3 else s).tellHost.syncHead

/-- A module in the ward's role that pairs with its partner after a GASP: what the lost module has left is settled, landed ranges stay
landed and the follow goes on; without them the shadow is no image (R399, Table 11.8). -/
def State.thaw (s : State) : State :=
  if s.get SVL_STATUS_WARD_FOLLOW = 4 then
    let s := if s.svl.wardGasp.isSome then s.settleGasp else s
    if s.get SVL_STATUS_WARD_FOLLOW = 4 then s.put SVL_STATUS_WARD_FOLLOW (if s.wardWhole then 2 else 0) else s
  else s

/-- A PAIR frame (R376): kept by role. A new module in the ward's role ends the freeze, and hears of a follow that is LOST; a new module in the partner's role
has no shadow yet, so the own follow is LOST (Table 11.8). -/
def State.takePair (s : State) (fr : QFrame) : State :=
  let r := fr.h.srcRole
  let tag := fld fr.payload 4 4
  let s := s.mapSvl fun v => { v with pairs := (r, fr.payload) :: v.pairs.filter fun p => p.1 != r }
  let s := if s.folio.isNone ∧ s.svl.wardOf = none then s.mapSvl fun v => { v with wardOf := some r } else s
  let s := if s.wardRole = some r then
      let s := (s.mapSvl fun v => { v with wardPair := fr.payload }).thaw
      if s.get SVL_STATUS_WARD_FOLLOW = 3 then s.tellLost else s
    else s
  let s := if s.partnerRole = some r then
      let s := if s.svl.partnerTag.isSome ∧ s.svl.partnerTag ≠ some tag then s.ownLost else s
      s.mapSvl fun v => { v with partnerTag := some tag }
    else s
  s.tryStart.syncHead

/-- A RIDE frame by its kind (Table 11.5), at its turn. PAIR: the ward's is refused where WARD_EN is 0 (R376). MARK: the ward's,
or the partner's word that it has lost the shadow. -/
def State.takeRide (s : State) (fr : QFrame) : State :=
  match fr.h.dstTid with
  | 0xFF00 =>
    if s.wardRole = some fr.h.srcRole ∧ !s.on SVL_CTRL_WARD_EN then s.put QFB_STATUS_REFUSED 1 else s.takePair fr
  | 0xFF01 => (s.fromWard fr fun s => s.takeMap fr).1
  | 0xFF02 => (s.fromWard fr fun s => s.takeCopy fr).1
  | 0xFF03 => (s.fromWard fr fun s => s.takeEcho fr).1
  | 0xFF04 => (s.fromWard fr fun s => s.takeInput fr).1
  | 0xFF05 =>
    if s.followers.contains fr.h.srcRole ∧ fr.h.arg = 5 ∧ fld fr.payload 0 4 = 0xFFFFFFFF then s.ownLost
    else (s.fromWard fr fun s => s.takeMark fr).1
  | _ => (s.fromWard fr fun s => s.takeGasp).1

/-! ## Stream order (R383, R385, R387) -/

/-- The MSEQ whose turn it is in the RIDE stream of a role; none where any frame begins it. -/
def State.rideTurn (s : State) (role : Nat) : Option Nat := (s.svl.rideNext.find? fun p => p.1 == role).map Prod.snd

/-- Does an MSEQ come before another one? It wraps modulo 2^32 (Table 10.4, R383). -/
def mseqBefore (a b : Nat) : Bool := let d := (b + 2 ^ 32 - a % 2 ^ 32) % 2 ^ 32; decide (0 < d ∧ d < 2 ^ 31)

/-- The turn of a role's stream set, modulo 2^32, and frames held before it dropped. -/
def State.setRideTurn (s : State) (role n : Nat) : State :=
  let n := n % 2 ^ 32
  s.mapSvl fun v => { v with rideNext := (role, n) :: v.rideNext.filter (fun p => p.1 != role),
                             rideHeld := v.rideHeld.filter fun fr => !(fr.h.srcRole == role && mseqBefore fr.h.mseq n) }

/-- Held frames of a role's stream whose turn has come, one after the other; `n` bounds them. A loss of the follow in between
leaves the rest dropped. -/
def State.rideGoOn (role : Nat) : Nat → State → State
  | 0, s => s
  | n + 1, s =>
    match s.svl.rideHeld.find? fun fr => fr.h.srcRole == role && s.rideTurn role == some fr.h.mseq with
    | some fr => State.rideGoOn role n ((s.setRideTurn role (fr.h.mseq + 1)).takeRide fr)
    | none => s

/-- A RIDE frame in stream order: one whose turn it is, a PAIR, with which a stream begins anew, and a GASP are taken at once, and
what waited for it after it; a later one is held; an earlier one has been taken before (log 63). -/
def State.rideInOrder (s : State) (fr : QFrame) : State :=
  let r := fr.h.srcRole
  let now := fr.h.dstTid == 0xFF00 || fr.h.dstTid == 0xFF06 || (match s.rideTurn r with | some n => fr.h.mseq == n | none => true)
  if now then
    let s := (s.setRideTurn r (fr.h.mseq + 1)).takeRide fr
    State.rideGoOn r s.svl.rideHeld.length s
  else if (match s.rideTurn r with | some n => mseqBefore n fr.h.mseq | none => false) then
    s.mapSvl fun v => { v with rideHeld := v.rideHeld ++ [fr] }
  else s

/-! ## The rows of RIDE frames -/

/-- A RIDE frame of a kind through the link to its role, in stream order. -/
def State.rideRx (s : State) (frame : QFrame) (kind : Nat) : State :=
  let fr := { frame with h := { frame.h with dstTid := kind } }
  s.receive qRide fr fun s => s.toRole qRide fr fun s => (s.rideInOrder fr, false)

/-- PAIR (R376). -/
def execPair (frame : QFrame) (s : State) : Host.Outcome State Fault Refusal := .next (s.rideRx frame 0xFF00)

/-- MAP (R384). -/
def execMap (frame : QFrame) (s : State) : Host.Outcome State Fault Refusal :=
  .next (s.rideRx frame 0xFF01)

/-- RIDE_COPY (R387). -/
def execRideCopy (frame : QFrame) (s : State) : Host.Outcome State Fault Refusal :=
  .next (s.rideRx frame 0xFF02)

/-- ECHO (R387, R388). -/
def execEcho (frame : QFrame) (s : State) : Host.Outcome State Fault Refusal :=
  .next (s.rideRx frame 0xFF03)

/-- INPUT (R387, R388). -/
def execInput (frame : QFrame) (s : State) : Host.Outcome State Fault Refusal :=
  .next (s.rideRx frame 0xFF04)

/-- MARK (R382, R389, R393): the ward's, or the partner's word that it has lost the shadow. -/
def execMark (frame : QFrame) (s : State) : Host.Outcome State Fault Refusal :=
  .next (s.rideRx frame 0xFF05)

/-- GASP (R398). -/
def execGasp (frame : QFrame) (s : State) : Host.Outcome State Fault Refusal :=
  .next (s.rideRx frame 0xFF06)

/-- GASP_TIMEOUT: 10 s after a GASP, or when the host reports the owner lost, the stages that are left go and an image
whose ranges have all landed is sealed with kind GASP (R398, Table 11.8). -/
def execGaspTimeout (ownerLost : Bool) (s : State) : Host.Outcome State Fault Refusal :=
  .next (match s.svl.wardGasp with
    | some t =>
      if ownerLost ∨ t + 10000000000 ≤ s.time then s.settleGasp else s
    | none => s)

/-! ## CONFIRM, SEAL, PARTNER2 -/

/-- The own ranges that were sent whole by the end of step `u` land (R386). -/
def State.landOwn (s : State) (u : Nat) : State :=
  let due := fun (r : Rng) => match r.state with | .sent b => decide (b ≤ u) | _ => false
  let n := (s.svl.ranges.filter due).length
  ((s.mapSvl fun v => { v with ranges := v.ranges.map fun r => if due r then { r with state := .replay } else r }).noteRanges).countAt 0xE6 {} n

/-- The follow that ran for a seal at CALM ends with the step that the partner seals (R394). -/
def State.endSealFollow (s : State) (u : Nat) : State :=
  match s.svl.sealFollow with
  | some t =>
    if s.get SVL_STATUS_OWN_FOLLOW = 2 ∧ t ≤ u then
      if s.get RSK_STATUS_LEVEL = 0 then s.stopFollow.put QFB_RIDE_BUDGET 0
      else s.mapSvl fun v => { v with sealFollow := none }
    else s
  | none => s

/-- Is the module a Bench that follows a role as its second partner, without a job of its own (R396)? -/
def State.benching (s : State) : Bool := s.folio.isNone && s.svl.wardOf.isSome

/-- CONFIRM(u) at a Bench that follows: the ward's oldest staged step is applied. The Bench completes no steps of its own, so that
SVL_CONFIRMED says nothing of the ward's and stays (R390, R396; DEDUCED, log 68). -/
def State.confirmWard (s : State) (u : Nat) : Act :=
  let us := s.svl.stages.map Stage.step
  if us.contains u && us.all fun v => decide (u ≤ v) then .ok (s.applyWard u).syncHead.settle else .no s stState

/-- CONFIRM(u) (R367, R386, R390): as owner its ranges land, as partner the ward's staged step is applied. -/
def State.confirmAct (s : State) (u : Nat) : Act :=
  if s.benching then s.confirmWard u
  else if u ≠ (s.get SVL_CONFIRMED_STEP + 1) % 2 ^ 32 then .no s stParam
  else if !s.holdsImage u then .no s stState
  else .ok ((((s.put SVL_CONFIRMED_STEP u).landOwn u).endSealFollow u).applyWard u).syncHead.settle

/-- CONFIRM. -/
def execConfirm (h : Hdr) (step : Nat) (s : State) : Host.Outcome State Fault Refusal :=
  .next (s.command h ⟨0x0503, true, false, false, some 4, if s.benching then .always else .active, true⟩ true (.confirm h step) fun s => s.confirmAct step)

/-- SEAL(s) (R394): as owner at CALM a follow runs for it; as partner the ward's shadow is sealed on applying step s, or at
the first applied step after it once the follow is COMPLETE. A module with no ward seals nothing. -/
def State.sealAct (s : State) (step : Nat) : Act :=
  if s.svl.sealWait.isSome then .no s stBusy
  else
    let own := s.partnerRole.isSome && s.get RSK_STATUS_LEVEL == 0 && s.get SVL_STATUS_OWN_FOLLOW == 0
    let s := if own then (s.mapSvl fun v => { v with sealFollow := some step }).put QFB_RIDE_BUDGET 30 else s
    if s.wardRole.isNone then .did s stState []
    else if s.get SVL_STATUS_WARD_FOLLOW = 2 ∧ s.get SVL_WARD_STEP_STEP = step then
      let differs := s.sealDiffers
      let s := s.sealWard 2
      let r := s.sealAnswer differs
      .did s.stopWard.syncHead r.1 r.2
    else .begun (s.mapSvl fun v => { v with sealWait := some (step, 2) }) none 0

/-- SEAL. -/
def execSeal (h : Hdr) (step : Nat) (s : State) : Host.Outcome State Fault Refusal :=
  .next (s.command h ⟨0x0500, true, false, true, some 4, .active, true⟩ true (.seal h step) fun s => s.sealAct step)

/-- May a role be the second partner (R396): there is a first one (R206), and the role is a Bench by the directory, in a feed
domain that is neither the module's nor the partner's? -/
def State.benchOk (s : State) (f : Folio) (role : Nat) : Bool :=
  let dir := bankDir s.bankNow role
  let feed := fld dir 1 1 % 16
  let p := match s.partnerRole with | some p => fld (bankDir s.bankNow p) 1 1 % 16 | none => 0xF
  s.partnerRole.isSome && fld dir 0 1 % 4 == 3 && feed != 0xF && feed != s.get PWR_STRAPS_FEED_ID && feed != p && role != f.role

/-- PARTNER2 (R396): under BRACE. The follow begins again, so that both partners get the whole stream. -/
def execPartner2 (h : Hdr) (role : Nat) (s : State) : Host.Outcome State Fault Refusal :=
  .next (s.command h ⟨0x0504, true, false, true, some 4, .loaded, true⟩ (decide (role < 2048)) (.partner2 h role) fun s =>
    match s.folio with
    | some f =>
      if s.get RSK_STATUS_LEVEL ≠ 3 then .did s stState []
      else if !s.benchOk f role then .did s stParam []
      else
        let s := s.stopFollow.mapSvl fun v => { v with partner2 := some role }
        .did (s.rideTo role 0xFF00 0 (s.pairLine f) false) stSuccess []
    | none => .no s stState)

end Sys2Proof.Machine
end

