-- ==== Sys2Proof/Machine/Privileged.lean ====
section
/-! DEFINITION. Privileged commands, presence, the seal loop and firmware staging (R473 to R489, Tables 14.5 to 14.9). -/
namespace Sys2Proof.Machine

/-! ## Deferred privileged commands (R479) -/

/-- Opcodes of the deferred privileged commands. -/
def privDeferred : List Nat := [0x0F00, 0x0F01, 0x0F02, 0x0F03, 0x0F07]

/-- Does one run? -/
def State.privBusy (s : State) : Bool := s.chembe.deferred.any fun d => privDeferred.contains d.op

/-- The row of a privileged command: owner and presence, no lock class, any job state. -/
def privOp (code : Nat) (deferred : Bool) : OpInfo := ⟨code, true, true, deferred, none, .always, false⟩

/-! ## Firmware (R482, R483) -/

/-- Does another session hold the staging? -/
def State.stagingTaken (s : State) (h : Hdr) : Bool :=
  match s.esc.staging with
  | some g => !(g.src.same h.src && g.session == h.session) && decide (s.time < g.last + 60000000000)
  | none => false

/-- Nothing staged and no commit pending. -/
def State.dropStaged (s : State) : State :=
  let s := (s.setSlot s.staging []).mapFlash fun f => { f with trial := false, trialStarts := 0 }
  ((s.mapEsc fun e => { e with verified := false }).put SEC_STATUS_FW_STAGED 0).put SEC_FW_STAGED_VERSION 0

/-- Bytes of a FW_STAGE into the inactive slot: OFFSET 0 begins anew and takes the staging for its session. -/
def State.stageBytes (s : State) (h : Hdr) (offset : Nat) (dt : List Byte) : State :=
  let s := if offset = 0 then s.dropStaged.mapEsc fun e => { e with staging := some ⟨h.src, h.session, s.time⟩ } else s
  let s := s.setSlot s.staging ((offset, dt) :: s.slot s.staging)
  s.mapEsc fun e => { e with staging := e.staging.map fun g => { g with last := s.time } }

/-- FINAL: the checks of R482. -/
def State.finalStage (s : State) : State × Nat × List Byte :=
  let s := s.mapEsc fun e => { e with staging := none }
  match s.verifySlot (s.slot s.staging) with
  | some w =>
    let s := ((s.mapEsc fun e => { e with verified := true }).put SEC_STATUS_FW_STAGED 1).put SEC_FW_STAGED_VERSION w.version
    (s, stSuccess, le 4 w.version ++ le 4 w.svn ++ w.digest)
  | none => (s.dropStaged, stParam, [])

/-- FW_STAGE (R482): deferred with FINAL 1. -/
def execFwStage (h : Hdr) (offset final : Nat) (data : List Byte) (s : State) : Host.Outcome State Fault Refusal :=
  .next (s.command h (privOp 0x0F00 (final == 1))
    (decide (final ≤ 1 ∧ 1 ≤ data.length ∧ data.length ≤ dataCap h 4048 ∧ offset + data.length ≤ slotBytes))
    (.fwStage h offset final data) fun s =>
      if s.stagingTaken h || (final == 1 && s.privBusy) then .no s stBusy
      else if final = 0 then .ok (s.stageBytes h offset data)
      else
        let (s, st, ps) := (s.stageBytes h offset data).finalStage
        .did s st ps)

/-- FW_COMMIT (R483): the staged slot starts as a trial at the next RESET_N or cold start. -/
def execFwCommit (h : Hdr) (version : Nat) (s : State) : Host.Outcome State Fault Refusal :=
  .next (s.command h (privOp 0x0F01 true) true (.fwCommit h version) fun s =>
    if s.privBusy then .no s stBusy
    else if !s.esc.verified then .no s stState
    else if version ≠ s.get SEC_FW_STAGED_VERSION then .no s stParam
    else .did (s.mapFlash fun f => { f with trial := true, trialStarts := 0 }) stSuccess [])

/-- FW_STAGE_TIMEOUT: 60 s without a FW_STAGE end the staging (R482). -/
def execFwStageTimeout (s : State) : Host.Outcome State Fault Refusal :=
  .next (match s.esc.staging with
    | some g => if g.last + 60000000000 ≤ s.time then s.mapEsc fun e => { e with staging := none } else s
    | none => s)

/-! ## Identity (R485 to R487) -/

/-- Bytes of an ASCII text. -/
def asciiBytes (t : String) : List Byte := t.toList.map fun c => BitVec.ofNat 8 c.toNat

/-- A new identity pending, with its rotation certificate and digest (R487). -/
def State.rotateId (s : State) (seed pub : List Byte) : State × List Byte :=
  let (s, i) := s.newIdentity
  let cert := Config.mldsaSign seed (asciiBytes "X8-ROTATE") (0x08 :: identityDigest pub ++ i.pubKey)
  (s.mapFlash fun f => { f with pendingId := some i, rotations := f.rotations ++ [cert] }, identityDigest i.pubKey)

/-- ID_ROTATE (R487): without an identity there is no key to sign with. -/
def execIdRotate (h : Hdr) (s : State) : Host.Outcome State Fault Refusal :=
  .next (s.command h (privOp 0x0F02 true) true (.idRotate h) fun s =>
    if s.privBusy then .no s stBusy
    else if 255 ≤ s.flash.rotations.length then .no s stState
    else match s.liveId with
      | some (seed, pub) =>
        let (s, d) := s.rotateId seed pub
        .did s stSuccess d
      | none => .no s stState)

/-! ## ERASE_ALL (R480) -/

/-- What ERASE_ALL clears beside stacked memory: the guard classes, the Inkwell, the Sideboard, the folio and its job, the
survival state, the event queues, the power log but for its first kind, and the ownership. -/
def State.eraseRest (s : State) : State :=
  let s := s.dropHeld.dropWaiting
  let s := { s with mem := { s.mem with cls := [], ink := [], inkPoison := [], inkErr := [] },
                    sbd := .reset }
  let s := ((List.range 16).foldl (fun s c => s.noteSlots c) s).emptyRing
  let s := ({ s with folio := none, job := .empty, run := { Run.empty with lastFault := s.run.lastFault }, svl := .reset } : State).notePending
  let s := (((s.put SVL_STATUS_OWN_FOLLOW 0).put SVL_STATUS_WARD_FOLLOW 0).put SVL_STATUS_SNAPSHOT_VALID 0).put SVL_STATUS_SHARD_TOUCHED 0
  let s := ((s.setEvq false { s.evq false with items := [] }).setEvq true { s.evq true with items := [] })
  let s := s.mapFlash fun f => { f with powerLog := f.powerLog.filter fun r => fld r 0 4 != 1 }
  (s.endOwnership.put GAU_STATUS_GAUGE_COUNT 0).setJobState jsEmpty

/-- Everything that R480 clears, and the digest of the decoded range as read back after it. The job state is EMPTY after it,
SAFE before it or not, as R480 says of this command; R424 says of SAFE that only a reset leaves it (DESIGN CHOICE, log 75). -/
def State.eraseAll (s : State) : State × List Byte :=
  let r := (s.abortJob.zeroRange 0 decodedEnd).readRange 0 decodedEnd false
  (r.1.eraseRest, rangeDigest 0 r.2.1)

/-- ERASE_ALL. -/
def execEraseAll (h : Hdr) (confirm : Nat) (s : State) : Host.Outcome State Fault Refusal :=
  .next (s.command h { privOp 0x0F03 true with main := true } (decide (confirm = 0x4C4C4145)) (.eraseAll h confirm) fun s =>
    if s.privBusy then .no s stBusy
    else
      let (s, d) := s.eraseAll
      .did s stSuccess d)

/-! ## DEBUG_UNLOCK, TEST_MODE (R481) -/

/-- DEBUG_UNLOCK. -/
def execDebugUnlock (h : Hdr) (arm : Nat) (s : State) : Host.Outcome State Fault Refusal :=
  .next (s.command h (privOp 0x0F04 false) (decide (arm ≤ 1)) (.debugUnlock h arm) fun s =>
    .ok (s.mapFlash fun f => { f with armDebug := arm == 1 }))

/-- TEST_MODE. -/
def execTestMode (h : Hdr) (arm : Nat) (s : State) : Host.Outcome State Fault Refusal :=
  .next (s.command h (privOp 0x0F05 false) (decide (arm ≤ 1)) (.testMode h arm) fun s =>
    .ok (s.mapFlash fun f => { f with armTest := arm == 1 }))

/-! ## The seal (R476 to R478) -/

/-- SEAL_ACK's effect: the present resistance is the baseline, every record is acknowledged, the break is cleared. -/
def State.sealAck (s : State) (ohms : Nat) : State :=
  let s := s.mapFlash fun f =>
    { f with baseline := ohms, sealBreak := 0, sealAcks := f.sealAcks + 1, sealLog := f.sealLog.map fun r => (r.1, true) }
  ((s.sealRecord 4 (some ohms)).put SEC_STATUS_SEAL_BREAK 0).mapEsc fun e => { e with sealBad := 0, sealBadKind := 0 }

/-- SEAL_ACK (R478): an open loop gets STATE_INVALID. -/
def execSealAck (h : Hdr) (s : State) : Host.Outcome State Fault Refusal :=
  .next (s.command h (privOp 0x0F06 false) true (.sealAck h) fun s =>
    match s.esc.sealOhms with
    | some r => if loopOpen (some r) then .no s stState else .reply (s.sealAck r) stSuccess (le 4 r)
    | none => .no s stState)

/-- A sample while the Escritoire is not ready: the latch records a loop that opens under power, after a closed sample or while
open samples were being counted (R494); a loop open since the standby domain came up is found at the start (R476). -/
def Escritoire.latchLoop (e : Escritoire) (ohms : Option Nat) : Escritoire :=
  { e with sealLatch := e.sealLatch || (loopOpen ohms && (!loopOpen e.sealOhms || (e.sealBadKind == 1 && decide (0 < e.sealBad)))),
           sealOhms := ohms }

/-- SEAL_SAMPLE: every 10 ms (R476); the third bad sample of a kind in a row records a break. -/
def execSealSample (ohms : Option Nat) (s : State) : Host.Outcome State Fault Refusal :=
  .next (
    if !s.power.standby then s
    else if !s.esc.ready then s.mapEsc fun e => e.latchLoop ohms
    else
      let s := s.noteLoop ohms
      let kind := sealKind ohms s.flash.baseline
      let n := if kind = 0 then 0 else if kind = s.esc.sealBadKind then s.esc.sealBad + 1 else 1
      let s := s.mapEsc fun e => { e with sealBad := n, sealBadKind := kind }
      if 3 ≤ n then s.sealBreakNow kind ohms else s)

/-! ## Presence (R473, R474) -/

/-- PRESENCE: the input is released after a stable low time (Table 14.5). While strapped it is low already: its release ends the
window, and nothing shorter changes anything (R474). -/
def execPresence (lowNs : Nat) (s : State) : Host.Outcome State Fault Refusal :=
  .next (
    if !s.esc.ready || decide (lowNs < 2000000000) then s
    else if s.esc.strapped && decide (lowNs < 10000000000) then s
    else if 5000000000 < lowNs then s.closeWindow
    else
      let was := s.presenceOpen
      let s := s.mapEsc fun e => { e with windowEnd := some (s.time + 300000000000) }
      if was then s.notePresence else s.raisePresence 1)

/-- PRESENCE_STRAPPED: the input has been low for 10 s. -/
def execPresenceStrapped (s : State) : Host.Outcome State Fault Refusal :=
  .next (if s.esc.ready && !s.esc.strapped then (s.mapEsc fun e => { e with strapped := true, windowEnd := none }).raisePresence 2 else s)

/-- PRESENCE_WINDOW_EXPIRY: the 300 s have run out. -/
def execPresenceWindowExpiry (s : State) : Host.Outcome State Fault Refusal :=
  .next (match s.esc.windowEnd with
    | some t => if t ≤ s.time ∧ !s.esc.strapped then s.closeWindow else s
    | none => s)

/-! ## Attestation (R488, R489) -/

/-- PART 3. -/
def State.sealPart (s : State) : List Byte := s.flash.sealLog.flatMap Prod.fst ++ le 4 s.flash.sealOverflow

/-- IMAGE_DIGEST of a slot's image; zeros where it holds none. -/
def slotDigest (w : Slot) : List Byte := shake256 (slotRead w 0 (0x1000 + fld (slotRead w 0x10 4) 0 4)) 32

/-- FLAGS of Table 14.9. -/
def State.attestFlags (s : State) : Nat :=
  let b := fun (c : Bool) (i : Nat) => if c then 2 ^ i else 0
  b s.presenceOpen 0 + b s.esc.strapped 1 + b (!loopOpen s.esc.sealOhms) 2 + b (s.on SEC_STATUS_SEAL_BREAK) 3 + b s.esc.debug 4
    + b s.esc.test 5 + b (s.on GLB_STATUS_TEST_TOUCHED) 6 + b s.flash.owner.isSome 7 + b (s.on GLB_STATE_MAIN_ON) 8 + b s.esc.verified 9
    + b s.flash.pendingId.isSome 10 + b s.esc.onTrial 11

/-- The report's first 0x120 bytes (Table 14.9). -/
def State.attestBody (s : State) (nonce pub : List Byte) : List Byte :=
  let zero32 := zeros 32
  let fw := match s.esc.running with | some i => slotDigest (s.slot i) | none => zero32
  let staged := if s.esc.verified then slotDigest (s.slot s.staging) else zero32
  let folio := match s.folio with | some f => f.digest | none => zero32
  le 4 0x54535441 ++ le 2 1 ++ le 2 s.attestFlags ++ le 2 (s.get GLB_CONTRACT_LEVEL) ++ le 2 s.flash.config.order
    ++ le 4 (s.get GLB_FW_VERSION_VERSION) ++ le 4 s.flash.svnFloor ++ le 4 s.flash.sealBreaks ++ le 4 s.flash.sealAcks
    ++ le 1 (if s.power.mainOk then s.jobState else 0xFF) ++ zeros 3 ++ le 4 s.step ++ le 4 s.flash.cycle
    ++ le 8 (s.time - s.power.upSince) ++ fit 16 s.flash.config.serial ++ fit 32 nonce ++ fit 32 fw ++ fit 32 staged
    ++ fit 32 folio ++ shake256 s.flash.config.bytes 32 ++ shake256 s.sealPart 32 ++ identityDigest pub

/-- The report for a nonce: the last one, or a new one signed (R489). -/
def State.attestReport (s : State) (seed pub nonce : List Byte) : State × List Byte :=
  let fresh := s.attestBody nonce pub
  let new := fresh ++ fit 3309 (Config.mldsaSign seed (asciiBytes "X8-ATTEST") fresh)
  match s.esc.report with
  | some (n, r) => if n = nonce then (s, r) else (s.mapEsc fun e => { e with report := some (nonce, new) }, new)
  | none => (s.mapEsc fun e => { e with report := some (nonce, new) }, new)

/-- One part of an attestation (R488). -/
def State.attestPart (s : State) (seed pub nonce : List Byte) (part : Nat) : State × List Byte :=
  if part = 0 then s.attestReport seed pub nonce
  else if part = 1 then (s, s.flash.certificate)
  else if part = 2 then (s, s.flash.rotations.flatMap fun c => le 4 c.length ++ c)
  else if part = 3 then (s, s.sealPart)
  else (s, s.flash.powerLog.flatten)

/-- ATTEST (R488, R489). -/
def execAttest (h : Hdr) (nonce : List Byte) (part offset : Nat) (s : State) : Host.Outcome State Fault Refusal :=
  .next (s.command h ⟨0x0F07, false, false, true, none, .always, false⟩ (decide (nonce.length = 32 ∧ part ≤ 4))
    (.attest h nonce part offset) fun s =>
      if s.privBusy then .no s stBusy
      else match s.liveId with
        | none => .no s stState
        | some (seed, pub) =>
          let (s', bs) := s.attestPart seed pub nonce part
          if bs.length ≤ offset then .no s stParam
          else .did s' stSuccess (le 4 bs.length ++ zeros 4 ++ (bs.drop offset).take 4000))

end Sys2Proof.Machine
end

