-- ==== Sys2Proof/Machine/QuillTx.lean ====
section
/-! DEFINITION. The Quill descriptors QWRITE, QADD and QMCAST (R182, R254, R268, R341, R348, R349, R352, R354). -/
namespace Sys2Proof.Machine

/-- Do the destination bytes of a descriptor overlap those of an earlier message of the list that is not reported (R352)? -/
def State.overlapsSent (s : State) (list : Nat) (d : Desc) : Bool :=
  s.quill.sent.any fun m => m.list == list && m.dst == d.qDstRole && m.group == (d.kind == 0x32) && m.tid == d.qDstTid
    && m.left != 0 && overlaps m.first m.bytes d.qDstFirst d.qBytes

/-- Receivers of a message: a role, or the members of a group other than the source (R351). -/
def State.receivers (s : State) (d : Desc) : Nat :=
  if d.kind = 0x32 then
    let e := bankGroup (s.bank (s.bankNo s.step)) d.qDstRole
    bits e 43 32 - b2n (bit e 31)
  else 1

/-- Lines per frame towards a descriptor's destination (R349): by the allotment of the channels that carry it. -/
def State.descLines (s : State) (d : Desc) : Nat :=
  let b := s.bank (s.bankNo s.step)
  let e := if d.kind = 0x32 then bankGroup b d.qDstRole else bankRole b d.qDstRole
  let vc := vcMode (bits e 25 24) false
  (portsOf (bits e 23 0)).foldl (fun n p =>
    match s.chan p (if d.kind ≠ 0x32 then s.peerOf e else if s.switched then groupPeer d.qDstRole else 0) with
    | some c => min n (c.frameLines vc)
    | none => if d.kind = 0x32 ∧ s.switched then min n (s.groupShare p d.qDstRole - 1) else n) 32

/-- A frame of a message on its way. -/
def State.sendMsg (s : State) (d : Desc) (t : Nat) (h : QHdr) (pl : List Byte) : State :=
  if d.kind = 0x32 then s.routeGroup none t h pl else s.routeRole t h pl

/-- Far copies that a message makes stale (R254). -/
def State.dropFar (s : State) (d : Desc) : State :=
  let gone := fun (x : Nat × Nat × List Byte) => d.kind == 0x32 || x.1 == d.qDstRole
  (s.sbd.far.filter gone).foldl (fun s x => s.countAt 0x6E (cabInst (cabOf x.2.1)) 1)
    { s with sbd := { s.sbd with far := s.sbd.far.filter fun x => !gone x } }

/-- A message sent: data frames, then CLOSE (R349). Answers its number and the lines sent as poison. -/
def State.sendMessage (s : State) (list : Nat) (d : Desc) (t : Tensor) : State × Nat × Nat :=
  let p := t.readPlace (0x30 + list)
  let n := d.qBytes / 128
  let (s, ls) := s.takeLines p ((List.range n).map fun i => t.elemBase + d.qSrcFirst + 128 * i) false
  let (s, mseq) := s.takeMseq list d.qDstRole (d.kind == 0x32)
  let base := { s.hdr d.qDstRole 0 with srcList := list, mseq := mseq, dstTid := d.qDstTid, fabric := d.scope == 3 }
  let ft := if d.kind = 0x30 then qWrite else if d.kind = 0x31 then qAdd else qMcast
  let pieces := linePieces (max 1 (s.descLines d)) 0 (ls.map fun l => (if l.2.1.marked then zeroLine else l.2.2, l.2.1.marked))
  let s := pieces.foldl (fun s x =>
    let h := { base with lines := x.2.1.length, arg := d.qDstFirst / 128 + x.1, poison := x.2.2,
                         fmt := if ft = qAdd then t.fmt else 0 }
    s.sendMsg d ft h x.2.1.flatten) (s.dropFar d)
  let sig := d.qSem != 0xFFFF
  let s := s.sendMsg d qClose { base with signal := sig, arg := (if sig then d.qSem else 0) + 65536 * n } []
  (s, mseq, (ls.filter fun l => l.2.1.marked).length)

/-- The message of an open Quill descriptor sent: the descriptor stands with its frames sent and its receivers noted. -/
def State.quillSent (s : State) (list : Nat) (d : Desc) (t : Tensor) : State :=
  let left := s.receivers d
  let (s, mseq, bad) := s.sendMessage list d t
  let m : TxMsg := { list := list, dst := d.qDstRole, group := d.kind == 0x32, mseq := mseq, tid := d.qDstTid,
                     first := d.qDstFirst, bytes := d.qBytes, left := left }
  let s := s.mapQuill fun q => { q with sent := q.sent ++ [m] }
  let r : Rec := { Rec.zero with flags := wroteFlags bad 0 0, m := d.qBytes / 128, n := left, poison := bad }
  ((s.setPhase (0x30 + list) (.sent mseq r)).quillCheck list).rideMore

/-- A Quill descriptor of a kind sends its message. -/
def State.quillStart (s : State) (list kind : Nat) : State :=
  if 8 ≤ list then s
  else match s.ready (0x30 + list), s.folio with
  | some d, some f =>
    match f.tensor d.qSrc with
    | some t =>
      if d.kind ≠ kind || s.overlapsSent list d then s
      else ((s.acquire d).setEng { s.eng (0x30 + list) with since := s.time }).quillSent list d t
    | none => s
  | _, _ => s

/-- QWRITE (R182, R348, R349). -/
def execQwrite (list : Nat) (s : State) : Host.Outcome State Fault Refusal := .next (s.quillStart list 0x30)

/-- QADD (R182, R348, R349). -/
def execQadd (list : Nat) (s : State) : Host.Outcome State Fault Refusal := .next (s.quillStart list 0x31)

/-- QMCAST (R182, R348, R349, R358). -/
def execQmcast (list : Nat) (s : State) : Host.Outcome State Fault Refusal := .next (s.quillStart list 0x32)

end Sys2Proof.Machine
end

