-- ==== Sys2Proof/Machine/Sideband.lean ====
section
/-! DEFINITION. The side-band below Chembe: I3C, MCTP control, PLDM and its sensors (R466, R467, R471, R472, R520). The
code numbers of I3C, MCTP and PLDM are those of their standards, PRESUMED (log 31); answers carry the data in the
packing of log 12. -/
namespace Sys2Proof.Machine

/-! ## I3C (Table 14.1) -/

/-- A common command code that the target answers at its dynamic address. -/
def State.cccRead (s : State) (ccc : Nat) (data : List Byte) : State :=
  if s.esc.ready && s.esc.i3cAddr.isSome then s.send (.i3c ccc data) else s

/-- Bits [25:0] of the module serial digest. -/
def State.serialBits (s : State) : Nat := leNat (shake256 s.flash.config.serial 32) % 2 ^ 26

/-- The provisioned ID: manufacturer, 1, 26 bits of the serial digest, SLOT_ID (Table 14.1). -/
def State.pid (s : State) : Nat :=
  s.flash.config.manufacturer % 2 ^ 15 * 2 ^ 33 + 2 ^ 32 + s.serialBits * 2 ^ 6 + s.get PWR_STRAPS_SLOT_ID % 64

/-- A target with no dynamic address takes the one that the controller assigns, after its PID, BCR and DCR; what waits
for the side-band leaves. -/
def execEntdaa (address : Nat) (s : State) : Host.Outcome State Fault Refusal :=
  .next (if !s.esc.ready || s.esc.i3cAddr.isSome then s
    else ((s.send (.i3c 0x07 (be 6 s.pid ++ le 1 6 ++ le 1 0))).mapEsc fun e => { e with i3cAddr := some address }).pump true)

/-- SETNEWDA changes a dynamic address. -/
def execSetnewda (address : Nat) (s : State) : Host.Outcome State Fault Refusal :=
  .next (if s.esc.ready && s.esc.i3cAddr.isSome then s.mapEsc fun e => { e with i3cAddr := some address } else s)

/-- RSTDAA takes the dynamic address away. -/
def execRstdaa (s : State) : Host.Outcome State Fault Refusal :=
  .next (if s.esc.ready then s.mapEsc fun e => { e with i3cAddr := none } else s)

/-- GETPID. -/
def execGetpid (s : State) : Host.Outcome State Fault Refusal := .next (s.cccRead 0x8D (be 6 s.pid))

/-- GETBCR: 0x06. -/
def execGetbcr (s : State) : Host.Outcome State Fault Refusal := .next (s.cccRead 0x8E (le 1 6))

/-- GETDCR: 0x00. -/
def execGetdcr (s : State) : Host.Outcome State Fault Refusal := .next (s.cccRead 0x8F (le 1 0))

/-- GETSTATUS: a status that the spec does not give, afresh each time. -/
def execGetstatus (s : State) : Host.Outcome State Fault Refusal :=
  .next (({ s with free := s.free + 1 } : State).cccRead 0x90 (fit 2 (Config.sideBytes 1 s.free)))

/-- GETMWL. -/
def execGetmwl (s : State) : Host.Outcome State Fault Refusal := .next (s.cccRead 0x8B (fit 2 (Config.sideBytes 2 0)))

/-- GETMRL. -/
def execGetmrl (s : State) : Host.Outcome State Fault Refusal := .next (s.cccRead 0x8C (fit 3 (Config.sideBytes 3 0)))

/-! ## MCTP control (R466, R467) -/

/-- An answer to an MCTP control request, which an in-band interrupt announces (R467). -/
def State.mctpAnswer (s : State) (command completion : Nat) (data : List Byte) : State :=
  if s.esc.ready && s.esc.i3cAddr.isSome then s.ibi.send (.mctp command completion data) else s

/-- SET_ENDPOINT_ID: operation 0 sets and 1 forces the EID, 8 to 254; anything else is refused as invalid data. -/
def execSetEndpointId (op eid : Nat) (s : State) : Host.Outcome State Fault Refusal :=
  .next (if !s.esc.ready || s.esc.i3cAddr.isNone then s
    else if op ≤ 1 ∧ 8 ≤ eid ∧ eid ≤ 254 then
      ((s.mapEsc fun e => { e with eid := some eid }).mctpAnswer 1 0 (le 1 0 ++ le 1 eid ++ le 1 0)).pump true
    else s.mctpAnswer 1 2 [])

/-- GET_ENDPOINT_ID: the EID, 0 while none is assigned. -/
def execGetEndpointId (s : State) : Host.Outcome State Fault Refusal :=
  .next (s.mctpAnswer 2 0 (le 1 (s.esc.eid.getD 0) ++ fit 2 (Config.sideBytes 4 0)))

/-- GET_ENDPOINT_UUID. -/
def execGetEndpointUuid (s : State) : Host.Outcome State Fault Refusal :=
  .next (s.mctpAnswer 3 0 (fit 16 (Config.sideBytes 5 0)))

/-- Message types that the X8 supports (Table 14.1). -/
def mctpTypes : List Nat := [0x00, 0x01, 0x7F]

/-- GET_MCTP_VERSION_SUPPORT, for the base protocol (0xFF) or a supported message type. -/
def execGetMctpVersionSupport (msgType : Nat) (s : State) : Host.Outcome State Fault Refusal :=
  .next (if msgType = 0xFF ∨ mctpTypes.contains msgType then s.mctpAnswer 4 0 (Config.sideBytes 6 msgType)
    else s.mctpAnswer 4 0x80 [])

/-- GET_MESSAGE_TYPE_SUPPORT: the message types beside control itself. -/
def execGetMessageTypeSupport (s : State) : Host.Outcome State Fault Refusal :=
  .next (s.mctpAnswer 5 0 (le 1 2 ++ le 1 0x01 ++ le 1 0x7F))

/-- GET_VENDOR_DEFINED_MSG_SUPPORT: one set, of Odvate's IANA number 61,283 (R468). -/
def execGetVendorDefinedMsgSupport (selector : Nat) (s : State) : Host.Outcome State Fault Refusal :=
  .next (if selector = 0 then s.mctpAnswer 6 0 (le 1 0xFF ++ le 1 1 ++ be 4 61283 ++ fit 2 (Config.sideBytes 7 0))
    else s.mctpAnswer 6 2 [])

/-! ## PLDM sensors (R472, R520) -/

/-- The numeric and the state sensors of Table 14.4. -/
def numericSensors : List Nat := [1, 2, 3, 4, 5, 6, 7]

/-- The state sensors. -/
def stateSensors : List Nat := [20, 21, 22, 23]

/-- Does a sensor's source lie on the main side? -/
def sensorMain (n : Nat) : Bool := [3, 5, 6, 7, 20, 21].contains n

/-- Can a sensor be read: its source is on the standby side, or GLB_STATE.MAIN_ON shows the main side on (R465, R472)? -/
def State.sensorUp (s : State) (n : Nat) : Bool := !sensorMain n || s.on GLB_STATE_MAIN_ON

/-- 1/8 °C in units of 0.1 °C. -/
def tenths (t : Int) : Int := t * 10 / 8

/-- A fresh reading of a numeric sensor, in the sensor's unit: what the standby sensors 1, 2 and 4 measure is the
operand, and PWR_VIN, PWR_DRAW and PWR_TEMP show it; COOLANT_HOT is raised at its onset (Table 15.11). -/
def State.takeReading (s : State) (n : Nat) (reading : Int) : State × Int :=
  if n = 1 then (s.noteVin (10 * reading.toNat), (reading.toNat : Int))
  else if n = 2 then (s.noteDraw reading.toNat, (reading.toNat : Int))
  else if n = 3 then (s, tenths s.tjMax)
  else if n = 4 then
    let t := reading * 8 / 10
    let hot := decide (400 < reading)
    let s' := (s.put PWR_TEMP_COOLANT_IN (ofSigned 16 t)).mapPower fun p => { p with coolantHot := hot }
    (if hot && !s.power.coolantHot then s'.raisePower 8 (ofSigned 16 t) else s', reading)
  else if n = 5 then (s, tenths s.dramMax)
  else (s, (s.get (vddFld (n - 6)) : Nat))

/-- Low warning, low critical, high warning, high critical threshold in the sensor's unit (Table 15.12). -/
def State.thresholds (s : State) (n : Nat) : List (Option Int) :=
  if n = 1 then [some 3600, some 3300, some 4800, some 5000]
  else if n = 2 then [none, none, some ((s.powerLimit : Nat) : Int), some 2300]
  else if n = 3 then [none, none, some 1050, some 1150]
  else if n = 4 then [some 150, none, some 400, some 450]
  else if n = 5 then [some 0, none, some 950, some 1050]
  else [none, none, none, none]

/-- Is a high threshold passed? The Leaf and DRAM limits act at the limit (Table 15.3, R245), the others above it
(Tables 15.1 and 15.11, R492). -/
def passedHigh (n : Nat) (v : Int) (t : Option Int) : Bool :=
  match t with
  | none => false
  | some t => if n = 3 ∨ n = 5 then decide (t ≤ v) else decide (t < v)

/-- Is a low threshold passed? -/
def passedLow (v : Int) (t : Option Int) : Bool := match t with | none => false | some t => decide (v < t)

/-- Where a reading stands: 0 normal, 1 warning and 2 critical high, -1 and -2 low. -/
def State.sensorSide (s : State) (n : Nat) (v : Int) : Int :=
  let t := s.thresholds n
  if passedHigh n v (t.getD 3 none) then 2
  else if passedHigh n v (t.getD 2 none) then 1
  else if passedLow v (t.getD 1 none) then -2
  else if passedLow v (t.getD 0 none) then -1
  else 0

/-- Value of a state sensor (Table 14.4). -/
def State.stateSensor (s : State) (n : Nat) : Nat :=
  if n = 20 then s.jobState
  else if n = 21 then s.get RSK_STATUS_LEVEL
  else if n = 22 then (if loopOpen s.esc.sealOhms then 2 else if s.on SEC_STATUS_SEAL_BREAK then 1 else 0)
  else (if s.esc.strapped then 2 else if s.presenceOpen then 1 else 0)

/-! ## PLDM (R466, R471, R472) -/

/-- A PLDM answer: only with an EID, and not from ROM recovery (R467, R484). -/
def State.pldmAnswer (s : State) (type command completion : Nat) (data : List Byte) : State :=
  s.ibi.send (.pldm type command completion data)

/-- Does PLDM answer? -/
def State.pldmUp (s : State) : Bool := s.mctpUp && !s.esc.recovery

/-- GETPDRREPOSITORYINFO: a repository that is available, with one record per sensor. -/
def execGetPdrRepositoryInfo (s : State) : Host.Outcome State Fault Refusal :=
  .next (if !s.pldmUp then s
    else s.pldmAnswer 2 0x50 0 (le 1 0 ++ le 4 (numericSensors ++ stateSensors).length ++ Config.sideBytes 8 0))

/-- Unit, by DSP0248's number, and scale, a power of ten, of a numeric sensor (Table 14.4, log 31). -/
def sensorUnit (n : Nat) : Nat × Int :=
  if n = 1 then (5, -2) else if n = 2 then (7, 0) else if n = 6 ∨ n = 7 then (5, -3) else (2, -1)

/-- A threshold in a PDR: present?, value. -/
def pdrThreshold (t : Option Int) : List Byte :=
  match t with
  | none => le 1 0 ++ le 4 0
  | some v => le 1 1 ++ le 4 (ofSigned 32 v)

/-- GETPDR: the record of a sensor, whose handle is the sensor's number; handle 0 asks for the first. -/
def execGetPdr (handle : Nat) (s : State) : Host.Outcome State Fault Refusal :=
  .next (if !s.pldmUp then s
    else
      let n := if handle = 0 then 1 else handle
      if numericSensors.contains n then
        s.pldmAnswer 2 0x51 0 (le 2 n ++ le 1 0 ++ le 1 (sensorUnit n).1 ++ le 1 (ofSigned 8 (sensorUnit n).2) ++ (s.thresholds n).flatMap pdrThreshold ++ Config.sideBytes 9 n)
      else if stateSensors.contains n then s.pldmAnswer 2 0x51 0 (le 2 n ++ le 1 1 ++ Config.sideBytes 9 n)
      else s.pldmAnswer 2 0x51 0x82 [])

/-- GETSENSORREADING: operational state (0 enabled, 2 unavailable), side of the thresholds, reading. -/
def execGetSensorReading (sensor : Nat) (reading : Int) (s : State) : Host.Outcome State Fault Refusal :=
  .next (if !s.pldmUp then s
    else if !numericSensors.contains sensor then s.pldmAnswer 2 0x11 0x80 []
    else if !s.sensorUp sensor then s.pldmAnswer 2 0x11 0 (le 1 2 ++ le 1 0 ++ le 4 0)
    else
      let (s, v) := s.takeReading sensor reading
      s.pldmAnswer 2 0x11 0 (le 1 0 ++ le 1 (ofSigned 8 (s.sensorSide sensor v)) ++ le 4 (ofSigned 32 v)))

/-- GETSTATESENSORREADINGS: operational state, value. -/
def execGetStateSensorReadings (sensor : Nat) (s : State) : Host.Outcome State Fault Refusal :=
  .next (if !s.pldmUp then s
    else if !stateSensors.contains sensor then s.pldmAnswer 2 0x21 0x80 []
    else if !s.sensorUp sensor then s.pldmAnswer 2 0x21 0 (le 1 2 ++ le 1 0)
    else s.pldmAnswer 2 0x21 0 (le 1 0 ++ le 1 (s.stateSensor sensor)))

/-- SETEVENTRECEIVER names the receiver while no side-band session has sent EVENT_MASK (R471). -/
def execSetEventReceiver (eid : Nat) (s : State) : Host.Outcome State Fault Refusal :=
  .next (if !s.pldmUp then s
    else
      let s := match s.esc.receiver with
        | some (true, _) => s
        | _ => s.setReceiver false eid
      s.pldmAnswer 2 0x04 0 [])

/-- Last side or value of a sensor that the receiver was told of; 0 at first. -/
def State.lastSide (s : State) (n : Nat) : Int := match s.esc.sensors.find? fun p => p.1 == n with | some p => p.2 | none => 0

/-- A sensor's side or value noted; a PlatformEventMessage to the receiver when it is another one (R472). -/
def State.noteSensor (s : State) (n : Nat) (side v : Int) : State :=
  if side = s.lastSide n then s
  else
    let s := s.mapEsc fun e => { e with sensors := (n, side) :: e.sensors.filter fun p => !(p.1 == n) }
    match s.sideDest with
    | some (eid, _) =>
      if s.esc.recovery then s
      else s.pldmAnswer 2 0x0A 0 (le 1 eid ++ le 2 n ++ le 1 (ofSigned 8 side) ++ le 4 (ofSigned 32 v))
    | none => s

/-- PLATFORMEVENTMESSAGE: a sensor is evaluated, and a crossed threshold or a changed state is sent (R472). -/
def execPlatformEventMessage (sensor : Nat) (reading : Int) (s : State) : Host.Outcome State Fault Refusal :=
  .next (if !s.esc.ready || !s.sensorUp sensor then s
    else if numericSensors.contains sensor then
      let (s, v) := s.takeReading sensor reading
      s.noteSensor sensor (s.sensorSide sensor v) v
    else if stateSensors.contains sensor then
      s.noteSensor sensor ((s.stateSensor sensor : Nat) : Int) ((s.stateSensor sensor : Nat) : Int)
    else s)

/-- MESSAGING_CONTROL_AND_DISCOVERY: PLDM Type 0. GetPLDMTypes (0x04) tells of types 0 and 2; the answers to SetTID,
GetTID, GetPLDMVersion and GetPLDMCommands have no given contents; any other command is unsupported. -/
def execMessagingControlAndDiscovery (command : Nat) (s : State) : Host.Outcome State Fault Refusal :=
  .next (if !s.pldmUp then s
    else if command = 4 then s.pldmAnswer 0 4 0 (le 8 5)
    else if command = 1 then s.pldmAnswer 0 1 0 []
    else if command = 2 ∨ command = 3 ∨ command = 5 then s.pldmAnswer 0 command 0 (Config.sideBytes 10 command)
    else s.pldmAnswer 0 command 5 [])

end Sys2Proof.Machine
end

