-- ==== Sys2Proof/Machine/Sideboard.lean ====
section
/-! DEFINITION. The Sideboard operations of Table 7.1 and the write-back of a dirty line as commands of their own (R250,
R255 to R264). The engines run the same operations of Memory.lean inside their work. -/
namespace Sys2Proof.Machine

/-- A Sideboard operation on an address: none while the Sideboard is off or disabled (R447), a fault outside the decoded
range (R211). -/
def State.slice (s : State) (addr : Nat) (work : State → State) : Host.Outcome State Fault Refusal :=
  if decodedEnd ≤ addr then .fault (.undecodedAddress addr)
  else if !s.power.mainOk || !s.on SBD_CTRL_ENABLE then .next s
  else .next (work s)

/-- What an operation returned. -/
def State.sliceAnswer (s : State) (addr : Nat) (o : LineOutcome) (data : List Byte) : State :=
  { s with sbd := { s.sbd with answer := some (addr, o, data) } }

/-- Does an array of a tensor hold a line? -/
def Tensor.holdsLine (t : Tensor) (a : Nat) : Bool :=
  overlaps t.elemBase t.needBytes a 128 || (t.blk != 0 && overlaps t.scaleBase t.scaleBytes a 128)

/-- Does a read of a line by this reader stop at a failed line, for activation replay (Table 6.3, R158)? -/
def State.spillRead (s : State) (r : Reader) (a : Nat) : Bool :=
  match r, s.folio with
  | .engine e, some f =>
    decide (0x10 ≤ e ∧ e < 0x30) && f.tensors.any fun t => t.space == 0 && s.spills f t.tid && t.holdsLine a
  | _, _ => false

/-- LINE_READ. A management read counts nothing against the step (R420). -/
def execLineRead (reader : Reader) (addr : Nat) (s : State) : Host.Outcome State Fault Refusal :=
  s.slice addr fun s =>
    let a := lineOf addr
    let (s, o, dt) := s.lineRead a (match reader with | .engine _ => true | .management => false) (s.spillRead reader a)
    s.sliceAnswer a o dt

/-- LINE_WRITE. -/
def execLineWrite (addr : Nat) (data : List Byte) (poison : Bool) (s : State) : Host.Outcome State Fault Refusal :=
  s.slice addr fun s => s.lineWrite (lineOf addr) data poison

/-- MERGE_WRITE of a line's bytes under a mask, bit i for byte i (Table 7.1, R521). -/
def execMergeWrite (addr : Nat) (bytes : MaskedLine) (s : State) : Host.Outcome State Fault Refusal :=
  s.slice addr fun s => (s.mergeMask (lineOf addr) (bytes.mask % 2 ^ 128) bytes.data false false).1

/-- EXACT_ADD of a value of format F32 (1) or BF16 (3), the only formats that any source sends (R256). -/
def execExactAdd (addr fmt code : Nat) (poison : Bool) (s : State) : Host.Outcome State Fault Refusal :=
  s.slice addr fun s => if fmt = 1 ∨ fmt = 3 then s.exactAdd addr fmt code poison .command else s

/-- The first add that waits at a slice proceeds; a frame whose last add has proceeded frees its slots (R264). -/
def State.resProceed (s : State) (c : Nat) : State :=
  let first := s.sbd.waiting.find? fun w => cabOf w.addr == c
  let s := s.resWait c
  match first with
  | some w =>
    match w.src with
    | .frame p peer vc _ n => if s.addsWait w.src then s else s.freeSlots p peer vc n
    | _ => s
  | none => s

/-- RES_WAIT: the first add that waits at a slice proceeds (R264). -/
def execResWait (slice : Nat) (s : State) : Host.Outcome State Fault Refusal :=
  .next (if s.power.mainOk && s.on SBD_CTRL_ENABLE then s.resProceed slice else s)

/-- A word operation of Table 7.1 on the aligned word of an address: 1 FETCH_ADD, 2 SWAP, 3 CMP_SWAP, 4 MAX_U, 5 MIN_U. -/
def State.sliceWord (s : State) (op addr operand comparand : Nat) : Host.Outcome State Fault Refusal :=
  s.slice addr fun s =>
    let w := addr / 8 * 8
    let (s, old, _) := s.wordOp w (wordNew op (operand % 2 ^ 64) comparand) false
    s.sliceAnswer w (match s.held (lineOf w) with | some l => l.outcome | none => .failed) (le 8 old)

/-- FETCH_ADD. -/
def execFetchAdd (addr operand : Nat) (s : State) : Host.Outcome State Fault Refusal := s.sliceWord 1 addr operand 0

/-- SWAP. -/
def execSwap (addr operand : Nat) (s : State) : Host.Outcome State Fault Refusal := s.sliceWord 2 addr operand 0

/-- CMP_SWAP. -/
def execCmpSwap (addr operand comparand : Nat) (s : State) : Host.Outcome State Fault Refusal :=
  s.sliceWord 3 addr operand comparand

/-- MAX_U. -/
def execMaxU (addr operand : Nat) (s : State) : Host.Outcome State Fault Refusal := s.sliceWord 4 addr operand 0

/-- MIN_U. -/
def execMinU (addr operand : Nat) (s : State) : Host.Outcome State Fault Refusal := s.sliceWord 5 addr operand 0

/-- SBD_WRITEBACK: a dirty line goes to its Cabinet and stays, clean (R250). -/
def execSbdWriteback (addr : Nat) (s : State) : Host.Outcome State Fault Refusal :=
  s.slice addr fun s => s.writeback (lineOf addr)

end Sys2Proof.Machine
end

