-- ==== Sys2Proof/Machine/Strokes.lean ====
section
/-! DEFINITION. The strokes of the Blotters, EW, ROW, GATHER and SCATTER, the Root engine's ROOT, and the hold for a
function table (R112 to R116, R139, R256, R307 to R310). -/
namespace Sys2Proof.Machine

/-- EW, ROW and GATHER with nothing to do; SCATTER looks at M alone (R125). -/
def mnEmpty (k : Stroke) : Bool := k.x.m == 0 || k.x.n == 0

/-- Rows of a Desk's share over M. -/
def Stroke.rows (k : Stroke) : List Nat := deskRows k.d k.x.m k.d.mPlan

/-- Rows with their clamps and copied non-finite values, built one after the other. -/
def State.buildRows (s : State) (rows : List Nat) (one : State → Nat → State × RowOut × Nat × Nat) :
    State × List RowOut × Nat × Nat :=
  rows.foldl (fun (acc : State × List RowOut × Nat × Nat) m =>
    let (s, o, c, nf) := one acc.1 m
    (s, acc.2.1 ++ [o], acc.2.2.1 + c, acc.2.2.2 + nf)) (s, [], 0, 0)

/-- Rows built and written to TID_C, with the record; `more` adds flags from what was met. -/
def State.putBuilt (s : State) (k : Stroke) (b : List RowOut × Nat × Nat) (status flags kind : Nat) : State × Rec :=
  let (s, bad, nf, sat) := s.putRows (k.need 0x0C) b.1 b.2.2 b.2.1
  (s, k.record status (wroteFlags bad nf sat ||| flags) bad kind)

/-! ## EW (R112) -/

/-- op(a, b) of an EW_OP, rounded once; COPY is exact. -/
def ewOp (op : Nat) (a b : Val) : Val :=
  match op with
  | 0 => a
  | 1 => opA40 XV.add a b
  | 2 => opA40 XV.sub a b
  | 3 => opA40 XV.mul a b
  | 4 => opA40 maxXV a b
  | _ => opA40 minXV a b

/-- One row of EW. -/
def State.ewRow (s : State) (k : Stroke) (verbatimCopy : Bool) (m : Nat) : State × RowOut × Nat × Nat :=
  let a := k.need 0x08
  let c := k.need 0x0C
  let n := k.x.n
  let (s, ba) := s.strokeRows k a [m] n
  if verbatimCopy then
    let (o, nf) := ba.copyRow c m m n
    (s, o, 0, nf)
  else
    let bc := k.d.k35
    let (s, b) := match k.tensor 0x0A with
      | some t =>
        if k.d.k30 = 0 then (s, []) else
        let r := if bc = 0 then m else 0
        let (s, bb) := s.strokeRows k t [r] (if bc < 2 then n else 1)
        (s, if bc < 2 then bb.row r n else List.replicate n (bb.val 0 0))
      | none => (s, [])
    let vs := (ba.row m n).zipIdx.map fun v => fuse k.d.k34 k.img (ewOp k.d.k30 v.1 ((b[v.2]?).getD ⟨false, .zero⟩))
    (s, s.outRow k c m (vs.map Prod.fst), (vs.map Prod.snd).sum, 0)

/-- The work of EW. -/
def State.ewWork (s : State) (k : Stroke) : State × Rec :=
  let same := k.d.k30 == 0 && k.d.k34 == 0 && sameForm (k.need 0x08) (k.need 0x0C)
  let (s, b) := s.buildRows k.rows fun s m => s.ewRow k same m
  s.putBuilt k b 0 0 0

/-- EW. -/
def execEw (desk : Nat) (s : State) : Host.Outcome State Fault Refusal := .next (s.stroke desk 0x11 mnEmpty State.ewWork)

/-! ## ROW (R113) -/

/-- Values mapped by an operation that rounds, with the clamps added. -/
def mapB (f : Val → BVal) (vs : List Val) : List Val × Nat := ((vs.map fun v => (f v).1), (vs.map fun v => (f v).2).sum)

/-- 1 / √(v + eps), every operation F32. -/
def rootB (v : BVal) (eps : Val) : BVal :=
  let (a, c1) := opF32 XV.add v.1 eps
  let (r, c2) := divF32 .one ⟨a.mark, sqrtRound fF32 a.x⟩
  (r, v.2 + c1 + c2)

/-- An A40 sum divided exactly by n and rounded once to F32. -/
def meanB (v : Val) (n : Nat) : BVal := divF32 v ⟨false, .ofNat n⟩

/-- SOFTMAX of a row; `mx` from TID_STATS where that names a tensor. -/
def softmaxRow (img : List Byte) (x : List Val) (mx : Option Val) : List Val × Nat :=
  let mx := match mx with | some v => v | none => x.foldl (fun a v => ⟨a.mark || v.mark, maxXV a.x v.x⟩) ⟨false, .inf true⟩
  let (ex, c1) := mapB (fun v =>
    let (d, c) := opF32 XV.sub v mx
    let (y, e) := tableEval img d
    (y, c + e)) x
  let (s, c2) := rF32 (sumA40 ex)
  let (ys, c3) := mapB (fun v => divF32 v s) ex
  (ys, c1 + c2 + c3)

/-- LAYERNORM of a row; `sum` from TID_STATS where that names a tensor. -/
def layernormRow (x gamma beta : List Val) (eps : Val) (sum : Option Val) : List Val × Nat :=
  let n := x.length
  let (mean, c1) := meanB (sum.getD (sumA40 x)) n
  let (d, c2) := mapB (fun v => opF32 XV.sub v mean) x
  let r := rootB (meanB (sumA40 (d.map fun v => opA40 XV.mul v v)) n) eps
  let ys := d.zipIdx.map fun v =>
    let (a, e1) := opF32 XV.mul v.1 r.1
    let (b, e2) := opF32 XV.mul a ((gamma[v.2]?).getD .one)
    let (y, e3) := opF32 XV.add b ((beta[v.2]?).getD ⟨false, .zero⟩)
    ((y, e1 + e2 + e3) : BVal)
  (ys.map Prod.fst, c1 + c2 + r.2 + (ys.map Prod.snd).sum)

/-- RMSNORM of a row; `sum` from TID_STATS where that names a tensor. -/
def rmsnormRow (x gamma : List Val) (eps : Val) (sum : Option Val) : List Val × Nat :=
  let r := rootB (meanB (sum.getD (sumA40 (x.map fun v => opA40 XV.mul v v))) x.length) eps
  let ys := x.zipIdx.map fun v =>
    let (a, e1) := opF32 XV.mul v.1 r.1
    let (y, e2) := opF32 XV.mul a ((gamma[v.2]?).getD .one)
    ((y, e1 + e2) : BVal)
  (ys.map Prod.fst, r.2 + (ys.map Prod.snd).sum)

/-- A row of a tensor that ROW may name, rounded to F32; with its clamps. -/
def State.normVec (s : State) (k : Stroke) (o : Nat) : State × List Val × Nat :=
  match k.tensor o with
  | some t =>
    let (s, b) := s.strokeRows k t [0] k.x.n
    let (vs, c) := mapB rF32 (b.row 0 k.x.n)
    (s, vs, c)
  | none => (s, [], 0)

/-- One row of ROW. -/
def State.normRow (s : State) (k : Stroke) (gamma beta : List Val) (m : Nat) : State × RowOut × Nat × Nat :=
  let (s, b) := s.strokeRows k (k.need 0x08) [m] k.x.n
  let (x, c0) := mapB rF32 (b.row m k.x.n)
  let (s, st) := match k.tensor 0x26 with
    | some t => let (s, b) := s.readRows k.desk t [0] m 1 false; (s, some (b.val 0 m))
    | none => (s, none)
  let eps : Val := ⟨false, decode fF32 k.d.eps⟩
  let (ys, c) := match k.d.k30 with
    | 0 => softmaxRow k.img x st
    | 1 => layernormRow x gamma beta eps st
    | _ => rmsnormRow x gamma eps st
  (s, s.outRow k (k.need 0x0C) m ys, c0 + c, 0)

/-- The work of ROW. -/
def State.rowWork (s : State) (k : Stroke) : State × Rec :=
  let (s, gamma, c1) := s.normVec k 0x0A
  let (s, beta, c2) := s.normVec k 0x0E
  let (s, b) := s.buildRows k.rows fun s m => s.normRow k gamma beta m
  s.putBuilt k (b.1, b.2.1 + c1 + c2, b.2.2) 0 0 0

/-- ROW. -/
def execRow (desk : Nat) (s : State) : Host.Outcome State Fault Refusal := .next (s.stroke desk 0x12 mnEmpty State.rowWork)

/-! ## GATHER (R114) -/

/-- Index `i` of an INDEX32 tensor read as one list over its rows. -/
def Buf.index (b : Buf) (i : Nat) : Bool × Nat := b.idx (if b.t.d0 = 0 ∨ b.t.rank ≤ 1 then 0 else i / b.t.d0) (if b.t.rank ≤ 1 then i else i % b.t.d0)

/-- The indices of A that the stroke takes. -/
def State.indices (s : State) (k : Stroke) (rows : List Nat) : State × List (Nat × Bool × Nat) :=
  let a := k.need 0x08
  let (s, b) := s.strokeRows k a [0] k.x.m
  (s, rows.map fun m => (m, b.index m))

/-- One row of GATHER. -/
def State.gatherRow (s : State) (k : Stroke) (x : Nat × Bool × Nat) : State × RowOut × Nat × Nat :=
  let b := k.need 0x0A
  let c := k.need 0x0C
  let n := k.x.n
  let all := fun (v : Val) => s.outRow k c x.1 (List.replicate n v)
  if x.2.1 then (s, all ⟨true, .zero⟩, 0, 0)
  else if x.2.2 = 0xFFFFFFFF then (s, all ⟨false, .zero⟩, 0, 0)
  else if b.rows ≤ x.2.2 then (s, all ⟨true, .zero⟩, 0, 0)
  else
    let (s, buf) := s.strokeRows k b [x.2.2] n
    if sameForm b c then
      let (o, nf) := buf.copyRow c x.2.2 x.1 n
      (s, o, 0, nf)
    else (s, s.outRow k c x.1 (buf.row x.2.2 n), 0, 0)

/-- The work of GATHER. -/
def State.gatherWork (s : State) (k : Stroke) : State × Rec :=
  let (s, idx) := s.indices k k.rows
  let out := (idx.filter fun x => !x.2.1 && x.2.2 != 0xFFFFFFFF && decide ((k.need 0x0A).rows ≤ x.2.2)).length
  let (s, outs, c, nf) := idx.foldl (fun (acc : State × List RowOut × Nat × Nat) x =>
    let (s, o, c, nf) := acc.1.gatherRow k x
    (s, acc.2.1 ++ [o], acc.2.2.1 + c, acc.2.2.2 + nf)) (s, [], 0, 0)
  let marked := idx.any fun x => x.2.1
  let s := s.countAt 0x15 { desk := some k.desk } out
  s.putBuilt k (outs, c, nf) (if out = 0 then 0 else 0x0203) (if marked then flPoisonIndex ||| flPoison else 0) out

/-- GATHER. -/
def execGather (desk : Nat) (s : State) : Host.Outcome State Fault Refusal := .next (s.stroke desk 0x13 mnEmpty State.gatherWork)

/-! ## SCATTER (R115, R256) -/

/-- One touched row of SCATTER ADD_ORDERED or STORE: the source rows that name it, ascending. DESIGN CHOICE (log 92): a STORE
decodes the row and encodes it again even where the two tensors share format and block size, which R115 does not settle. -/
def State.scatterRow (s : State) (k : Stroke) (src : List (Nat × Nat)) (r : Nat) : State × RowOut × Nat × Nat :=
  let b := k.need 0x0A
  let c := k.need 0x0C
  let n := k.x.n
  let ms := (src.filter fun p => p.2 == r).map Prod.fst
  if k.d.k30 = 2 then
    let m := ms.foldl max 0
    let (s, buf) := s.strokeRows k b [m] n
    (s, s.outRow k c r (buf.row m n), 0, 0)
  else
    let (s, old) := s.rowIf k k.d.accum (some c) (fun _ => r) n
    let (s, buf) := s.strokeRows k b ms n
    let vs := (List.range n).map fun i =>
      ms.foldl (fun a m => opA40 XV.add a (buf.val m i)) ((old[i]?).getD ⟨false, .zero⟩)
    (s, s.outRow k c r vs, 0, 0)

/-- One source row of SCATTER ADD_EXACT, element by element, rounded to C's format (R256): the marked elements sent, and
the non-finite values and saturations that the rounding counts (R77, R79).
DESIGN CHOICE (log 92): a C in the Inkwell gets its adds at the DRAM address equal to its offset. DESIGN CHOICE (log 95):
what the rounding counts goes to C's gauge and the record, though the write itself is a seal's. -/
def State.scatterAdd (s : State) (k : Stroke) (p : Nat × Nat) (acc : Nat × Nat × Nat) : State × Nat × Nat × Nat :=
  let c := k.need 0x0C
  let (s, buf) := s.strokeRows k (k.need 0x0A) [p.1] k.x.n
  (buf.row p.1 k.x.n).zipIdx.foldl (fun (x : State × Nat × Nat × Nat) v =>
    let (code, sat, nf) := encodeXV c.fmt .rne v.1.x
    let s := x.1.exactAdd (c.elemAddr p.2 v.2) c.fmt code v.1.mark (.engine k.desk)
    if v.1.mark then (s, x.2.1 + 1, x.2.2)
    else if buf.t.fmt = c.fmt then (s, x.2)
    else (s, x.2.1, x.2.2.1 + nf, x.2.2.2 + sat)) (s, acc)

/-- The exact adds of a SCATTER: what its record and C's gauge take from them. -/
def State.scatterAdds (s : State) (k : Stroke) (src : List (Nat × Nat)) : State × Nat × Nat × Nat :=
  let (s, x) := src.foldl (fun (x : State × Nat × Nat × Nat) p => x.1.scatterAdd k p x.2) (s, 0, 0, 0)
  (s.gauge (k.need 0x0C) { GaugeAcc.empty 0 with nonfin := x.2.1, sat := x.2.2 }, x)

/-- The touched list: the lowest indices that fit, then pads; whether it was cut. -/
def State.putTouched (s : State) (k : Stroke) (touched : List Nat) : State × Bool :=
  match k.tensor 0x0E with
  | some t =>
    let cap := t.allocDim 0 * t.allocRows
    let l := touched.take cap ++ List.replicate (cap - touched.length) 0xFFFFFFFF
    let cells := cellsOf t.elemBase (l.flatMap (le 4))
    (t.writePlaces.foldl (fun s p => s.storeCells p cells [] false) s, decide (cap < touched.length))
  | none => (s, false)

/-- The work of SCATTER. -/
def State.scatterWork (s : State) (k : Stroke) : State × Rec :=
  let c := k.need 0x0C
  let (s, idx) := s.indices k k.rows
  let named := idx.filter fun x => !x.2.1 && x.2.2 != 0xFFFFFFFF
  let out := (named.filter fun x => decide (c.rows ≤ x.2.2)).length
  let src := (named.filter fun x => decide (x.2.2 < c.rows)).map fun x => (x.1, x.2.2)
  let touched := (src.map Prod.snd).dedup.mergeSort fun a b => decide (a ≤ b)
  let marked := idx.any fun x => x.2.1
  let exact := k.d.k30 == 1
  let (s, sent) := if exact then s.scatterAdds k src else (s, 0, 0, 0)
  let (s, b) := if exact || k.x.n == 0 then (s, [], 0, 0) else s.buildRows touched fun s r => s.scatterRow k src r
  let (s, cut) := s.putTouched k touched
  let s := s.countAt 0x15 { desk := some k.desk } out
  s.putBuilt k b (if out = 0 then 0 else 0x0203) ((if marked then flPoisonIndex else 0) ||| (if cut then flTouchedCut else 0)
      ||| wroteFlags sent.1 sent.2.1 sent.2.2)
    touched.length

/-- SCATTER. -/
def execScatter (desk : Nat) (s : State) : Host.Outcome State Fault Refusal :=
  .next (s.stroke desk 0x14 (fun k => k.x.m == 0) State.scatterWork)

/-! ## ROOT (R116, R307 to R310) -/

/-- A square matrix by rows. -/
abbrev Mat := List (List XV)

/-- A matrix from its entries. -/
def mat (n : Nat) (f : Nat → Nat → XV) : Mat := (List.range n).map fun i => (List.range n).map (f i)

/-- An entry. -/
def Mat.at (a : Mat) (i j : Nat) : XV := (a.getD i []).getD j .zero

/-- Every entry changed by a function of row, column and entry. -/
def Mat.mapAt (a : Mat) (f : Nat → Nat → XV → XV) : Mat := a.zipIdx.map fun r => r.1.zipIdx.map fun x => f r.2 x.2 x.1

/-- A product of matrices: split-three, in F32 (R309). -/
def Mat.times (n : Nat) (a b : Mat) : Mat :=
  let cols := (List.range n).map fun j => (List.range n).map fun i => (⟨false, b.at i j⟩ : Val)
  a.map fun r =>
    let row := r.map fun x => (⟨false, x⟩ : Val)
    cols.map fun c => roundXV fF32 (dotProduct true false 16 ⟨false, .zero⟩ row c).x

/-- Is every entry finite? -/
def Mat.finite (a : Mat) : Bool := a.all fun r => r.all XV.isFin

/-- δ of row and column, as an integer value. -/
def delta (i j n : Nat) : XV := if i = j then .ofNat n else .zero

/-- f of R287 for a matrix entry. -/
def rootF (x : XV) : XV := roundXV fF32 x

/-- One of the 32 rounds of R309 on X and M. -/
def rootRound (n p : Nat) (xm : Mat × Mat) : Mat × Mat :=
  let t := xm.2.mapAt fun i j y => (rootF ((delta i j (p + 1)).sub y)).scale (-(Nat.log2 p : Int))
  let x := xm.1.times n t
  let t := if p = 1 then t else if p = 2 then t.times n t else (t.times n t).times n (t.times n t)
  (x, t.times n xm.2)

/-- e of R309: ceil(log2 frob) rounded up to a multiple of p. -/
def rootExp (p : Nat) (frob : XV) : Int :=
  match frob with
  | .fin _ m _ =>
    if m = 0 then 0
    else
      let l := frob.floorLog2
      let c := if XV.eqv frob (.fin false 1 l) then l else l + 1
      c + (-c) % (p : Int)
  | _ => 0

/-- The Frobenius norm: squares summed in A40, row-major, its root rounded once. -/
def frobenius (a : Mat) : XV :=
  sqrtRound fF32 ((a.flatMap id).foldl (fun s x => roundA40 (s.add (roundA40 (x.mul x)))) .zero)

/-- One attempt on a block: C[g] where it meets R309's test. -/
def rootAttempt (n p : Nat) (blk : Mat) (eps : XV) (attempt : Nat) : Option Mat :=
  let dmax := (List.range n).foldl (fun m i => maxXV m (blk.at i i)) (.inf true)
  let ep := if eps.isZero ∧ 0 < attempt then dmax.scale (4 * (attempt : Int) - 28) else eps.scale (4 * (attempt : Int))
  let a := mat n fun i j => if i = j then rootF ((blk.at i i).add ep) else if i < j then blk.at i j else blk.at j i
  let fr := frobenius a
  let e := rootExp p fr
  let x := mat n fun i j => (delta i j 1).scale (-(e / (p : Int)))
  let (x, m) := (List.range 32).foldl (fun xm _ => rootRound n p xm) (x, a.mapAt fun _ _ y => y.scale (-e))
  let near := (m.mapAt fun i j y => rootF (y.sub (delta i j 1))).all fun r => r.all fun y => !(XV.lt (.fin false 1 (-10)) y.abs)
  if fr.isFin && x.finite && m.finite && near then some x else none

/-- A block's result: C[g] of the first attempt that succeeds, and the attempts made. -/
def rootBlock (n p : Nat) (blk : Mat) (eps : XV) : Option Mat × Nat :=
  (List.range 4).foldl (fun acc i =>
    match acc.1 with
    | some _ => acc
    | none => (rootAttempt n p blk eps i, i + 1)) (none, 0)

/-- The root status of a block written. -/
def State.putStatus (s : State) (t : Tensor) (g v : Nat) : State :=
  t.writePlaces.foldl (fun s p => s.storeCells p (cellsOf (t.elemBase + 4 * g) (le 4 v)) [] false) s

/-- One block of ROOT: the rows that it writes, and whether it failed. A block with a marked element gives marked roots;
whether it passes the test is then a free value (log 3). An array fault in its products poisons the whole block (R55, log 41).
The status of a failed block that carries the poison marker counts as 0, not as 0xFFFF_FFFF (DESIGN CHOICE, log 114). -/
def State.rootOne (s : State) (k : Stroke) (hit : Bool) (g : Nat) : State × List RowOut × Bool :=
  let a := k.need 0x08
  let c := k.need 0x0C
  let t := k.need 0x0E
  let n := k.x.k
  let i : Inst := { desk := some k.desk }
  let (s, b) := s.strokeRows k a ((List.range n).map fun r => g * a.d1 + r) n
  let vals := (List.range n).map fun r => b.row (g * a.d1 + r) n
  let mark := vals.zipIdx.any fun r => (r.1.drop r.2).any (·.mark)
  let (res, tries) := rootBlock n k.d.k30 (vals.map fun r => r.map (·.x)) (decode fF32 k.d.eps)
  let free := Config.openRoot (vals.map fun r => r.map fun x => if x.mark then none else some (encodeXV fF32 .rne x.x).1) k.d.k30 k.d.eps
  let s := (s.countAt 0x18 i 1).countAt 0x19 i (tries - 1)
  let rows := fun (x : Mat) => x.zipIdx.map fun r => s.outRow k c (g * c.d1 + r.2) (r.1.map fun y => ⟨mark || hit, y⟩)
  let good := if mark then free else res.isSome
  if good then (s.putStatus t g s.step, rows (res.getD (mat n fun i j => delta i j 1)), false)
  else
    let s := ((s.bump NIB0_ROOT_COUNT_ROOT_FAIL 1).bump NIB0_ROOT_COUNT_PRECOND_FALLBACK 1).countAt 0x1A i 1
    let s := s.countAt 0x1B i 1
    let (s, ls) := s.takeLines (t.readPlace k.desk) (linesOf (t.elemBase + 4 * g) 4) false
    let old := (ls.num (t.elemBase + 4 * g) 4).2
    let ident := (mat n fun i j => delta i j 1).zipIdx.map fun r =>
      s.outRow k c (g * c.d1 + r.2) (r.1.map fun y => ⟨hit, y⟩)
    (s, if old = 0xFFFFFFFF then ident else [], true)

/-- The sequencer sets the Desk's Leaves for the products of ROOT: F32, one problem, no chain, in the stroke's mode (R43,
R309). -/
def State.rootLeaves (s : State) (k : Stroke) : State :=
  let el := s.runsElastic k
  s.deskLeaves k.desk fun _ (l : Leaf) =>
    { l with fmtA := fF32, fmtB := fF32, blk := 0, elastic := el, problems := 1, width := 512, reversed := false,
             chainIn := false, chainOut := false }

/-- The work of ROOT. Its products run on the Desk's Leaves (R309), so that parity there is checked like any stroke's: a
fault strikes the block that it names, and where it lies in parts that a Leaf's problems share, each later block (R55). -/
def State.rootWork (x : Option ArrayFault) (s : State) (k : Stroke) : State × Rec :=
  if s.rootSkips k.f k.d then (s.setStanding k.desk none, .zero)
  else
    let blocks := sharePart k.d.share 0 k.d.groups
    let s := (if blocks.isEmpty then s else (s.rotate k.desk).rootLeaves k).setStanding k.desk none
    let shown := x.filter fun x => s.plankMoves k.desk x.leaf x.row x.col 8 && blocks.contains x.set
    let s := match shown with | some x => s.noteArrayFault k.desk x.leaf x.row x.col | none => s
    let hit := fun (g : Nat) => shown.any fun x => if x.shared then decide (x.set ≤ g) else g == x.set
    let (s, outs, fails) := blocks.foldl (fun (acc : State × List RowOut × Nat) g =>
      let (s, o, f) := acc.1.rootOne k (hit g) g
      (s, acc.2.1 ++ o, acc.2.2 + b2n f)) (s, [], 0)
    let (s, r) := s.putBuilt k (outs, 0, 0) 0 (if fails = 0 then 0 else flRootFail) fails
    (s, if shown.isNone then r else
      { r with status := 0x0201, flags := r.flags ||| if blocks.all hit then 0 else flPartial })

/-- ROOT. -/
def execRoot (run : Struck) (s : State) : Host.Outcome State Fault Refusal :=
  .next (s.stroke run.desk 0x15 (fun k => k.x.k == 0) (State.rootWork run.fault))

/-! ## The hold for a table (R139) -/

/-- The work of a kind that evaluates tables. -/
def tableKind (fault : Option ArrayFault) (kind : Nat) : Option ((Stroke → Bool) × StrokeWork) :=
  match kind with
  | 0x10 => some (mmEmpty, State.mmWork fault)
  | 0x11 => some (mnEmpty, State.ewWork)
  | 0x12 => some (mnEmpty, State.rowWork)
  | _ => none

/-- TABLE_WAIT: a stroke that holds its Blotters binds the bank of its version once that is loaded, and runs.
DESIGN CHOICE (log 91): DURATION_NS counts the hold, since the stroke's first rows have been read when its Blotters hold. -/
def execTableWait (run : Struck) (s : State) : Host.Outcome State Fault Refusal :=
  .next (match (s.eng run.desk).phase, s.head run.desk, s.folio with
    | .heldTable, some d, some f =>
      if 2 ≤ run.desk || !s.mayRun then s
      else match s.bindTable d, tableKind run.fault d.kind with
      | some bank, some (empty, work) =>
        let (s, r) := (s.bound run.desk bank).strokeRun run.desk f d bank empty work
        (s.setPhase run.desk (.done r)).settle
      | _, _ => s
    | _, _, _ => s)

end Sys2Proof.Machine
end

