-- ==== Sys2Proof/Machine/Dispatch.lean ====
section
/-! DEFINITION. The dispatch: one arm per command, each a direct call of its meaning. -/
namespace Sys2Proof.Machine

/-- The effect of a command on everything but the queue. -/
def exec (i : Instr) (s : State) : Host.Outcome State Fault Refusal :=
  match i with
  | .hello h version firstSeq => Sys2Proof.Machine.execHello h version firstSeq s
  | .claim h alt => Sys2Proof.Machine.execClaim h alt s
  | .release h => Sys2Proof.Machine.execRelease h s
  | .ping h data => Sys2Proof.Machine.execPing h data s
  | .regRead h addr count => Sys2Proof.Machine.execRegRead h addr count s
  | .regWrite h addr value => Sys2Proof.Machine.execRegWrite h addr value s
  | .regWritePair h addr value => Sys2Proof.Machine.execRegWritePair h addr value s
  | .lock h cls => Sys2Proof.Machine.execLock h cls s
  | .unlock h cls => Sys2Proof.Machine.execUnlock h cls s
  | .memRead h addr bytes mflags => Sys2Proof.Machine.execMemRead h addr bytes mflags s
  | .memWrite h addr mflags data => Sys2Proof.Machine.execMemWrite h addr mflags data s
  | .memAtomic h addr op operand comparand => Sys2Proof.Machine.execMemAtomic h addr op operand comparand s
  | .scrub h base bytes sflags => Sys2Proof.Machine.execScrub h base bytes sflags s
  | .digest h base bytes => Sys2Proof.Machine.execDigest h base bytes s
  | .stateRead h offset bytes => Sys2Proof.Machine.execStateRead h offset bytes s
  | .stateWrite h offset data => Sys2Proof.Machine.execStateWrite h offset data s
  | .folioData h offset data => Sys2Proof.Machine.execFolioData h offset data s
  | .loadFolio h imageBytes digest => Sys2Proof.Machine.execLoadFolio h imageBytes digest s
  | .start h firstStep steps => Sys2Proof.Machine.execStart h firstStep steps s
  | .stop h mode => Sys2Proof.Machine.execStop h mode s
  | .setStepSize h tagStep value => Sys2Proof.Machine.execSetStepSize h tagStep value s
  | .setSeed h seed => Sys2Proof.Machine.execSetSeed h seed s
  | .jobStatus h => Sys2Proof.Machine.execJobStatus h s
  | .routeWrite h bank offset data => Sys2Proof.Machine.execRouteWrite h bank offset data s
  | .routeArm h armStep => Sys2Proof.Machine.execRouteArm h armStep s
  | .seal h step => Sys2Proof.Machine.execSeal h step s
  | .restore h step => Sys2Proof.Machine.execRestore h step s
  | .adopt h role step => Sys2Proof.Machine.execAdopt h role step s
  | .confirm h step => Sys2Proof.Machine.execConfirm h step s
  | .partner2 h role => Sys2Proof.Machine.execPartner2 h role s
  | .eventAck h seq => Sys2Proof.Machine.execEventAck h seq s
  | .eventMask h mask => Sys2Proof.Machine.execEventMask h mask s
  | .stepReport h step first => Sys2Proof.Machine.execStepReport h step first s
  | .powerStatus h => Sys2Proof.Machine.execPowerStatus h s
  | .powerSet h mode target => Sys2Proof.Machine.execPowerSet h mode target s
  | .mainPower h on => Sys2Proof.Machine.execMainPower h on s
  | .fwStage h offset final data => Sys2Proof.Machine.execFwStage h offset final data s
  | .fwCommit h version => Sys2Proof.Machine.execFwCommit h version s
  | .idRotate h => Sys2Proof.Machine.execIdRotate h s
  | .eraseAll h confirm => Sys2Proof.Machine.execEraseAll h confirm s
  | .debugUnlock h arm => Sys2Proof.Machine.execDebugUnlock h arm s
  | .testMode h arm => Sys2Proof.Machine.execTestMode h arm s
  | .sealAck h => Sys2Proof.Machine.execSealAck h s
  | .attest h nonce part offset => Sys2Proof.Machine.execAttest h nonce part offset s
  | .opcodeUnknown h opcode => Sys2Proof.Machine.execOpcodeUnknown h opcode s
  | .chembeRefused packet => Sys2Proof.Machine.execChembeRefused packet s
  | .arp port targetIp senderIp senderMac => Sys2Proof.Machine.execArp port targetIp senderIp senderMac s
  | .neighborDiscovery port targetIp senderIp senderMac => Sys2Proof.Machine.execNeighborDiscovery port targetIp senderIp senderMac s
  | .echoRequest port v6 targetIp senderIp data => Sys2Proof.Machine.execEchoRequest port v6 targetIp senderIp data s
  | .sessionTimeout side session => Sys2Proof.Machine.execSessionTimeout side session s
  | .commandDone index => Sys2Proof.Machine.execCommandDone index s
  | .eventResend side => Sys2Proof.Machine.execEventResend side s
  | .hLinkDown port => Sys2Proof.Machine.execHLinkDown port s
  | .hostPortTrain port lanes => Sys2Proof.Machine.execHostPortTrain port lanes s
  | .lockTimeout mgmt => Sys2Proof.Machine.execLockTimeout mgmt s
  | .guardTimeout block => Sys2Proof.Machine.execGuardTimeout block s
  | .warmReset h => Sys2Proof.Machine.execWarmReset h s
  | .blockReset h block => Sys2Proof.Machine.execBlockReset h block s
  | .evacReq h cab lchan => Sys2Proof.Machine.execEvacReq h cab lchan s
  | .snap h => Sys2Proof.Machine.execSnap h s
  | .clear h => Sys2Proof.Machine.execClear h s
  | .coldStart vinMv feedId slotId => Sys2Proof.Machine.execColdStart vinMv feedId slotId s
  | .escritoireReady ohms => Sys2Proof.Machine.execEscritoireReady ohms s
  | .mainOnStart => Sys2Proof.Machine.execMainOnStart s
  | .ready planks drawers => Sys2Proof.Machine.execReady planks drawers s
  | .standbyLoss vinMv => Sys2Proof.Machine.execStandbyLoss vinMv s
  | .pwrEnRise => Sys2Proof.Machine.execPwrEnRise s
  | .pwrEnFall => Sys2Proof.Machine.execPwrEnFall s
  | .resetN lowNs => Sys2Proof.Machine.execResetN lowNs s
  | .resetNRelease feedId slotId => Sys2Proof.Machine.execResetNRelease feedId slotId s
  | .undervolt vinMv => Sys2Proof.Machine.execUndervolt vinMv s
  | .overvolt vinMv lastedNs => Sys2Proof.Machine.execOvervolt vinMv lastedNs s
  | .powerFail vinMv lastedNs => Sys2Proof.Machine.execPowerFail vinMv lastedNs s
  | .gaspRailsOff => Sys2Proof.Machine.execGaspRailsOff s
  | .thermTrip cause => Sys2Proof.Machine.execThermTrip cause s
  | .feedWarn asserted lastedNs => Sys2Proof.Machine.execFeedWarn asserted lastedNs s
  | .heartbeat secretary => Sys2Proof.Machine.execHeartbeat secretary s
  | .mainLost => Sys2Proof.Machine.execMainLost s
  | .vloopStep powerW => Sys2Proof.Machine.execVloopStep powerW s
  | .gateUpdate powerW => Sys2Proof.Machine.execGateUpdate powerW s
  | .presence lowNs => Sys2Proof.Machine.execPresence lowNs s
  | .presenceStrapped => Sys2Proof.Machine.execPresenceStrapped s
  | .presenceWindowExpiry => Sys2Proof.Machine.execPresenceWindowExpiry s
  | .sealSample ohms => Sys2Proof.Machine.execSealSample ohms s
  | .fwStageTimeout => Sys2Proof.Machine.execFwStageTimeout s
  | .entdaa address => Sys2Proof.Machine.execEntdaa address s
  | .setnewda address => Sys2Proof.Machine.execSetnewda address s
  | .getpid => Sys2Proof.Machine.execGetpid s
  | .getbcr => Sys2Proof.Machine.execGetbcr s
  | .getdcr => Sys2Proof.Machine.execGetdcr s
  | .getstatus => Sys2Proof.Machine.execGetstatus s
  | .getmwl => Sys2Proof.Machine.execGetmwl s
  | .getmrl => Sys2Proof.Machine.execGetmrl s
  | .rstdaa => Sys2Proof.Machine.execRstdaa s
  | .setEndpointId op eid => Sys2Proof.Machine.execSetEndpointId op eid s
  | .getEndpointId => Sys2Proof.Machine.execGetEndpointId s
  | .getEndpointUuid => Sys2Proof.Machine.execGetEndpointUuid s
  | .getMctpVersionSupport msgType => Sys2Proof.Machine.execGetMctpVersionSupport msgType s
  | .getMessageTypeSupport => Sys2Proof.Machine.execGetMessageTypeSupport s
  | .getVendorDefinedMsgSupport selector => Sys2Proof.Machine.execGetVendorDefinedMsgSupport selector s
  | .getPdrRepositoryInfo => Sys2Proof.Machine.execGetPdrRepositoryInfo s
  | .getPdr handle => Sys2Proof.Machine.execGetPdr handle s
  | .getSensorReading sensor reading => Sys2Proof.Machine.execGetSensorReading sensor reading s
  | .getStateSensorReadings sensor => Sys2Proof.Machine.execGetStateSensorReadings sensor s
  | .setEventReceiver eid => Sys2Proof.Machine.execSetEventReceiver eid s
  | .platformEventMessage sensor reading => Sys2Proof.Machine.execPlatformEventMessage sensor reading s
  | .wave desk leaf slotFree parity => Sys2Proof.Machine.execWave desk leaf slotFree parity s
  | .weightRowLoad desk leaf codes => Sys2Proof.Machine.execWeightRowLoad desk leaf codes s
  | .broadcastRow desk lanes => Sys2Proof.Machine.execBroadcastRow desk lanes s
  | .tie element => Sys2Proof.Machine.execTie element s
  | .tieForced element => Sys2Proof.Machine.execTieForced element s
  | .leafRateWindow desk leaf rate tj => Sys2Proof.Machine.execLeafRateWindow desk leaf rate tj s
  | .nop engine => Sys2Proof.Machine.execNop engine s
  | .mm desk fault => Sys2Proof.Machine.execMm desk fault s
  | .ew desk => Sys2Proof.Machine.execEw desk s
  | .row desk => Sys2Proof.Machine.execRow desk s
  | .gather desk => Sys2Proof.Machine.execGather desk s
  | .scatter desk => Sys2Proof.Machine.execScatter desk s
  | .root run => Sys2Proof.Machine.execRoot run s
  | .strokeDone desk => Sys2Proof.Machine.execStrokeDone desk s
  | .tableWait run => Sys2Proof.Machine.execTableWait run s
  | .copy dma => Sys2Proof.Machine.execCopy dma s
  | .fill dma => Sys2Proof.Machine.execFill dma s
  | .tableLoad dma => Sys2Proof.Machine.execTableLoad dma s
  | .slotSet dma => Sys2Proof.Machine.execSlotSet dma s
  | .intakeTake dma => Sys2Proof.Machine.execIntakeTake dma s
  | .takeWait dma => Sys2Proof.Machine.execTakeWait dma s
  | .dmaDone dma => Sys2Proof.Machine.execDmaDone dma s
  | .actReplay dma => Sys2Proof.Machine.execActReplay dma s
  | .replayRestart dma => Sys2Proof.Machine.execReplayRestart dma s
  | .qwrite list => Sys2Proof.Machine.execQwrite list s
  | .qadd list => Sys2Proof.Machine.execQadd list s
  | .qmcast list => Sys2Proof.Machine.execQmcast list s
  | .update nib => Sys2Proof.Machine.execUpdate nib s
  | .sparseUpdate nib => Sys2Proof.Machine.execSparseUpdate nib s
  | .stepSizeStale => Sys2Proof.Machine.execStepSizeStale s
  | .nibBarrier => Sys2Proof.Machine.execNibBarrier s
  | .stepEnd => Sys2Proof.Machine.execStepEnd s
  | .stepTimeout => Sys2Proof.Machine.execStepTimeout s
  | .confirmHold => Sys2Proof.Machine.execConfirmHold s
  | .lineRead reader addr => Sys2Proof.Machine.execLineRead reader addr s
  | .lineWrite addr data poison => Sys2Proof.Machine.execLineWrite addr data poison s
  | .mergeWrite addr bytes => Sys2Proof.Machine.execMergeWrite addr bytes s
  | .exactAdd addr fmt code poison => Sys2Proof.Machine.execExactAdd addr fmt code poison s
  | .resWait slice => Sys2Proof.Machine.execResWait slice s
  | .fetchAdd addr operand => Sys2Proof.Machine.execFetchAdd addr operand s
  | .swap addr operand => Sys2Proof.Machine.execSwap addr operand s
  | .cmpSwap addr operand comparand => Sys2Proof.Machine.execCmpSwap addr operand comparand s
  | .maxU addr operand => Sys2Proof.Machine.execMaxU addr operand s
  | .minU addr operand => Sys2Proof.Machine.execMinU addr operand s
  | .sbdWriteback addr => Sys2Proof.Machine.execSbdWriteback addr s
  | .grantSlot cab demand => Sys2Proof.Machine.execGrantSlot cab demand s
  | .bgUrgent cab cls => Sys2Proof.Machine.execBgUrgent cab cls s
  | .bgOverdue cab cls => Sys2Proof.Machine.execBgOverdue cab cls s
  | .refresh cab die => Sys2Proof.Machine.execRefresh cab die s
  | .refreshRateRead cab rate temp => Sys2Proof.Machine.execRefreshRateRead cab rate temp s
  | .scrubPass cab badSpares => Sys2Proof.Machine.execScrubPass cab badSpares s
  | .scrubLine cab => Sys2Proof.Machine.execScrubLine cab s
  | .scrubLate cab => Sys2Proof.Machine.execScrubLate cab s
  | .eyeSample cab margins => Sys2Proof.Machine.execEyeSample cab margins s
  | .prepare cab passed => Sys2Proof.Machine.execPrepare cab passed s
  | .migrate cab targetLost => Sys2Proof.Machine.execMigrate cab targetLost s
  | .retraining cab drawer passed => Sys2Proof.Machine.execRetraining cab drawer passed s
  | .pauseSlice cab last margin => Sys2Proof.Machine.execPauseSlice cab last margin s
  | .hardFail cab drawer => Sys2Proof.Machine.execHardFail cab drawer s
  | .rebuild cab => Sys2Proof.Machine.execRebuild cab s
  | .portTrain port lanes => Sys2Proof.Machine.execPortTrain port lanes s
  | .qHello port role peerPort mac credits0 credits1 => Sys2Proof.Machine.execQHello port role peerPort mac credits0 credits1 s
  | .qEqAdapt port margin lane => Sys2Proof.Machine.execQEqAdapt port margin lane s
  | .qRetrain port lanes alignmentLost => Sys2Proof.Machine.execQRetrain port lanes alignmentLost s
  | .qLinkDown port lanes => Sys2Proof.Machine.execQLinkDown port lanes s
  | .handover dead lastLseq => Sys2Proof.Machine.execHandover dead lastLseq s
  | .ackTimeout port peer => Sys2Proof.Machine.execAckTimeout port peer s
  | .ackSend port peer => Sys2Proof.Machine.execAckSend port peer s
  | .ack frame => Sys2Proof.Machine.execAck frame s
  | .qFrameWrite frame => Sys2Proof.Machine.execQFrameWrite frame s
  | .qFrameAdd frame => Sys2Proof.Machine.execQFrameAdd frame s
  | .qFrameMcast frame => Sys2Proof.Machine.execQFrameMcast frame s
  | .qFrameClose frame => Sys2Proof.Machine.execQFrameClose frame s
  | .delivery srcRole srcList dst group mseq => Sys2Proof.Machine.execDelivery srcRole srcList dst group mseq s
  | .report frame => Sys2Proof.Machine.execReport frame s
  | .readReq frame => Sys2Proof.Machine.execReadReq frame s
  | .readResp frame => Sys2Proof.Machine.execReadResp frame s
  | .pair frame => Sys2Proof.Machine.execPair frame s
  | .map frame => Sys2Proof.Machine.execMap frame s
  | .rideCopy frame => Sys2Proof.Machine.execRideCopy frame s
  | .echo frame => Sys2Proof.Machine.execEcho frame s
  | .input frame => Sys2Proof.Machine.execInput frame s
  | .mark frame => Sys2Proof.Machine.execMark frame s
  | .gasp frame => Sys2Proof.Machine.execGasp frame s
  | .gaspTimeout ownerLost => Sys2Proof.Machine.execGaspTimeout ownerLost s
  | .riskSample => Sys2Proof.Machine.execRiskSample s
  | .fragment port prio h payload => Sys2Proof.Machine.execFragment port prio h payload s
  | .gap port prio h payload => Sys2Proof.Machine.execGap port prio h payload s
  | .intakePause => Sys2Proof.Machine.execIntakePause s
  | .intakeRttSample port lastFrameNs => Sys2Proof.Machine.execIntakeRttSample port lastFrameNs s
  | .intakeThreshMove => Sys2Proof.Machine.execIntakeThreshMove s
  | .datagramDrop packet => Sys2Proof.Machine.execDatagramDrop packet s
  | .badFrame frame ethertypeOk qtype => Sys2Proof.Machine.execBadFrame frame ethertypeOk qtype s
  | .pfcFrame port prio quanta => Sys2Proof.Machine.execPfcFrame port prio quanta s
  | .messagingControlAndDiscovery command => Sys2Proof.Machine.execMessagingControlAndDiscovery command s
  | .mainRailFault => Sys2Proof.Machine.execMainRailFault s

end Sys2Proof.Machine
end

