-- ==== Sys2Proof/Machine/Tick.lean ====
section
/-! DEFINITION. What an idle step does: one nanosecond of time (log 2), with the event counters in DURATION mode (R327). -/
namespace Sys2Proof.Machine

/-- Leaves in a state of Table 9.3. -/
def State.leavesIn (s : State) (p : Leaf → Bool) : List Inst :=
  ((List.range 8).filter fun i => p (s.leaf (i / 4) (i % 4))).map fun (i : Nat) => { desk := some (i / 4), leaf := some (i % 4) }

/-- Cabinets or slices in a state. -/
def cabsIn (p : Nat → Bool) : List Inst := ((List.range 16).filter p).map cabInst

/-- Quill ports in a state. -/
def portsIn (p : Nat → Bool) : List Inst := ((List.range 24).filter p).map portInst

/-- Host ports in a state. -/
def hostsIn (p : Nat → Bool) : List Inst := ((List.range 2).filter p).map hostInst

/-- One state with no dimension. -/
def once (b : Bool) : List Inst := if b then [{}] else []

/-- The DMA engines of a mask, each with the Desk of its Inkwell traffic. -/
def State.dmaIn (s : State) (v : Nat) : List Inst := ((List.range 32).filter (bit v)).map fun e => s.dmaInst (0x10 + e)

/-- Are the sums that a Leaf needs from its chain there (R45)? -/
def State.sumsHere (s : State) (d l : Nat) : Bool := !(s.leaf d l).chainIn || !(s.leaf d ((l + 3) % 4)).link.isEmpty

/-- The Leaves whose Feed is dry (Table 1.8). -/
def State.dryLeaf (s : State) (d l : Nat) : Bool := (s.leaf d l).dry (s.sumsHere d l)

/-- Leaves in a state that the Leaf before them in the ring bears on. -/
def State.placesIn (p : Nat → Nat → Bool) : List Inst :=
  ((List.range 8).filter fun i => p (i / 4) (i % 4)).map fun (i : Nat) => { desk := some (i / 4), leaf := some (i % 4) }

/-- One instance per idle lane of a Leaf (R49, R58). -/
def State.idleLanes (s : State) : List Inst :=
  (List.range 8).flatMap fun i => ((List.range 4).filter fun n => (s.leaf (i / 4) (i % 4)).laneIdle n).map
    fun (_ : Nat) => { desk := some (i / 4), leaf := some (i % 4) }

/-- Is an engine of a Desk, a DMA engine or a Nib in a phase? -/
def State.inPhase (s : State) (code : Nat) (p : Phase → Bool) : Bool := p (s.eng code).phase

/-- A held table. -/
def Phase.isTable (p : Phase) : Bool := p == .heldTable

/-- A Nib at a barrier. -/
def Phase.isBarrier (p : Phase) : Bool := match p with | .atBarrier _ _ => true | _ => false

/-- The instances that are in a state of the event catalogue, as far as the model holds the state (R327, Table 9.3). -/
def State.instances (s : State) (code : Nat) : List Inst :=
  match code with
  | 0x05 => s.leavesIn fun l => l.level == 0
  | 0x06 => s.leavesIn Leaf.ramping
  | 0x07 => State.placesIn fun d l => (s.leaf d l).elastic && (s.dryLeaf d l || (s.leaf d l).held)
  | 0x08 => State.placesIn s.dryLeaf
  | 0x09 => s.leavesIn fun l => l.held
  | 0x0F => s.leavesIn fun l => l.waits
  | 0x16 => ((List.range 2).filter fun d => s.inPhase d Phase.isTable).map fun (d : Nat) => { desk := some d }
  | 0x1E => s.idleLanes
  | 0x1F => ((List.range 2).filter s.strokeBusy).map fun (d : Nat) => { desk := some d }
  | 0x26 => s.dmaIn (s.get DMA_BUSY_ENGINES)
  | 0x27 => s.dmaIn (s.get DMA_STOPPED_ENGINES)
  | 0x30 => ((List.range 32).filter fun e => s.inPhase (0x10 + e) Phase.isTable).map fun (e : Nat) =>
      match s.head (0x10 + e) with | some d => s.srcTensorInst d | none => {}
  | 0x4F => cabsIn fun c => s.get (CAB_EVAC_STATUS_PHASE c) == 2
  | 0x56 => cabsIn fun c => s.on (CAB_STATUS_MEM_HOT c)
  | 0x5E => cabsIn fun c => (s.cab c).refreshDue
  | 0x5F => cabsIn fun c => s.selfRefreshing c
  | 0x6B => cabsIn fun c => s.sbd.waiting.any fun w => cabOf w.addr == c
  | 0x82 => cabsIn fun c => s.inPhase (0x40 + c) Phase.isBarrier
  | 0x8A => cabsIn fun _ => s.run.holdSince.isSome
  | 0x8F => cabsIn fun c => s.on (NIB_STATUS_BUSY c)
  | 0xA6 => portsIn s.creditStalled
  | 0xAC => portsIn fun p => s.on (QPT_CTRL_ENABLE p) && !s.portUp p
  | 0xAE => (s.quill.rx.filter fun m => m.complete).map fun m => portInst m.port
  | 0xB7 => portsIn fun p => s.on (QPT_STATUS_RETRY_FULL p)
  | 0xB3 => portsIn fun p => decide (s.time < (s.qport p).pausedUntil)
  | 0xB6 => portsIn fun p => s.get (QPT_STATUS_SPEED p) == 1
  | 0xC7 => hostsIn fun h => s.on (HPT_CTRL_ENABLE h) && !s.hostUp h
  | 0xCC => once (s.on INT_STATUS_PAUSED)
  | 0xCF => once (s.on INT_STATUS_TAKE_WAIT)
  | 0xEA => once (s.on PWR_STATUS_CAP_LIMITED)
  | 0xEB => once (s.on PWR_STATUS_THROTTLE)
  | 0xF5 => once s.presenceOpen
  | 0xF6 => once s.run.stepOn
  | 0xF7 => once true
  | _ => []

/-- Events whose moments the spec leaves to the implementation's timing: DERIV_LATE, INK_BANK_WAIT, PREPARE_AHEAD, WB_DROPPED,
LINE_OP_WAIT, SECRETARY_BUSY. Their counts are free values (log 82). -/
def openEvents : List Nat := [0x17, 0x2E, 0x34, 0x71, 0x72, 0xEF]

/-- States of Table 9.3 whose duration is open in the same way: PAUSE_SLICE beside those of `openEvents`. -/
def openStates : List Nat := [0x17, 0x2E, 0x50, 0x72, 0xEF]

/-- What a counter adds in one nanosecond: in DURATION mode 1 for every matching instance of its state (R327, R328), in OCCUR
mode what an event of `openEvents` adds. -/
def State.tickCount (s : State) (w : Nat) : Nat :=
  let code := bits w 7 0
  if !bit w 10 then 0
  else if bit w 8 then
    if openStates.contains code then Config.openState code s.time
    else ((s.instances code).filter fun i => selMatches w code i).length
  else if openEvents.contains code then Config.openCount code s.time
  else 0

/-- One nanosecond for the counters. -/
def State.durations (s : State) : State :=
  if s.on CNT_CTRL_ENABLE then
    (List.range 64).foldl (fun t k =>
      let n := s.tickCount (s.reg (0x40100 + 4 * k))
      if n = 0 then t else t.addCounter k n) s
  else s

/-- Ports whose PFC pause ends now send what waited (R339). -/
def State.endPauses (s : State) : State :=
  (List.range 24).foldl (fun s p => if (s.qport p).pausedUntil = s.time then s.releasePort p else s) s

/-- One nanosecond passes; the timestamp counter runs through it while it runs at all (R330). -/
def State.tick (s : State) : State :=
  let s := if s.power.timeOn then s.durations.put2 CNT_TIME_LO_TIME CNT_TIME_HI_TIME ((s.stamp + 1) % 2 ^ 64) else s
  ({ s with time := s.time + 1 } : State).ageVin.endPauses

end Sys2Proof.Machine
end

