-- ==== Sys2Proof/Safety.lean ====
section
/-! DEFINITION. What counts as a sound state and a safe step, in the terms that claims use. -/
namespace Sys2Proof.Machine

/-- The register window is in its canonical form: equal contents are equal data. -/
def State.RegsCanonical (s : State) : Prop := spWf regReset s.regs = true

/-- A sound state: the register window, memory, the error bits of the slices and the TURN bits are in their canonical forms,
so that equal contents are equal data. -/
def State.Sound (s : State) : Prop :=
  spWf regReset s.regs = true ∧ Memory.wf s.mem = true ∧ spWf (fun _ => 0) s.sbd.err = true ∧ spWf (fun _ => 0) s.turns = true

/-- A step that goes on: it neither faults nor refuses. -/
def goesOn (s : State) : Prop := ∃ t, step s = .next t

/-- `n` steps from a state all go on and stay sound. -/
def safeRun : Nat → State → Prop
  | 0, s => s.Sound
  | n + 1, s => s.Sound ∧ ∃ t, step s = .next t ∧ safeRun n t

/-! ## A Chembe command on its way to its act -/

/-- Does a command packet come through R407, R410 and R413: it arrives, no ROM recovery runs, its session is open on its
source and its sequence number new, the header is in order and LENGTH matches, fewer than 512 commands are unfinished? -/
def State.takes (s : State) (h : Hdr) : Bool :=
  s.reaches h && !s.esc.recovery
    && (match s.sessionFor h with | some x => decide (x.classify h.seq = .new) | none => false)
    && h.version == 1 && h.rsvClear && h.status == 0 && h.lenOk && decide ((s.heard h.src).unfinished < 512)

/-- The state in which the act of a taken command runs: the packet heard, its sequence number accepted. -/
def State.admitted (s : State) (h : Hdr) : State := (s.heard h.src).onSession h fun x => x.accept h.seq

/-- Does a row of Table 12.4 let a source act: ownership (R415), presence (R418), lock (R453), main side (R464), job state
(Table 12.5)? -/
def State.allows (a : State) (h : Hdr) (op : OpInfo) : Bool :=
  (!op.own || h.src.isSide || a.isOwner h.src) && (!op.pres || a.presenceOpen)
    && (match op.cls with | some c => !a.lockedFor h.src.isSide c | none => true)
    && (!op.main || a.power.mainOk) && (a.stateRefusal op.row).isNone

/-- A command taken and allowed: the conditions on state and header under which its act runs. -/
def State.runs (s : State) (h : Hdr) (op : OpInfo) : Bool := s.takes h && (s.admitted h).allows h op

/-! ## An engine's descriptor on its way to its work -/

/-- The state in which the work of an engine's ready descriptor runs: its wait acquired, its start noted (R176, R267). -/
def State.openHead (s : State) (c : Nat) (d : Desc) : State := (s.acquire d).setEng { s.eng c with since := s.time }

/-- An engine may start its head descriptor `d` of a kind, with no replay before it (R158, R172, R176), and it is not elided. -/
def State.starts (s : State) (c kind : Nat) (d : Desc) : Bool :=
  (s.replayReady c).isNone && s.ready c == some d && d.kind == kind && !(s.openHead c d).headElided c

/-- The state in which a Desk's ready stroke that is not elided begins: STROKE_BUSY is counted as well. -/
def State.strokeHead (s : State) (desk : Nat) (d : Desc) : State := (s.openHead desk d).countAt 0x1F { desk := some desk } 1

/-- The state in which a Nib's ready descriptor runs its first pass: its layer's record read, BUSY set and counted (R280). -/
def State.nibHead (s : State) (c : Nat) (j : NibJob) : State :=
  ((s.readLayer j.layer true).put (NIB_STATUS_BUSY c) 1).countAt 0x8F (cabInst c) 1

/-! ## A Quill frame on its way to what it does -/

/-- A frame of TYPE `t` comes through the link layer (R345) and has the form of R341 and R342. -/
def State.frameIn (s : State) (t : Nat) (fr : QFrame) : Bool := (s.linkRx fr).2 && frameOk t fr

/-- The state in which a frame is handled: the link has noted it. -/
def State.linked (s : State) (fr : QFrame) : State := (s.linkRx fr).1

/-- The own step is the frame's, its lists run, and the table of messages has room (R353). -/
def State.inStep (s : State) (h : QHdr) (group : Bool) : Bool :=
  s.jobState == jsRunning && s.step == h.step && s.run.stepOn && s.rxRoom h group

/-- A frame as a RIDE frame of a kind (Table 11.5). -/
def rideFrame (fr : QFrame) (kind : Nat) : QFrame := { fr with h := { fr.h with dstTid := kind } }

/-- A RIDE frame of the ward that this partner may take (R376, R383, R398). -/
def State.wardFrame (s : State) (fr : QFrame) : Bool :=
  s.localRole fr.h && s.wardRole == some fr.h.srcRole && s.on SVL_CTRL_ENABLE && s.on SVL_CTRL_WARD_EN
    && s.get SVL_STATUS_WARD_FOLLOW != 4

/-- It is the turn of a RIDE frame in the stream of its source (R383). -/
def State.inTurn (s : State) (fr : QFrame) : Bool :=
  match s.rideTurn fr.h.srcRole with | some n => fr.h.mseq == n | none => true

/-- The state in which a RIDE frame is taken: the turn of its stream has moved on. -/
def State.turned (s : State) (fr : QFrame) : State := s.setRideTurn fr.h.srcRole (fr.h.mseq + 1)

/-- The held frames of a stream whose turn has come with a frame, taken after it (R383). -/
def State.rideOn (s : State) (fr : QFrame) : State := State.rideGoOn fr.h.srcRole s.svl.rideHeld.length s

/-! ## Commands by what they touch -/

/-- The byte address that a Sideboard row names: the rows for which an address past the decoded range has no line (R211). -/
def lineAddress : Instr → Option Nat
  | .lineRead _ addr => some addr
  | .lineWrite addr _ _ => some addr
  | .mergeWrite addr _ => some addr
  | .exactAdd addr _ _ _ => some addr
  | .fetchAdd addr _ => some addr
  | .swap addr _ => some addr
  | .cmpSwap addr _ _ => some addr
  | .maxU addr _ => some addr
  | .minU addr _ => some addr
  | .sbdWriteback addr => some addr
  | _ => none

/-- The commands that leave stacked memory and the Inkwell alone: they answer, time, train, measure or count. -/
def memoryQuiet : Instr → Bool
  | .hello _ _ _ | .claim _ _ | .release _ | .ping _ _ | .regRead _ _ _ | .lock _ _ | .unlock _ _
  | .setStepSize _ _ _ | .jobStatus _ | .routeWrite _ _ _ _ | .restore _ _ | .partner2 _ _
  | .eventAck _ _ | .eventMask _ _ | .stepReport _ _ _ | .powerStatus _ | .powerSet _ _ _ | .fwStage _ _ _ _
  | .fwCommit _ _ | .idRotate _ | .debugUnlock _ _ | .testMode _ _ | .sealAck _ | .attest _ _ _ _ | .opcodeUnknown _ _
  | .chembeRefused _ | .arp _ _ _ _ | .neighborDiscovery _ _ _ _ | .echoRequest _ _ _ _ _ | .sessionTimeout _ _
  | .eventResend _ | .hLinkDown _ | .hostPortTrain _ _ | .lockTimeout _ | .guardTimeout _ | .escritoireReady _
  | .mainOnStart | .pwrEnRise | .resetNRelease _ _ | .undervolt _ | .feedWarn _ _ | .heartbeat _ | .mainLost
  | .vloopStep _ | .gateUpdate _ | .presence _ | .presenceStrapped | .presenceWindowExpiry | .sealSample _
  | .fwStageTimeout | .entdaa _ | .setnewda _ | .getpid | .getbcr | .getdcr | .getstatus | .getmwl | .getmrl | .rstdaa
  | .setEndpointId _ _ | .getEndpointId | .getEndpointUuid | .getMctpVersionSupport _ | .getMessageTypeSupport
  | .getVendorDefinedMsgSupport _ | .getPdrRepositoryInfo | .getPdr _ | .getSensorReading _ _
  | .getStateSensorReadings _ | .setEventReceiver _ | .platformEventMessage _ _ | .wave _ _ _ _ | .weightRowLoad _ _ _
  | .broadcastRow _ _ | .tie _ | .tieForced _ | .leafRateWindow _ _ _ _ | .nop _ | .actReplay _ | .stepSizeStale
  | .confirmHold | .grantSlot _ _ | .bgUrgent _ _ | .bgOverdue _ _ | .refresh _ _ | .scrubPass _ _
  | .scrubLate _ | .eyeSample _ _ | .prepare _ _ | .retraining _ _ _ | .pauseSlice _ _ _ | .portTrain _ _
  | .qHello _ _ _ _ _ _ | .qEqAdapt _ _ _ | .ackTimeout _ _ | .ackSend _ _ | .riskSample
  | .gap _ _ _ _ | .intakePause | .intakeRttSample _ _ | .intakeThreshMove | .datagramDrop _
  | .pfcFrame _ _ _ | .messagingControlAndDiscovery _ => true
  | _ => false

end Sys2Proof.Machine
end

