-- ==== Sys2Proof/Certificates/Slice0/Obligations.lean ====
section
/-! DEFINITION. The statements for the provers. In each statement about a Chembe command, `s.runs h op` says that the packet comes
through R407, R410 and R413 and that the row `op` of Table 12.4 lets its source act, and `s.admitted h` is the state in which it
then acts. -/
open Sys2Proof Sys2Proof.Machine

/-- PING, JOB_STATUS, LOCK, UNLOCK, STEP_REPORT and unknown opcodes complete with the replies of Table 12.4. Rests on
spec/12_chembe_protocol.md, spec/13_registers.md. -/
def Obligations.SessionCommandsAnswer : Prop :=
  (∀ (s : State) (h : Hdr) (data : List Byte), s.runs h (opNow 0x0003 false .always) = true → data.length ≤ 64 →
    exec (.ping h data) s = .next ((s.admitted h).answer h 0x0003 stSuccess data)) ∧
  (∀ (s : State) (h : Hdr), s.runs h (opNow 0x0306 false .always) = true →
    exec (.jobStatus h) s = .next ((s.admitted h).answer h 0x0306 stSuccess
      (le 1 (s.admitted h).jobState ++ zeros 1 ++ le 2 (s.admitted h).run.lastFault ++ le 4 (s.admitted h).step
        ++ le 8 ((s.admitted h).get2 INT_NEXT_LO_NEXT INT_NEXT_HI_NEXT)))) ∧
  (∀ (s : State) (h : Hdr) (cls : Nat), s.runs h (opNow 0x0103 true .always) = true → cls < 64 →
    exec (.lock h cls) s = .next (
      if (s.admitted h).lockHeld (!h.src.isSide) &&& cls = 0 then
        ((s.admitted h).setLock h.src.isSide ((s.admitted h).lockHeld h.src.isSide ||| cls)).answer h 0x0103 stSuccess
          (le 4 ((s.admitted h).lockHeld h.src.isSide ||| cls))
      else (s.admitted h).answer h 0x0103 stLocked [])) ∧
  (∀ (s : State) (h : Hdr) (cls : Nat), s.runs h (opNow 0x0104 true .always) = true → cls < 64 →
    exec (.unlock h cls) s = .next (
      ((s.admitted h).setLock h.src.isSide
          ((s.admitted h).lockHeld h.src.isSide - ((s.admitted h).lockHeld h.src.isSide &&& cls))).answer h 0x0104 stSuccess
        (le 4 ((s.admitted h).lockHeld h.src.isSide - ((s.admitted h).lockHeld h.src.isSide &&& cls))))) ∧
  (∀ (s : State) (h : Hdr) (step first : Nat) (r : Report), s.runs h (opNow 0x0603 false .always) = true →
    ((s.admitted h).run.reports.find? fun x => x.step == step) = some r →
    exec (.stepReport h step first) s = .next ((s.admitted h).answer h 0x0603 stSuccess (r.body (if h.src.isSide then 1001 else 1984) first))) ∧
  (∀ (s : State) (h : Hdr) (opcode : Nat), opcode ∉ opcodes → s.runs h (opNow opcode false .always) = true →
    exec (.opcodeUnknown h opcode) s = .next ((s.admitted h).answer h opcode stOpcode [])) ∧
  (∀ (s : State) (h : Hdr) (opcode : Nat), opcode ∈ opcodes → exec (.opcodeUnknown h opcode) s = .next s)

/-- HELLO opens a session at FIRST_SEQ, CLAIM makes its source address the owner, RELEASE ends ownership. Rests on
spec/12_chembe_protocol.md. -/
def Obligations.SessionsAndOwnership : Prop :=
  (∀ (s : State) (h : Hdr) (version firstSeq : Nat),
    s.reaches h = true → (h.session = 0 ∨ (s.sessionFor h).isSome = true) → h.version = 1 → h.rsvClear = true → h.status = 0 →
    h.lenOk = true →
    ∃ (t : State) (x : Session), exec (.hello h version firstSeq) s = .next t ∧ x ∈ t.chembe.sessions ∧ x.src = h.src ∧
      x.high = (firstSeq + 2 ^ 32 - 1) % 2 ^ 32 ∧ x.accepted = [] ∧ x.lastHeard = s.time ∧
      (∀ y ∈ t.chembe.sessions, y.src.same h.src = true → y = x) ∧
      t.mem = s.mem ∧ t.flash = s.flash ∧ t.job = s.job ∧ t.run = s.run ∧ t.folio = s.folio) ∧
  ((∀ (s : State) (h : Hdr) (port addr udp alt : Nat), h.src = .host port addr udp →
    s.runs h ⟨0x0001, false, true, false, none, .always, false⟩ = true →
    ∃ t, exec (.claim h alt) s = .next t ∧ t.flash = { s.flash with owner := some (addr, alt) } ∧
      t.mem = s.mem ∧ t.sbd = s.sbd ∧ t.job = s.job ∧ t.run = s.run ∧ t.folio = s.folio ∧ t.power = s.power ∧ t.esc = s.esc) ∧
  (∀ (s : State) (h : Hdr), s.runs h (opNow 0x0002 true .always) = true →
    ∃ t, exec (.release h) s = .next t ∧ t.flash = { s.flash with owner := none } ∧
      t.mem = s.mem ∧ t.sbd = s.sbd ∧ t.job = s.job ∧ t.run = s.run ∧ t.folio = s.folio ∧ t.power = s.power ∧ t.esc = s.esc))

/-- SESSION_TIMEOUT, LOCK_TIMEOUT and GUARD_TIMEOUT act once their time has passed and not before. Rests on
spec/12_chembe_protocol.md, spec/13_registers.md. -/
def Obligations.SilenceEndsSessionsLocksAndHalves : Prop :=
  (∀ (s : State) (side : Bool) (n : Nat), ∃ t, exec (.sessionTimeout side n) s = .next t ∧
    t.chembe = { s.chembe with sessions := s.chembe.sessions.filter fun x =>
      !(x.src.isSide == side && x.num == n && decide (x.lastHeard + 60000000000 ≤ s.time) && !s.isOwner x.src) } ∧
    t.mem = s.mem ∧ t.flash = s.flash ∧ t.job = s.job) ∧
  (∀ (s : State) (mgmt : Bool),
    (if mgmt then s.win.lastMgmt else s.win.lastHost) + s.lockTimeoutNs ≤ s.time →
    exec (.lockTimeout mgmt) s = .next (s.setLock mgmt 0)) ∧
  (∀ (s : State) (mgmt : Bool),
    s.time < (if mgmt then s.win.lastMgmt else s.win.lastHost) + s.lockTimeoutNs → exec (.lockTimeout mgmt) s = .next s) ∧
  (∀ (s : State) (block off : Nat) (w : Word) (mgmt : Bool) (since : Nat),
    s.pendingHalf (block * 0x10000) = some (block * 0x10000, off, w, mgmt, since) → since + 10000000 ≤ s.time →
    exec (.guardTimeout block) s = .next ((s.dropHalf (block * 0x10000)).guardFault (block * 0x10000 + off) mgmt))

/-- REG_READ, REG_WRITE, REG_WRITE_PAIR and the rows that stand for one register write act on the window and answer. Rests
on spec/13_registers.md. -/
def Obligations.RegisterCommandsAct : Prop :=
  (∀ (s : State) (h : Hdr) (addr count : Nat), s.runs h (opNow 0x0100 false .always) = true → addr % 4 = 0 →
    (blockOf addr).isSome = true → 1 ≤ count → count ≤ 64 → addr / 0x10000 = (addr + 4 * (count - 1)) / 0x10000 →
    exec (.regRead h addr count) s = .next
      (((s.admitted h).readRegs h.src.isSide addr count).1.answer h 0x0100 stSuccess
        ((s.admitted h).readRegs h.src.isSide addr count).2)) ∧
  (∀ (s : State) (h : Hdr) (addr : Nat) (v : Word), s.runs h (opReg 0x0101) = true → addr % 4 = 0 → (blockOf addr).isSome = true →
    exec (.regWrite h addr v) s = .next
      (((s.admitted h).writeReg h.src.isSide addr v).1.answer h 0x0101 ((s.admitted h).writeReg h.src.isSide addr v).2 []).afterReply) ∧
  (∀ (s : State) (h : Hdr) (addr : Nat) (v : Word), s.runs h (opReg 0x0102) = true → addr % 4 = 0 → (blockOf addr).isSome = true →
    guarded (regAddr addr) = true →
    exec (.regWritePair h addr v) s = .next
      (((s.admitted h).writePair h.src.isSide addr v).1.answer h 0x0102 ((s.admitted h).writePair h.src.isSide addr v).2 []).afterReply) ∧
  (∀ (s : State) (h : Hdr), s.runs h (opReg 0x0102) = true → (s.admitted h).pendingHalf 0 = none →
    exec (.warmReset h) s = .next
      ((((s.admitted h).writeOwn h.src.isSide 0x40 1 true).collide 0x40 0x40 h.src.isSide).answer h 0x0102 stSuccess []).afterReply) ∧
  (∀ (s : State) (h : Hdr) (block : Nat), s.runs h (opReg 0x0102) = true → (s.admitted h).pendingHalf 0 = none → block < 256 →
    exec (.blockReset h block) s = .next
      ((((s.admitted h).writeOwn h.src.isSide 0x40 (2 + 256 * block) true).collide 0x40 0x40 h.src.isSide).answer h 0x0102
        stSuccess []).afterReply) ∧
  (∀ (s : State) (h : Hdr) (cab lchan : Nat), s.runs h (opReg 0x0102) = true → cab < 16 → lchan < 64 →
    (s.admitted h).pendingHalf (0x100000 + 0x10000 * cab) = none → (s.admitted h).power.mainOk = true →
    exec (.evacReq h cab lchan) s = .next
      ((((s.admitted h).writeOwn h.src.isSide (0x100008 + 0x10000 * cab) (lchan + 256) true).collide (0x100008 + 0x10000 * cab)
        (0x100008 + 0x10000 * cab) h.src.isSide).answer h 0x0102 stSuccess []).afterReply) ∧
  (∀ (s : State) (h : Hdr), s.runs h (opReg 0x0101) = true → (s.admitted h).pendingHalf 0x40000 = none →
    (s.admitted h).power.mainOk = true →
    exec (.snap h) s = .next ((((s.admitted h).writeOwn h.src.isSide 0x40000 (orBit (s.reg 0x40000) 1 % 2 ^ 32) false).collide 0x40000
      0x40000 h.src.isSide).answer h 0x0101 stSuccess []).afterReply) ∧
  (∀ (s : State) (h : Hdr), s.runs h (opReg 0x0101) = true → (s.admitted h).pendingHalf 0x40000 = none →
    (s.admitted h).power.mainOk = true →
    exec (.clear h) s = .next ((((s.admitted h).writeOwn h.src.isSide 0x40000 (orBit (s.reg 0x40000) 2 % 2 ^ 32) false).collide
      0x40000 0x40000 h.src.isSide).answer h 0x0101 stSuccess []).afterReply)

/-- MEM_READ, MEM_WRITE, MEM_ATOMIC, SCRUB, DIGEST, STATE_READ and STATE_WRITE act on memory and answer. Rests on
spec/12_chembe_protocol.md, spec/06_stacked_memory.md. -/
def Obligations.MemoryCommandsAct : Prop :=
  (∀ (s : State) (h : Hdr) (addr n : Nat), s.runs h ⟨0x0200, true, false, false, none, .always, true⟩ = true → 1 ≤ n → n ≤ dataCap h 4032 →
    outside addr n = false → (s.admitted h).memWaits addr n = false →
    exec (.memRead h addr n 0) s = .next (((s.admitted h).readRange addr n false).1.answer h 0x0200 stSuccess
      (le 8 ((s.admitted h).readRange addr n false).2.2 ++ ((s.admitted h).readRange addr n false).2.1))) ∧
  (∀ (s : State) (h : Hdr) (addr : Nat) (data : List Byte), s.runs h ⟨0x0201, true, false, false, (some 1), .memory, true⟩ = true →
    1 ≤ data.length → data.length ≤ dataCap h 4048 → outside addr data.length = false →
    (s.admitted h).memWaits addr data.length = false →
    exec (.memWrite h addr 0 data) s = .next (((s.admitted h).writeRange addr data).1.settle.answer h 0x0201
      (if ((s.admitted h).writeRange addr data).2 then stSuccess else stPoisonKept) [])) ∧
  (∀ (s : State) (h : Hdr) (addr op x y : Nat), s.runs h ⟨0x0202, true, false, false, (some 1), .memory, true⟩ = true →
    1 ≤ op → op ≤ 5 → addr % 8 = 0 → outside addr 8 = false → (s.admitted h).memWaits addr 8 = false →
    exec (.memAtomic h addr op x y) s = .next (((s.admitted h).wordOp addr (wordNew op x y) false).1.settle.answer h 0x0202
      (if ((s.admitted h).wordOp addr (wordNew op x y) false).2.2 then stSuccess else stPoisonKept)
      (le 8 ((s.admitted h).wordOp addr (wordNew op x y) false).2.1))) ∧
  (∀ (s : State) (h : Hdr) (base n fl : Nat), s.runs h ⟨0x0203, true, false, true, (some 1), .scrub, true⟩ = true →
    base % 2097152 = 0 → n % 2097152 = 0 → n ≠ 0 → fl < 4 → outside base n = false → (s.admitted h).memWaits base n = false →
    (s.admitted h).memBefore (s.admitted h).chembe.held base n = false →
    exec (.scrub h base n fl) s = .next
      (((((s.admitted h).scrubWork base n fl).1.addDeferred h 0x0203 (some (stSuccess, ((s.admitted h).scrubWork base n fl).2)) 0).sendReply
        (mkReply h 0x0203 stSuccess true [])).noteRange h base n)) ∧
  (∀ (s : State) (h : Hdr) (base n : Nat), s.runs h ⟨0x0204, true, false, true, none, .digest, true⟩ = true →
    1 ≤ n → outside base n = false → (s.admitted h).memWaits base n = false →
    (s.admitted h).memBefore (s.admitted h).chembe.held base n = false →
    exec (.digest h base n) s = .next
      (((((s.admitted h).readRange base n false).1.addDeferred h 0x0204
        (some (stSuccess, rangeDigest base ((s.admitted h).readRange base n false).2.1)) 0).sendReply
        (mkReply h 0x0204 stSuccess true [])).noteRange h base n)) ∧
  (∀ (s : State) (h : Hdr) (o n : Nat), s.runs h ⟨0x0205, true, false, false, none, .always, true⟩ = true → 1 ≤ n → n ≤ dataCap h 4032 →
    o + n ≤ stateBlockBytes → (s.admitted h).memWaits (stateBlock + o) n = false →
    exec (.stateRead h o n) s = .next (((s.admitted h).readRange (stateBlock + o) n false).1.answer h 0x0205 stSuccess
      ((s.admitted h).readRange (stateBlock + o) n false).2.1)) ∧
  (∀ (s : State) (h : Hdr) (o : Nat) (data : List Byte), s.runs h ⟨0x0206, true, false, false, (some 1), .loaded, true⟩ = true →
    data.length ≤ restCap h 4048 → o + data.length ≤ stateBlockBytes → (s.admitted h).memWaits (stateBlock + o) data.length = false →
    ((s.admitted h).touch stateBlock 6 false).badBlock o data = false →
    exec (.stateWrite h o data) s = .next
      (((((s.admitted h).touch stateBlock 6 false).writeRange (stateBlock + o) data).1.applyBlock o data.length).settle.answer h 0x0206 stSuccess [])) ∧
  (∀ (s : State) (h : Hdr) (base n : Nat), s.runs h ⟨0x0204, true, false, true, none, .digest, true⟩ = true →
    1 ≤ n → outside base n = false → ((s.admitted h).memWaits base n = true ∨
      (s.admitted h).memBefore (s.admitted h).chembe.held base n = true) →
    exec (.digest h base n) s = .next ((State.perform h ⟨0x0204, true, false, true, none, .digest, true⟩ (.digest h base n)
      (.hold (s.admitted h))).noteRange h base n))

/-- FOLIO_DATA, LOAD_FOLIO, START, STOP, SET_STEP_SIZE and SET_SEED act on the job and answer. Rests on
spec/12_chembe_protocol.md, spec/05_folios_and_static_order.md, spec/11_failure_survival.md. -/
def Obligations.JobCommandsAct : Prop :=
  (∀ (s : State) (h : Hdr) (o : Nat) (data : List Byte), s.runs h ⟨0x0300, true, false, false, (some 2), .folioData, true⟩ = true →
    1 ≤ data.length → data.length ≤ dataCap h 4048 → o + data.length ≤ 0x80000000 →
    exec (.folioData h o data) s = .next (((s.admitted h).writeRange (stagingBase + o) data).1.settle.answer h 0x0300 stSuccess [])) ∧
  (∀ (s t : State) (h : Hdr) (n bad : Nat) (image digest : List Byte) (f : Folio), s.runs h ⟨0x0301, true, false, true, (some 2), .loadFolio, true⟩ = true →
    1 ≤ n → n ≤ 0x80000000 → (s.admitted h).sbd.openLines = [] →
    (s.admitted h).readRange stagingBase n false = (t, image, bad) → shake256 image 32 = digest →
    loadImage image n (t.setJobState jsLoading).switched (t.setJobState jsLoading).flash.config.quillPorts
      ((t.setJobState jsLoading).get PWR_STRAPS_FEED_ID) = .inr f →
    exec (.loadFolio h n digest) s = .next ((((t.setJobState jsLoading).accept f).addDeferred h 0x0301
      (some (stSuccess, f.digest)) 0).sendReply (mkReply h 0x0301 stSuccess true []))) ∧
  (∀ (s t : State) (h : Hdr) (n bad : Nat) (image digest : List Byte), s.runs h ⟨0x0301, true, false, true, (some 2), .loadFolio, true⟩ = true →
    1 ≤ n → n ≤ 0x80000000 → (s.admitted h).sbd.openLines = [] →
    (s.admitted h).readRange stagingBase n false = (t, image, bad) → shake256 image 32 ≠ digest →
    exec (.loadFolio h n digest) s = .next (((t.setJobState jsLoading).addDeferred h 0x0301 (some (0x0121, [])) 0).sendReply
      (mkReply h 0x0301 stSuccess true []))) ∧
  (∀ (s : State) (h : Hdr) (t n : Nat) (f : Folio), s.runs h ⟨0x0302, true, false, true, (some 2), .loaded, true⟩ = true →
    (s.admitted h).folio = some f → (∀ x ∈ startEnables, (s.admitted h).on x = true) →
    exec (.start h t n) s = .next (((((s.admitted h).started f t n).addDeferred h 0x0302 none 0).sendReply
      (mkReply h 0x0302 stSuccess true [])).tryStart)) ∧
  (∀ (s : State) (h : Hdr) (mode : Nat), s.runs h ⟨0x0303, true, false, false, (some 2), .active, true⟩ = true → mode ≤ 1 →
    (s.admitted h).jobState = jsRunning → (s.admitted h).run.stepOn = true →
    exec (.stop h mode) s = .next (
      if mode = 0 then
        (((s.admitted h).mapRun fun r => { r with stopAtEnd := true }).answer h 0x0303 stSuccess (le 4 (((s.admitted h).step + 1) % 2 ^ 32)))
      else ((s.admitted h).voidNow true 0x0209 0 0).answer h 0x0303 stSuccess (le 4 (s.admitted h).step))) ∧
  (∀ (s : State) (h : Hdr) (mode : Nat), s.runs h ⟨0x0303, true, false, false, (some 2), .active, true⟩ = true → mode ≤ 1 →
    (s.admitted h).jobState = jsLoaded →
    exec (.stop h mode) s = .next ((s.admitted h).answer h 0x0303 stSuccess (le 4 (s.admitted h).step))) ∧
  (∀ (s : State) (h : Hdr) (t v : Nat), s.runs h ⟨0x0304, true, false, false, (some 2), .active, true⟩ = true → (s.admitted h).step ≤ t →
    (t = (s.admitted h).get NIB0_STEP_INDEX_STEP → (s.admitted h).get NIB0_STEP_INDEX_STEP = 0xFFFFFFFF) →
    (s.admitted h).run.pendingSteps.length < 8 →
    exec (.setStepSize h t v) s = .next (((s.admitted h).takeSize t v).answer h 0x0304 stSuccess [])) ∧
  (∀ (s : State) (h : Hdr) (t v : Nat), s.runs h ⟨0x0304, true, false, false, (some 2), .active, true⟩ = true → t < (s.admitted h).step →
    exec (.setStepSize h t v) s = .next (((s.admitted h).count 0x8B).answer h 0x0304 stTagLate [])) ∧
  (∀ (s : State) (h : Hdr) (seed : Nat), s.runs h ⟨0x0305, true, false, false, (some 2), .loaded, true⟩ = true →
    exec (.setSeed h seed) s = .next
      (((s.admitted h).writeRange (stateBlock + 8) (le 8 seed)).1.settle.answer h 0x0305 stSuccess []))

/-- ROUTE_WRITE fills the free route bank, ROUTE_ARM writes QFB_ROUTE_ARM as one pair. Rests on spec/12_chembe_protocol.md,
spec/10_quill_fabric.md, spec/13_registers.md. -/
def Obligations.RouteCommandsAct : Prop :=
  (∀ (s : State) (h : Hdr) (bank o : Nat) (data : List Byte), s.runs h ⟨0x0400, true, false, false, (some 3), .active, true⟩ = true →
    bank ≤ 1 → data.length ≤ restCap h 4056 → o + data.length ≤ 51200 → (s.admitted h).bankFree bank = true →
    exec (.routeWrite h bank o data) s = .next (((s.admitted h).mapQuill fun q =>
      if bank = 0 then { q with bank0 := patch q.bank0 o data } else { q with bank1 := patch q.bank1 o data }).answer h 0x0400
        stSuccess [])) ∧
  (∀ (s : State) (h : Hdr) (bank o : Nat) (data : List Byte), s.runs h ⟨0x0400, true, false, false, (some 3), .active, true⟩ = true →
    bank ≤ 1 → data.length ≤ restCap h 4056 → o + data.length ≤ 51200 → (s.admitted h).bankFree bank = false →
    exec (.routeWrite h bank o data) s = .next ((s.admitted h).answer h 0x0400 stBusy [])) ∧
  (∀ (s : State) (h : Hdr) (t : Nat), s.runs h ⟨0x0401, true, false, false, (some 3), .active, true⟩ = true → (s.admitted h).armOk t = true → t < 2 ^ 32 →
    (s.admitted h).pendingHalf 0x480000 = none →
    exec (.routeArm h t) s = .next ((((s.admitted h).writeOwn h.src.isSide 0x480014 t true).collide 0x480014 0x480014 h.src.isSide).answer h
      0x0401 stSuccess [])) ∧
  (∀ (s : State) (h : Hdr) (t : Nat), s.runs h ⟨0x0401, true, false, false, (some 3), .active, true⟩ = true → (s.admitted h).armOk t = false →
    exec (.routeArm h t) s = .next ((s.admitted h).answer h 0x0401 stParam []))

/-- CONFIRM, SEAL, RESTORE, ADOPT and PARTNER2 act on the survival path and answer. Rests on spec/11_failure_survival.md,
spec/12_chembe_protocol.md. -/
def Obligations.SurvivalCommandsAct : Prop :=
  (∀ (s : State) (h : Hdr) (u : Nat), s.benching = false → s.runs h ⟨0x0503, true, false, false, (some 4), .active, true⟩ = true →
    u = ((s.admitted h).get SVL_CONFIRMED_STEP + 1) % 2 ^ 32 → (s.admitted h).holdsImage u = true →
    exec (.confirm h u) s = .next
      ((((((s.admitted h).put SVL_CONFIRMED_STEP u).landOwn u).endSealFollow u).applyWard u).syncHead.settle.answer h 0x0503 stSuccess [])) ∧
  (∀ (s : State) (h : Hdr) (u : Nat), s.benching = false → s.runs h ⟨0x0503, true, false, false, (some 4), .active, true⟩ = true →
    u ≠ ((s.admitted h).get SVL_CONFIRMED_STEP + 1) % 2 ^ 32 →
    exec (.confirm h u) s = .next ((s.admitted h).answer h 0x0503 stParam [])) ∧
  (∀ (s : State) (h : Hdr) (t : Nat), s.runs h ⟨0x0500, true, false, true, (some 4), .active, true⟩ = true →
    (s.admitted h).svl.sealWait = none → ((s.admitted h).partnerRole.isSome && (s.admitted h).get RSK_STATUS_LEVEL == 0
      && (s.admitted h).get SVL_STATUS_OWN_FOLLOW == 0) = false → (s.admitted h).wardRole.isSome = true →
    (s.admitted h).get SVL_STATUS_WARD_FOLLOW = 2 → (s.admitted h).get SVL_WARD_STEP_STEP = t →
    exec (.seal h t) s = .next (((((s.admitted h).sealWard 2).stopWard).syncHead.addDeferred h 0x0500
      (some (((s.admitted h).sealWard 2).sealAnswer (s.admitted h).sealDiffers)) 0).sendReply
      (mkReply h 0x0500 stSuccess true []))) ∧
  (∀ (s : State) (h : Hdr) (t : Nat), s.runs h ⟨0x0500, true, false, true, (some 4), .active, true⟩ = true →
    (s.admitted h).svl.sealWait = none → ((s.admitted h).partnerRole.isSome && (s.admitted h).get RSK_STATUS_LEVEL == 0
      && (s.admitted h).get SVL_STATUS_OWN_FOLLOW == 0) = false → (s.admitted h).wardRole.isSome = true →
    (s.admitted h).get SVL_WARD_STEP_STEP ≠ t →
    exec (.seal h t) s = .next ((((s.admitted h).mapSvl fun v => { v with sealWait := some (t, 2) }).addDeferred h 0x0500 none 0).sendReply
      (mkReply h 0x0500 stSuccess true []))) ∧
  (∀ (s : State) (h : Hdr) (t p : Nat), s.runs h ⟨0x0501, true, false, true, (some 4), .loaded, true⟩ = true →
    (s.admitted h).svl.recover = none → (s.admitted h).partnerRole = some p →
    exec (.restore h t) s = .next ((((s.admitted h).startRecover p t false).addDeferred h 0x0501 none 0).sendReply
      (mkReply h 0x0501 stSuccess true []))) ∧
  (∀ (s : State) (h : Hdr) (t p role : Nat) (f : Folio), s.runs h ⟨0x0502, true, false, true, (some 4), .loaded, true⟩ = true →
    (s.admitted h).svl.recover = none → (s.admitted h).folio = some f → (s.admitted h).partnerRole = some p → f.role = role →
    (s.admitted h).svl.wardOf ≠ some role →
    exec (.adopt h role t) s = .next ((((s.admitted h).startRecover p ((t + 2 ^ 32 - 1) % 2 ^ 32) true).addDeferred h 0x0502 none 0).sendReply
      (mkReply h 0x0502 stSuccess true []))) ∧
  (∀ (s : State) (h : Hdr) (t role : Nat) (f : Folio), s.runs h ⟨0x0502, true, false, true, (some 4), .loaded, true⟩ = true →
    (s.admitted h).svl.recover = none → (s.admitted h).folio = some f → f.role ≠ role →
    exec (.adopt h role t) s = .next (((s.admitted h).addDeferred h 0x0502 (some (stAdoptRefused, [])) 0).sendReply
      (mkReply h 0x0502 stSuccess true []))) ∧
  (∀ (s : State) (h : Hdr) (role : Nat) (f : Folio), s.runs h ⟨0x0504, true, false, true, (some 4), .loaded, true⟩ = true → role < 2048 →
    (s.admitted h).folio = some f → (s.admitted h).get RSK_STATUS_LEVEL = 3 → (s.admitted h).benchOk f role = true →
    exec (.partner2 h role) s = .next
      (((((s.admitted h).stopFollow.mapSvl fun v => { v with partner2 := some role }).rideTo role 0xFF00 0
        (((s.admitted h).stopFollow.mapSvl fun v => { v with partner2 := some role }).pairLine f) false).addDeferred h 0x0504
        (some (stSuccess, [])) 0).sendReply (mkReply h 0x0504 stSuccess true []))) ∧
  (∀ (s : State) (h : Hdr) (u : Nat), s.benching = true → s.runs h ⟨0x0503, true, false, false, (some 4), .always, true⟩ = true →
    (s.svl.stages.map Stage.step).contains u = true → ((s.svl.stages.map Stage.step).all fun v => decide (u ≤ v)) = true →
    exec (.confirm h u) s = .next (((s.admitted h).applyWard u).syncHead.settle.answer h 0x0503 stSuccess []))

/-- EVENT_ACK, EVENT_MASK, the 2 ms resend and COMMAND_DONE act on the event queues. Rests on spec/12_chembe_protocol.md,
spec/14_sideband_and_presence.md. -/
def Obligations.EventCommandsAct : Prop :=
  (∀ (s : State) (h : Hdr) (n port addr udp : Nat), s.runs h (opNow 0x0601 true .always) = true → h.src = .host port addr udp →
    exec (.eventAck h n) s = .next
      ((((s.admitted h).setEvq false { (s.admitted h).evq false with items := ((s.admitted h).evq false).items.filter fun e =>
        match e.seq with | some k => !ackedBy n k | none => true }).pump false).answer h 0x0601 stSuccess [])) ∧
  (∀ (s : State) (h : Hdr) (mask port addr udp : Nat), s.runs h (opNow 0x0602 true .always) = true → h.src = .host port addr udp →
    exec (.eventMask h mask) s = .next
      (((s.admitted h).setEvq false { (s.admitted h).evq false with mask := mask }).answer h 0x0602 stSuccess [])) ∧
  (∀ (s : State) (h : Hdr) (mask eid : Nat), s.runs h (opNow 0x0602 true .always) = true → h.src = .side eid →
    exec (.eventMask h mask) s = .next
      ((((s.admitted h).setEvq true { (s.admitted h).evq true with mask := mask }).setReceiver true eid).answer h 0x0602 stSuccess [])) ∧
  (∀ (s : State) (side : Bool) (e : QEvent) (rest : List QEvent) (n : Nat), (s.evq side).items = e :: rest → e.seq = some n →
    (s.evq side).lastSend + 2000000 ≤ s.time → s.canSend side = true →
    exec (.eventResend side) s = .next ((s.setEvq side { s.evq side with lastSend := s.time }).transmit side e n)) ∧
  (∀ (s : State) (side : Bool) (e : QEvent) (rest : List QEvent) (n : Nat), (s.evq side).items = e :: rest → e.seq = some n →
    s.time < (s.evq side).lastSend + 2000000 → exec (.eventResend side) s = .next s) ∧
  (∀ (s : State) (i st : Nat) (d : Deferred) (ps : List Byte), s.chembe.deferred[i]? = some d → d.result = some (st, ps) →
    d.op ≠ 0x0301 → exec (.commandDone i) s = .next (s.endDeferred d st ps).runHeld) ∧
  (∀ (s : State) (i st : Nat) (d : Deferred) (ps : List Byte), s.chembe.deferred[i]? = some d → d.result = some (st, ps) →
    d.op = 0x0301 → s.jobState = jsLoading →
    exec (.commandDone i) s = .next
      ((s.setJobState (if s.folio.isSome then jsLoaded else jsEmpty)).endDeferred d st ps).runHeld) ∧
  (∀ (s : State) (i : Nat) (d : Deferred), s.chembe.deferred[i]? = some d → d.result = none → exec (.commandDone i) s = .next s)

/-- POWER_STATUS, POWER_SET and MAIN_POWER act on the power state and answer. Rests on spec/15_power_pins_startup.md,
spec/13_registers.md. -/
def Obligations.PowerCommandsAct : Prop :=
  (∀ (s : State) (h : Hdr), s.runs h (opNow 0x0700 false .always) = true →
    exec (.powerStatus h) s = .next (((s.admitted h).mapPower fun p => { p with peakStatus := (s.admitted h).get PWR_DRAW_AVG_W }).answer h
      0x0700 stSuccess (s.admitted h).powerReply)) ∧
  (∀ (s : State) (h : Hdr) (target : Nat), s.runs h ⟨0x0701, true, false, false, some 5, .always, false⟩ = true →
    exec (.powerSet h 0 target) s = .next ((((s.admitted h).put PWR_CTRL_MODE 0).put PWR_TARGET_RATE (clampTo 1000 1850 target)).answer h
      0x0701 stSuccess [])) ∧
  (∀ (s : State) (h : Hdr) (target : Nat), s.runs h ⟨0x0701, true, false, false, some 5, .always, false⟩ = true →
    exec (.powerSet h 1 target) s = .next ((((s.admitted h).put PWR_CTRL_MODE 1).put PWR_TARGET_CAP (clampTo 900 1850 target)).answer h
      0x0701 stSuccess [])) ∧
  (∀ (s : State) (h : Hdr) (mode target : Nat), s.runs h ⟨0x0701, true, false, false, some 5, .always, false⟩ = true → 2 ≤ mode →
    exec (.powerSet h mode target) s = .next ((s.admitted h).answer h 0x0701 stParam [])) ∧
  (∀ (s : State) (h : Hdr), s.runs h ⟨0x0702, true, false, true, some 5, .always, false⟩ = true → s.pins.pwrEn = true →
    s.power.main = .on →
    exec (.mainPower h 0) s = .next
      ((((s.admitted h).loseRequest.mapPower fun p => { p with switch := .off }).addDeferred h 0x0702 (some (stSuccess, [])) 0).sendReply
        (mkReply h 0x0702 stSuccess true []))) ∧
  (∀ (s : State) (h : Hdr), s.runs h ⟨0x0702, true, false, true, some 5, .always, false⟩ = true → s.pins.pwrEn = true →
    s.power.main = .off →
    exec (.mainPower h 1) s = .next
      ((((s.admitted h).mapPower fun p => { p with switch := .on }).addDeferred h 0x0702 none 1).sendReply
        (mkReply h 0x0702 stSuccess true []))) ∧
  (∀ (s : State) (h : Hdr), s.runs h ⟨0x0702, true, false, true, some 5, .always, false⟩ = true → s.pins.pwrEn = true →
    s.power.main = .on →
    exec (.mainPower h 2) s = .next
      ((((s.admitted h).enterHold.mapPower fun p => { p with switch := .hold }).addDeferred h 0x0702 (some (stSuccess, [])) 2).sendReply
        (mkReply h 0x0702 stSuccess true []))) ∧
  (∀ (s : State) (h : Hdr), s.runs h ⟨0x0702, true, false, true, some 5, .always, false⟩ = true → s.pins.pwrEn = true →
    s.power.main = .off →
    exec (.mainPower h 2) s = .next
      (((s.admitted h).addDeferred h 0x0702 (some (stState, [])) 2).sendReply (mkReply h 0x0702 stSuccess true []))) ∧
  (∀ (s : State) (h : Hdr) (on : Nat), s.runs h ⟨0x0702, true, false, true, some 5, .always, false⟩ = true → s.pins.pwrEn = false →
    on ≤ 2 →
    exec (.mainPower h on) s = .next
      ((((s.admitted h).mapPower fun p => { p with switch := switchOf on }).addDeferred h 0x0702 (some (stState, [])) 0).sendReply
        (mkReply h 0x0702 stSuccess true [])))

/-- The privileged commands of Table 14.7 and ATTEST act on flash and Escritoire and answer. Rests on
spec/14_sideband_and_presence.md. -/
def Obligations.PrivilegedCommandsAct : Prop :=
  (∀ (s : State) (h : Hdr) (o : Nat) (data : List Byte), s.runs h (privOp 0x0F00 false) = true → 1 ≤ data.length →
    data.length ≤ dataCap h 4048 → o + data.length ≤ slotBytes → (s.admitted h).stagingTaken h = false →
    exec (.fwStage h o 0 data) s = .next (((s.admitted h).stageBytes h o data).answer h 0x0F00 stSuccess [])) ∧
  (∀ (s : State) (h : Hdr) (o : Nat) (data : List Byte), s.runs h (privOp 0x0F00 true) = true → 1 ≤ data.length →
    data.length ≤ dataCap h 4048 → o + data.length ≤ slotBytes → (s.admitted h).stagingTaken h = false → (s.admitted h).privBusy = false →
    exec (.fwStage h o 1 data) s = .next
      (((((s.admitted h).stageBytes h o data).finalStage.1).addDeferred h 0x0F00
        (some (((s.admitted h).stageBytes h o data).finalStage.2.1, ((s.admitted h).stageBytes h o data).finalStage.2.2)) 0).sendReply
        (mkReply h 0x0F00 stSuccess true []))) ∧
  (∀ (s : State) (h : Hdr) (v : Nat), s.runs h (privOp 0x0F01 true) = true → (s.admitted h).privBusy = false → (s.admitted h).esc.verified = true →
    v = (s.admitted h).get SEC_FW_STAGED_VERSION →
    exec (.fwCommit h v) s = .next
      ((((s.admitted h).mapFlash fun f => { f with trial := true, trialStarts := 0 }).addDeferred h 0x0F01 (some (stSuccess, [])) 0).sendReply
        (mkReply h 0x0F01 stSuccess true []))) ∧
  (∀ (s : State) (h : Hdr) (seed pub : List Byte), s.runs h (privOp 0x0F02 true) = true → (s.admitted h).privBusy = false →
    (s.admitted h).flash.rotations.length < 255 → (s.admitted h).liveId = some (seed, pub) →
    exec (.idRotate h) s = .next
      ((((s.admitted h).rotateId seed pub).1.addDeferred h 0x0F02 (some (stSuccess, ((s.admitted h).rotateId seed pub).2)) 0).sendReply
        (mkReply h 0x0F02 stSuccess true []))) ∧
  (∀ (s : State) (h : Hdr), s.runs h ⟨0x0F03, true, true, true, none, .always, true⟩ = true → (s.admitted h).privBusy = false →
    exec (.eraseAll h 0x4C4C4145) s = .next
      (((s.admitted h).eraseAll.1.addDeferred h 0x0F03 (some (stSuccess, (s.admitted h).eraseAll.2)) 0).sendReply
        (mkReply h 0x0F03 stSuccess true []))) ∧
  (∀ (s : State) (h : Hdr) (arm : Nat), s.runs h (privOp 0x0F04 false) = true → arm ≤ 1 →
    exec (.debugUnlock h arm) s = .next (((s.admitted h).mapFlash fun f => { f with armDebug := arm == 1 }).answer h 0x0F04 stSuccess [])) ∧
  (∀ (s : State) (h : Hdr) (arm : Nat), s.runs h (privOp 0x0F05 false) = true → arm ≤ 1 →
    exec (.testMode h arm) s = .next (((s.admitted h).mapFlash fun f => { f with armTest := arm == 1 }).answer h 0x0F05 stSuccess [])) ∧
  (∀ (s : State) (h : Hdr) (r : Nat), s.runs h (privOp 0x0F06 false) = true → (s.admitted h).esc.sealOhms = some r → loopOpen (some r) = false →
    exec (.sealAck h) s = .next (((s.admitted h).sealAck r).answer h 0x0F06 stSuccess (le 4 r))) ∧
  (∀ (s : State) (h : Hdr), s.runs h (privOp 0x0F06 false) = true → loopOpen (s.admitted h).esc.sealOhms = true →
    exec (.sealAck h) s = .next ((s.admitted h).answer h 0x0F06 stState [])) ∧
  (∀ (s : State) (h : Hdr) (nonce seed pub : List Byte) (part o : Nat),
    s.runs h ⟨0x0F07, false, false, true, none, .always, false⟩ = true → nonce.length = 32 → part ≤ 4 →
    (s.admitted h).privBusy = false → (s.admitted h).liveId = some (seed, pub) →
    o < ((s.admitted h).attestPart seed pub nonce part).2.length →
    exec (.attest h nonce part o) s = .next
      ((((s.admitted h).attestPart seed pub nonce part).1.addDeferred h 0x0F07 (some (stSuccess,
        le 4 ((s.admitted h).attestPart seed pub nonce part).2.length ++ zeros 4
          ++ (((s.admitted h).attestPart seed pub nonce part).2.drop o).take 4000)) 0).sendReply
        (mkReply h 0x0F07 stSuccess true [])))

/-- ARP, Neighbor Discovery, echo, discarded and refused datagrams, link loss and training act on a host port. Rests on
spec/12_chembe_protocol.md, spec/13_registers.md. -/
def Obligations.HostPortsAnswerAndGoDown : Prop :=
  ((∀ (s : State) (p sip smac : Nat), p < 2 → s.hostUp p = true →
    exec (.arp p (s.flash.config.ipv4 p) sip smac) s = .next
      (((s.hostRx p).send
        (.net p 0 (s.flash.config.ipv4 p) sip (be 6 (s.flash.config.mac p)))).countAt 0xC1 { port := some (24 + p) } 1)) ∧
  (∀ (s : State) (p tip sip smac : Nat), p < 2 → s.hostUp p = true → tip ≠ s.flash.config.ipv4 p →
    exec (.arp p tip sip smac) s = .next ((s.hostRx p).bump (HPT_DROP_COUNT p) 1)) ∧
  (∀ (s : State) (p sip smac : Nat), p < 2 → s.hostUp p = true →
    exec (.neighborDiscovery p (s.flash.config.ipv6 p) sip smac) s = .next
      (((s.hostRx p).send
        (.net p 1 (s.flash.config.ipv6 p) sip (be 6 (s.flash.config.mac p)))).countAt 0xC1 { port := some (24 + p) } 1)) ∧
  (∀ (s : State) (p sip : Nat) (data : List Byte), p < 2 → s.hostUp p = true →
    exec (.echoRequest p false (s.flash.config.ipv4 p) sip data) s = .next
      (((s.hostRx p).send (.net p 2 (s.flash.config.ipv4 p) sip data)).countAt 0xC1
        { port := some (24 + p) } 1)) ∧
  (∀ (s : State) (p sip : Nat) (data : List Byte), p < 2 → s.hostUp p = true →
    exec (.echoRequest p true (s.flash.config.ipv6 p) sip data) s = .next
      (((s.hostRx p).send (.net p 3 (s.flash.config.ipv6 p) sip data)).countAt 0xC1
        { port := some (24 + p) } 1)) ∧
  (∀ (s : State) (d : Stray), d.port < 2 → s.hostUp d.port = true → s.takesDatagram d = false →
    exec (.datagramDrop d) s = .next ((s.hostRx d.port).bump (HPT_DROP_COUNT d.port) 1)) ∧
  (∀ (s : State) (d : Stray), s.takesDatagram d = true → exec (.datagramDrop d) s = .next s) ∧
  (∀ (s : State) (p a u : Nat) (bytes : List Byte), p < 2 → s.hostUp p = true →
    malformed bytes = true ∨ s.noSession ⟨.host p a u, bytes⟩ = true →
    exec (.chembeRefused ⟨.host p a u, bytes⟩) s = .next
      (((s.hostRx p).countAt 0xC4 { port := some (24 + p) } 1).bump (HPT_DROP_COUNT p) 1)) ∧
  (∀ (s : State) (p : Nat), p < 2 → s.hostUp p = true →
    exec (.hLinkDown p) s = .next (s.hostDown p)) ∧
  (∀ (s : State) (p lanes : Nat), p < 2 → s.power.mainOk = true → s.on (HPT_CTRL_ENABLE p) = true → s.hostUp p = false →
    s.on (HPT_CTRL_ALLOW_400 p) = true → lanes % 16 = 15 →
    exec (.hostPortTrain p lanes) s = .next
      ((((s.put (HPT_STATUS_LINK_UP p) 1).put (HPT_STATUS_SPEED p) 2).put (HPT_STATUS_LANES_HIGH p) 0).pump false)) ∧
  (∀ (s : State) (p lanes : Nat), p < 2 → s.power.mainOk = true → s.on (HPT_CTRL_ENABLE p) = true → s.hostUp p = false →
    s.hostTrained p lanes = none → exec (.hostPortTrain p lanes) s = .next s)) ∧
  (∀ (s : State) (p : Nat), s.RegsCanonical → p < 2 → s.hostUp p = true →
    ∃ t, exec (.hLinkDown p) s = .next t ∧ t.hostUp p = false ∧ t.get (HPT_STATUS_SPEED p) = 0 ∧ t.on (HPT_STATUS_WENT_DOWN p) = true ∧
      t.hostUp (1 - p) = s.hostUp (1 - p) ∧ t.mem = s.mem ∧ t.flash = s.flash ∧ t.job = s.job ∧ t.run = s.run ∧ t.quill = s.quill)

/-- The common command codes and MCTP control requests of Table 14.1 answer and set or clear the addresses. Rests on
spec/14_sideband_and_presence.md. -/
def Obligations.I3cAndMctpControlAnswered : Prop :=
  ((∀ (s : State) (a : Nat), s.esc.ready = true → s.esc.i3cAddr = none →
    exec (.entdaa a) s = .next (((s.send (.i3c 0x07 (be 6 s.pid ++ le 1 6 ++ le 1 0))).mapEsc fun e => { e with i3cAddr := some a }).pump
      true)) ∧
  (∀ (s : State) (a b : Nat), s.esc.ready = true → s.esc.i3cAddr = some b →
    exec (.setnewda a) s = .next { s with esc := { s.esc with i3cAddr := some a } }) ∧
  (∀ (s : State), s.esc.ready = true → exec .rstdaa s = .next { s with esc := { s.esc with i3cAddr := none } }) ∧
  (∀ (s : State) (b : Nat), s.esc.ready = true → s.esc.i3cAddr = some b →
    exec .getpid s = .next { s with out := s.out ++ [.i3c 0x8D (be 6 s.pid)] } ∧
    exec .getbcr s = .next { s with out := s.out ++ [.i3c 0x8E [0x06]] } ∧
    exec .getdcr s = .next { s with out := s.out ++ [.i3c 0x8F [0x00]] } ∧
    exec .getstatus s = .next { s with free := s.free + 1, out := s.out ++ [.i3c 0x90 (fit 2 (Config.sideBytes 1 s.free))] } ∧
    exec .getmwl s = .next { s with out := s.out ++ [.i3c 0x8B (fit 2 (Config.sideBytes 2 0))] } ∧
    exec .getmrl s = .next { s with out := s.out ++ [.i3c 0x8C (fit 3 (Config.sideBytes 3 0))] })) ∧
  (∀ (s : State) (b : Nat), s.esc.ready = true → s.esc.i3cAddr = some b →
    (∀ op eid, op ≤ 1 → 8 ≤ eid → eid ≤ 254 →
      exec (.setEndpointId op eid) s = .next
        (({ s with esc := { s.esc with eid := some eid }, out := s.out ++ [.i3c 0 ibiByte, .mctp 1 0 [0, BitVec.ofNat 8 eid, 0]] } : State).pump
          true)) ∧
    (∀ op eid, ¬(op ≤ 1 ∧ 8 ≤ eid ∧ eid ≤ 254) →
      exec (.setEndpointId op eid) s = .next { s with out := s.out ++ [.i3c 0 ibiByte, .mctp 1 2 []] }) ∧
    exec .getEndpointId s = .next
      { s with out := s.out ++ [.i3c 0 ibiByte, .mctp 2 0 (le 1 (s.esc.eid.getD 0) ++ fit 2 (Config.sideBytes 4 0))] } ∧
    exec .getEndpointUuid s = .next { s with out := s.out ++ [.i3c 0 ibiByte, .mctp 3 0 (fit 16 (Config.sideBytes 5 0))] } ∧
    (∀ m, m = 0xFF ∨ m ∈ mctpTypes →
      exec (.getMctpVersionSupport m) s = .next { s with out := s.out ++ [.i3c 0 ibiByte, .mctp 4 0 (Config.sideBytes 6 m)] }) ∧
    exec .getMessageTypeSupport s = .next { s with out := s.out ++ [.i3c 0 ibiByte, .mctp 5 0 [2, 0x01, 0x7F]] } ∧
    exec (.getVendorDefinedMsgSupport 0) s = .next
      { s with out := s.out ++ [.i3c 0 ibiByte, .mctp 6 0 ([0xFF, 1] ++ be 4 61283 ++ fit 2 (Config.sideBytes 7 0))] } ∧
    (∀ n, n ≠ 0 → exec (.getVendorDefinedMsgSupport n) s = .next { s with out := s.out ++ [.i3c 0 ibiByte, .mctp 6 2 []] }))

/-- The PLDM requests of Table 14.1 and the sensors of Table 14.4 are answered. Rests on spec/14_sideband_and_presence.md.
-/
def Obligations.PldmRequestsAnswered : Prop :=
  ∀ (s : State), s.pldmUp = true →
    exec .getPdrRepositoryInfo s = .next
      { s with out := s.out ++ [.i3c 0 ibiByte, .pldm 2 0x50 0 (le 1 0 ++ le 4 11 ++ Config.sideBytes 8 0)] } ∧
    (∀ n, n ∈ numericSensors → exec (.getPdr n) s = .next { s with out := s.out ++ [.i3c 0 ibiByte,
      .pldm 2 0x51 0 (le 2 n ++ le 1 0 ++ le 1 (sensorUnit n).1 ++ le 1 (ofSigned 8 (sensorUnit n).2) ++ (s.thresholds n).flatMap pdrThreshold ++ Config.sideBytes 9 n)] }) ∧
    (∀ n, n ∈ stateSensors → exec (.getPdr n) s = .next { s with out := s.out ++ [.i3c 0 ibiByte,
      .pldm 2 0x51 0 (le 2 n ++ le 1 1 ++ Config.sideBytes 9 n)] }) ∧
    (∀ n (r : Int), n ∈ numericSensors → s.sensorUp n = true → exec (.getSensorReading n r) s = .next
      (((s.takeReading n r).1.send (.i3c 0 ibiByte)).send (.pldm 2 0x11 0
        (le 1 0 ++ le 1 (ofSigned 8 ((s.takeReading n r).1.sensorSide n (s.takeReading n r).2))
          ++ le 4 (ofSigned 32 (s.takeReading n r).2))))) ∧
    (∀ n (r : Int), n ∈ numericSensors → s.sensorUp n = false → exec (.getSensorReading n r) s = .next
      { s with out := s.out ++ [.i3c 0 ibiByte, .pldm 2 0x11 0 [2, 0, 0, 0, 0, 0]] }) ∧
    (∀ n, n ∈ stateSensors → s.sensorUp n = true → exec (.getStateSensorReadings n) s = .next
      { s with out := s.out ++ [.i3c 0 ibiByte, .pldm 2 0x21 0 (le 1 0 ++ le 1 (s.stateSensor n))] }) ∧
    (∀ e, (∀ x, s.esc.receiver ≠ some (true, x)) → exec (.setEventReceiver e) s = .next
      (((s.setReceiver false e).send (.i3c 0 ibiByte)).send (.pldm 2 0x04 0 []))) ∧
    (∀ e x, s.esc.receiver = some (true, x) → exec (.setEventReceiver e) s = .next ((s.send (.i3c 0 ibiByte)).send (.pldm 2 0x04 0 []))) ∧
    (∀ n (r : Int), n ∈ numericSensors → s.sensorUp n = true → exec (.platformEventMessage n r) s = .next
      ((s.takeReading n r).1.noteSensor n ((s.takeReading n r).1.sensorSide n (s.takeReading n r).2) (s.takeReading n r).2)) ∧
    (∀ n (r : Int), n ∈ stateSensors → s.sensorUp n = true → exec (.platformEventMessage n r) s = .next
      (s.noteSensor n ((s.stateSensor n : Nat) : Int) ((s.stateSensor n : Nat) : Int))) ∧
    exec (.messagingControlAndDiscovery 4) s = .next { s with out := s.out ++ [.i3c 0 ibiByte, .pldm 0 4 0 (le 8 5)] } ∧
    exec (.messagingControlAndDiscovery 1) s = .next { s with out := s.out ++ [.i3c 0 ibiByte, .pldm 0 1 0 []] }

/-- COLD_START, ESCRITOIRE_READY, STANDBY_LOSS, RESET_N and its release act on the standby domain. Rests on
spec/15_power_pins_startup.md, spec/14_sideband_and_presence.md. -/
def Obligations.StandbyAndResetEvents : Prop :=
  (∀ (s : State) (v f l : Nat), s.power.standby = false → 30000 ≤ v →
    exec (.coldStart v f l) s = .next (s.coldStarted v f l)) ∧
  (∀ (s : State) (v f l : Nat), s.power.standby = true ∨ v < 30000 → exec (.coldStart v f l) s = .next s) ∧
  (∀ (s : State) (ohms : Option Nat), s.power.standby = true → s.pins.resetN = true → s.esc.ready = false →
    exec (.escritoireReady ohms) s = .next (s.escReady ohms) ∧ (s.escReady ohms).esc.ready = true) ∧
  (∀ (s : State) (v : Nat), s.power.standby = true → v < 28000 →
    ∃ t, exec (.standbyLoss v) s = .next t ∧ t = (s.lostStandby v).freshStandby ∧ t.power.standby = false) ∧
  (∀ (s : State) (n : Nat), 10000 ≤ n → s.pins.resetN = true →
    ∃ t, exec (.resetN n) s = .next t ∧ t = s.resetAsserted ∧ t.pins.resetN = false ∧ t.power.standby = s.power.standby ∧
      t.power.trip = s.power.trip ∧ t.mem = State.reset.mem ∧ t.job = State.reset.job ∧ t.esc.ready = false) ∧
  (∀ (s : State) (n : Nat), n < 10000 ∨ s.pins.resetN = false → exec (.resetN n) s = .next s) ∧
  (∀ (s : State) (f l : Nat), s.pins.resetN = false → s.power.standby = true →
    exec (.resetNRelease f l) s = .next (({ s with pins := { s.pins with resetN := true } } : State).bootEsc f l)) ∧
  (∀ (s : State) (f l : Nat), s.pins.resetN = false → s.power.standby = false →
    exec (.resetNRelease f l) s = .next { s with pins := { s.pins with resetN := true } })

/-- MAIN_ON_START, READY, heartbeats, main-side loss and rail faults act on the main side. Rests on
spec/15_power_pins_startup.md, spec/14_sideband_and_presence.md. -/
def Obligations.MainSideEvents : Prop :=
  (∀ s : State, s.requested = true → s.allowed = true → s.power.main = .off ∨ s.power.main = .hold →
    exec .mainOnStart s = .next s.mainStart) ∧
  (∀ s : State, s.requested = false ∨ s.allowed = false → exec .mainOnStart s = .next s) ∧
  (∀ (s : State) (k : StartKind) (pl : List (Nat × Nat × Nat × Nat)) (dr : List (Nat × Nat)), s.power.main = .starting k →
    exec (.ready pl dr) s = .next (s.startDone k pl dr).actWaiting) ∧
  (∀ (s : State) (n : Nat), s.power.mainOk = true → s.esc.ready = true →
    exec (.heartbeat n) s = .next { s with esc := { s.esc with heartbeatAt := s.time } }) ∧
  (∀ s : State, s.power.main = .on → s.on GLB_STATE_MAIN_ON = true → s.esc.heartbeatAt + 400000 ≤ s.time →
    exec .mainLost s = .next (s.voidLost.dropHostSessions.noteSessions.mainLostNow 1)) ∧
  (∀ s : State, s.time < s.esc.heartbeatAt + 400000 → exec .mainLost s = .next s) ∧
  (∀ s : State, s.mainOn = true → exec .mainRailFault s = .next (s.mainFault 3)) ∧
  (∀ s : State, exec .pwrEnRise s = .next { s with pins := { s.pins with pwrEn := true } }) ∧
  (∀ s : State, exec .pwrEnFall s = .next ({ s with pins := { s.pins with pwrEn := false } } : State).loseRequest)

/-- UNDERVOLT, OVERVOLT, POWER_FAIL, GASP_RAILS_OFF, THERM_TRIP and FEED_WARN act on their conditions alone. Rests on
spec/15_power_pins_startup.md, spec/11_failure_survival.md. -/
def Obligations.InputVoltageEvents : Prop :=
  (∀ (s : State) (v : Nat), s.power.standby = true → 33000 ≤ v → v < 36000 → (s.noteVin v).on PWR_STATUS_UNDERVOLT = false →
    exec (.undervolt v) s = .next (((s.noteVin v).put PWR_STATUS_UNDERVOLT 1).raisePower 1 v)) ∧
  (∀ (s : State) (v : Nat), s.power.standby = true → 36000 ≤ v → (s.noteVin v).on PWR_STATUS_UNDERVOLT = true →
    exec (.undervolt v) s = .next (((s.noteVin v).put PWR_STATUS_UNDERVOLT 0).raisePower 1 0)) ∧
  (∀ (s : State) (v n : Nat), s.power.standby = true → 50000 < v → 10000 ≤ n → s.power.overvolt = false →
    exec (.overvolt v n) s = .next
      ((((s.mainFault 3).noteVin v).mapPower fun p => { p with overvolt := true }).raisePower 2 v)) ∧
  (∀ (s : State) (v n : Nat), v ≤ 50000 ∨ n < 10000 → exec (.overvolt v n) s = .next s) ∧
  (∀ (s : State) (v n : Nat), s.power.standby = true → v < 33000 → 5000 ≤ n → s.power.main = .on → s.power.gasp = none →
    exec (.powerFail v n) s = .next (s.lastGasp v n)) ∧
  (∀ (s : State) (v n : Nat), 33000 ≤ v ∨ n < 5000 → exec (.powerFail v n) s = .next s) ∧
  (∀ (s : State) (g : GaspRun), s.power.gasp = some g → g.since + 900000 ≤ s.time →
    exec .gaspRailsOff s = .next s.railsOff) ∧
  (∀ (s : State) (g : GaspRun), s.power.gasp = some g → s.time < g.since + 900000 → exec .gaspRailsOff s = .next s) ∧
  (∀ (s : State) (c : Nat), s.power.standby = true → 1 ≤ c → c ≤ 4 → exec (.thermTrip c) s = .next (s.tripNow c)) ∧
  (∀ (s : State) (n : Nat), s.power.standby = true → 1000000 ≤ n → s.on PWR_STATUS_FEED_WARN = false →
    exec (.feedWarn true n) s = .next
      (((({ (s.put PWR_STATUS_FEED_WARN 1).raisePower 3 1 with
        risk := { ((s.put PWR_STATUS_FEED_WARN 1).raisePower 3 1).risk with feedWarnAt := some s.time } } : State)).alert 4).count
          0xEC)) ∧
  (∀ (s : State) (b : Bool) (n : Nat), n < 1000000 → exec (.feedWarn b n) s = .next s)

/-- VLOOP_STEP and GATE_UPDATE move the loop once while the main rails are good and do nothing otherwise. Rests on
spec/15_power_pins_startup.md. -/
def Obligations.VoltageLoopEvaluates : Prop :=
  (∀ (s : State) (w : Nat), s.power.mainOk = true →
    exec (.vloopStep w) s = .next ((((s.noteDraw w).count 0xE9).noteBars w).loopWith w)) ∧
  (∀ (s : State) (w : Nat), s.power.mainOk = false → exec (.vloopStep w) s = .next s ∧ exec (.gateUpdate w) s = .next s) ∧
  (∀ (s : State) (w : Nat), s.power.mainOk = true → s.get PWR_VDD_DESK0_MV = 600 → s.get PWR_VDD_DESK1_MV = 600 →
    s.powerLimit < w →
    exec (.gateUpdate w) s = .next { s with power := { s.power with gate := min 14 (s.power.gate + 1) } }) ∧
  (∀ (s : State) (w : Nat), s.power.mainOk = true → 100 * w < 98 * s.powerLimit →
    exec (.gateUpdate w) s = .next { s with power := { s.power with gate := s.power.gate - 1 } }) ∧
  (∀ (s : State) (w : Nat), s.power.mainOk = true → w ≤ s.powerLimit → 98 * s.powerLimit ≤ 100 * w →
    exec (.gateUpdate w) s = .next s)

/-- PRESENCE, its strapped state and expiry, SEAL_SAMPLE and FW_STAGE_TIMEOUT act on the Escritoire. Rests on
spec/14_sideband_and_presence.md, spec/15_power_pins_startup.md. -/
def Obligations.PresenceAndSealEvents : Prop :=
  (∀ (s : State) (n : Nat), s.esc.ready = false ∨ n < 2000000000 → exec (.presence n) s = .next s) ∧
  (∀ (s : State) (n : Nat), s.esc.ready = true → 2000000000 ≤ n → n ≤ 5000000000 → s.esc.strapped = false → s.presenceOpen = false →
    exec (.presence n) s = .next ((s.mapEsc fun e => { e with windowEnd := some (s.time + 300000000000) }).raisePresence 1)) ∧
  (∀ (s : State) (n : Nat), s.esc.ready = true → s.esc.strapped = false → 5000000000 < n → exec (.presence n) s = .next s.closeWindow) ∧
  (∀ (s : State) (n : Nat), s.esc.ready = true → s.esc.strapped = true → n < 10000000000 → exec (.presence n) s = .next s) ∧
  (∀ (s : State) (n : Nat), s.esc.ready = true → s.esc.strapped = true → 10000000000 ≤ n → exec (.presence n) s = .next s.closeWindow) ∧
  (∀ s : State, s.esc.ready = true → s.esc.strapped = false →
    exec .presenceStrapped s = .next ((s.mapEsc fun e => { e with strapped := true, windowEnd := none }).raisePresence 2)) ∧
  (∀ (s : State) (t : Nat), s.esc.windowEnd = some t → t ≤ s.time → s.esc.strapped = false →
    exec .presenceWindowExpiry s = .next s.closeWindow) ∧
  (∀ (s : State) (t : Nat), s.esc.windowEnd = some t → s.time < t → exec .presenceWindowExpiry s = .next s) ∧
  (∀ (s : State) (o : Option Nat), s.power.standby = true → s.esc.ready = true → sealKind o s.flash.baseline = 0 →
    exec (.sealSample o) s = .next ((s.noteLoop o).mapEsc fun e => { e with sealBad := 0, sealBadKind := 0 })) ∧
  (∀ (s : State) (o : Option Nat) (k : Nat), s.power.standby = true → s.esc.ready = true → k ≠ 0 →
    sealKind o (s.noteLoop o).flash.baseline = k → (s.noteLoop o).esc.sealBadKind = k → 2 ≤ (s.noteLoop o).esc.sealBad →
    exec (.sealSample o) s = .next (((s.noteLoop o).mapEsc fun e =>
      { e with sealBad := (s.noteLoop o).esc.sealBad + 1, sealBadKind := k }).sealBreakNow k o)) ∧
  (∀ (s : State) (o : Option Nat), s.power.standby = true → s.esc.ready = false →
    exec (.sealSample o) s = .next { s with esc := s.esc.latchLoop o }) ∧
  (∀ (s : State) (g : Staging), s.esc.staging = some g → g.last + 60000000000 ≤ s.time →
    exec .fwStageTimeout s = .next { s with esc := { s.esc with staging := none } }) ∧
  (∀ (s : State) (g : Staging), s.esc.staging = some g → s.time < g.last + 60000000000 → exec .fwStageTimeout s = .next s)

/-- A ready stroke with its table loaded does its work and leaves its record to follow. Rests on spec/03_strokes.md,
spec/01_leaves_and_desks.md. -/
def Obligations.StrokesRunOnTheirDesk : Prop :=
  (∀ (s : State) (f : Folio) (desk : Nat) (fault : Option ArrayFault) (d : Desc) (bank : Option Nat), desk < 2 → s.folio = some f →
    s.starts desk 0x10 d = true → (s.strokeHead desk d).bindTable d = some bank →
    exec (.mm desk fault) s = .next
      (((((s.strokeHead desk d).bound desk bank).strokeRun desk f d bank mmEmpty (State.mmWork fault)).1.setPhase desk
        (.done (((s.strokeHead desk d).bound desk bank).strokeRun desk f d bank mmEmpty (State.mmWork fault)).2)).settle)) ∧
  (∀ (s : State) (f : Folio) (desk : Nat) (d : Desc) (bank : Option Nat), desk < 2 → s.folio = some f →
    s.starts desk 0x11 d = true → (s.strokeHead desk d).bindTable d = some bank →
    exec (.ew desk) s = .next
      (((((s.strokeHead desk d).bound desk bank).strokeRun desk f d bank mnEmpty State.ewWork).1.setPhase desk
        (.done (((s.strokeHead desk d).bound desk bank).strokeRun desk f d bank mnEmpty State.ewWork).2)).settle)) ∧
  (∀ (s : State) (f : Folio) (desk : Nat) (d : Desc) (bank : Option Nat), desk < 2 → s.folio = some f →
    s.starts desk 0x12 d = true → (s.strokeHead desk d).bindTable d = some bank →
    exec (.row desk) s = .next
      (((((s.strokeHead desk d).bound desk bank).strokeRun desk f d bank mnEmpty State.rowWork).1.setPhase desk
        (.done (((s.strokeHead desk d).bound desk bank).strokeRun desk f d bank mnEmpty State.rowWork).2)).settle)) ∧
  (∀ (s : State) (f : Folio) (desk : Nat) (d : Desc) (bank : Option Nat), desk < 2 → s.folio = some f →
    s.starts desk 0x13 d = true → (s.strokeHead desk d).bindTable d = some bank →
    exec (.gather desk) s = .next
      (((((s.strokeHead desk d).bound desk bank).strokeRun desk f d bank mnEmpty State.gatherWork).1.setPhase desk
        (.done (((s.strokeHead desk d).bound desk bank).strokeRun desk f d bank mnEmpty State.gatherWork).2)).settle)) ∧
  (∀ (s : State) (f : Folio) (desk : Nat) (d : Desc) (bank : Option Nat), desk < 2 → s.folio = some f →
    s.starts desk 0x14 d = true → (s.strokeHead desk d).bindTable d = some bank →
    exec (.scatter desk) s = .next
      (((((s.strokeHead desk d).bound desk bank).strokeRun desk f d bank (fun k => k.x.m == 0) State.scatterWork).1.setPhase desk
        (.done (((s.strokeHead desk d).bound desk bank).strokeRun desk f d bank (fun k => k.x.m == 0) State.scatterWork).2)).settle)) ∧
  (∀ (s : State) (f : Folio) (desk : Nat) (fault : Option ArrayFault) (d : Desc) (bank : Option Nat), desk < 2 → s.folio = some f →
    s.starts desk 0x15 d = true → (s.strokeHead desk d).bindTable d = some bank →
    exec (.root ⟨desk, fault⟩) s = .next
      (((((s.strokeHead desk d).bound desk bank).strokeRun desk f d bank (fun k => k.x.k == 0) (State.rootWork fault)).1.setPhase desk
        (.done (((s.strokeHead desk d).bound desk bank).strokeRun desk f d bank (fun k => k.x.k == 0) (State.rootWork fault)).2)).settle))

/-- A missing table holds a stroke, elided descriptors end with a zero record, STROKE_DONE and NOP move their list on. Rests
on spec/03_strokes.md, spec/05_folios_and_static_order.md. -/
def Obligations.DescriptorsHoldElideAndComplete : Prop :=
  ((∀ (s : State) (f : Folio) (desk : Nat) (d : Desc), desk < 2 → s.folio = some f → s.starts desk 0x11 d = true →
    (s.strokeHead desk d).bindTable d = none →
    exec (.ew desk) s = .next
      ((((s.strokeHead desk d).setPhase desk .heldTable).countAt 0x16 { desk := some desk } 1).settle)) ∧
  (∀ (s : State) (f : Folio) (desk : Nat) (d : Desc) (bank : Option Nat) (fault : Option ArrayFault) (empty : Stroke → Bool)
    (work : StrokeWork), desk < 2 →
    s.folio = some f → (s.eng desk).phase = .heldTable → s.head desk = some d → s.mayRun = true → s.bindTable d = some bank →
    tableKind fault d.kind = some (empty, work) →
    exec (.tableWait ⟨desk, fault⟩) s = .next ((((s.bound desk bank).strokeRun desk f d bank empty work).1.setPhase desk
      (.done ((s.bound desk bank).strokeRun desk f d bank empty work).2)).settle)) ∧
  (∀ (s : State) (f : Folio) (desk : Nat) (d : Desc) (fault : Option ArrayFault), desk < 2 → s.folio = some f →
    (s.eng desk).phase = .heldTable → s.head desk = some d → s.bindTable d = none → exec (.tableWait ⟨desk, fault⟩) s = .next s) ∧
  (∀ (s : State) (f : Folio) (desk : Nat) (d : Desc), desk < 2 → s.folio = some f → s.replayReady desk = none →
    s.ready desk = some d → d.kind = 0x13 → (s.openHead desk d).headElided desk = true →
    exec (.gather desk) s = .next (((s.openHead desk d).setPhase desk (.done .zero)).settle)) ∧
  (∀ (s : State) (f : Folio) (e : Nat) (d : Desc), e < 32 → s.folio = some f → s.replayReady (0x10 + e) = none →
    s.ready (0x10 + e) = some d → d.kind = 0x20 → (s.openHead (0x10 + e) d).headElided (0x10 + e) = true →
    exec (.copy e) s = .next (((s.openHead (0x10 + e) d).setPhase (0x10 + e) (.done .zero)).noteDma.settle))) ∧
  ((∀ (s : State) (desk : Nat) (r : Rec), desk < 2 → s.addsWait (.engine desk) = false → s.replayPending desk = false → (s.eng desk).phase = .done r →
    exec (.strokeDone desk) s = .next ((((s.finishEng desk r).unbind desk).countAt 0x10 { desk := some desk } 1).settle)) ∧
  (∀ (s : State) (desk : Nat), desk < 2 → s.addsWait (.engine desk) = false → s.replayPending desk = true →
    exec (.strokeDone desk) s = .next ((s.replayDone desk).unbind desk).settle) ∧
  (∀ (s : State) (desk : Nat), desk < 2 → s.replayPending desk = false → (∀ r, (s.eng desk).phase ≠ .done r) →
    exec (.strokeDone desk) s = .next s) ∧
  (∀ (s : State) (desk : Nat), s.addsWait (.engine desk) = true → exec (.strokeDone desk) s = .next s) ∧
  (∀ (s : State) (c : Nat) (d : Desc), s.replayReady c = none → s.ready c = some d → d.kind = 0 →
    exec (.nop c) s = .next ((s.acquire d).advance c)) ∧
  (∀ (s : State) (c : Nat), s.replayReady c = none → s.ready c = none → exec (.nop c) s = .next s))

/-- A ready COPY, FILL, TABLE_LOAD or SLOT_SET does its work; a TABLE_LOAD of a bound bank holds. Rests on
spec/03_strokes.md, spec/04_backward_pass.md. -/
def Obligations.DmaDescriptorsRun : Prop :=
  (∀ (s : State) (e : Nat) (d : Desc), e < 32 → s.starts (0x10 + e) 0x20 d = true →
    (s.openHead (0x10 + e) d).loadWaits d = false →
    exec (.copy e) s = .next
      ((((s.openHead (0x10 + e) d).dmaWork (0x10 + e) d false).1.dmaEnds (0x10 + e)
        ((s.openHead (0x10 + e) d).dmaWork (0x10 + e) d false).2).noteDma.settle)) ∧
  (∀ (s : State) (e : Nat) (d : Desc), e < 32 → s.starts (0x10 + e) 0x23 d = true →
    (s.openHead (0x10 + e) d).loadWaits d = false →
    exec (.fill e) s = .next
      ((((s.openHead (0x10 + e) d).dmaWork (0x10 + e) d false).1.dmaEnds (0x10 + e)
        ((s.openHead (0x10 + e) d).dmaWork (0x10 + e) d false).2).noteDma.settle)) ∧
  (∀ (s : State) (e : Nat) (d : Desc), e < 32 → s.starts (0x10 + e) 0x21 d = true →
    (s.openHead (0x10 + e) d).loadWaits d = false →
    exec (.tableLoad e) s = .next
      ((((s.openHead (0x10 + e) d).dmaWork (0x10 + e) d false).1.dmaEnds (0x10 + e)
        ((s.openHead (0x10 + e) d).dmaWork (0x10 + e) d false).2).noteDma.settle)) ∧
  (∀ (s : State) (e : Nat) (d : Desc), e < 32 → s.starts (0x10 + e) 0x22 d = true →
    (s.openHead (0x10 + e) d).loadWaits d = false →
    exec (.slotSet e) s = .next
      ((((s.openHead (0x10 + e) d).dmaWork (0x10 + e) d false).1.dmaEnds (0x10 + e)
        ((s.openHead (0x10 + e) d).dmaWork (0x10 + e) d false).2).noteDma.settle)) ∧
  (∀ (s : State) (e : Nat) (d : Desc), e < 32 → s.starts (0x10 + e) 0x21 d = true →
    (s.openHead (0x10 + e) d).loadWaits d = true →
    exec (.tableLoad e) s = .next ((((s.openHead (0x10 + e) d).setPhase (0x10 + e) .heldTable).countAt 0x30 ((s.openHead (0x10 + e) d).srcTensorInst d) 1).noteDma.settle))

/-- INTAKE_TAKE, TAKE_WAIT, DMA_DONE, ACT_REPLAY and REPLAY_RESTART move their DMA engine. Rests on
spec/04_backward_pass.md, spec/12_chembe_protocol.md, spec/03_strokes.md. -/
def Obligations.TakesAndDmaCompletions : Prop :=
  (∀ (s : State) (e : Nat) (d : Desc) (t : Tensor), e < 32 → s.ready (0x10 + e) = some d → d.kind = 0x24 → s.takeTensor d = some t →
    (s.openHead (0x10 + e) d).headElided (0x10 + e) = false →
    exec (.intakeTake e) s = .next
      (((s.openHead (0x10 + e) d).takeOn (0x10 + e) t d ⟨0, 0, 0, 0, 0, (s.openHead (0x10 + e) d).intakeNext, false⟩).noteTakeWait.noteDma.settle)) ∧
  (∀ (s : State) (e : Nat) (d : Desc) (t : Tensor) (k : Take), e < 32 → (s.eng (0x10 + e)).phase = .heldSample k →
    s.head (0x10 + e) = some d → s.takeTensor d = some t → s.mayRun = true →
    exec (.takeWait e) s = .next ((s.takeOn (0x10 + e) t d k).noteTakeWait.noteDma.settle)) ∧
  (∀ (s : State) (e : Nat) (r : Rec), e < 32 → s.replayPending (0x10 + e) = false → (s.eng (0x10 + e)).phase = .done r →
    exec (.dmaDone e) s = .next ((((s.finishEng (0x10 + e) r).logEnded (0x10 + e)).countAt 0x20 (s.dmaInst (0x10 + e)) 1).noteDma.settle)) ∧
  (∀ (s : State) (e : Nat), e < 32 → s.replayPending (0x10 + e) = true →
    exec (.dmaDone e) s = .next (((s.replayDone (0x10 + e)).countAt 0x20 (s.dmaInst (0x10 + e)) 1).noteDma.settle)) ∧
  (∀ (s : State) (e tid : Nat) (f : Folio), e < 32 → (s.eng (0x10 + e)).phase = .stopped tid → s.folio = some f →
    exec (.actReplay e) s = .next (s.queueFound tid f)) ∧
  (∀ (s : State) (e : Nat) (f : Folio) (r : Replay) (rest : List Replay) (d : Desc), e < 32 → s.folio = some f →
    s.job.replays = r :: rest → r.dma = 0x10 + e → segDone f r = true → s.mayRun = true → s.head (0x10 + e) = some d →
    ∃ u : State, u = ((s.mapJob fun j => { j with replays := rest }).unstop r.tid).setEng
        { s.eng (0x10 + e) with since := s.time, phase := .idle } ∧
      exec (.replayRestart e) s = .next
        (if u.loadWaits d then ((u.setPhase (0x10 + e) .heldTable).countAt 0x30 (u.srcTensorInst d) 1).noteDma.settle
         else ((u.dmaWork (0x10 + e) d false).1.dmaEnds (0x10 + e) (u.dmaWork (0x10 + e) d false).2).noteDma.settle))

/-- A ready QWRITE, QADD or QMCAST sends its message and waits for its receivers. Rests on spec/10_quill_fabric.md,
spec/05_folios_and_static_order.md. -/
def Obligations.QuillDescriptorsSend : Prop :=
  (∀ (s : State) (f : Folio) (list : Nat) (d : Desc) (t : Tensor), list < 8 → s.ready (0x30 + list) = some d → s.folio = some f →
    f.tensor d.qSrc = some t → d.kind = 0x30 → s.overlapsSent list d = false →
    exec (.qwrite list) s = .next ((s.openHead (0x30 + list) d).quillSent list d t)) ∧
  (∀ (s : State) (f : Folio) (list : Nat) (d : Desc) (t : Tensor), list < 8 → s.ready (0x30 + list) = some d → s.folio = some f →
    f.tensor d.qSrc = some t → d.kind = 0x31 → s.overlapsSent list d = false →
    exec (.qadd list) s = .next ((s.openHead (0x30 + list) d).quillSent list d t)) ∧
  (∀ (s : State) (f : Folio) (list : Nat) (d : Desc) (t : Tensor), list < 8 → s.ready (0x30 + list) = some d → s.folio = some f →
    f.tensor d.qSrc = some t → d.kind = 0x32 → s.overlapsSent list d = false →
    exec (.qmcast list) s = .next ((s.openHead (0x30 + list) d).quillSent list d t)) ∧
  (∀ (s : State) (f : Folio) (list : Nat) (d : Desc) (t : Tensor), list < 8 → s.ready (0x30 + list) = some d → s.folio = some f →
    f.tensor d.qSrc = some t → d.kind = 0x30 → s.overlapsSent list d = true → exec (.qwrite list) s = .next s)

/-- UPDATE and SPARSE_UPDATE pass the Nib gate and run their first pass, and the barrier runs the next. Rests on
spec/08_nib_update.md, spec/11_failure_survival.md. -/
def Obligations.NibDescriptorsRun : Prop :=
  (∀ (s : State) (c : Nat) (d : Desc) (j : NibJob), c < 16 → s.ready (0x40 + c) = some d → d.kind = 0x40 → s.nibGate.2 = true →
    (s.nibGate.1.openHead (0x40 + c) d).nibJob c = some j →
    exec (.update c) s = .next (
      (if j.k.frozen then (s.nibGate.1.openHead (0x40 + c) d).nibFrozen c
       else ((s.nibGate.1.openHead (0x40 + c) d).nibHead c j).runPass j 0 none .zero).settle)) ∧
  (∀ (s : State) (c : Nat) (d : Desc) (j : NibJob), c < 16 → s.ready (0x40 + c) = some d → d.kind = 0x41 → s.nibGate.2 = true →
    (s.nibGate.1.openHead (0x40 + c) d).nibJob c = some j →
    exec (.sparseUpdate c) s = .next (
      (if j.k.frozen then (s.nibGate.1.openHead (0x40 + c) d).nibFrozen c
       else ((s.nibGate.1.openHead (0x40 + c) d).nibHead c j).runPass j 0 none .zero).settle)) ∧
  (∀ (s : State) (c : Nat) (d : Desc), c < 16 → s.ready (0x40 + c) = some d → d.kind = 0x40 → s.nibGate.2 = false →
    exec (.update c) s = .next s.nibGate.1.settle) ∧
  (∀ (s : State) (p : Nat), s.barrierPass = some p → exec .nibBarrier s = .next (s.passBarrier p).settle) ∧
  (∀ s : State, s.barrierPass = none → exec .nibBarrier s = .next s) ∧
  (∀ s : State, s.run.confirmWait = true → s.confirmedFor s.step = true → exec .confirmHold s = .next s.nibGate.1) ∧
  (∀ (s : State) (t : Nat), s.run.holdSince = some t → s.run.stepOn = true → t + 1000 * s.get NIB0_STEP_CTRL_WAIT_US ≤ s.time →
    exec .stepSizeStale s = .next (s.latch s.stepSize true)) ∧
  (∀ (s : State) (t : Nat), s.run.holdSince = some t → s.time < t + 1000 * s.get NIB0_STEP_CTRL_WAIT_US →
    exec .stepSizeStale s = .next s)

/-- STEP_END completes a step or ends it void, STEP_TIMEOUT ends it void, and neither acts before its condition. Rests on
spec/05_folios_and_static_order.md, spec/11_failure_survival.md. -/
def Obligations.StepBoundary : Prop :=
  (∀ (s : State) (f : Folio), s.folio = some f → s.stepOver = true → (s.commitEnd f).run.fault = none →
    exec .stepEnd s = .next ((s.commitEnd f).boundary f).goOn) ∧
  (∀ (s : State) (f : Folio) (st unit addr : Nat), s.folio = some f → s.stepOver = true → (s.commitEnd f).run.fault = some (st, unit, addr) →
    exec .stepEnd s = .next ((s.commitEnd f).voidNow false st unit addr)) ∧
  (∀ s : State, s.stepOver = false → exec .stepEnd s = .next s) ∧
  (∀ (s : State) (f : Folio), s.folio = some f → s.run.stepOn = true → s.run.stepStart + f.stepLimitMs * 1000000 ≤ s.time →
    exec .stepTimeout s = .next ((s.count 0xE2).voidNow false 0x0205 0 0)) ∧
  (∀ (s : State) (f : Folio), s.folio = some f → s.time < s.run.stepStart + f.stepLimitMs * 1000000 →
    exec .stepTimeout s = .next s)

/-- A WAVE moves a Leaf by one wave, its level by at most one and never past 8, and a parked idle Leaf performs none. Rests
on spec/01_leaves_and_desks.md. -/
def Obligations.WavesMoveALeaf : Prop :=
  (∀ (s : State) (desk leaf : Nat) (slotFree active valid : Bool) (l l' : Leaf), desk < 2 → leaf < 4 → s.answers 0x80000 = true →
    s.on (DSK_CTRL_ENABLE desk) = true → s.power.gasp = none → s.leaf desk leaf = l → l.chainIn = false →
    0 < l.level ∨ l.target (l.slot slotFree) true = 8 →
    l.wave (l.target (l.slot slotFree) true) (l.slot slotFree) none = (l', active, valid) →
    exec (.wave desk leaf slotFree none) s = .next
      ((s.countWave { desk := some desk, leaf := some leaf } l l' active valid true).setLeaf desk leaf l'.park)) ∧
  (∀ (s : State) (desk leaf row col : Nat) (slotFree active valid : Bool) (l l' : Leaf), desk < 2 → leaf < 4 →
    s.answers 0x80000 = true → s.on (DSK_CTRL_ENABLE desk) = true → s.power.gasp = none → s.leaf desk leaf = l → l.chainIn = false →
    0 < l.level ∨ l.target (l.slot slotFree) true = 8 →
    l.wave (l.target (l.slot slotFree) true) (l.slot slotFree) none = (l', active, valid) →
    ((l.slot slotFree || l.elastic) && (l.flying || valid)
      && ((s.countWave { desk := some desk, leaf := some leaf } l l' active valid true).setLeaf desk leaf l'.park).plankMoves desk leaf
        row col l.plankCols) = true →
    exec (.wave desk leaf slotFree (some (row, col))) s = .next
      (((s.countWave { desk := some desk, leaf := some leaf } l l' active valid true).setLeaf desk leaf l'.park).noteArrayFault desk
        leaf row col)) ∧
  (∀ (s : State) (desk leaf : Nat) (slotFree active valid : Bool) (l l' up : Leaf) (x : List (List Nat)) (rest : List (List (List Nat))),
    desk < 2 → leaf < 4 → s.answers 0x80000 = true → s.on (DSK_CTRL_ENABLE desk) = true → s.power.gasp = none → s.leaf desk leaf = l → l.chainIn = true →
    s.leaf desk ((leaf + 3) % 4) = up → up.link = x :: rest → 0 < l.level ∨ l.target (l.slot slotFree) true = 8 →
    l.wave (l.target (l.slot slotFree) true) (l.slot slotFree) (some x) = (l', active, valid) →
    exec (.wave desk leaf slotFree none) s = .next
      (if l.entered l' then
        (((s.countWave { desk := some desk, leaf := some leaf } l l' active valid true).setLeaf desk leaf l'.park).setLeaf desk
          ((leaf + 3) % 4) { up with link := rest })
      else (s.countWave { desk := some desk, leaf := some leaf } l l' active valid true).setLeaf desk leaf l'.park)) ∧
  (∀ (s : State) (desk leaf : Nat) (slotFree : Bool) (parity : Option (Nat × Nat)), desk < 2 → leaf < 4 →
    s.on (DSK_CTRL_ENABLE desk) = true → (s.leaf desk leaf).level = 0 →
    (∀ b, (s.leaf desk leaf).target ((s.leaf desk leaf).slot slotFree) b = 0) →
    exec (.wave desk leaf slotFree parity) s = .next s) ∧
  (∀ (l : Leaf) (slotFree here : Bool) (chain : Option (List (List Nat))), l.level ≤ 8 →
    (l.wave (l.target slotFree here) slotFree chain).1.level ≤ 8 ∧
    (l.wave (l.target slotFree here) slotFree chain).1.level ≤ l.level + 1 ∧
    l.level ≤ (l.wave (l.target slotFree here) slotFree chain).1.level + 1 ∧
    (l.stepCount ≠ 0 → (l.wave (l.target slotFree here) slotFree chain).1.level = l.level)) ∧
  (∀ (l : Leaf) (t : Nat), l.level ≤ 8 → l.acc < 8 → (l.nextWave t).1.level ≤ 8 →
    (l.nextWave t).1.acc < 8 ∧ ((l.nextWave t).2 = true ↔ 8 ≤ l.acc + (l.nextWave t).1.level) ∧
    (l.nextWave t).1.stepCount = (l.stepCount + 1) % 6) ∧
  (∀ (l : Leaf) (t : Nat) (chain : Option (List (List Nat))), l.elastic = false →
    (l.wave t false chain).1.lanes = l.lanes ∧ (l.wave t false chain).1.front = l.front ∧ (l.wave t false chain).1.back = l.back ∧
    (l.wave t false chain).1.link = l.link ∧ (l.wave t false chain).2.2 = false)

/-- WEIGHT_ROW_LOAD and BROADCAST_ROW bring rows to the back planes and Feeds, and wait where there is no room. Rests on
spec/01_leaves_and_desks.md. -/
def Obligations.RowsReachTheLeaves : Prop :=
  (∀ (s : State) (desk leaf : Nat) (codes : List Nat), desk < 2 → leaf < 4 → s.on (DSK_CTRL_ENABLE desk) = true →
    (s.leaf desk leaf).backFull = false →
    ∃ t, exec (.weightRowLoad desk leaf codes) s = .next t ∧ t.mem = s.mem ∧ t.job = s.job ∧
      (desk * 4 + leaf < s.leaves.length → t.leaf desk leaf =
        { s.leaf desk leaf with back := (s.leaf desk leaf).back ++ [codes],
                                backFull := decide (512 ≤ (s.leaf desk leaf).back.length + 1) })) ∧
  (∀ (s : State) (desk leaf : Nat) (codes : List Nat), (s.leaf desk leaf).backFull = true →
    exec (.weightRowLoad desk leaf codes) s = .next s) ∧
  (∀ (s : State) (desk : Nat) (lanes : List FeedRow), desk < 2 → s.on (DSK_CTRL_ENABLE desk) = true →
    (∃ q, q < min 4 lanes.length ∧ (s.leaf desk ((q + s.get (DSK_ROT_STATUS_OFFSET desk)) % 4)).feedFull = true) →
    ∃ t, exec (.broadcastRow desk lanes) s = .next t ∧ t.mem = s.mem ∧ ∀ k < 4, (t.leaf desk k).lanes = (s.leaf desk k).lanes) ∧
  (∀ (s : State) (desk : Nat) (r : FeedRow), desk < 2 → s.on (DSK_CTRL_ENABLE desk) = true → s.leaves.length = 8 →
    (s.leaf desk (s.get (DSK_ROT_STATUS_OFFSET desk) % 4)).feedFull = false →
    ∃ t, exec (.broadcastRow desk [r]) s = .next t ∧ t.mem = s.mem ∧
      t.leaf desk (s.get (DSK_ROT_STATUS_OFFSET desk) % 4) = (s.leaf desk (s.get (DSK_ROT_STATUS_OFFSET desk) % 4)).accept r ∧
      ∀ k < 8, k ≠ desk * 4 + s.get (DSK_ROT_STATUS_OFFSET desk) % 4 → t.leaves.getD k .parked = s.leaves.getD k .parked) ∧
  (∀ (l : Leaf) (r : FeedRow) (p : Nat) (n : Lane), l.lanes[p]? = some n →
    (l.accept r).lanes[p]? = some (if p < l.problems ∧ (r.marker ∨ ((r.lanes[p]?).getD none).isSome) then
      { n with feed := n.feed ++ [⟨r.marker, (r.lanes[p]?).getD none⟩] } else n)) ∧
  (∀ (s : State) (desk : Nat) (lanes : List FeedRow), desk < 2 → s.on (DSK_CTRL_ENABLE desk) = true →
    ∃ t, exec (.broadcastRow desk lanes) s = .next t ∧ t.mem = s.mem ∧ t.job = s.job ∧ t.run = s.run ∧ t.out = s.out)

/-- After a tie TURN names the loser, which wins the next contention; a rate window shows a Leaf’s rate and heat. Rests on
spec/05_folios_and_static_order.md, spec/01_leaves_and_desks.md, spec/15_power_pins_startup.md. -/
def Obligations.TiesAndRates : Prop :=
  (∀ (s : State) (e : Nat), s.turn e = 0 → spWf (fun _ => 0) s.turns = true →
    ∃ t, exec (.tie e) s = .next t ∧ (t.turn e = 1 ∨ t.turn e = 2) ∧ (∀ k, k ≠ e → t.turn k = s.turn k) ∧ t.free = s.free + 1 ∧
      t.mem = s.mem ∧ t.job = s.job ∧ t.out = s.out ∧
      ∃ u, exec (.tie e) t = .next u ∧ u.turn e = 0 ∧ (∀ k, k ≠ e → u.turn k = s.turn k) ∧ u.free = t.free ∧ u.regs = t.regs ∧ u.mem = s.mem) ∧
  (∀ (s : State) (e : Nat), s.turn e = 0 → spWf (fun _ => 0) s.turns = true →
    ∃ t, exec (.tieForced e) s = .next t ∧ t.turn e = 2 ∧ (∀ k, k ≠ e → t.turn k = s.turn k) ∧ t.free = s.free ∧
      t.mem = s.mem ∧ t.job = s.job ∧ t.out = s.out) ∧
  (∀ (s : State) (e : Nat), s.turn e ≠ 0 → exec (.tie e) s = .next (s.setTurn e 0) ∧ exec (.tieForced e) s = .next (s.setTurn e 0)) ∧
  (∀ (s : State) (desk leaf rate tj : Nat), s.RegsCanonical → desk < 2 → leaf < 4 → s.answers 0x80000 = true →
    ∃ t, exec (.leafRateWindow desk leaf rate tj) s = .next t ∧ t.get (DSK_LEAF_RATE_RATE desk leaf) = rate % 65536 ∧
      t.get (DSK_LEAF_RATE_TJ desk leaf) = tj % 65536 ∧
      toSigned 16 (tj % 65536) ≤ toSigned 16 (t.get PWR_TEMP_TJ_MAX) ∧ t.mem = s.mem ∧ t.leaves = s.leaves)

/-- The word operations of Table 7.1 return the old word and store the new one, and store nothing on a marked line. Rests on
spec/07_sideboard_and_ordering.md. -/
def Obligations.WordOperationsOnAHeldLine : Prop :=
  ((∀ (s : State) (addr x : Nat) (l : SLine), addr < decodedEnd → s.power.mainOk = true → s.on SBD_CTRL_ENABLE = true →
    s.openAt (lineOf (addr / 8 * 8)) = none → s.lineErr (lineOf (addr / 8 * 8)) = 0 →
    s.held (lineOf (addr / 8 * 8)) = some l → l.outcome = .good →
    exec (.fetchAdd addr x) s = .next
      ((((s.countAt 0x60 (cabInst (cabOf (lineOf (addr / 8 * 8)))) 1).countAt 0x6F (cabInst (cabOf (lineOf (addr / 8 * 8)))) 1).holdWrite
          ⟨lineOf (addr / 8 * 8), patch l.data (addr / 8 * 8 - lineOf (addr / 8 * 8))
            (le 8 (((fld l.data (addr / 8 * 8 - lineOf (addr / 8 * 8)) 8) + x % 2 ^ 64) % 2 ^ 64)), .good, true⟩ false).sliceAnswer (addr / 8 * 8) .good
          (le 8 (fld l.data (addr / 8 * 8 - lineOf (addr / 8 * 8)) 8)))) ∧
  (∀ (s : State) (addr x : Nat) (l : SLine), addr < decodedEnd → s.power.mainOk = true → s.on SBD_CTRL_ENABLE = true →
    s.openAt (lineOf (addr / 8 * 8)) = none → s.lineErr (lineOf (addr / 8 * 8)) = 0 →
    s.held (lineOf (addr / 8 * 8)) = some l → l.outcome = .good →
    exec (.swap addr x) s = .next
      ((((s.countAt 0x60 (cabInst (cabOf (lineOf (addr / 8 * 8)))) 1).countAt 0x6F (cabInst (cabOf (lineOf (addr / 8 * 8)))) 1).holdWrite
          ⟨lineOf (addr / 8 * 8), patch l.data (addr / 8 * 8 - lineOf (addr / 8 * 8))
            (le 8 (x % 2 ^ 64)), .good, true⟩ false).sliceAnswer (addr / 8 * 8) .good
          (le 8 (fld l.data (addr / 8 * 8 - lineOf (addr / 8 * 8)) 8)))) ∧
  (∀ (s : State) (addr x y : Nat) (l : SLine), addr < decodedEnd → s.power.mainOk = true → s.on SBD_CTRL_ENABLE = true →
    s.openAt (lineOf (addr / 8 * 8)) = none → s.lineErr (lineOf (addr / 8 * 8)) = 0 →
    s.held (lineOf (addr / 8 * 8)) = some l → l.outcome = .good →
    exec (.cmpSwap addr x y) s = .next
      ((((s.countAt 0x60 (cabInst (cabOf (lineOf (addr / 8 * 8)))) 1).countAt 0x6F (cabInst (cabOf (lineOf (addr / 8 * 8)))) 1).holdWrite
          ⟨lineOf (addr / 8 * 8), patch l.data (addr / 8 * 8 - lineOf (addr / 8 * 8))
            (le 8 (if fld l.data (addr / 8 * 8 - lineOf (addr / 8 * 8)) 8 = y then x % 2 ^ 64 else fld l.data (addr / 8 * 8 - lineOf (addr / 8 * 8)) 8)), .good, true⟩ false).sliceAnswer (addr / 8 * 8) .good
          (le 8 (fld l.data (addr / 8 * 8 - lineOf (addr / 8 * 8)) 8)))) ∧
  (∀ (s : State) (addr x : Nat) (l : SLine), addr < decodedEnd → s.power.mainOk = true → s.on SBD_CTRL_ENABLE = true →
    s.openAt (lineOf (addr / 8 * 8)) = none → s.lineErr (lineOf (addr / 8 * 8)) = 0 →
    s.held (lineOf (addr / 8 * 8)) = some l → l.outcome = .good →
    exec (.maxU addr x) s = .next
      ((((s.countAt 0x60 (cabInst (cabOf (lineOf (addr / 8 * 8)))) 1).countAt 0x6F (cabInst (cabOf (lineOf (addr / 8 * 8)))) 1).holdWrite
          ⟨lineOf (addr / 8 * 8), patch l.data (addr / 8 * 8 - lineOf (addr / 8 * 8))
            (le 8 (max (fld l.data (addr / 8 * 8 - lineOf (addr / 8 * 8)) 8) (x % 2 ^ 64))), .good, true⟩ false).sliceAnswer (addr / 8 * 8) .good
          (le 8 (fld l.data (addr / 8 * 8 - lineOf (addr / 8 * 8)) 8)))) ∧
  (∀ (s : State) (addr x : Nat) (l : SLine), addr < decodedEnd → s.power.mainOk = true → s.on SBD_CTRL_ENABLE = true →
    s.openAt (lineOf (addr / 8 * 8)) = none → s.lineErr (lineOf (addr / 8 * 8)) = 0 →
    s.held (lineOf (addr / 8 * 8)) = some l → l.outcome = .good →
    exec (.minU addr x) s = .next
      ((((s.countAt 0x60 (cabInst (cabOf (lineOf (addr / 8 * 8)))) 1).countAt 0x6F (cabInst (cabOf (lineOf (addr / 8 * 8)))) 1).holdWrite
          ⟨lineOf (addr / 8 * 8), patch l.data (addr / 8 * 8 - lineOf (addr / 8 * 8))
            (le 8 (min (fld l.data (addr / 8 * 8 - lineOf (addr / 8 * 8)) 8) (x % 2 ^ 64))), .good, true⟩ false).sliceAnswer (addr / 8 * 8) .good
          (le 8 (fld l.data (addr / 8 * 8 - lineOf (addr / 8 * 8)) 8))))) ∧
  ((∀ (s : State) (addr x : Nat) (l : SLine), addr < decodedEnd → s.power.mainOk = true → s.on SBD_CTRL_ENABLE = true →
    s.openAt (lineOf (addr / 8 * 8)) = none → s.lineErr (lineOf (addr / 8 * 8)) = 0 →
    s.held (lineOf (addr / 8 * 8)) = some l → l.outcome = .poison →
    ∃ t, exec (.fetchAdd addr x) s = .next t ∧ t.held (lineOf (addr / 8 * 8)) = some l ∧
      t.sbd.answer = some (addr / 8 * 8, .poison, le 8 0) ∧ t.sbd.lines = s.sbd.lines ∧ t.mem = s.mem) ∧
  (∀ (s : State) (addr x : Nat) (l : SLine), addr < decodedEnd → s.power.mainOk = true → s.on SBD_CTRL_ENABLE = true →
    s.openAt (lineOf (addr / 8 * 8)) = none → s.lineErr (lineOf (addr / 8 * 8)) = 0 →
    s.held (lineOf (addr / 8 * 8)) = some l → l.outcome = .poison →
    ∃ t, exec (.swap addr x) s = .next t ∧ t.held (lineOf (addr / 8 * 8)) = some l ∧
      t.sbd.answer = some (addr / 8 * 8, .poison, le 8 0) ∧ t.sbd.lines = s.sbd.lines ∧ t.mem = s.mem) ∧
  (∀ (s : State) (addr x y : Nat) (l : SLine), addr < decodedEnd → s.power.mainOk = true → s.on SBD_CTRL_ENABLE = true →
    s.openAt (lineOf (addr / 8 * 8)) = none → s.lineErr (lineOf (addr / 8 * 8)) = 0 →
    s.held (lineOf (addr / 8 * 8)) = some l → l.outcome = .poison →
    ∃ t, exec (.cmpSwap addr x y) s = .next t ∧ t.held (lineOf (addr / 8 * 8)) = some l ∧
      t.sbd.answer = some (addr / 8 * 8, .poison, le 8 0) ∧ t.sbd.lines = s.sbd.lines ∧ t.mem = s.mem) ∧
  (∀ (s : State) (addr x : Nat) (l : SLine), addr < decodedEnd → s.power.mainOk = true → s.on SBD_CTRL_ENABLE = true →
    s.openAt (lineOf (addr / 8 * 8)) = none → s.lineErr (lineOf (addr / 8 * 8)) = 0 →
    s.held (lineOf (addr / 8 * 8)) = some l → l.outcome = .poison →
    ∃ t, exec (.maxU addr x) s = .next t ∧ t.held (lineOf (addr / 8 * 8)) = some l ∧
      t.sbd.answer = some (addr / 8 * 8, .poison, le 8 0) ∧ t.sbd.lines = s.sbd.lines ∧ t.mem = s.mem) ∧
  (∀ (s : State) (addr x : Nat) (l : SLine), addr < decodedEnd → s.power.mainOk = true → s.on SBD_CTRL_ENABLE = true →
    s.openAt (lineOf (addr / 8 * 8)) = none → s.lineErr (lineOf (addr / 8 * 8)) = 0 →
    s.held (lineOf (addr / 8 * 8)) = some l → l.outcome = .poison →
    ∃ t, exec (.minU addr x) s = .next t ∧ t.held (lineOf (addr / 8 * 8)) = some l ∧
      t.sbd.answer = some (addr / 8 * 8, .poison, le 8 0) ∧ t.sbd.lines = s.sbd.lines ∧ t.mem = s.mem) ∧
  (∀ (s : State) (addr mask : Nat) (data : List Byte) (l : SLine), addr < decodedEnd → s.power.mainOk = true → s.on SBD_CTRL_ENABLE = true →
    s.openAt (lineOf addr) = none → s.lineErr (lineOf addr) = 0 → s.held (lineOf addr) = some l →
    l.outcome = .poison ∨ l.outcome = .lost →
    ∃ t, exec (.mergeWrite addr ⟨mask, data⟩) s = .next t ∧ t.held (lineOf addr) = some l ∧ t.sbd.lines = s.sbd.lines ∧ t.mem = s.mem))

/-- LINE_READ, LINE_WRITE, MERGE_WRITE, EXACT_ADD, RES_WAIT and SBD_WRITEBACK act on their line by Table 7.1. Rests on
spec/07_sideboard_and_ordering.md. -/
def Obligations.LineOperationsAct : Prop :=
  (∀ (s : State) (r : Reader) (addr : Nat) (l : SLine), addr < decodedEnd → s.power.mainOk = true → s.on SBD_CTRL_ENABLE = true →
    s.openAt (lineOf addr) = none → s.lineErr (lineOf addr) = 0 → s.held (lineOf addr) = some l → l.outcome = .good →
    exec (.lineRead r addr) s = .next ((s.countAt 0x60 (cabInst (cabOf (lineOf addr))) 1).sliceAnswer (lineOf addr) .good l.data)) ∧
  (∀ (s : State) (addr : Nat) (data : List Byte), addr < decodedEnd → s.power.mainOk = true → s.on SBD_CTRL_ENABLE = true →
    ∃ t, exec (.lineWrite addr data false) s = .next t ∧ t.held (lineOf addr) = some ⟨lineOf addr, fit 128 data, .good, true⟩) ∧
  (∀ (s : State) (addr : Nat) (data : List Byte), addr < decodedEnd → s.power.mainOk = true → s.on SBD_CTRL_ENABLE = true →
    ∃ t, exec (.lineWrite addr data true) s = .next t ∧ t.held (lineOf addr) = some ⟨lineOf addr, zeroLine, .poison, true⟩) ∧
  (∀ (s : State) (addr mask : Nat) (data : List Byte) (l : SLine), addr < decodedEnd → s.power.mainOk = true → s.on SBD_CTRL_ENABLE = true →
    s.openAt (lineOf addr) = none → s.lineErr (lineOf addr) = 0 → s.held (lineOf addr) = some l → l.outcome = .good →
    ∃ t, exec (.mergeWrite addr ⟨mask, data⟩) s = .next t ∧
      t.held (lineOf addr) = some ⟨lineOf addr, maskBytes l.data (mask % 2 ^ 128) data, .good, true⟩ ∧ t.mem = s.mem) ∧
  (∀ (s : State) (addr fmt code : Nat) (p : Bool) (o : OpenLine), addr < decodedEnd → s.power.mainOk = true →
    s.on SBD_CTRL_ENABLE = true → fmt = 1 ∨ fmt = 3 → s.openAt (lineOf addr) = some o → o.fmt = fmt →
    exec (.exactAdd addr fmt code p) s = .next
      ((s.putOpen { o with accs := modifyAt o.accs (addr % 128 / fmtBytes fmt) fun x => addAcc x fmt code p, nibs := false }).countAt 0x66
        (cabInst (cabOf (lineOf addr))) 1)) ∧
  (∀ (s : State) (addr fmt code : Nat) (p : Bool), s.RegsCanonical → addr < decodedEnd → s.power.mainOk = true →
    s.on SBD_CTRL_ENABLE = true → fmt = 1 ∨ fmt = 3 → s.openAt (lineOf addr) = none → s.roomFor (lineOf addr) fmt = false →
    ∃ t, exec (.exactAdd addr fmt code p) s = .next t ∧ t.sbd.waiting = s.sbd.waiting ++ [⟨addr, fmt, code, p, .command⟩] ∧
      t.sbd.openLines = s.sbd.openLines ∧ t.sbd.lines = s.sbd.lines ∧ t.mem = s.mem ∧ t.on SBD_STATUS_RES_WAIT = true) ∧
  (∀ (s : State) (c : Nat) (w : WaitAdd), s.power.mainOk = true → s.on SBD_CTRL_ENABLE = true →
    (s.sbd.waiting.find? fun w => cabOf w.addr == c) = some w → (s.openAt (lineOf w.addr)).isSome ∨ s.roomFor w.addr w.fmt = true →
    (∀ p peer vc n k, w.src ≠ .frame p peer vc n k) →
    exec (.resWait c) s = .next
      (({ s with sbd := { s.sbd with waiting := s.sbd.waiting.erase w } } : State).exactAdd w.addr w.fmt w.code w.poison w.src)) ∧
  (∀ (s t : State) (c p peer n k : Nat) (vc : Bool) (w : WaitAdd), s.power.mainOk = true → s.on SBD_CTRL_ENABLE = true →
    (s.sbd.waiting.find? fun w => cabOf w.addr == c) = some w → (s.openAt (lineOf w.addr)).isSome ∨ s.roomFor w.addr w.fmt = true →
    w.src = .frame p peer vc n k →
    t = ({ s with sbd := { s.sbd with waiting := s.sbd.waiting.erase w } } : State).exactAdd w.addr w.fmt w.code w.poison w.src →
    exec (.resWait c) s = .next (if t.addsWait w.src then t else t.freeSlots p peer vc k)) ∧
  (∀ (s : State) (addr : Nat) (l : SLine), addr < decodedEnd → s.power.mainOk = true → s.on SBD_CTRL_ENABLE = true →
    s.lineErr (lineOf addr) = 0 → s.held (lineOf addr) = some l → l.dirty = true →
    exec (.sbdWriteback addr) s = .next
      (((s.cabWrite (lineOf addr) l.data l.delta).putHeld { l with dirty := false }).countAt 0x62 (cabInst (cabOf (lineOf addr))) 1)) ∧
  (∀ (s : State) (addr : Nat) (l : SLine), addr < decodedEnd → s.lineErr (lineOf addr) = 0 → s.held (lineOf addr) = some l →
    l.dirty = false → exec (.sbdWriteback addr) s = .next s)

/-- BG_URGENT, BG_OVERDUE and GRANT_SLOT act on an enabled Cabinet, REFRESH and REFRESH_RATE_READ on any powered stack.
Rests on spec/06_stacked_memory.md. -/
def Obligations.BackgroundAndRefresh : Prop :=
  (∀ (s r : State) (c k : Nat), c < 16 → s.power.mainOk = true → s.on (CAB_CTRL_ENABLE c) = true → k < 4 → s.settleClasses c = r → bit (r.cab c).urgent k = false → r.aged c k (r.patience c k * 3 / 4) = true →
    exec (.bgUrgent c k) s = .next (((r.noteAge c k (r.patience c k * 3 / 4)).setCab c fun x =>
      { x with urgent := x.urgent ||| 2 ^ k }).countAt 0x58 (cabInst c) 1)) ∧
  (∀ (s r : State) (c k : Nat), c < 16 → s.power.mainOk = true → s.on (CAB_CTRL_ENABLE c) = true → k < 4 → s.settleClasses c = r → bit (r.cab c).overdue k = false → r.aged c k (r.patience c k) = true →
    exec (.bgOverdue c k) s = .next (((r.noteAge c k (r.patience c k)).setCab c fun x =>
      { x with overdue := x.overdue ||| 2 ^ k }).countAt 0x59 (cabInst c) 1)) ∧
  (∀ (s r : State) (c : Nat) (demand : Bool), c < 16 → s.power.mainOk = true → s.on (CAB_CTRL_ENABLE c) = true → (s.noteWaiting c).settleClasses c = r → (r.cab c).refreshDue = true →
    exec (.grantSlot c demand) s = .next
      ((r.setCab c fun x => { x with refreshDue := false }).grantOther c)) ∧
  (∀ (s r t : State) (c i : Nat) (demand : Bool), c < 16 → s.power.mainOk = true → s.on (CAB_CTRL_ENABLE c) = true → (s.noteWaiting c).settleClasses c = r → (r.cab c).refreshDue = false →
    r.eldest c (fun j => bit (r.cab c).overdue j) true = (t, some i) →
    exec (.grantSlot c demand) s = .next (t.grantClass c i false)) ∧
  (∀ (s r t : State) (c i : Nat) (demand : Bool), c < 16 → s.power.mainOk = true → s.on (CAB_CTRL_ENABLE c) = true → (s.noteWaiting c).settleClasses c = r → (r.cab c).refreshDue = false →
    r.eldest c (fun j => bit (r.cab c).overdue j) true = (t, none) →
    (List.range 4).find? (fun j => bit (r.cab c).urgent j) = some i →
    (r.cab c).grants.contains true = false →
    exec (.grantSlot c demand) s = .next (t.grantClass c i true)) ∧
  (∀ (s r t : State) (c : Nat), c < 16 → s.power.mainOk = true → s.on (CAB_CTRL_ENABLE c) = true → (s.noteWaiting c).settleClasses c = r → (r.cab c).refreshDue = false →
    r.eldest c (fun j => bit (r.cab c).overdue j) true = (t, none) →
    ((List.range 4).find? (fun j => bit (r.cab c).urgent j) = none ∨
      (r.cab c).grants.contains true = true) →
    exec (.grantSlot c true) s = .next (t.grantOther c)) ∧
  (∀ (s r t u : State) (c i : Nat), c < 16 → s.power.mainOk = true → s.on (CAB_CTRL_ENABLE c) = true → (s.noteWaiting c).settleClasses c = r → (r.cab c).refreshDue = false →
    r.eldest c (fun j => bit (r.cab c).overdue j) true = (t, none) →
    ((List.range 4).find? (fun j => bit (r.cab c).urgent j) = none ∨
      (r.cab c).grants.contains true = true) →
    t.eldest c (fun _ => true) false = (u, some i) →
    exec (.grantSlot c false) s = .next (u.grantClass c i false)) ∧
  (∀ (s : State) (c die : Nat), c < 16 → s.power.mainOk = true → s.selfRefreshing c = false → (s.cab c).refreshDue = false →
    exec (.refresh c die) s = .next
      (((s.countAt 0x5E (cabInst c) 1).setCab c fun x => { x with refreshDue := true }).countAt 0x54 (cabInst c) 1)) ∧
  (∀ (s : State) (c die : Nat), c < 16 → s.power.mainOk = true → s.selfRefreshing c = false → (s.cab c).refreshDue = true →
    exec (.refresh c die) s = .next ((s.setCab c fun x => { x with refreshDue := true }).countAt 0x54 (cabInst c) 1)) ∧
  (∀ (s : State) (c die : Nat), s.selfRefreshing c = true → exec (.refresh c die) s = .next s) ∧
  (∀ (s : State) (c rate temp : Nat), c < 16 → s.power.mainOk = true → rate % 16 ≤ s.get (CAB_TEMP_REFRESH_RATE c) →
    exec (.refreshRateRead c rate temp) s = .next ((s.put (CAB_TEMP_REFRESH_RATE c) (rate % 16)).noteCabTemp c temp)) ∧
  (∀ (s : State) (c rate temp : Nat), c < 16 → s.power.mainOk = true → s.get (CAB_TEMP_REFRESH_RATE c) < rate % 16 →
    exec (.refreshRateRead c rate temp) s = .next
      (((s.countAt 0x55 (cabInst c) 1).put (CAB_TEMP_REFRESH_RATE c) (rate % 16)).noteCabTemp c temp))

/-- SCRUB_PASS, SCRUB_LINE, SCRUB_LATE and EYE_SAMPLE act on an enabled Cabinet and wait for their time. Rests on
spec/06_stacked_memory.md. -/
def Obligations.ScrubAndEye : Prop :=
  (∀ (s : State) (c : Nat), c < 16 → s.power.mainOk = true → s.on (CAB_CTRL_ENABLE c) = true → s.on (CAB_CTRL_SCRUB_EN c) = true → (s.cab c).passOn = false →
    (s.cab c).passStart + s.scrubPeriod c ≤ s.time →
    exec (.scrubPass c []) s = .next ((((s.setCab c fun x =>
      { x with passOn := true, passStart := s.time, passChan := 0, passLate := false }).noteAge c 0 0).put
        (CAB_SCRUB_STATUS_PASS_POS c) 0).countAt 0x49 (cabInst c) 1)) ∧
  (∀ (s : State) (c : Nat) (bad : List Nat), s.time < (s.cab c).passStart + s.scrubPeriod c →
    exec (.scrubPass c bad) s = .next s) ∧
  (∀ (s : State) (c : Nat), c < 16 → s.power.mainOk = true → s.on (CAB_CTRL_ENABLE c) = true → s.on (CAB_CTRL_SCRUB_EN c) = true → (s.cab c).passOn = true → (s.cab c).passChan < 63 →
    exec (.scrubLine c) s = .next
      (((s.scrubAt (lineAt c (s.cab c).passChan (s.get (CAB_SCRUB_STATUS_PASS_POS c)))).countAt 0x47 (cabInst c) 1).setCab c
        fun x => { x with passChan := (s.cab c).passChan + 1 })) ∧
  (∀ (s : State) (c : Nat), (s.cab c).passOn = false → exec (.scrubLine c) s = .next s) ∧
  (∀ (s : State) (c : Nat), c < 16 → s.power.mainOk = true → s.on (CAB_CTRL_ENABLE c) = true → (s.cab c).passOn = true → (s.cab c).passLate = false →
    (s.cab c).passStart + 86400000000000 ≤ s.time →
    exec (.scrubLate c) s = .next (((s.setCab c fun x => { x with passLate := true }).put (CAB_STATUS_SCRUB_LATE c) 1).countAt 0x48
      (cabInst c) 1)) ∧
  (∀ (s : State) (c : Nat), (s.cab c).passLate = true → exec (.scrubLate c) s = .next s) ∧
  (∀ (s : State) (c : Nat), s.time < (s.cab c).passStart + 86400000000000 → exec (.scrubLate c) s = .next s) ∧
  (∀ (s t : State) (c p m : Nat), c < 16 → s.power.mainOk = true → s.on (CAB_CTRL_ENABLE c) = true → (s.cab c).eyeAt + s.samplePeriod c ≤ s.time → s.eyed c p = true →
    t = s.setCab c (fun x => { x with eyeAt := s.time }) →
    exec (.eyeSample c [(p, m)]) s = .next
      ((((((t.put (CAB_EYE_CTRL_WORST_MARGIN c) (min m 255)).put (CAB_EYE_CTRL_WORST_DRAWER c) p).countAt 0x4A (cabInst c) 1).setCab c
        fun x => { x with low := x.low.filter fun q => [(p, min m 255)].any fun r => r.1 == q.1 }).moveEye c p).noteMargin c
          (p, min m 255))) ∧
  (∀ (s : State) (c : Nat) (ms : List (Nat × Nat)), s.time < (s.cab c).eyeAt + s.samplePeriod c →
    exec (.eyeSample c ms) s = .next s)

/-- PREPARE, MIGRATE, RETRAINING, PAUSE_SLICE, HARD_FAIL and REBUILD move a Drawer through Tables 6.4 to 6.6. Rests on
spec/06_stacked_memory.md. -/
def Obligations.EvacuationMoves : Prop :=
  (∀ (s : State) (c : Nat), c < 16 → s.power.mainOk = true → s.on (CAB_CTRL_ENABLE c) = true → s.get (CAB_EVAC_STATUS_PHASE c) = 1 →
    exec (.prepare c true) s = .next
      (((((s.setDstate c (s.get (CAB_EVAC_STATUS_DST c)) 4).setDstate c
          (s.get (CAB_EVAC_STATUS_SRC c)) 3).put (CAB_EVAC_STATUS_PHASE c) 2).put
            (CAB_EVAC_WMARK_WMARK c) 0).countAt 0x4F (cabInst c) 1) ∧
    exec (.prepare c false) s = .next (((s.endEvac c).spareFails c (s.get (CAB_EVAC_STATUS_DST c))).startEvac c
      (s.get (CAB_EVAC_STATUS_LCHAN c)))) ∧
  (∀ (s : State) (c : Nat) (b : Bool), s.get (CAB_EVAC_STATUS_PHASE c) ≠ 1 → exec (.prepare c b) s = .next s) ∧
  (∀ (s : State) (c : Nat), c < 16 → s.power.mainOk = true → s.on (CAB_CTRL_ENABLE c) = true → s.get (CAB_EVAC_STATUS_PHASE c) = 2 →
    exec (.migrate c true) s = .next (s.abortTarget c) ∧
    (s.get (CAB_EVAC_WMARK_WMARK c) + 1 < groupCount → exec (.migrate c false) s = .next
      ((s.migrateLine (lineAt c (s.get (CAB_EVAC_STATUS_LCHAN c)) (s.get (CAB_EVAC_WMARK_WMARK c)))).put (CAB_EVAC_WMARK_WMARK c)
        (s.get (CAB_EVAC_WMARK_WMARK c) + 1))) ∧
    (groupCount ≤ s.get (CAB_EVAC_WMARK_WMARK c) + 1 → exec (.migrate c false) s = .next
      (((s.migrateLine (lineAt c (s.get (CAB_EVAC_STATUS_LCHAN c)) (s.get (CAB_EVAC_WMARK_WMARK c)))).put (CAB_EVAC_WMARK_WMARK c)
        (s.get (CAB_EVAC_WMARK_WMARK c) + 1)).switchDrawer c))) ∧
  (∀ (s : State) (c : Nat) (b : Bool), s.get (CAB_EVAC_STATUS_PHASE c) ≠ 2 → exec (.migrate c b) s = .next s) ∧
  (∀ (s : State) (c p : Nat), c < 16 → s.power.mainOk = true → s.on (CAB_CTRL_ENABLE c) = true → p < 68 → s.dstate c p = 5 →
    exec (.retraining c p true) s = .next (s.setDstate c p 1) ∧ exec (.retraining c p false) s = .next (s.loseDrawer c p)) ∧
  (∀ (s : State) (c l n t m : Nat), c < 16 → s.power.mainOk = true → s.on (CAB_CTRL_ENABLE c) = true → (s.cab c).pause = some (l, n, t) → (s.cab c).refreshDue = false →
    n = 0 ∨ t + 100000 ≤ s.time →
    (n + 1 < 2048 → exec (.pauseSlice c false m) s = .next
      ((s.setCab c fun x => { x with pause := some (l, n + 1, s.time) }).countAt 0x50 (cabInst c) 1)) ∧
    exec (.pauseSlice c true m) s = .next
      (((s.setCab c fun x => { x with pause := some (l, n + 1, s.time) }).countAt 0x50 (cabInst c) 1).endPauseRetrain c l m)) ∧
  (∀ (s : State) (c p l : Nat), c < 16 → s.power.mainOk = true → s.on (CAB_CTRL_ENABLE c) = true → p < 68 → s.dstate c p ≠ 8 → s.run.stepOn = false →
    ((List.range 64).find? fun l => (s.countAt 0x52 (cabInst c) 1).physOf c l == p) = some l →
    exec (.hardFail c p) s = .next ((s.countAt 0x52 (cabInst c) 1).hardMapped c l p)) ∧
  (∀ (s : State) (c p l : Nat), c < 16 → s.power.mainOk = true → s.on (CAB_CTRL_ENABLE c) = true → p < 68 → s.dstate c p ≠ 8 → (s.countAt 0x52 (cabInst c) 1).run.stepOn = true →
    ((List.range 64).find? fun l => (s.countAt 0x52 (cabInst c) 1).physOf c l == p) = some l →
    exec (.hardFail c p) s = .next (((s.countAt 0x52 (cabInst c) 1).voidNow false 0x0204 c (lineAt c l 0)).hardMapped c l p)) ∧
  (∀ (s : State) (c p : Nat), s.dstate c p = 8 → exec (.hardFail c p) s = .next s) ∧
  (∀ (s u : State) (c l t wm : Nat) (rest : List (Nat × Nat × Nat)), c < 16 → s.power.mainOk = true → s.on (CAB_CTRL_ENABLE c) = true → (s.cab c).rebuild = (l, t, wm) :: rest →
    u = (s.setCab c fun x => { x with rebuild := rest }).remap c l t →
    exec (.rebuild c) s = .next
      (((((({ u with mem := { u.mem with dead := u.mem.dead.filter fun d => !(d.1 == c && d.2.1 == l) } } : State).put
        (CAB_STATUS_REBUILD c) 1).countAt 0x53 (cabInst c) 1).reportLine (lineAt c l (min wm (groupCount - 1))) 4)).nextEvac c)) ∧
  (∀ (s : State) (c : Nat), (s.cab c).rebuild = [] → exec (.rebuild c) s = .next s)

/-- PORT_TRAIN, Q_HELLO, Q_EQ_ADAPT and Q_RETRAIN bring a port up, open its channel, adapt it and train it again. Rests on
spec/10_quill_fabric.md. -/
def Obligations.PortsTrainAndAdapt : Prop :=
  (∀ (s u : State) (p lanes speed high : Nat), p < 24 → s.power.mainOk = true → s.on (QPT_CTRL_ENABLE p) = true →
    s.portAlive p = false → s.on (QPT_STATUS_MISCABLED p) = false → s.trained p lanes 2 = some (speed, high) → speed ≠ 1 →
    u = ((s.linkUp p speed high).onPort p fun x => { x with helloSince := some s.time, lowMargin := 0 }) →
    exec (.portTrain p lanes) s = .next (u.sendHello p 0 (u.ctrlMac p))) ∧
  (∀ (s : State) (p lanes : Nat), s.trained p lanes 2 = none ∨ s.power.mainOk = false ∨ s.portAlive p = true ∨
      s.on (QPT_STATUS_MISCABLED p) = true →
    exec (.portTrain p lanes) s = .next s) ∧
  (∀ (s : State) (p role peerPort mac c0 c1 : Nat), s.portUp p = true →
    exec (.qHello p role peerPort mac c0 c1) s = .next (s.hearHello p role peerPort mac c0 c1)) ∧
  (∀ (s u : State) (p role peerPort mac c0 c1 : Nat), s.portUp p = true → s.switched = false → s.quill.chans = [] →
    s.miscabled p peerPort mac = false →
    u = ((((s.onPort p fun x => { x with helloSince := none, partner := some (helloModule peerPort mac) }).put
      (QPT_PARTNER_ROLE p) role).put (QPT_PARTNER_PORT p) peerPort).put (QPT_PARTNER_VALID p) 1).put (QPT_STATUS_MISCABLED p) 0 →
    u.switched = false →
    ∃ t, exec (.qHello p role peerPort mac c0 c1) s = .next t ∧ t.quill.chans = [freshChan p 0 mac c0 c1] ∧ t.mem = s.mem) ∧
  (∀ (s : State) (p role peerPort mac c0 c1 : Nat), s.RegsCanonical → s.portUp p = true → s.miscabled p peerPort mac = true →
    ∃ t, exec (.qHello p role peerPort mac c0 c1) s = .next t ∧ t.on (QPT_STATUS_MISCABLED p) = true ∧
      (∀ c ∈ t.quill.chans, c.port ≠ p) ∧ (∀ c ∈ s.quill.chans, c.port ≠ p → c ∈ t.quill.chans)) ∧
  (∀ (s u : State) (p margin lane : Nat), s.portUp p = true →
    u = ((s.put (QPT_EQ_MARGIN p) margin).put (QPT_EQ_WORST_LANE p) lane).countAt 0xB4 (portInst p) 1 →
    (u.sendCtrl p 2 (u.get (QPT_PARTNER_ROLE p)) (u.ctrlMac p) []).get (QPT_EQ_RETRAIN_MARGIN p) ≤ margin →
    exec (.qEqAdapt p margin lane) s = .next
      ((u.sendCtrl p 2 (u.get (QPT_PARTNER_ROLE p)) (u.ctrlMac p) []).onPort p fun x => { x with lowMargin := 0 })) ∧
  (∀ (s : State) (p lanes was : Nat), (s.qport p).retrain = some was → s.trained p lanes was = none →
    exec (.qRetrain p lanes false) s = .next (s.portLoss p)) ∧
  (∀ (s u : State) (p lanes was speed high : Nat), (s.qport p).retrain = some was → s.trained p lanes was = some (speed, high) →
    speed ≠ 1 ∨ was = 1 → laneFailed was (s.get (QPT_STATUS_LANES_HIGH p)) lanes = false →
    u = ((s.linkUp p speed high).onPort p fun x => { x with retrain := none }).releasePort p →
    exec (.qRetrain p lanes false) s = .next
      ((u.quill.chans.filter fun c => c.port == p).foldl (fun s c => s.resumeChan p c.peer) u)) ∧
  (∀ (s u : State) (p lanes was speed high : Nat), (s.qport p).retrain = some was → s.trained p lanes was = some (speed, high) →
    (speed = 1 ∧ was ≠ 1) ∨ laneFailed was (s.get (QPT_STATUS_LANES_HIGH p)) lanes = true →
    u = (((((s.linkUp p speed high).onPort p fun x => { x with retrain := none }).put (QPT_STATUS_DEGRADED p) 1).countAt 0xAA
      (portInst p) 1).countAt 0xB6 (portInst p) 1).releasePort p →
    exec (.qRetrain p lanes false) s = .next
      ((u.quill.chans.filter fun c => c.port == p).foldl (fun s c => s.resumeChan p c.peer) u)) ∧
  (∀ (s : State) (p lanes : Nat), (s.qport p).retrain = none → exec (.qRetrain p lanes false) s = .next s)

/-- Link timers act at their time and not before, ACK gives credits back, bad frames mark the port, PFC pauses it. Rests on
spec/10_quill_fabric.md. -/
def Obligations.LinkTimersAcksAndBadFrames : Prop :=
  ((∀ (s : State) (p lanes t : Nat), (s.qport p).helloSince = some t → t + 500000000 ≤ s.time →
    exec (.qLinkDown p lanes) s = .next (s.portLoss p)) ∧
  (∀ (s : State) (p lanes : Nat), (s.qport p).helloSince = none → (s.trained p lanes 2).isSome = true →
    exec (.qLinkDown p lanes) s = .next s) ∧
  (∀ (s : State) (p peer : Nat) (c : Chan) (f : TxFrame) (rest : List TxFrame), s.chan p peer = some c → c.unacked = f :: rest →
    s.portUp p = true → s.get (QPT_RETRY_CTRL_ACK_TIMEOUT p) ≠ 0 → f.sentAt + 100 * s.get (QPT_RETRY_CTRL_ACK_TIMEOUT p) ≤ s.time →
    exec (.ackTimeout p peer) s = .next (s.resend c)) ∧
  (∀ (s : State) (p peer : Nat) (c : Chan) (f : TxFrame) (rest : List TxFrame), s.chan p peer = some c → c.unacked = f :: rest →
    s.portUp p = true → s.get (QPT_RETRY_CTRL_ACK_TIMEOUT p) = 0 → f.sentAt + 8000 ≤ s.time →
    exec (.ackTimeout p peer) s = .next (s.resend c)) ∧
  (∀ (s : State) (p peer : Nat) (c : Chan) (f : TxFrame) (rest : List TxFrame), s.chan p peer = some c → c.unacked = f :: rest →
    s.get (QPT_RETRY_CTRL_ACK_TIMEOUT p) ≠ 0 → s.time < f.sentAt + 100 * s.get (QPT_RETRY_CTRL_ACK_TIMEOUT p) →
    exec (.ackTimeout p peer) s = .next s) ∧
  (∀ (s : State) (p peer t : Nat) (c : Chan), s.chan p peer = some c → c.ackDue = some t → s.portUp p = true →
    t + 1000 ≤ s.time ∨ 16 ≤ c.sinceAck → exec (.ackSend p peer) s = .next (s.sendAck c false)) ∧
  (∀ (s : State) (p peer t : Nat) (c : Chan), s.chan p peer = some c → c.ackDue = some t → s.time < t + 1000 → c.sinceAck < 16 →
    exec (.ackSend p peer) s = .next s) ∧
  (∀ (s : State) (fr : QFrame) (c : Chan), s.portUp fr.port = true → s.on QFB_CTRL_ENABLE = true → fr.fcs = true → fr.fec = true →
    frameOk qAck fr = true → (s.noteCode fr).chan fr.port fr.peer = some c → c.toGroup = false → fr.h.nak = false →
    ∃ d : Chan, d = { c with credit0 := min c.allot0 (c.credit0 + fr.h.arg % 65536),
                             credit1 := min c.allot1 (c.credit1 + fr.h.arg / 65536 % 65536) } ∧
      exec (.ack fr) s = .next ((((s.noteCode fr).setChan d).acked d (ackCovers fr.h.lack)).pumpPort fr.port))) ∧
  ((∀ (s : State) (fr : QFrame) (t : Nat), s.portUp fr.port = true →
    exec (.badFrame fr false t) s = .next (s.put (QPT_STATUS_BAD_FRAME fr.port) 1)) ∧
  (∀ (s : State) (fr : QFrame) (t : Nat), s.portUp fr.port = true → frameOk t fr = false → t ≠ qAck → t ≠ 10 → (s.linkRx fr).2 = true →
    exec (.badFrame fr true t) s = .next
      (((s.linked fr).put (QPT_STATUS_BAD_FRAME fr.port) 1).freeSlots fr.port (rxPeer fr) fr.h.vc (fr.h.lines + 1))) ∧
  (∀ (s : State) (fr : QFrame) (t : Nat), s.portUp fr.port = true → frameOk t fr = false → t = qAck ∨ t = 10 → fr.fcs = true →
    fr.fec = true → exec (.badFrame fr true t) s = .next ((s.noteCode fr).put (QPT_STATUS_BAD_FRAME fr.port) 1)) ∧
  (∀ (s : State) (fr : QFrame) (t : Nat) (b : Bool), s.portUp fr.port = false → exec (.badFrame fr b t) s = .next s) ∧
  (∀ (s : State) (p prio quanta : Nat), s.portUp p = true → s.switched = true → prio = s.get QFB_SWITCHED_PFC_PRIO → quanta ≠ 0 →
    s.get (QPT_STATUS_SPEED p) ≠ 1 →
    exec (.pfcFrame p prio quanta) s = .next
      ((s.onPort p fun x => { x with pausedUntil := s.time + quanta * 512 / 800 }).countAt 0xB3 (portInst p) 1)) ∧
  (∀ (s : State) (p prio quanta : Nat), s.portUp p = true → s.switched = false →
    exec (.pfcFrame p prio quanta) s = .next (s.put (QPT_STATUS_BAD_FRAME p) 1)) ∧
  (∀ (s : State) (p prio quanta : Nat), s.portUp p = true → s.switched = true → prio ≠ s.get QFB_SWITCHED_PFC_PRIO →
    exec (.pfcFrame p prio quanta) s = .next s))

/-- HANDOVER sends on the frames of a dead channel after the peer’s last LSEQ, and GASP_TIMEOUT ends what a GASP froze.
Rests on spec/10_quill_fabric.md, spec/11_failure_survival.md. -/
def Obligations.HandoverAndGaspTimeoutComplete : Prop :=
  (∀ (s r : State) (p peer last : Nat), (if s.portUp p then s.farDown p peer else s) = r →
    exec (.handover ⟨p, peer⟩ last) s = .next
    ((r.quill.handover.filter (r.handed p peer)).foldl (fun s x =>
        (afterLast last x).foldl (fun s f => s.handOn p x.2.1 f) s)
      (r.mapQuill fun q => { q with handover := q.handover.filter fun x => !r.handed p peer x })).quillChecks) ∧
  (∀ (s r : State) (p peer last : Nat), (if s.portUp p then s.farDown p peer else s) = r →
    r.quill.handover.any (r.handed p peer) = false →
    exec (.handover ⟨p, peer⟩ last) s = .next r.quillChecks) ∧
  (∀ (s t : State) (p peer m : Nat) (c : Chan) (ms : List Nat), s.chan p peer = some c → s.heirs p = m :: ms →
    (s.mapQuill fun q => { q with chans := q.chans.filter fun x => !(x.port == c.port && x.peer == c.peer) }).noteChans p = t →
    s.farDown p peer = (t.sendHandover c m).mapQuill fun q => { q with handover := q.handover ++ [(p, c.peer, c.unacked, c.waiting)] }) ∧
  (∀ (s : State) (p peer q last : Nat) (sent waiting : List TxFrame), s.portUp p = false → s.quill.handover = [(p, q, sent, waiting)] →
    s.switched = false ∨ q = peer → (s.mapQuill fun q => { q with handover := [] }).heirs p = [] →
    exec (.handover ⟨p, peer⟩ last) s = .next (s.mapQuill fun q => { q with handover := [] }).quillChecks) ∧
  (∀ (s u : State) (p peer m last : Nat) (a b : TxFrame), u = (s.mapQuill fun q => { q with handover := [] }) →
    s.portUp p = false → s.quill.handover = [(p, peer, [a, b], [])] → u.heirs p = [m] → (u.chan m peer).isSome = true →
    last < 2 ^ 30 → a.h.lseq = last → b.h.lseq = last + 1 →
    exec (.handover ⟨p, peer⟩ last) s = .next
      (((u.countAt 0xAD (portInst m) 1).offer m peer { b with sentAt := 0 }).quillChecks)) ∧
  (∀ (s : State) (t : Nat) (b : Bool), s.svl.wardGasp = some t → b = true ∨ t + 10000000000 ≤ s.time →
    ∃ u : State, u = (s.mapSvl fun v => { v with wardGasp := none, stages := [] }) ∧
      exec (.gaspTimeout b) s = .next (if u.wardWhole then u.sealWard 3 else u).tellHost.syncHead) ∧
  (∀ (s : State) (t : Nat), s.svl.wardGasp = some t → s.time < t + 10000000000 → exec (.gaspTimeout false) s = .next s) ∧
  (∀ (s : State) (b : Bool), s.svl.wardGasp = none → exec (.gaspTimeout b) s = .next s)

/-- WRITE, ADD, MCAST and CLOSE frames of the running step write, add, or close their message. Rests on
spec/10_quill_fabric.md. -/
def Obligations.DataFramesAreTaken : Prop :=
  (∀ (s : State) (fr : QFrame) (x : Tensor), s.frameIn qWrite fr = true → (s.linked fr).localRole fr.h = true →
    (s.linked fr).inStep fr.h false = true → (s.linked fr).target fr.h = some x →
    exec (.qFrameWrite fr) s = .next ((((s.linked fr).writeLines fr x).noteMsg fr false fr.h.lines none).settle.freeFrame fr)) ∧
  (∀ (s : State) (fr : QFrame) (x : Tensor), s.frameIn qAdd fr = true → (s.linked fr).localRole fr.h = true →
    (s.linked fr).inStep fr.h false = true → (s.linked fr).target fr.h = some x →
    exec (.qFrameAdd fr) s = .next ((((s.linked fr).addLines fr x).noteMsg fr false fr.h.lines none).settle.freeFrame fr)) ∧
  (∀ (s g : State) (fr : QFrame) (x : Tensor), s.frameIn qMcast fr = true →
    g = ((s.linked fr).countAt 0xB0 (portInst fr.port) 1).notePass qMcast fr.h → bit (g.groupOf fr.h) 63 = true →
    bit (g.groupOf fr.h) 31 = true → g.switched = true → g.inStep fr.h true = true → g.target fr.h = some x →
    exec (.qFrameMcast fr) s = .next (((g.writeLines fr x).noteMsg fr true fr.h.lines none).settle.freeFrame fr)) ∧
  (∀ (s g u : State) (fr : QFrame) (x : Tensor), s.frameIn qMcast fr = true →
    g = ((s.linked fr).countAt 0xB0 (portInst fr.port) 1).notePass qMcast fr.h → bit (g.groupOf fr.h) 63 = true →
    bit (g.groupOf fr.h) 31 = true → g.switched = false → u = g.routeGroup (some fr.port) qMcast fr.h fr.payload →
    u.inStep fr.h true = true → u.target fr.h = some x →
    exec (.qFrameMcast fr) s = .next (((u.writeLines fr x).noteMsg fr true fr.h.lines none).settle.freeFrame fr)) ∧
  (∀ (s : State) (fr : QFrame), s.frameIn qClose fr = true → (s.linked fr).groupClose fr = false →
    (s.linked fr).localRole fr.h = true → (s.linked fr).inStep fr.h false = true →
    exec (.qFrameClose fr) s = .next
      (((s.linked fr).noteMsg fr false 0 (some (bits fr.h.arg 47 16, bits fr.h.arg 15 0, fr.h.signal))).freeFrame fr)) ∧
  (∀ (s : State) (fr : QFrame), s.frameIn qWrite fr = true → (s.linked fr).localRole fr.h = false →
    exec (.qFrameWrite fr) s = .next (((s.linked fr).routeRole qWrite fr.h fr.payload).freeFrame fr)) ∧
  (∀ (s : State) (fr : QFrame), (s.linkRx fr).2 = false →
    exec (.qFrameWrite fr) s = .next (s.linked fr) ∧ exec (.qFrameAdd fr) s = .next (s.linked fr) ∧
    exec (.qFrameMcast fr) s = .next (s.linked fr) ∧ exec (.qFrameClose fr) s = .next (s.linked fr))

/-- A data frame of a later step is held, of an earlier step reported LATE, and without a running job REFUSED. Rests on
spec/10_quill_fabric.md. -/
def Obligations.FramesOfOtherStepsAreHeldOrRefused : Prop :=
  (∀ (s : State) (fr : QFrame), s.frameIn qWrite fr = true → (s.linked fr).localRole fr.h = true →
    (s.linked fr).jobState = jsRunning → (s.linked fr).step < fr.h.step →
    exec (.qFrameWrite fr) s = .next
      (((s.linked fr).countAt 0xAF (portInst fr.port) 1).mapQuill fun q => { q with held := q.held ++ [(qWrite, false, fr)] })) ∧
  (∀ (s : State) (fr : QFrame), s.frameIn qWrite fr = true → (s.linked fr).localRole fr.h = true →
    (s.linked fr).jobState = jsRunning → fr.h.step < (s.linked fr).step →
    exec (.qFrameWrite fr) s = .next (((s.linked fr).refuse fr.h false true).freeFrame fr)) ∧
  (∀ (s : State) (fr : QFrame), s.frameIn qWrite fr = true → (s.linked fr).localRole fr.h = true →
    (s.linked fr).jobState ≠ jsRunning →
    exec (.qFrameWrite fr) s = .next (((s.linked fr).refuse fr.h false false).freeFrame fr)) ∧
  (∀ (s : State) (fr : QFrame), s.frameIn qAdd fr = true → (s.linked fr).localRole fr.h = true →
    (s.linked fr).inStep fr.h false = true → (s.linked fr).target fr.h = none →
    exec (.qFrameAdd fr) s = .next (((s.linked fr).refuse fr.h false false).freeFrame fr)) ∧
  (∀ (s : State) (h : QHdr) (g late : Bool), (s.refuse h g late).mem = s.mem ∧ (s.refuse h g late).sbd = s.sbd ∧
    (s.refuse h g late).job = s.job ∧ (s.refuse h g late).run = s.run ∧ (s.refuse h g late).quill.rx = s.quill.rx)

/-- DELIVERY, REPORT, READ_REQ and READ_RESP deliver a message in turn, count receivers off and serve reads. Rests on
spec/10_quill_fabric.md. -/
def Obligations.DeliveryReportsAndReads : Prop :=
  (∀ (s : State) (role list dst mseq lines sem : Nat) (g : Bool) (m : RxMsg), s.rxMsg role list dst g mseq = some m →
    m.close = some (lines, sem, true) → m.lines = lines → m.fabric = false → s.nextDelivery role list dst g = mseq →
    s.run.stepOn = true →
    ∃ u : State, u = s.mapQuill (fun q =>
        { q with rx := q.rx.filter (fun x => !x.is role list dst g mseq),
                 delivered := (role, list, dst, g, mseq + 1) :: q.delivered.filter fun x =>
                   !(x.1 == role && x.2.1 == list && x.2.2.1 == dst && x.2.2.2.1 == g) }) ∧
      ∃ v : State, v = (u.signal sem 2).sendReport role list dst g mseq (u.signal sem 2).step 1 ∧
        exec (.delivery role list dst g mseq) s = .next (if v.quill.rx.length = 4095 then v.releaseHeld else v)) ∧
  (∀ (s : State) (role list dst mseq : Nat) (g : Bool), s.nextDelivery role list dst g ≠ mseq ∨ s.run.stepOn = false ∨
      s.rxMsg role list dst g mseq = none →
    exec (.delivery role list dst g mseq) s = .next s) ∧
  (∀ (s : State) (fr : QFrame), s.frameIn qReport fr = true → (s.linked fr).localRole fr.h = true →
    exec (.report fr) s = .next (((s.linked fr).takeReport fr.h).freeFrame fr)) ∧
  (∀ (s : State) (h : QHdr), s.run.stepOn = true → s.quill.sent.any (reported s h) = true → bits h.arg 7 0 = 3 →
    s.takeReport h = (((s.mapQuill fun q => { q with sent := q.sent.map fun m => if reported s h m then { m with left := 0 } else m }
      ).voidStep 0x0207 (0x30 + h.srcList) 0).noteRefused h 0x0207).quillChecks) ∧
  (∀ (s : State) (fr : QFrame), s.frameIn qReadReq fr = true → (s.linked fr).localRole fr.h = true →
    exec (.readReq fr) s = .next (((s.linked fr).answerRead fr.h).freeFrame fr)) ∧
  (∀ (s : State) (fr : QFrame), s.frameIn qReadResp fr = true → (s.linked fr).localRole fr.h = true →
    exec (.readResp fr) s = .next (((s.linked fr).takeResp fr).freeFrame fr))

/-- A step takes the front command of the queue and is exec of it; on an empty queue one nanosecond passes. Rests on
spec/INDEX.md. -/
def Obligations.StepRunsTheFrontCommand : Prop :=
  (∀ (s : State) (c : Instr) (rest : List Instr), s.pending = c :: rest → step s = exec c { s with pending := rest }) ∧
  (∀ (s : State) (c : Instr), step { s with pending := c :: s.pending } = exec c s) ∧
  (∀ s : State, s.pending = [] → ∃ t, step s = .next t ∧ t.time = s.time + 1 ∧ t.pending = [] ∧ t.mem = s.mem ∧ t.sbd = s.sbd ∧
    t.flash = s.flash ∧ t.folio = s.folio ∧ t.job = s.job ∧ t.run = s.run) ∧
  (∀ (s : State) (nbits w : Nat), decodeTableWord nbits w = none ∧ s.withFetchWord nbits w = s)

/-- State.reset is sound, its queue empty, nothing listed in memory, and registers read their Reset column. Rests on
spec/13_registers.md. -/
def Obligations.ResetIsSoundAndAsTheTablesSay : Prop :=
  State.reset.Sound ∧ State.reset.pending = [] ∧ State.reset.out = [] ∧ State.reset.mem.dram = [] ∧ State.reset.folio = none ∧
  State.reset.power.mainOk = false ∧ State.reset.jobState = 0 ∧
  State.reset.reg 0x10004 = 0x073A05DC ∧ State.reset.get PWR_TARGET_RATE = 0x5DC ∧ State.reset.get PWR_TARGET_CAP = 0x73A ∧
  State.reset.get PWR_CTRL_LOOP_EN = 1 ∧ State.reset.get PWR_CTRL_MODE = 0 ∧ State.reset.get PWR_STATUS_MAIN_OK = 0 ∧
  State.reset.get SEC_STATUS_OWNED = 0 ∧
  (∀ a ∈ [0x0, 0x40, 0x10000, 0x20000, 0x40000, 0x40100, 0xC0000, 0x100000, 0x480000, 0x4B0000],
    State.reset.reg a = (regReset a).toNat)

/-- Every step from a sound state that goes on leads to a sound state. Rests on spec/06_stacked_memory.md,
spec/13_registers.md. -/
def Obligations.SoundnessIsKept : Prop :=
  ∀ s t : State, s.Sound → step s = .next t → t.Sound

/-- No command touches the queue or the clock, takes back what was sent, or reuses a free value. Rests on
spec/12_chembe_protocol.md, spec/05_folios_and_static_order.md. -/
def Obligations.CommandsKeepTheQueueTheClockAndWhatWasSent : Prop :=
  ∀ (c : Instr) (s t : State), exec c s = .next t →
    t.pending = s.pending ∧ t.time = s.time ∧ s.out <+: t.out ∧ s.free ≤ t.free

/-- SVN and key floors never fall, and only CLAIM, RELEASE and ERASE_ALL change the owner. Rests on
spec/12_chembe_protocol.md, spec/14_sideband_and_presence.md. -/
def Obligations.FloorsNeverFallAndOnlyThreeRowsChangeTheOwner : Prop :=
  ∀ s t : State, step s = .next t →
    s.flash.svnFloor ≤ t.flash.svnFloor ∧ s.flash.keyFloor ≤ t.flash.keyFloor ∧
    ((∀ h alt, s.pending.head? ≠ some (.claim h alt)) → (∀ h, s.pending.head? ≠ some (.release h)) →
      (∀ h n, s.pending.head? ≠ some (.eraseAll h n)) → t.flash.owner = s.flash.owner)

/-- The 104 commands that answer, time, train, measure or count change no byte of stacked memory or Inkwell. Rests on
spec/06_stacked_memory.md, spec/07_sideboard_and_ordering.md, spec/12_chembe_protocol.md. -/
def Obligations.QuietCommandsLeaveMemoryAlone : Prop :=
  (∀ (c : Instr) (s t : State), memoryQuiet c = true → exec c s = .next t → t.mem = s.mem) ∧
  (∀ (c : Instr) (s t : State), memoryQuiet c = true → exec c s = .next t → ∀ a, t.rawData a = s.rawData a ∧ t.rawCheck a = s.rawCheck a)

/-- A step faults just where a Sideboard row names an address past the decoded range; nothing is refused. Rests on
spec/06_stacked_memory.md, spec/07_sideboard_and_ordering.md. -/
def Obligations.OnlyAnUndecodedLineFaults : Prop :=
  (∀ (c : Instr) (s : State) (a : Nat), lineAddress c = some a → decodedEnd ≤ a → exec c s = .fault (.undecodedAddress a)) ∧
  (∀ (c : Instr) (s : State), (∀ a, lineAddress c = some a → a < decodedEnd) → ∃ t, exec c s = .next t) ∧
  (∀ s : State, s.pending = [] → ∃ t, step s = .next t) ∧
  (∀ (c : Instr) (s : State) (a : Nat), lineAddress c = some a → a < decodedEnd →
    s.power.mainOk = false ∨ s.on SBD_CTRL_ENABLE = false → exec c s = .next s)

/-- Sessions, windows, duplicates and the refusals of Table 12.4 are settled before a command acts. Rests on
spec/12_chembe_protocol.md, spec/13_registers.md. -/
def Obligations.GatesComeBeforeAnyEffect : Prop :=
  ∀ (s : State) (h : Hdr) (op : OpInfo) (i : Instr) (act : State → Act), s.reaches h = true → s.esc.recovery = false →
    (s.sessionFor h = none → s.command h op true i act = s.dropChembe h.src) ∧
    (∀ x, s.sessionFor h = some x →
      (h.version ≠ 1 → s.command h op true i act = (s.heard h.src).sendReply (mkReply h op.code stVersion false [])) ∧
      (h.version = 1 → h.rsvClear = false ∨ h.status ≠ 0 →
        s.command h op true i act = (s.heard h.src).sendReply (mkReply h op.code stParam false [])) ∧
      (h.version = 1 → h.rsvClear = true → h.status = 0 → x.classify h.seq = .outside →
        s.command h op true i act = (s.heard h.src).sendReply (mkReply h op.code stSeq false [])) ∧
      (∀ n r, h.version = 1 → h.rsvClear = true → h.status = 0 → x.classify h.seq = .dup →
        (x.cache.find? fun p => p.1 == h.seq) = some (n, r) →
        s.command h op true i act = ((s.heard h.src).countAt 0xC3 (srcInst h.src) 1).sendReply { r with msgTag := h.mctp.tag })) ∧
    (s.takes h = true → op.own = true → h.src.isSide = false → (s.admitted h).isOwner h.src = false →
      s.command h op true i act = (s.admitted h).answer h op.code stNotOwner []) ∧
    (s.takes h = true → op.own = false → op.pres = true → (s.admitted h).presenceOpen = false →
      s.command h op true i act = (s.admitted h).answer h op.code stPresence []) ∧
    (∀ c, s.takes h = true → op.own = false → op.pres = false → op.cls = some c → (s.admitted h).lockedFor h.src.isSide c = true →
      s.command h op true i act = (s.admitted h).lockDenied.answer h op.code stLocked [])

/-- Reading a _LO register latches its _HI word for that master’s next read of it. Rests on spec/13_registers.md,
spec/09_gauges_and_counters.md. -/
def Obligations.LowWordsLatchHighWords : Prop :=
  (∀ (s : State) (m : Bool) (a : Nat), regAddr a = a → regAddr (a + 4) = a + 4 → isLo a = true → s.answers a = true →
    s.answers (a + 4) = true → (s.win.latched.find? fun l => l.1 == m && l.2.1 == a) = none → s.shown (a + 4) < 2 ^ 32 →
    ∃ t, s.readReg m a = (t, s.shown a) ∧ t.regs = s.regs ∧
      ∀ u : State, u.win.latched = t.win.latched → u.answers (a + 4) = true →
        (u.readReg m (a + 4)).2 = s.shown (a + 4) ∧ (u.readReg m (a + 4)).1.regs = u.regs ∧
        ((u.readReg m (a + 4)).1.win.latched.find? fun l => l.1 == m && l.2.1 == a + 4) = none) ∧
  (∀ a ∈ [0x40010, 0x40200, 0x40400], isLo a = true)

/-- A counter past 2^48 − 1 wraps or stays by SATURATE, and sets its bit of CNT_OVF either way. Formalises R329. -/
def Obligations.CountersWrapOrSaturate : Prop :=
  ∀ (s : State) (k v n : Nat), s.RegsCanonical → k < 64 → s.get2 (CNT_VAL_LO_VALUE_LO k) (CNT_VAL_HI_VALUE_HI k) = v → v < 2 ^ 48 →
    (v + n < 2 ^ 48 →
      (s.addCounter k n).get2 (CNT_VAL_LO_VALUE_LO k) (CNT_VAL_HI_VALUE_HI k) = v + n ∧
      (s.addCounter k n).reg 0x40008 = s.reg 0x40008 ∧ (s.addCounter k n).reg 0x4000C = s.reg 0x4000C) ∧
    (2 ^ 48 ≤ v + n → s.on (CNT_SEL_SATURATE k) = false →
      (s.addCounter k n).get2 (CNT_VAL_LO_VALUE_LO k) (CNT_VAL_HI_VALUE_HI k) = (v + n) % 2 ^ 48) ∧
    (v = 2 ^ 48 - 1 → s.on (CNT_SEL_SATURATE k) = false →
      (s.addCounter k 1).get2 (CNT_VAL_LO_VALUE_LO k) (CNT_VAL_HI_VALUE_HI k) = 0) ∧
    (2 ^ 48 ≤ v + n → s.on (CNT_SEL_SATURATE k) = true →
      (s.addCounter k n).get2 (CNT_VAL_LO_VALUE_LO k) (CNT_VAL_HI_VALUE_HI k) = 2 ^ 48 - 1) ∧
    (2 ^ 48 ≤ v + n →
      bit ((s.addCounter k n).reg (if k < 32 then 0x40008 else 0x4000C)) (k % 32) = true ∧
      ∀ j, j < 64 → j ≠ k → bit ((s.addCounter k n).reg (if j < 32 then 0x40008 else 0x4000C)) (j % 32) =
        bit (s.reg (if j < 32 then 0x40008 else 0x4000C)) (j % 32)) ∧
    (∀ j, j < 64 → j ≠ k → (s.addCounter k n).get2 (CNT_VAL_LO_VALUE_LO j) (CNT_VAL_HI_VALUE_HI j) =
      s.get2 (CNT_VAL_LO_VALUE_LO j) (CNT_VAL_HI_VALUE_HI j))

/-- A block-scaled element reads as its value times 2^(b − 127), and scale 0xFF reads as NaN. Formalises R69, R70. -/
def Obligations.ElementsReadUnderTheirScale : Prop :=
  (∀ f blk code b : Nat, 4 ≤ f → f ≤ 7 → blk ≠ 0 → b = 0xFF → readElem f blk code b = .nan) ∧
  (∀ (f blk code b : Nat) (neg : Bool) (m : Nat) (e : Int), 4 ≤ f → f ≤ 7 → blk ≠ 0 → b ≤ 0xFE → decode f code = .fin neg m e →
    readElem f blk code b = .fin neg m (e + ((b : Nat) : Int) - 127)) ∧
  (∀ blk b : Nat, blk ≠ 0 → b ≤ 0xFE →
    readElem fE5M2 blk 0x7C b = .inf false ∧ readElem fE5M2 blk 0xFC b = .inf true) ∧
  (∀ blk code b : Nat, blk ≠ 0 → b ≤ 0xFE → code < 256 →
    (4 ≤ code / 4 % 32 - 27 ∧ code % 4 ≠ 0 → readElem fE5M2 blk code b = .nan) ∧
    (code % 128 = 127 → readElem fE4M3 blk code b = .nan)) ∧
  (∀ f code : Nat, 4 ≤ f → f ≤ 7 → code < 2 ^ fmtWidth f →
    ((decode f code = .nan ∨ ∃ s, decode f code = .inf s) ↔
      (f = fE5M2 ∧ code / 4 % 32 = 31) ∨ (f = fE4M3 ∧ code % 128 = 127)))

/-- Zeros keep their sign in E5M2, E4M3 and E2M1, INT8 writes 0, and an all-zero block takes scale 0x7F. Formalises R76. -/
def Obligations.ZerosKeepTheirSign : Prop :=
  (∀ (f : Nat) (mode : Rnd) (neg : Bool) (e : Int), f = fE5M2 ∨ f = fE4M3 ∨ f = fE2M1 →
    (encodeXV f mode (.fin neg 0 e)).1 = signCode f neg ∧ ∃ k, decode f (encodeXV f mode (.fin neg 0 e)).1 = .fin neg 0 k) ∧
  (∀ (mode : Rnd) (neg : Bool) (e : Int), (encodeXV fINT8 mode (.fin neg 0 e)).1 = 0) ∧
  (∀ (f : Nat) (xs : List (XV × Rnd)), 4 ≤ f → f ≤ 7 → (∀ x ∈ xs, ∃ neg e, x.1 = .fin neg 0 e) →
    (encodeBlock f xs).1 = 0x7F ∧
    (encodeBlock f xs).2.1 = xs.map fun x => if f = fINT8 then 0 else signCode f x.1.isNeg)

/-- A finite value is written as a finite value in every format, and past the largest it clamps. Formalises R78. -/
def Obligations.RoundingClampsAndNeverOverflows : Prop :=
  (∀ (f : Nat) (mode : Rnd) (neg : Bool) (m : Nat) (e : Int), f ≤ 7 →
    (decode f (encodeXV f mode (.fin neg m e)).1).isFin = true) ∧
  (∀ (f : Nat) (mode : Rnd) (neg : Bool) (m : Nat) (e : Int), f ≤ 7 → (fmtMax f).lt (.fin false m e) = true →
    (decode f (encodeXV f mode (.fin neg m e)).1).eqv (if neg then (fmtMax f).negate else fmtMax f) = true) ∧
  (∀ (f : Nat) (a b : Bool) (m n : Nat) (e g : Int), f ≤ 7 → n ≠ 0 →
    (divRound f (.fin a m e) (.fin b n g)).1.isFin = true) ∧
  (∀ (f m : Nat) (e : Int), f ≤ 7 → (sqrtRound f (.fin false m e)).isFin = true) ∧
  (∀ (f : Nat) (xs : List (XV × Rnd)), 4 ≤ f → f ≤ 7 → (∀ x ∈ xs, x.1.isFin = true) →
    (encodeBlock f xs).1 ≤ 0xFE ∧
    ∀ c ∈ (encodeBlock f xs).2.1, (readElem f 1 c (encodeBlock f xs).1).isFin = true)

/-- POWER_SET writes PWR_CTRL.MODE and the matching target within its bounds; another MODE is PARAM_INVALID. Formalises
R518. -/
def Obligations.PowerSetWritesModeAndTarget : Prop :=
  (∀ (s : State) (h : Hdr) (target : Nat), s.runs h ⟨0x0701, true, false, false, some 5, .always, false⟩ = true →
    exec (.powerSet h 0 target) s = .next ((((s.admitted h).put PWR_CTRL_MODE 0).put PWR_TARGET_RATE
      (max 1000 (min 1850 target))).answer h 0x0701 stSuccess []) ∧
    exec (.powerSet h 1 target) s = .next ((((s.admitted h).put PWR_CTRL_MODE 1).put PWR_TARGET_CAP
      (max 900 (min 1850 target))).answer h 0x0701 stSuccess [])) ∧
  (∀ (s : State) (h : Hdr) (mode target : Nat), s.runs h ⟨0x0701, true, false, false, some 5, .always, false⟩ = true → 1 < mode →
    exec (.powerSet h mode target) s = .next ((s.admitted h).answer h 0x0701 stParam [])) ∧
  (∀ (s : State) (r : Nat), s.RegsCanonical → r ≤ 1850 →
    ((s.put PWR_CTRL_MODE 0).put PWR_TARGET_RATE r).get PWR_CTRL_MODE = 0 ∧
    ((s.put PWR_CTRL_MODE 0).put PWR_TARGET_RATE r).get PWR_TARGET_RATE = r ∧
    ((s.put PWR_CTRL_MODE 0).put PWR_TARGET_RATE r).get PWR_TARGET_CAP = s.get PWR_TARGET_CAP ∧
    ((s.put PWR_CTRL_MODE 1).put PWR_TARGET_CAP r).get PWR_CTRL_MODE = 1 ∧
    ((s.put PWR_CTRL_MODE 1).put PWR_TARGET_CAP r).get PWR_TARGET_CAP = r ∧
    ((s.put PWR_CTRL_MODE 1).put PWR_TARGET_CAP r).get PWR_TARGET_RATE = s.get PWR_TARGET_RATE)

/-- While MAIN_OK is deasserted only GLB, PWR and SEC answer; other reads return 0 and writes are discarded. Formalises
R443. -/
def Obligations.MainSideBlocksReadZeroWhileOff : Prop :=
  ∀ s : State, s.power.mainOk = false →
    (∀ (m : Bool) (addr : Nat), 0x30000 ≤ regAddr addr → s.readReg m addr = (s, 0)) ∧
    (∀ (m : Bool) (addr : Nat), regAddr addr < 0x30000 → (s.win.latched.find? fun l => l.1 == m && l.2.1 == regAddr addr) = none →
      (s.readReg m addr).2 = s.shown (regAddr addr)) ∧
    (∀ (m : Bool) (addr : Nat) (v : Word), 0x30000 ≤ regAddr addr → s.pendingHalf (baseOf addr) = none →
      (s.writeReg m addr v).2 = stSuccess → (s.writeReg m addr v).1 = s) ∧
    (∀ (m : Bool) (addr : Nat) (v : Word), 0x30000 ≤ regAddr addr → (s.writeReg m addr v).2 = stSuccess →
      (s.writeReg m addr v).1.regs = s.regs) ∧
    (∀ (m : Bool) (addr : Nat) (v : Word), 0x30000 ≤ regAddr addr → (s.writePair m addr v).2 = stSuccess →
      (s.writePair m addr v).1.regs = s.regs) ∧
    (∀ (m : Bool) (addr : Nat) (v : Word), regAddr addr < 0x30000 → aliasOf addr = 0 → s.pendingHalf (baseOf addr) = none →
      guarded (regAddr addr) = false → (4 ≤ regAddr addr → guarded (regAddr addr - 4) = false) →
      s.writeReg m addr v = ((s.writeOwn m (regAddr addr) v.toNat false).collide (regAddr addr) addr m, stSuccess))

/-- REG_WRITE_PAIR writes a guarded register of Table 13.3 at once and refuses every other address. Formalises R451. -/
def Obligations.PairedWritesOfGuardedRegisters : Prop :=
  (∀ a : Nat, guarded a = true ↔ a = 0x40 ∨ a = 0x480014 ∨ ∃ c, c < 16 ∧ a = 0x100008 + 0x10000 * c) ∧
  (∀ (s : State) (h : Hdr) (addr : Nat) (v : Word), s.runs h (opReg 0x0102) = true → guarded (regAddr addr) = false →
    exec (.regWritePair h addr v) s = .next (((s.admitted h).answer h 0x0102 stParam []).afterReply)) ∧
  (∀ (s : State) (h : Hdr) (addr : Nat) (v : Word), s.runs h (opReg 0x0102) = true → addrOk addr = true → aliasOf addr = 0 →
    guarded (regAddr addr) = true → (s.admitted h).pendingHalf (baseOf addr) = none → (s.admitted h).answers (regAddr addr) = true →
    exec (.regWritePair h addr v) s = .next
      ((((s.admitted h).writeOwn h.src.isSide (regAddr addr) v.toNat true).collide (regAddr addr) addr h.src.isSide).answer h 0x0102 stSuccess
        []).afterReply) ∧
  (∀ (s : State) (a : Nat), 4 ≤ a → guarded (a - 4) = true → a ≠ 0x30014 → a ≠ 0x20000 →
    s.shown a = 0xFFFFFFFF - s.reg (a - 4))

/-- MAP, RIDE_COPY, ECHO, INPUT, MARK, GASP and PAIR frames are taken from the ward, and without WARD_EN refused. Rests on
spec/11_failure_survival.md. -/
def Obligations.RideFramesOfTheWard : Prop :=
  (∀ (s g : State) (fr gr : QFrame), gr = rideFrame fr 0xFF01 → g = s.linked gr → s.frameIn qRide gr = true →
    g.wardFrame gr = true → g.inTurn gr = true →
    exec (.map fr) s = .next (((((g.turned gr).takeMap gr).syncHead.settle).rideOn gr).freeFrame gr)) ∧
  (∀ (s g : State) (fr gr : QFrame), gr = rideFrame fr 0xFF02 → g = s.linked gr → s.frameIn qRide gr = true →
    g.wardFrame gr = true → g.inTurn gr = true →
    exec (.rideCopy fr) s = .next (((((g.turned gr).takeCopy gr).syncHead.settle).rideOn gr).freeFrame gr)) ∧
  (∀ (s g : State) (fr gr : QFrame), gr = rideFrame fr 0xFF03 → g = s.linked gr → s.frameIn qRide gr = true →
    g.wardFrame gr = true → g.inTurn gr = true →
    exec (.echo fr) s = .next (((((g.turned gr).takeEcho gr).syncHead.settle).rideOn gr).freeFrame gr)) ∧
  (∀ (s g : State) (fr gr : QFrame), gr = rideFrame fr 0xFF04 → g = s.linked gr → s.frameIn qRide gr = true →
    g.wardFrame gr = true → g.inTurn gr = true →
    exec (.input fr) s = .next (((((g.turned gr).takeInput gr).syncHead.settle).rideOn gr).freeFrame gr)) ∧
  (∀ (s g : State) (fr gr : QFrame), gr = rideFrame fr 0xFF05 → g = s.linked gr → s.frameIn qRide gr = true →
    g.wardFrame gr = true → g.inTurn gr = true → ¬(g.followers.contains fr.h.srcRole = true ∧ fr.h.arg = 5 ∧ fld fr.payload 0 4 = 0xFFFFFFFF) →
    exec (.mark fr) s = .next (((((g.turned gr).takeMark gr).syncHead.settle).rideOn gr).freeFrame gr)) ∧
  (∀ (s g : State) (fr gr : QFrame), gr = rideFrame fr 0xFF06 → g = s.linked gr → s.frameIn qRide gr = true →
    g.wardFrame gr = true →
    exec (.gasp fr) s = .next (((((g.turned gr).takeGasp).syncHead.settle).rideOn gr).freeFrame gr)) ∧
  (∀ (s g : State) (fr gr : QFrame), gr = rideFrame fr 0xFF00 → g = s.linked gr → s.frameIn qRide gr = true → g.localRole fr.h = true →
    g.wardRole ≠ some fr.h.srcRole ∨ g.on SVL_CTRL_WARD_EN = true →
    exec (.pair fr) s = .next ((((g.turned gr).takePair gr).rideOn gr).freeFrame gr)) ∧
  (∀ (s g : State) (fr gr : QFrame), gr = rideFrame fr 0xFF00 → g = s.linked gr → s.frameIn qRide gr = true → g.localRole fr.h = true →
    g.wardRole = some fr.h.srcRole → g.on SVL_CTRL_WARD_EN = false →
    exec (.pair fr) s = .next ((((g.turned gr).put QFB_STATUS_REFUSED 1).rideOn gr).freeFrame gr)) ∧
  (∀ (s g : State) (fr gr : QFrame), gr = rideFrame fr 0xFF02 → g = s.linked gr → s.frameIn qRide gr = true → g.localRole fr.h = true →
    g.wardRole = some fr.h.srcRole → g.on SVL_CTRL_WARD_EN = false → g.inTurn gr = true →
    exec (.rideCopy fr) s = .next ((((g.turned gr).put QFB_STATUS_REFUSED 1).rideOn gr).freeFrame gr)) ∧
  (∀ (s g : State) (fr gr : QFrame), gr = rideFrame fr 0xFF02 → g = s.linked gr → s.frameIn qRide gr = true → g.localRole fr.h = true →
    g.wardRole ≠ some fr.h.srcRole → g.inTurn gr = true →
    exec (.rideCopy fr) s = .next (((g.turned gr).rideOn gr).freeFrame gr)) ∧
  (∀ (s g : State) (fr gr : QFrame) (n : Nat), gr = rideFrame fr 0xFF02 → g = s.linked gr → s.frameIn qRide gr = true →
    g.localRole fr.h = true → g.rideTurn fr.h.srcRole = some n → n ≠ fr.h.mseq → mseqBefore n fr.h.mseq = true →
    exec (.rideCopy fr) s = .next ((g.mapSvl fun v => { v with rideHeld := v.rideHeld ++ [gr] }).freeFrame gr)) ∧
  (∀ (s g : State) (fr gr : QFrame) (n : Nat), gr = rideFrame fr 0xFF02 → g = s.linked gr → s.frameIn qRide gr = true →
    g.localRole fr.h = true → g.rideTurn fr.h.srcRole = some n → n ≠ fr.h.mseq → mseqBefore n fr.h.mseq = false →
    exec (.rideCopy fr) s = .next (g.freeFrame gr))

/-- The ward’s INPUT is staged, a GASP freezes the follow, STEP_BEGIN drops a void run, MARK LEVEL notes the level. Rests on
spec/11_failure_survival.md. -/
def Obligations.WhatRideFramesDo : Prop :=
  (∀ (s : State) (fr : QFrame), s.following = true →
    s.takeInput fr = s.stageFrame fr.h.step 0xFF04 fr.h.arg (fit 128 fr.payload) fr.h.poison) ∧
  (∀ (s : State) (fr : QFrame), s.following = false → s.takeInput fr = s ∧ s.takeCopy fr = s ∧ s.takeEcho fr = s) ∧
  (∀ s : State, s.RegsCanonical → (s.takeGasp).svl.wardGasp = some s.time ∧ (s.takeGasp).get SVL_STATUS_WARD_FOLLOW = 4 ∧
    (s.takeGasp).on SVL_STATUS_GASP_RECEIVED = true ∧ (s.takeGasp).mem = s.mem ∧ (s.takeGasp).svl.stages = s.svl.stages) ∧
  (∀ (s : State) (fr : QFrame), fr.h.arg = 1 → s.get SVL_STATUS_WARD_FOLLOW ≠ 3 →
    s.takeMark fr = (s.mapSvl fun v =>
      { v with stages := v.stages.filter (fun g => decide (g.step < fr.h.step)),
               wardLanded := v.wardLanded.filter fun p => decide (p.1 < fr.h.step) }).stageFrame fr.h.step
        0xFF05 fr.h.arg (fit 128 fr.payload) fr.h.poison) ∧
  (∀ (s : State) (fr : QFrame), fr.h.arg = 4 → fld fr.payload 0 4 ≠ 0 →
    s.takeMark fr = s.mapSvl fun v => { v with wardLevel := fld fr.payload 0 4 }) ∧
  (∀ (s : State) (fr : QFrame) (f : Folio), s.RegsCanonical → s.wardFolio = some f → s.following = true → s.sbd.openLines = [] → fr.h.lines = 1 →
    128 * fr.h.arg < shardLen f.shard → fr.h.poison = false → (s.held (s.wardBase + 128 * fr.h.arg)).isSome = true →
    s.wardFolio = (s.put SVL_STATUS_SNAPSHOT_VALID 0).wardFolio →
    ∃ t, t = s.takeCopy fr ∧ t.get SVL_STATUS_WARD_FOLLOW = s.get SVL_STATUS_WARD_FOLLOW ∧
      t.held (s.wardBase + 128 * fr.h.arg) =
        some ⟨s.wardBase + 128 * fr.h.arg, fit 128 (slice fr.payload 0 128), .good, true⟩ ∧ t.mem = s.mem)

/-- RISK_SAMPLE shows the eight inputs and the score of R380 while the estimator runs and does nothing otherwise. Rests on
spec/11_failure_survival.md. -/
def Obligations.RiskSampleFilters : Prop :=
  (∀ s : State, s.power.mainOk = false ∨ s.on RSK_CTRL_ENABLE = false → exec .riskSample s = .next s) ∧
  (∀ s : State, s.power.mainOk = true → s.on RSK_CTRL_ENABLE = true →
    ∃ u : State, u = (List.range 8).foldl (fun u i => u.put (RSK_INPUT_X i) (s.riskInputs.getD i 0)) s ∧
      ∃ r : Nat, r = riskScore (u.get RSK_STATUS_SCORE) u.weights s.riskInputs (u.get RSK_CTRL_SHIFT) ∧
      ∃ v : State, v = (u.put RSK_STATUS_SCORE r).put RSK_STATUS_FLOOR_WATCH u.riskFloor ∧
        exec .riskSample s = .next (if v.on RSK_CTRL_FORCE_EN then v.clampLevel.watchDwell r else v.moveLevel r)) ∧
  (∀ (r : Nat) (ws xs : List Nat) (k : Nat), r ≤ 65535 → riskScore r ws xs k ≤ 65535 ∧
    (r ≤ (List.zipWith (fun w x => w * x) ws xs).sum → r ≤ riskScore r ws xs k) ∧
    ((List.zipWith (fun w x => w * x) ws xs).sum ≤ r → riskScore r ws xs k ≤ r)) ∧
  (∀ s : State, ∀ x ∈ s.riskInputs.take 7, x ≤ 255)

/-- FRAGMENT and GAP reach the ring or are dropped; XOFF and XON follow D, and round trips set D. Rests on
spec/12_chembe_protocol.md. -/
def Obligations.IntakeTakesAndPauses : Prop :=
  ((∀ (s : State) (port prio : Nat) (h : IntakeHdr) (pl : List Byte) (a : State), port < 2 → s.power.mainOk = true →
    s.hostUp port = true → a = (s.hostRx port).countAt 0xC9 (hostInst port) 1 →
    a.on INT_CTRL_ENABLE = true → a.jobState = jsRunning → h.kind = 0 → intakeMalformed h pl.length = false →
    exec (.fragment port prio h pl) s = .next
      ((a.mapIntake fun i => i.heard port a.time).takeFragment port h pl)) ∧
  (∀ (s : State) (port prio : Nat) (h : IntakeHdr) (pl : List Byte) (a : State), port < 2 → s.power.mainOk = true →
    s.hostUp port = true → a = (s.hostRx port).countAt 0xC9 (hostInst port) 1 →
    a.on INT_CTRL_ENABLE = true → a.jobState = jsRunning → h.kind = 1 → intakeMalformed h pl.length = false →
    exec (.gap port prio h pl) s = .next
      ((a.mapIntake fun i => i.heard port a.time).takeGap port h)) ∧
  (∀ (s : State) (port prio : Nat) (h : IntakeHdr) (pl : List Byte) (a : State), port < 2 → s.power.mainOk = true →
    s.hostUp port = true → a = (s.hostRx port).countAt 0xC9 (hostInst port) 1 →
    a.on INT_CTRL_ENABLE = false ∨ a.jobState ≠ jsRunning ∨ intakeMalformed h pl.length = true →
    exec (.fragment port prio h pl) s = .next (a.intakeDrop port) ∧ exec (.gap port prio h pl) s = .next (a.intakeDrop port)) ∧
  (∀ (s : State) (port : Nat) (h : IntakeHdr) (pl : List Byte), (s.intake.samples.find? fun x => x.seq == h.sampleSeq) = none →
    s.intakeNext ≤ h.sampleSeq → s.isGap h.sampleSeq = false → s.intakeNext + 65536 ≤ h.sampleSeq →
    s.takeFragment port h pl = s.declare port 2 (h.sampleSeq, h.sampleSeq)) ∧
  (∀ (s : State) (port : Nat) (h : IntakeHdr) (pl : List Byte), (s.intake.samples.find? fun x => x.seq == h.sampleSeq) = none →
    s.intakeNext ≤ h.sampleSeq → s.isGap h.sampleSeq = false → h.sampleSeq < s.intakeNext + 65536 →
    s.intake.free < roundUp h.sampleBytes 128 → s.takeFragment port h pl = s.declare port 1 (h.sampleSeq, h.sampleSeq)) ∧
  (∀ (s : State) (port : Nat) (r : Nat × Nat), (s.declare port 1 r).intake.gaps = s.intake.gaps ++ [r] ∧
    (∀ x ∈ (s.declare port 1 r).intake.samples, x.seq < r.1 ∨ r.2 < x.seq) ∧ (s.declare port 1 r).mem = s.mem)) ∧
  ((∀ s : State, s.power.mainOk = true → s.on INT_CTRL_ENABLE = true → s.on INT_STATUS_PAUSED = false →
    s.intake.free ≤ s.intakeDist →
    exec .intakePause s = .next
      ((((s.put INT_STATUS_PAUSED 1).count 0xCC).sendPause 0xFFFF).mapIntake fun i =>
        { i with pausedAt := some s.time, xoffAt := s.time, pauses := i.pauses + 1, carried := 0, due := 3,
                 tail0 := s.time, tail1 := s.time })) ∧
  (∀ s : State, s.on INT_STATUS_PAUSED = false → s.intakeDist < s.intake.free → exec .intakePause s = .next s) ∧
  (∀ s : State, s.power.mainOk = true → s.on INT_CTRL_ENABLE = true → s.on INT_STATUS_PAUSED = true →
    s.intake.free < s.resumeLevel → s.intake.xoffAt + 40000 ≤ s.time →
    exec .intakePause s = .next ((s.sendPause 0xFFFF).mapIntake fun i => { i with xoffAt := s.time })) ∧
  (∀ s : State, s.power.mainOk = true → s.on INT_CTRL_ENABLE = true → s.on INT_STATUS_PAUSED = true →
    s.resumeLevel ≤ s.intake.free → exec .intakePause s = .next ((s.put INT_STATUS_PAUSED 0).sendPause 0)) ∧
  (∀ (s : State) (t ns : Nat), s.RegsCanonical → s.power.mainOk = true → s.on INT_CTRL_ENABLE = true →
    s.on INT_STATUS_PAUSED = false → bit (s.intake.due &&& s.intake.carried) 0 = true → s.intake.pausedAt = some t →
    s.intake.tail0 + 2000 ≤ s.time → ns = s.intake.tail0 - t →
    ∃ u, exec (.intakeRttSample 0 ns) s = .next u ∧ u.on INT_RTT0_VALID = true ∧
      u.intake.rtt0 = (s.intake.pauses, ns - s.get INT_PAUSE_RESP_NS) :: s.intake.rtt 0 ∧ u.intake.rtt1 = s.intake.rtt1 ∧
      u.get INT_RTT0_NS = min (((u.intake.rtt 0).map Prod.snd).foldl max 0) 0xFFFFFF ∧ u.mem = s.mem) ∧
  (∀ (s : State) (t ns : Nat), s.RegsCanonical → s.power.mainOk = true → s.on INT_CTRL_ENABLE = true →
    s.on INT_STATUS_PAUSED = false → bit (s.intake.due &&& s.intake.carried) 1 = true → s.intake.pausedAt = some t →
    s.intake.tail1 + 2000 ≤ s.time → ns = s.intake.tail1 - t →
    ∃ u, exec (.intakeRttSample 1 ns) s = .next u ∧ u.on INT_RTT1_VALID = true ∧
      u.intake.rtt1 = (s.intake.pauses, ns - s.get INT_PAUSE_RESP_NS) :: s.intake.rtt 1 ∧ u.intake.rtt0 = s.intake.rtt0 ∧
      u.get INT_RTT1_NS = min (((u.intake.rtt 1).map Prod.snd).foldl max 0) 0xFFFFFF ∧ u.mem = s.mem) ∧
  (∀ (s a : State) (d : Nat), s.power.mainOk = true → s.on INT_CTRL_ENABLE = true → a = s.noteRtt →
    a.on INT_RTT0_VALID = true ∨ a.on INT_RTT1_VALID = true →
    d = max 64 (min (a.get INT_RING_MIB * 64)
      (ceilDiv (a.portStop 0 (a.get INT_RTT0_NS) + a.portStop 1 (a.get INT_RTT1_NS) + 9216) 4096)) → d ≠ a.get INT_DIST_D →
    exec .intakeThreshMove s = .next ((a.put INT_DIST_D d).count 0xCD).endPause) ∧
  (∀ s : State, s.power.mainOk = true → s.on INT_CTRL_ENABLE = true → s.intake.rtt 0 = [] → s.intake.rtt 1 = [] → s.RegsCanonical →
    exec .intakeThreshMove s = .next s.noteRtt))
end

