-- ==== Sys2Proof/Laws/State.lean ====
section
/-! SUPPORT. What each named update of State leaves alone: one lemma per field and update. -/
namespace Sys2Proof.Machine

/-- A fold of steps that leave a view of the state alone leaves it alone. -/
theorem foldl_view {β γ : Type} (g : State → γ) (f : State → β → State) (hf : ∀ s b, g (f s b) = g s) (l : List β) (s : State) :
    g (l.foldl f s) = g s := by
  induction l generalizing s with
  | nil => rfl
  | cons b l ih => rw [List.foldl_cons, ih, hf]


/-! ## `setReg` changes regs -/

@[simp] theorem setReg_pending (s : State) (a v : Nat) : (s.setReg a v).pending = s.pending := (rfl)
@[simp] theorem setReg_time (s : State) (a v : Nat) : (s.setReg a v).time = s.time := (rfl)
@[simp] theorem setReg_free (s : State) (a v : Nat) : (s.setReg a v).free = s.free := (rfl)
@[simp] theorem setReg_out (s : State) (a v : Nat) : (s.setReg a v).out = s.out := (rfl)
@[simp] theorem setReg_pins (s : State) (a v : Nat) : (s.setReg a v).pins = s.pins := (rfl)
@[simp] theorem setReg_power (s : State) (a v : Nat) : (s.setReg a v).power = s.power := (rfl)
@[simp] theorem setReg_flash (s : State) (a v : Nat) : (s.setReg a v).flash = s.flash := (rfl)
@[simp] theorem setReg_esc (s : State) (a v : Nat) : (s.setReg a v).esc = s.esc := (rfl)
@[simp] theorem setReg_win (s : State) (a v : Nat) : (s.setReg a v).win = s.win := (rfl)
@[simp] theorem setReg_chembe (s : State) (a v : Nat) : (s.setReg a v).chembe = s.chembe := (rfl)
@[simp] theorem setReg_mem (s : State) (a v : Nat) : (s.setReg a v).mem = s.mem := (rfl)
@[simp] theorem setReg_sbd (s : State) (a v : Nat) : (s.setReg a v).sbd = s.sbd := (rfl)
@[simp] theorem setReg_cabs (s : State) (a v : Nat) : (s.setReg a v).cabs = s.cabs := (rfl)
@[simp] theorem setReg_leaves (s : State) (a v : Nat) : (s.setReg a v).leaves = s.leaves := (rfl)
@[simp] theorem setReg_turns (s : State) (a v : Nat) : (s.setReg a v).turns = s.turns := (rfl)
@[simp] theorem setReg_folio (s : State) (a v : Nat) : (s.setReg a v).folio = s.folio := (rfl)
@[simp] theorem setReg_job (s : State) (a v : Nat) : (s.setReg a v).job = s.job := (rfl)
@[simp] theorem setReg_run (s : State) (a v : Nat) : (s.setReg a v).run = s.run := (rfl)
@[simp] theorem setReg_quill (s : State) (a v : Nat) : (s.setReg a v).quill = s.quill := (rfl)
@[simp] theorem setReg_svl (s : State) (a v : Nat) : (s.setReg a v).svl = s.svl := (rfl)
@[simp] theorem setReg_risk (s : State) (a v : Nat) : (s.setReg a v).risk = s.risk := (rfl)
@[simp] theorem setReg_intake (s : State) (a v : Nat) : (s.setReg a v).intake = s.intake := (rfl)
@[simp] theorem setReg_hostFrames (s : State) (a v : Nat) : (s.setReg a v).hostFrames = s.hostFrames := (rfl)

/-! ## `put` changes regs -/

@[simp] theorem put_pending (s : State) (f : Fld) (v : Nat) : (s.put f v).pending = s.pending := (rfl)
@[simp] theorem put_time (s : State) (f : Fld) (v : Nat) : (s.put f v).time = s.time := (rfl)
@[simp] theorem put_free (s : State) (f : Fld) (v : Nat) : (s.put f v).free = s.free := (rfl)
@[simp] theorem put_out (s : State) (f : Fld) (v : Nat) : (s.put f v).out = s.out := (rfl)
@[simp] theorem put_pins (s : State) (f : Fld) (v : Nat) : (s.put f v).pins = s.pins := (rfl)
@[simp] theorem put_power (s : State) (f : Fld) (v : Nat) : (s.put f v).power = s.power := (rfl)
@[simp] theorem put_flash (s : State) (f : Fld) (v : Nat) : (s.put f v).flash = s.flash := (rfl)
@[simp] theorem put_esc (s : State) (f : Fld) (v : Nat) : (s.put f v).esc = s.esc := (rfl)
@[simp] theorem put_win (s : State) (f : Fld) (v : Nat) : (s.put f v).win = s.win := (rfl)
@[simp] theorem put_chembe (s : State) (f : Fld) (v : Nat) : (s.put f v).chembe = s.chembe := (rfl)
@[simp] theorem put_mem (s : State) (f : Fld) (v : Nat) : (s.put f v).mem = s.mem := (rfl)
@[simp] theorem put_sbd (s : State) (f : Fld) (v : Nat) : (s.put f v).sbd = s.sbd := (rfl)
@[simp] theorem put_cabs (s : State) (f : Fld) (v : Nat) : (s.put f v).cabs = s.cabs := (rfl)
@[simp] theorem put_leaves (s : State) (f : Fld) (v : Nat) : (s.put f v).leaves = s.leaves := (rfl)
@[simp] theorem put_turns (s : State) (f : Fld) (v : Nat) : (s.put f v).turns = s.turns := (rfl)
@[simp] theorem put_folio (s : State) (f : Fld) (v : Nat) : (s.put f v).folio = s.folio := (rfl)
@[simp] theorem put_job (s : State) (f : Fld) (v : Nat) : (s.put f v).job = s.job := (rfl)
@[simp] theorem put_run (s : State) (f : Fld) (v : Nat) : (s.put f v).run = s.run := (rfl)
@[simp] theorem put_quill (s : State) (f : Fld) (v : Nat) : (s.put f v).quill = s.quill := (rfl)
@[simp] theorem put_svl (s : State) (f : Fld) (v : Nat) : (s.put f v).svl = s.svl := (rfl)
@[simp] theorem put_risk (s : State) (f : Fld) (v : Nat) : (s.put f v).risk = s.risk := (rfl)
@[simp] theorem put_intake (s : State) (f : Fld) (v : Nat) : (s.put f v).intake = s.intake := (rfl)
@[simp] theorem put_hostFrames (s : State) (f : Fld) (v : Nat) : (s.put f v).hostFrames = s.hostFrames := (rfl)

/-! ## `bump` changes regs -/

@[simp] theorem bump_pending (s : State) (f : Fld) (n : Nat) : (s.bump f n).pending = s.pending := (rfl)
@[simp] theorem bump_time (s : State) (f : Fld) (n : Nat) : (s.bump f n).time = s.time := (rfl)
@[simp] theorem bump_free (s : State) (f : Fld) (n : Nat) : (s.bump f n).free = s.free := (rfl)
@[simp] theorem bump_out (s : State) (f : Fld) (n : Nat) : (s.bump f n).out = s.out := (rfl)
@[simp] theorem bump_pins (s : State) (f : Fld) (n : Nat) : (s.bump f n).pins = s.pins := (rfl)
@[simp] theorem bump_power (s : State) (f : Fld) (n : Nat) : (s.bump f n).power = s.power := (rfl)
@[simp] theorem bump_flash (s : State) (f : Fld) (n : Nat) : (s.bump f n).flash = s.flash := (rfl)
@[simp] theorem bump_esc (s : State) (f : Fld) (n : Nat) : (s.bump f n).esc = s.esc := (rfl)
@[simp] theorem bump_win (s : State) (f : Fld) (n : Nat) : (s.bump f n).win = s.win := (rfl)
@[simp] theorem bump_chembe (s : State) (f : Fld) (n : Nat) : (s.bump f n).chembe = s.chembe := (rfl)
@[simp] theorem bump_mem (s : State) (f : Fld) (n : Nat) : (s.bump f n).mem = s.mem := (rfl)
@[simp] theorem bump_sbd (s : State) (f : Fld) (n : Nat) : (s.bump f n).sbd = s.sbd := (rfl)
@[simp] theorem bump_cabs (s : State) (f : Fld) (n : Nat) : (s.bump f n).cabs = s.cabs := (rfl)
@[simp] theorem bump_leaves (s : State) (f : Fld) (n : Nat) : (s.bump f n).leaves = s.leaves := (rfl)
@[simp] theorem bump_turns (s : State) (f : Fld) (n : Nat) : (s.bump f n).turns = s.turns := (rfl)
@[simp] theorem bump_folio (s : State) (f : Fld) (n : Nat) : (s.bump f n).folio = s.folio := (rfl)
@[simp] theorem bump_job (s : State) (f : Fld) (n : Nat) : (s.bump f n).job = s.job := (rfl)
@[simp] theorem bump_run (s : State) (f : Fld) (n : Nat) : (s.bump f n).run = s.run := (rfl)
@[simp] theorem bump_quill (s : State) (f : Fld) (n : Nat) : (s.bump f n).quill = s.quill := (rfl)
@[simp] theorem bump_svl (s : State) (f : Fld) (n : Nat) : (s.bump f n).svl = s.svl := (rfl)
@[simp] theorem bump_risk (s : State) (f : Fld) (n : Nat) : (s.bump f n).risk = s.risk := (rfl)
@[simp] theorem bump_intake (s : State) (f : Fld) (n : Nat) : (s.bump f n).intake = s.intake := (rfl)
@[simp] theorem bump_hostFrames (s : State) (f : Fld) (n : Nat) : (s.bump f n).hostFrames = s.hostFrames := (rfl)

/-! ## `put2` changes regs -/

@[simp] theorem put2_pending (s : State) (lo hi : Fld) (v : Nat) : (s.put2 lo hi v).pending = s.pending := (rfl)
@[simp] theorem put2_time (s : State) (lo hi : Fld) (v : Nat) : (s.put2 lo hi v).time = s.time := (rfl)
@[simp] theorem put2_free (s : State) (lo hi : Fld) (v : Nat) : (s.put2 lo hi v).free = s.free := (rfl)
@[simp] theorem put2_out (s : State) (lo hi : Fld) (v : Nat) : (s.put2 lo hi v).out = s.out := (rfl)
@[simp] theorem put2_pins (s : State) (lo hi : Fld) (v : Nat) : (s.put2 lo hi v).pins = s.pins := (rfl)
@[simp] theorem put2_power (s : State) (lo hi : Fld) (v : Nat) : (s.put2 lo hi v).power = s.power := (rfl)
@[simp] theorem put2_flash (s : State) (lo hi : Fld) (v : Nat) : (s.put2 lo hi v).flash = s.flash := (rfl)
@[simp] theorem put2_esc (s : State) (lo hi : Fld) (v : Nat) : (s.put2 lo hi v).esc = s.esc := (rfl)
@[simp] theorem put2_win (s : State) (lo hi : Fld) (v : Nat) : (s.put2 lo hi v).win = s.win := (rfl)
@[simp] theorem put2_chembe (s : State) (lo hi : Fld) (v : Nat) : (s.put2 lo hi v).chembe = s.chembe := (rfl)
@[simp] theorem put2_mem (s : State) (lo hi : Fld) (v : Nat) : (s.put2 lo hi v).mem = s.mem := (rfl)
@[simp] theorem put2_sbd (s : State) (lo hi : Fld) (v : Nat) : (s.put2 lo hi v).sbd = s.sbd := (rfl)
@[simp] theorem put2_cabs (s : State) (lo hi : Fld) (v : Nat) : (s.put2 lo hi v).cabs = s.cabs := (rfl)
@[simp] theorem put2_leaves (s : State) (lo hi : Fld) (v : Nat) : (s.put2 lo hi v).leaves = s.leaves := (rfl)
@[simp] theorem put2_turns (s : State) (lo hi : Fld) (v : Nat) : (s.put2 lo hi v).turns = s.turns := (rfl)
@[simp] theorem put2_folio (s : State) (lo hi : Fld) (v : Nat) : (s.put2 lo hi v).folio = s.folio := (rfl)
@[simp] theorem put2_job (s : State) (lo hi : Fld) (v : Nat) : (s.put2 lo hi v).job = s.job := (rfl)
@[simp] theorem put2_run (s : State) (lo hi : Fld) (v : Nat) : (s.put2 lo hi v).run = s.run := (rfl)
@[simp] theorem put2_quill (s : State) (lo hi : Fld) (v : Nat) : (s.put2 lo hi v).quill = s.quill := (rfl)
@[simp] theorem put2_svl (s : State) (lo hi : Fld) (v : Nat) : (s.put2 lo hi v).svl = s.svl := (rfl)
@[simp] theorem put2_risk (s : State) (lo hi : Fld) (v : Nat) : (s.put2 lo hi v).risk = s.risk := (rfl)
@[simp] theorem put2_intake (s : State) (lo hi : Fld) (v : Nat) : (s.put2 lo hi v).intake = s.intake := (rfl)
@[simp] theorem put2_hostFrames (s : State) (lo hi : Fld) (v : Nat) : (s.put2 lo hi v).hostFrames = s.hostFrames := (rfl)

/-! ## `resetRegs` changes regs -/

@[simp] theorem resetRegs_pending (s : State) (lo hi : Nat) : (s.resetRegs lo hi).pending = s.pending := (rfl)
@[simp] theorem resetRegs_time (s : State) (lo hi : Nat) : (s.resetRegs lo hi).time = s.time := (rfl)
@[simp] theorem resetRegs_free (s : State) (lo hi : Nat) : (s.resetRegs lo hi).free = s.free := (rfl)
@[simp] theorem resetRegs_out (s : State) (lo hi : Nat) : (s.resetRegs lo hi).out = s.out := (rfl)
@[simp] theorem resetRegs_pins (s : State) (lo hi : Nat) : (s.resetRegs lo hi).pins = s.pins := (rfl)
@[simp] theorem resetRegs_power (s : State) (lo hi : Nat) : (s.resetRegs lo hi).power = s.power := (rfl)
@[simp] theorem resetRegs_flash (s : State) (lo hi : Nat) : (s.resetRegs lo hi).flash = s.flash := (rfl)
@[simp] theorem resetRegs_esc (s : State) (lo hi : Nat) : (s.resetRegs lo hi).esc = s.esc := (rfl)
@[simp] theorem resetRegs_win (s : State) (lo hi : Nat) : (s.resetRegs lo hi).win = s.win := (rfl)
@[simp] theorem resetRegs_chembe (s : State) (lo hi : Nat) : (s.resetRegs lo hi).chembe = s.chembe := (rfl)
@[simp] theorem resetRegs_mem (s : State) (lo hi : Nat) : (s.resetRegs lo hi).mem = s.mem := (rfl)
@[simp] theorem resetRegs_sbd (s : State) (lo hi : Nat) : (s.resetRegs lo hi).sbd = s.sbd := (rfl)
@[simp] theorem resetRegs_cabs (s : State) (lo hi : Nat) : (s.resetRegs lo hi).cabs = s.cabs := (rfl)
@[simp] theorem resetRegs_leaves (s : State) (lo hi : Nat) : (s.resetRegs lo hi).leaves = s.leaves := (rfl)
@[simp] theorem resetRegs_turns (s : State) (lo hi : Nat) : (s.resetRegs lo hi).turns = s.turns := (rfl)
@[simp] theorem resetRegs_folio (s : State) (lo hi : Nat) : (s.resetRegs lo hi).folio = s.folio := (rfl)
@[simp] theorem resetRegs_job (s : State) (lo hi : Nat) : (s.resetRegs lo hi).job = s.job := (rfl)
@[simp] theorem resetRegs_run (s : State) (lo hi : Nat) : (s.resetRegs lo hi).run = s.run := (rfl)
@[simp] theorem resetRegs_quill (s : State) (lo hi : Nat) : (s.resetRegs lo hi).quill = s.quill := (rfl)
@[simp] theorem resetRegs_svl (s : State) (lo hi : Nat) : (s.resetRegs lo hi).svl = s.svl := (rfl)
@[simp] theorem resetRegs_risk (s : State) (lo hi : Nat) : (s.resetRegs lo hi).risk = s.risk := (rfl)
@[simp] theorem resetRegs_intake (s : State) (lo hi : Nat) : (s.resetRegs lo hi).intake = s.intake := (rfl)
@[simp] theorem resetRegs_hostFrames (s : State) (lo hi : Nat) : (s.resetRegs lo hi).hostFrames = s.hostFrames := (rfl)

/-! ## `alert` changes regs -/

@[simp] theorem alert_pending (s : State) (b : Nat) : (s.alert b).pending = s.pending := (rfl)
@[simp] theorem alert_time (s : State) (b : Nat) : (s.alert b).time = s.time := (rfl)
@[simp] theorem alert_free (s : State) (b : Nat) : (s.alert b).free = s.free := (rfl)
@[simp] theorem alert_out (s : State) (b : Nat) : (s.alert b).out = s.out := (rfl)
@[simp] theorem alert_pins (s : State) (b : Nat) : (s.alert b).pins = s.pins := (rfl)
@[simp] theorem alert_power (s : State) (b : Nat) : (s.alert b).power = s.power := (rfl)
@[simp] theorem alert_flash (s : State) (b : Nat) : (s.alert b).flash = s.flash := (rfl)
@[simp] theorem alert_esc (s : State) (b : Nat) : (s.alert b).esc = s.esc := (rfl)
@[simp] theorem alert_win (s : State) (b : Nat) : (s.alert b).win = s.win := (rfl)
@[simp] theorem alert_chembe (s : State) (b : Nat) : (s.alert b).chembe = s.chembe := (rfl)
@[simp] theorem alert_mem (s : State) (b : Nat) : (s.alert b).mem = s.mem := (rfl)
@[simp] theorem alert_sbd (s : State) (b : Nat) : (s.alert b).sbd = s.sbd := (rfl)
@[simp] theorem alert_cabs (s : State) (b : Nat) : (s.alert b).cabs = s.cabs := (rfl)
@[simp] theorem alert_leaves (s : State) (b : Nat) : (s.alert b).leaves = s.leaves := (rfl)
@[simp] theorem alert_turns (s : State) (b : Nat) : (s.alert b).turns = s.turns := (rfl)
@[simp] theorem alert_folio (s : State) (b : Nat) : (s.alert b).folio = s.folio := (rfl)
@[simp] theorem alert_job (s : State) (b : Nat) : (s.alert b).job = s.job := (rfl)
@[simp] theorem alert_run (s : State) (b : Nat) : (s.alert b).run = s.run := (rfl)
@[simp] theorem alert_quill (s : State) (b : Nat) : (s.alert b).quill = s.quill := (rfl)
@[simp] theorem alert_svl (s : State) (b : Nat) : (s.alert b).svl = s.svl := (rfl)
@[simp] theorem alert_risk (s : State) (b : Nat) : (s.alert b).risk = s.risk := (rfl)
@[simp] theorem alert_intake (s : State) (b : Nat) : (s.alert b).intake = s.intake := (rfl)
@[simp] theorem alert_hostFrames (s : State) (b : Nat) : (s.alert b).hostFrames = s.hostFrames := (rfl)

/-! ## `send` changes out -/

@[simp] theorem send_pending (s : State) (o : Out) : (s.send o).pending = s.pending := (rfl)
@[simp] theorem send_time (s : State) (o : Out) : (s.send o).time = s.time := (rfl)
@[simp] theorem send_free (s : State) (o : Out) : (s.send o).free = s.free := (rfl)
@[simp] theorem send_pins (s : State) (o : Out) : (s.send o).pins = s.pins := (rfl)
@[simp] theorem send_power (s : State) (o : Out) : (s.send o).power = s.power := (rfl)
@[simp] theorem send_flash (s : State) (o : Out) : (s.send o).flash = s.flash := (rfl)
@[simp] theorem send_esc (s : State) (o : Out) : (s.send o).esc = s.esc := (rfl)
@[simp] theorem send_regs (s : State) (o : Out) : (s.send o).regs = s.regs := (rfl)
@[simp] theorem send_win (s : State) (o : Out) : (s.send o).win = s.win := (rfl)
@[simp] theorem send_chembe (s : State) (o : Out) : (s.send o).chembe = s.chembe := (rfl)
@[simp] theorem send_mem (s : State) (o : Out) : (s.send o).mem = s.mem := (rfl)
@[simp] theorem send_sbd (s : State) (o : Out) : (s.send o).sbd = s.sbd := (rfl)
@[simp] theorem send_cabs (s : State) (o : Out) : (s.send o).cabs = s.cabs := (rfl)
@[simp] theorem send_leaves (s : State) (o : Out) : (s.send o).leaves = s.leaves := (rfl)
@[simp] theorem send_turns (s : State) (o : Out) : (s.send o).turns = s.turns := (rfl)
@[simp] theorem send_folio (s : State) (o : Out) : (s.send o).folio = s.folio := (rfl)
@[simp] theorem send_job (s : State) (o : Out) : (s.send o).job = s.job := (rfl)
@[simp] theorem send_run (s : State) (o : Out) : (s.send o).run = s.run := (rfl)
@[simp] theorem send_quill (s : State) (o : Out) : (s.send o).quill = s.quill := (rfl)
@[simp] theorem send_svl (s : State) (o : Out) : (s.send o).svl = s.svl := (rfl)
@[simp] theorem send_risk (s : State) (o : Out) : (s.send o).risk = s.risk := (rfl)
@[simp] theorem send_intake (s : State) (o : Out) : (s.send o).intake = s.intake := (rfl)
@[simp] theorem send_hostFrames (s : State) (o : Out) : (s.send o).hostFrames = s.hostFrames := (rfl)

/-! ## `mapFlash` changes flash -/

@[simp] theorem mapFlash_pending (s : State) (f : Flash → Flash) : (s.mapFlash f).pending = s.pending := (rfl)
@[simp] theorem mapFlash_time (s : State) (f : Flash → Flash) : (s.mapFlash f).time = s.time := (rfl)
@[simp] theorem mapFlash_free (s : State) (f : Flash → Flash) : (s.mapFlash f).free = s.free := (rfl)
@[simp] theorem mapFlash_out (s : State) (f : Flash → Flash) : (s.mapFlash f).out = s.out := (rfl)
@[simp] theorem mapFlash_pins (s : State) (f : Flash → Flash) : (s.mapFlash f).pins = s.pins := (rfl)
@[simp] theorem mapFlash_power (s : State) (f : Flash → Flash) : (s.mapFlash f).power = s.power := (rfl)
@[simp] theorem mapFlash_esc (s : State) (f : Flash → Flash) : (s.mapFlash f).esc = s.esc := (rfl)
@[simp] theorem mapFlash_regs (s : State) (f : Flash → Flash) : (s.mapFlash f).regs = s.regs := (rfl)
@[simp] theorem mapFlash_win (s : State) (f : Flash → Flash) : (s.mapFlash f).win = s.win := (rfl)
@[simp] theorem mapFlash_chembe (s : State) (f : Flash → Flash) : (s.mapFlash f).chembe = s.chembe := (rfl)
@[simp] theorem mapFlash_mem (s : State) (f : Flash → Flash) : (s.mapFlash f).mem = s.mem := (rfl)
@[simp] theorem mapFlash_sbd (s : State) (f : Flash → Flash) : (s.mapFlash f).sbd = s.sbd := (rfl)
@[simp] theorem mapFlash_cabs (s : State) (f : Flash → Flash) : (s.mapFlash f).cabs = s.cabs := (rfl)
@[simp] theorem mapFlash_leaves (s : State) (f : Flash → Flash) : (s.mapFlash f).leaves = s.leaves := (rfl)
@[simp] theorem mapFlash_turns (s : State) (f : Flash → Flash) : (s.mapFlash f).turns = s.turns := (rfl)
@[simp] theorem mapFlash_folio (s : State) (f : Flash → Flash) : (s.mapFlash f).folio = s.folio := (rfl)
@[simp] theorem mapFlash_job (s : State) (f : Flash → Flash) : (s.mapFlash f).job = s.job := (rfl)
@[simp] theorem mapFlash_run (s : State) (f : Flash → Flash) : (s.mapFlash f).run = s.run := (rfl)
@[simp] theorem mapFlash_quill (s : State) (f : Flash → Flash) : (s.mapFlash f).quill = s.quill := (rfl)
@[simp] theorem mapFlash_svl (s : State) (f : Flash → Flash) : (s.mapFlash f).svl = s.svl := (rfl)
@[simp] theorem mapFlash_risk (s : State) (f : Flash → Flash) : (s.mapFlash f).risk = s.risk := (rfl)
@[simp] theorem mapFlash_intake (s : State) (f : Flash → Flash) : (s.mapFlash f).intake = s.intake := (rfl)
@[simp] theorem mapFlash_hostFrames (s : State) (f : Flash → Flash) : (s.mapFlash f).hostFrames = s.hostFrames := (rfl)

/-! ## `setJobState` changes regs -/

@[simp] theorem setJobState_pending (s : State) (v : Nat) : (s.setJobState v).pending = s.pending := (rfl)
@[simp] theorem setJobState_time (s : State) (v : Nat) : (s.setJobState v).time = s.time := (rfl)
@[simp] theorem setJobState_free (s : State) (v : Nat) : (s.setJobState v).free = s.free := (rfl)
@[simp] theorem setJobState_out (s : State) (v : Nat) : (s.setJobState v).out = s.out := (rfl)
@[simp] theorem setJobState_pins (s : State) (v : Nat) : (s.setJobState v).pins = s.pins := (rfl)
@[simp] theorem setJobState_power (s : State) (v : Nat) : (s.setJobState v).power = s.power := (rfl)
@[simp] theorem setJobState_flash (s : State) (v : Nat) : (s.setJobState v).flash = s.flash := (rfl)
@[simp] theorem setJobState_esc (s : State) (v : Nat) : (s.setJobState v).esc = s.esc := (rfl)
@[simp] theorem setJobState_win (s : State) (v : Nat) : (s.setJobState v).win = s.win := (rfl)
@[simp] theorem setJobState_chembe (s : State) (v : Nat) : (s.setJobState v).chembe = s.chembe := (rfl)
@[simp] theorem setJobState_mem (s : State) (v : Nat) : (s.setJobState v).mem = s.mem := (rfl)
@[simp] theorem setJobState_sbd (s : State) (v : Nat) : (s.setJobState v).sbd = s.sbd := (rfl)
@[simp] theorem setJobState_cabs (s : State) (v : Nat) : (s.setJobState v).cabs = s.cabs := (rfl)
@[simp] theorem setJobState_leaves (s : State) (v : Nat) : (s.setJobState v).leaves = s.leaves := (rfl)
@[simp] theorem setJobState_turns (s : State) (v : Nat) : (s.setJobState v).turns = s.turns := (rfl)
@[simp] theorem setJobState_folio (s : State) (v : Nat) : (s.setJobState v).folio = s.folio := (rfl)
@[simp] theorem setJobState_job (s : State) (v : Nat) : (s.setJobState v).job = s.job := (rfl)
@[simp] theorem setJobState_run (s : State) (v : Nat) : (s.setJobState v).run = s.run := (rfl)
@[simp] theorem setJobState_quill (s : State) (v : Nat) : (s.setJobState v).quill = s.quill := (rfl)
@[simp] theorem setJobState_svl (s : State) (v : Nat) : (s.setJobState v).svl = s.svl := (rfl)
@[simp] theorem setJobState_risk (s : State) (v : Nat) : (s.setJobState v).risk = s.risk := (rfl)
@[simp] theorem setJobState_intake (s : State) (v : Nat) : (s.setJobState v).intake = s.intake := (rfl)
@[simp] theorem setJobState_hostFrames (s : State) (v : Nat) : (s.setJobState v).hostFrames = s.hostFrames := (rfl)

/-! ## `mapSessions` changes chembe -/

@[simp] theorem mapSessions_pending (s : State) (f : Session → Session) : (s.mapSessions f).pending = s.pending := (rfl)
@[simp] theorem mapSessions_time (s : State) (f : Session → Session) : (s.mapSessions f).time = s.time := (rfl)
@[simp] theorem mapSessions_free (s : State) (f : Session → Session) : (s.mapSessions f).free = s.free := (rfl)
@[simp] theorem mapSessions_out (s : State) (f : Session → Session) : (s.mapSessions f).out = s.out := (rfl)
@[simp] theorem mapSessions_pins (s : State) (f : Session → Session) : (s.mapSessions f).pins = s.pins := (rfl)
@[simp] theorem mapSessions_power (s : State) (f : Session → Session) : (s.mapSessions f).power = s.power := (rfl)
@[simp] theorem mapSessions_flash (s : State) (f : Session → Session) : (s.mapSessions f).flash = s.flash := (rfl)
@[simp] theorem mapSessions_esc (s : State) (f : Session → Session) : (s.mapSessions f).esc = s.esc := (rfl)
@[simp] theorem mapSessions_regs (s : State) (f : Session → Session) : (s.mapSessions f).regs = s.regs := (rfl)
@[simp] theorem mapSessions_win (s : State) (f : Session → Session) : (s.mapSessions f).win = s.win := (rfl)
@[simp] theorem mapSessions_mem (s : State) (f : Session → Session) : (s.mapSessions f).mem = s.mem := (rfl)
@[simp] theorem mapSessions_sbd (s : State) (f : Session → Session) : (s.mapSessions f).sbd = s.sbd := (rfl)
@[simp] theorem mapSessions_cabs (s : State) (f : Session → Session) : (s.mapSessions f).cabs = s.cabs := (rfl)
@[simp] theorem mapSessions_leaves (s : State) (f : Session → Session) : (s.mapSessions f).leaves = s.leaves := (rfl)
@[simp] theorem mapSessions_turns (s : State) (f : Session → Session) : (s.mapSessions f).turns = s.turns := (rfl)
@[simp] theorem mapSessions_folio (s : State) (f : Session → Session) : (s.mapSessions f).folio = s.folio := (rfl)
@[simp] theorem mapSessions_job (s : State) (f : Session → Session) : (s.mapSessions f).job = s.job := (rfl)
@[simp] theorem mapSessions_run (s : State) (f : Session → Session) : (s.mapSessions f).run = s.run := (rfl)
@[simp] theorem mapSessions_quill (s : State) (f : Session → Session) : (s.mapSessions f).quill = s.quill := (rfl)
@[simp] theorem mapSessions_svl (s : State) (f : Session → Session) : (s.mapSessions f).svl = s.svl := (rfl)
@[simp] theorem mapSessions_risk (s : State) (f : Session → Session) : (s.mapSessions f).risk = s.risk := (rfl)
@[simp] theorem mapSessions_intake (s : State) (f : Session → Session) : (s.mapSessions f).intake = s.intake := (rfl)
@[simp] theorem mapSessions_hostFrames (s : State) (f : Session → Session) : (s.mapSessions f).hostFrames = s.hostFrames := (rfl)

/-! ## `onSession` changes chembe -/

@[simp] theorem onSession_pending (s : State) (h : Hdr) (f : Session → Session) : (s.onSession h f).pending = s.pending := (rfl)
@[simp] theorem onSession_time (s : State) (h : Hdr) (f : Session → Session) : (s.onSession h f).time = s.time := (rfl)
@[simp] theorem onSession_free (s : State) (h : Hdr) (f : Session → Session) : (s.onSession h f).free = s.free := (rfl)
@[simp] theorem onSession_out (s : State) (h : Hdr) (f : Session → Session) : (s.onSession h f).out = s.out := (rfl)
@[simp] theorem onSession_pins (s : State) (h : Hdr) (f : Session → Session) : (s.onSession h f).pins = s.pins := (rfl)
@[simp] theorem onSession_power (s : State) (h : Hdr) (f : Session → Session) : (s.onSession h f).power = s.power := (rfl)
@[simp] theorem onSession_flash (s : State) (h : Hdr) (f : Session → Session) : (s.onSession h f).flash = s.flash := (rfl)
@[simp] theorem onSession_esc (s : State) (h : Hdr) (f : Session → Session) : (s.onSession h f).esc = s.esc := (rfl)
@[simp] theorem onSession_regs (s : State) (h : Hdr) (f : Session → Session) : (s.onSession h f).regs = s.regs := (rfl)
@[simp] theorem onSession_win (s : State) (h : Hdr) (f : Session → Session) : (s.onSession h f).win = s.win := (rfl)
@[simp] theorem onSession_mem (s : State) (h : Hdr) (f : Session → Session) : (s.onSession h f).mem = s.mem := (rfl)
@[simp] theorem onSession_sbd (s : State) (h : Hdr) (f : Session → Session) : (s.onSession h f).sbd = s.sbd := (rfl)
@[simp] theorem onSession_cabs (s : State) (h : Hdr) (f : Session → Session) : (s.onSession h f).cabs = s.cabs := (rfl)
@[simp] theorem onSession_leaves (s : State) (h : Hdr) (f : Session → Session) : (s.onSession h f).leaves = s.leaves := (rfl)
@[simp] theorem onSession_turns (s : State) (h : Hdr) (f : Session → Session) : (s.onSession h f).turns = s.turns := (rfl)
@[simp] theorem onSession_folio (s : State) (h : Hdr) (f : Session → Session) : (s.onSession h f).folio = s.folio := (rfl)
@[simp] theorem onSession_job (s : State) (h : Hdr) (f : Session → Session) : (s.onSession h f).job = s.job := (rfl)
@[simp] theorem onSession_run (s : State) (h : Hdr) (f : Session → Session) : (s.onSession h f).run = s.run := (rfl)
@[simp] theorem onSession_quill (s : State) (h : Hdr) (f : Session → Session) : (s.onSession h f).quill = s.quill := (rfl)
@[simp] theorem onSession_svl (s : State) (h : Hdr) (f : Session → Session) : (s.onSession h f).svl = s.svl := (rfl)
@[simp] theorem onSession_risk (s : State) (h : Hdr) (f : Session → Session) : (s.onSession h f).risk = s.risk := (rfl)
@[simp] theorem onSession_intake (s : State) (h : Hdr) (f : Session → Session) : (s.onSession h f).intake = s.intake := (rfl)
@[simp] theorem onSession_hostFrames (s : State) (h : Hdr) (f : Session → Session) : (s.onSession h f).hostFrames = s.hostFrames := (rfl)

/-! ## `addDeferred` changes chembe -/

@[simp] theorem addDeferred_pending (s : State) (h : Hdr) (c : Nat) (r : Option (Nat × List Byte)) (a : Nat) : (s.addDeferred h c r a).pending = s.pending := (rfl)
@[simp] theorem addDeferred_time (s : State) (h : Hdr) (c : Nat) (r : Option (Nat × List Byte)) (a : Nat) : (s.addDeferred h c r a).time = s.time := (rfl)
@[simp] theorem addDeferred_free (s : State) (h : Hdr) (c : Nat) (r : Option (Nat × List Byte)) (a : Nat) : (s.addDeferred h c r a).free = s.free := (rfl)
@[simp] theorem addDeferred_out (s : State) (h : Hdr) (c : Nat) (r : Option (Nat × List Byte)) (a : Nat) : (s.addDeferred h c r a).out = s.out := (rfl)
@[simp] theorem addDeferred_pins (s : State) (h : Hdr) (c : Nat) (r : Option (Nat × List Byte)) (a : Nat) : (s.addDeferred h c r a).pins = s.pins := (rfl)
@[simp] theorem addDeferred_power (s : State) (h : Hdr) (c : Nat) (r : Option (Nat × List Byte)) (a : Nat) : (s.addDeferred h c r a).power = s.power := (rfl)
@[simp] theorem addDeferred_flash (s : State) (h : Hdr) (c : Nat) (r : Option (Nat × List Byte)) (a : Nat) : (s.addDeferred h c r a).flash = s.flash := (rfl)
@[simp] theorem addDeferred_esc (s : State) (h : Hdr) (c : Nat) (r : Option (Nat × List Byte)) (a : Nat) : (s.addDeferred h c r a).esc = s.esc := (rfl)
@[simp] theorem addDeferred_regs (s : State) (h : Hdr) (c : Nat) (r : Option (Nat × List Byte)) (a : Nat) : (s.addDeferred h c r a).regs = s.regs := (rfl)
@[simp] theorem addDeferred_win (s : State) (h : Hdr) (c : Nat) (r : Option (Nat × List Byte)) (a : Nat) : (s.addDeferred h c r a).win = s.win := (rfl)
@[simp] theorem addDeferred_mem (s : State) (h : Hdr) (c : Nat) (r : Option (Nat × List Byte)) (a : Nat) : (s.addDeferred h c r a).mem = s.mem := (rfl)
@[simp] theorem addDeferred_sbd (s : State) (h : Hdr) (c : Nat) (r : Option (Nat × List Byte)) (a : Nat) : (s.addDeferred h c r a).sbd = s.sbd := (rfl)
@[simp] theorem addDeferred_cabs (s : State) (h : Hdr) (c : Nat) (r : Option (Nat × List Byte)) (a : Nat) : (s.addDeferred h c r a).cabs = s.cabs := (rfl)
@[simp] theorem addDeferred_leaves (s : State) (h : Hdr) (c : Nat) (r : Option (Nat × List Byte)) (a : Nat) : (s.addDeferred h c r a).leaves = s.leaves := (rfl)
@[simp] theorem addDeferred_turns (s : State) (h : Hdr) (c : Nat) (r : Option (Nat × List Byte)) (a : Nat) : (s.addDeferred h c r a).turns = s.turns := (rfl)
@[simp] theorem addDeferred_folio (s : State) (h : Hdr) (c : Nat) (r : Option (Nat × List Byte)) (a : Nat) : (s.addDeferred h c r a).folio = s.folio := (rfl)
@[simp] theorem addDeferred_job (s : State) (h : Hdr) (c : Nat) (r : Option (Nat × List Byte)) (a : Nat) : (s.addDeferred h c r a).job = s.job := (rfl)
@[simp] theorem addDeferred_run (s : State) (h : Hdr) (c : Nat) (r : Option (Nat × List Byte)) (a : Nat) : (s.addDeferred h c r a).run = s.run := (rfl)
@[simp] theorem addDeferred_quill (s : State) (h : Hdr) (c : Nat) (r : Option (Nat × List Byte)) (a : Nat) : (s.addDeferred h c r a).quill = s.quill := (rfl)
@[simp] theorem addDeferred_svl (s : State) (h : Hdr) (c : Nat) (r : Option (Nat × List Byte)) (a : Nat) : (s.addDeferred h c r a).svl = s.svl := (rfl)
@[simp] theorem addDeferred_risk (s : State) (h : Hdr) (c : Nat) (r : Option (Nat × List Byte)) (a : Nat) : (s.addDeferred h c r a).risk = s.risk := (rfl)
@[simp] theorem addDeferred_intake (s : State) (h : Hdr) (c : Nat) (r : Option (Nat × List Byte)) (a : Nat) : (s.addDeferred h c r a).intake = s.intake := (rfl)
@[simp] theorem addDeferred_hostFrames (s : State) (h : Hdr) (c : Nat) (r : Option (Nat × List Byte)) (a : Nat) : (s.addDeferred h c r a).hostFrames = s.hostFrames := (rfl)

/-! ## `mapJob` changes job -/

@[simp] theorem mapJob_pending (s : State) (f : Job → Job) : (s.mapJob f).pending = s.pending := (rfl)
@[simp] theorem mapJob_time (s : State) (f : Job → Job) : (s.mapJob f).time = s.time := (rfl)
@[simp] theorem mapJob_free (s : State) (f : Job → Job) : (s.mapJob f).free = s.free := (rfl)
@[simp] theorem mapJob_out (s : State) (f : Job → Job) : (s.mapJob f).out = s.out := (rfl)
@[simp] theorem mapJob_pins (s : State) (f : Job → Job) : (s.mapJob f).pins = s.pins := (rfl)
@[simp] theorem mapJob_power (s : State) (f : Job → Job) : (s.mapJob f).power = s.power := (rfl)
@[simp] theorem mapJob_flash (s : State) (f : Job → Job) : (s.mapJob f).flash = s.flash := (rfl)
@[simp] theorem mapJob_esc (s : State) (f : Job → Job) : (s.mapJob f).esc = s.esc := (rfl)
@[simp] theorem mapJob_regs (s : State) (f : Job → Job) : (s.mapJob f).regs = s.regs := (rfl)
@[simp] theorem mapJob_win (s : State) (f : Job → Job) : (s.mapJob f).win = s.win := (rfl)
@[simp] theorem mapJob_chembe (s : State) (f : Job → Job) : (s.mapJob f).chembe = s.chembe := (rfl)
@[simp] theorem mapJob_mem (s : State) (f : Job → Job) : (s.mapJob f).mem = s.mem := (rfl)
@[simp] theorem mapJob_sbd (s : State) (f : Job → Job) : (s.mapJob f).sbd = s.sbd := (rfl)
@[simp] theorem mapJob_cabs (s : State) (f : Job → Job) : (s.mapJob f).cabs = s.cabs := (rfl)
@[simp] theorem mapJob_leaves (s : State) (f : Job → Job) : (s.mapJob f).leaves = s.leaves := (rfl)
@[simp] theorem mapJob_turns (s : State) (f : Job → Job) : (s.mapJob f).turns = s.turns := (rfl)
@[simp] theorem mapJob_folio (s : State) (f : Job → Job) : (s.mapJob f).folio = s.folio := (rfl)
@[simp] theorem mapJob_run (s : State) (f : Job → Job) : (s.mapJob f).run = s.run := (rfl)
@[simp] theorem mapJob_quill (s : State) (f : Job → Job) : (s.mapJob f).quill = s.quill := (rfl)
@[simp] theorem mapJob_svl (s : State) (f : Job → Job) : (s.mapJob f).svl = s.svl := (rfl)
@[simp] theorem mapJob_risk (s : State) (f : Job → Job) : (s.mapJob f).risk = s.risk := (rfl)
@[simp] theorem mapJob_intake (s : State) (f : Job → Job) : (s.mapJob f).intake = s.intake := (rfl)
@[simp] theorem mapJob_hostFrames (s : State) (f : Job → Job) : (s.mapJob f).hostFrames = s.hostFrames := (rfl)

/-! ## `mapRun` changes run -/

@[simp] theorem mapRun_pending (s : State) (f : Run → Run) : (s.mapRun f).pending = s.pending := (rfl)
@[simp] theorem mapRun_time (s : State) (f : Run → Run) : (s.mapRun f).time = s.time := (rfl)
@[simp] theorem mapRun_free (s : State) (f : Run → Run) : (s.mapRun f).free = s.free := (rfl)
@[simp] theorem mapRun_out (s : State) (f : Run → Run) : (s.mapRun f).out = s.out := (rfl)
@[simp] theorem mapRun_pins (s : State) (f : Run → Run) : (s.mapRun f).pins = s.pins := (rfl)
@[simp] theorem mapRun_power (s : State) (f : Run → Run) : (s.mapRun f).power = s.power := (rfl)
@[simp] theorem mapRun_flash (s : State) (f : Run → Run) : (s.mapRun f).flash = s.flash := (rfl)
@[simp] theorem mapRun_esc (s : State) (f : Run → Run) : (s.mapRun f).esc = s.esc := (rfl)
@[simp] theorem mapRun_regs (s : State) (f : Run → Run) : (s.mapRun f).regs = s.regs := (rfl)
@[simp] theorem mapRun_win (s : State) (f : Run → Run) : (s.mapRun f).win = s.win := (rfl)
@[simp] theorem mapRun_chembe (s : State) (f : Run → Run) : (s.mapRun f).chembe = s.chembe := (rfl)
@[simp] theorem mapRun_mem (s : State) (f : Run → Run) : (s.mapRun f).mem = s.mem := (rfl)
@[simp] theorem mapRun_sbd (s : State) (f : Run → Run) : (s.mapRun f).sbd = s.sbd := (rfl)
@[simp] theorem mapRun_cabs (s : State) (f : Run → Run) : (s.mapRun f).cabs = s.cabs := (rfl)
@[simp] theorem mapRun_leaves (s : State) (f : Run → Run) : (s.mapRun f).leaves = s.leaves := (rfl)
@[simp] theorem mapRun_turns (s : State) (f : Run → Run) : (s.mapRun f).turns = s.turns := (rfl)
@[simp] theorem mapRun_folio (s : State) (f : Run → Run) : (s.mapRun f).folio = s.folio := (rfl)
@[simp] theorem mapRun_job (s : State) (f : Run → Run) : (s.mapRun f).job = s.job := (rfl)
@[simp] theorem mapRun_quill (s : State) (f : Run → Run) : (s.mapRun f).quill = s.quill := (rfl)
@[simp] theorem mapRun_svl (s : State) (f : Run → Run) : (s.mapRun f).svl = s.svl := (rfl)
@[simp] theorem mapRun_risk (s : State) (f : Run → Run) : (s.mapRun f).risk = s.risk := (rfl)
@[simp] theorem mapRun_intake (s : State) (f : Run → Run) : (s.mapRun f).intake = s.intake := (rfl)
@[simp] theorem mapRun_hostFrames (s : State) (f : Run → Run) : (s.mapRun f).hostFrames = s.hostFrames := (rfl)

/-! ## `setCab` changes cabs -/

@[simp] theorem setCab_pending (s : State) (c : Nat) (f : Cab → Cab) : (s.setCab c f).pending = s.pending := (rfl)
@[simp] theorem setCab_time (s : State) (c : Nat) (f : Cab → Cab) : (s.setCab c f).time = s.time := (rfl)
@[simp] theorem setCab_free (s : State) (c : Nat) (f : Cab → Cab) : (s.setCab c f).free = s.free := (rfl)
@[simp] theorem setCab_out (s : State) (c : Nat) (f : Cab → Cab) : (s.setCab c f).out = s.out := (rfl)
@[simp] theorem setCab_pins (s : State) (c : Nat) (f : Cab → Cab) : (s.setCab c f).pins = s.pins := (rfl)
@[simp] theorem setCab_power (s : State) (c : Nat) (f : Cab → Cab) : (s.setCab c f).power = s.power := (rfl)
@[simp] theorem setCab_flash (s : State) (c : Nat) (f : Cab → Cab) : (s.setCab c f).flash = s.flash := (rfl)
@[simp] theorem setCab_esc (s : State) (c : Nat) (f : Cab → Cab) : (s.setCab c f).esc = s.esc := (rfl)
@[simp] theorem setCab_regs (s : State) (c : Nat) (f : Cab → Cab) : (s.setCab c f).regs = s.regs := (rfl)
@[simp] theorem setCab_win (s : State) (c : Nat) (f : Cab → Cab) : (s.setCab c f).win = s.win := (rfl)
@[simp] theorem setCab_chembe (s : State) (c : Nat) (f : Cab → Cab) : (s.setCab c f).chembe = s.chembe := (rfl)
@[simp] theorem setCab_mem (s : State) (c : Nat) (f : Cab → Cab) : (s.setCab c f).mem = s.mem := (rfl)
@[simp] theorem setCab_sbd (s : State) (c : Nat) (f : Cab → Cab) : (s.setCab c f).sbd = s.sbd := (rfl)
@[simp] theorem setCab_leaves (s : State) (c : Nat) (f : Cab → Cab) : (s.setCab c f).leaves = s.leaves := (rfl)
@[simp] theorem setCab_turns (s : State) (c : Nat) (f : Cab → Cab) : (s.setCab c f).turns = s.turns := (rfl)
@[simp] theorem setCab_folio (s : State) (c : Nat) (f : Cab → Cab) : (s.setCab c f).folio = s.folio := (rfl)
@[simp] theorem setCab_job (s : State) (c : Nat) (f : Cab → Cab) : (s.setCab c f).job = s.job := (rfl)
@[simp] theorem setCab_run (s : State) (c : Nat) (f : Cab → Cab) : (s.setCab c f).run = s.run := (rfl)
@[simp] theorem setCab_quill (s : State) (c : Nat) (f : Cab → Cab) : (s.setCab c f).quill = s.quill := (rfl)
@[simp] theorem setCab_svl (s : State) (c : Nat) (f : Cab → Cab) : (s.setCab c f).svl = s.svl := (rfl)
@[simp] theorem setCab_risk (s : State) (c : Nat) (f : Cab → Cab) : (s.setCab c f).risk = s.risk := (rfl)
@[simp] theorem setCab_intake (s : State) (c : Nat) (f : Cab → Cab) : (s.setCab c f).intake = s.intake := (rfl)
@[simp] theorem setCab_hostFrames (s : State) (c : Nat) (f : Cab → Cab) : (s.setCab c f).hostFrames = s.hostFrames := (rfl)

/-! ## `mapSvl` changes svl -/

@[simp] theorem mapSvl_pending (s : State) (f : Survival → Survival) : (s.mapSvl f).pending = s.pending := (rfl)
@[simp] theorem mapSvl_time (s : State) (f : Survival → Survival) : (s.mapSvl f).time = s.time := (rfl)
@[simp] theorem mapSvl_free (s : State) (f : Survival → Survival) : (s.mapSvl f).free = s.free := (rfl)
@[simp] theorem mapSvl_out (s : State) (f : Survival → Survival) : (s.mapSvl f).out = s.out := (rfl)
@[simp] theorem mapSvl_pins (s : State) (f : Survival → Survival) : (s.mapSvl f).pins = s.pins := (rfl)
@[simp] theorem mapSvl_power (s : State) (f : Survival → Survival) : (s.mapSvl f).power = s.power := (rfl)
@[simp] theorem mapSvl_flash (s : State) (f : Survival → Survival) : (s.mapSvl f).flash = s.flash := (rfl)
@[simp] theorem mapSvl_esc (s : State) (f : Survival → Survival) : (s.mapSvl f).esc = s.esc := (rfl)
@[simp] theorem mapSvl_regs (s : State) (f : Survival → Survival) : (s.mapSvl f).regs = s.regs := (rfl)
@[simp] theorem mapSvl_win (s : State) (f : Survival → Survival) : (s.mapSvl f).win = s.win := (rfl)
@[simp] theorem mapSvl_chembe (s : State) (f : Survival → Survival) : (s.mapSvl f).chembe = s.chembe := (rfl)
@[simp] theorem mapSvl_mem (s : State) (f : Survival → Survival) : (s.mapSvl f).mem = s.mem := (rfl)
@[simp] theorem mapSvl_sbd (s : State) (f : Survival → Survival) : (s.mapSvl f).sbd = s.sbd := (rfl)
@[simp] theorem mapSvl_cabs (s : State) (f : Survival → Survival) : (s.mapSvl f).cabs = s.cabs := (rfl)
@[simp] theorem mapSvl_leaves (s : State) (f : Survival → Survival) : (s.mapSvl f).leaves = s.leaves := (rfl)
@[simp] theorem mapSvl_turns (s : State) (f : Survival → Survival) : (s.mapSvl f).turns = s.turns := (rfl)
@[simp] theorem mapSvl_folio (s : State) (f : Survival → Survival) : (s.mapSvl f).folio = s.folio := (rfl)
@[simp] theorem mapSvl_job (s : State) (f : Survival → Survival) : (s.mapSvl f).job = s.job := (rfl)
@[simp] theorem mapSvl_run (s : State) (f : Survival → Survival) : (s.mapSvl f).run = s.run := (rfl)
@[simp] theorem mapSvl_quill (s : State) (f : Survival → Survival) : (s.mapSvl f).quill = s.quill := (rfl)
@[simp] theorem mapSvl_risk (s : State) (f : Survival → Survival) : (s.mapSvl f).risk = s.risk := (rfl)
@[simp] theorem mapSvl_intake (s : State) (f : Survival → Survival) : (s.mapSvl f).intake = s.intake := (rfl)
@[simp] theorem mapSvl_hostFrames (s : State) (f : Survival → Survival) : (s.mapSvl f).hostFrames = s.hostFrames := (rfl)

/-! ## `mapQuill` changes quill -/

@[simp] theorem mapQuill_pending (s : State) (f : Quill → Quill) : (s.mapQuill f).pending = s.pending := (rfl)
@[simp] theorem mapQuill_time (s : State) (f : Quill → Quill) : (s.mapQuill f).time = s.time := (rfl)
@[simp] theorem mapQuill_free (s : State) (f : Quill → Quill) : (s.mapQuill f).free = s.free := (rfl)
@[simp] theorem mapQuill_out (s : State) (f : Quill → Quill) : (s.mapQuill f).out = s.out := (rfl)
@[simp] theorem mapQuill_pins (s : State) (f : Quill → Quill) : (s.mapQuill f).pins = s.pins := (rfl)
@[simp] theorem mapQuill_power (s : State) (f : Quill → Quill) : (s.mapQuill f).power = s.power := (rfl)
@[simp] theorem mapQuill_flash (s : State) (f : Quill → Quill) : (s.mapQuill f).flash = s.flash := (rfl)
@[simp] theorem mapQuill_esc (s : State) (f : Quill → Quill) : (s.mapQuill f).esc = s.esc := (rfl)
@[simp] theorem mapQuill_regs (s : State) (f : Quill → Quill) : (s.mapQuill f).regs = s.regs := (rfl)
@[simp] theorem mapQuill_win (s : State) (f : Quill → Quill) : (s.mapQuill f).win = s.win := (rfl)
@[simp] theorem mapQuill_chembe (s : State) (f : Quill → Quill) : (s.mapQuill f).chembe = s.chembe := (rfl)
@[simp] theorem mapQuill_mem (s : State) (f : Quill → Quill) : (s.mapQuill f).mem = s.mem := (rfl)
@[simp] theorem mapQuill_sbd (s : State) (f : Quill → Quill) : (s.mapQuill f).sbd = s.sbd := (rfl)
@[simp] theorem mapQuill_cabs (s : State) (f : Quill → Quill) : (s.mapQuill f).cabs = s.cabs := (rfl)
@[simp] theorem mapQuill_leaves (s : State) (f : Quill → Quill) : (s.mapQuill f).leaves = s.leaves := (rfl)
@[simp] theorem mapQuill_turns (s : State) (f : Quill → Quill) : (s.mapQuill f).turns = s.turns := (rfl)
@[simp] theorem mapQuill_folio (s : State) (f : Quill → Quill) : (s.mapQuill f).folio = s.folio := (rfl)
@[simp] theorem mapQuill_job (s : State) (f : Quill → Quill) : (s.mapQuill f).job = s.job := (rfl)
@[simp] theorem mapQuill_run (s : State) (f : Quill → Quill) : (s.mapQuill f).run = s.run := (rfl)
@[simp] theorem mapQuill_svl (s : State) (f : Quill → Quill) : (s.mapQuill f).svl = s.svl := (rfl)
@[simp] theorem mapQuill_risk (s : State) (f : Quill → Quill) : (s.mapQuill f).risk = s.risk := (rfl)
@[simp] theorem mapQuill_intake (s : State) (f : Quill → Quill) : (s.mapQuill f).intake = s.intake := (rfl)
@[simp] theorem mapQuill_hostFrames (s : State) (f : Quill → Quill) : (s.mapQuill f).hostFrames = s.hostFrames := (rfl)

/-! ## `mapPower` changes power -/

@[simp] theorem mapPower_pending (s : State) (f : Power → Power) : (s.mapPower f).pending = s.pending := (rfl)
@[simp] theorem mapPower_time (s : State) (f : Power → Power) : (s.mapPower f).time = s.time := (rfl)
@[simp] theorem mapPower_free (s : State) (f : Power → Power) : (s.mapPower f).free = s.free := (rfl)
@[simp] theorem mapPower_out (s : State) (f : Power → Power) : (s.mapPower f).out = s.out := (rfl)
@[simp] theorem mapPower_pins (s : State) (f : Power → Power) : (s.mapPower f).pins = s.pins := (rfl)
@[simp] theorem mapPower_flash (s : State) (f : Power → Power) : (s.mapPower f).flash = s.flash := (rfl)
@[simp] theorem mapPower_esc (s : State) (f : Power → Power) : (s.mapPower f).esc = s.esc := (rfl)
@[simp] theorem mapPower_regs (s : State) (f : Power → Power) : (s.mapPower f).regs = s.regs := (rfl)
@[simp] theorem mapPower_win (s : State) (f : Power → Power) : (s.mapPower f).win = s.win := (rfl)
@[simp] theorem mapPower_chembe (s : State) (f : Power → Power) : (s.mapPower f).chembe = s.chembe := (rfl)
@[simp] theorem mapPower_mem (s : State) (f : Power → Power) : (s.mapPower f).mem = s.mem := (rfl)
@[simp] theorem mapPower_sbd (s : State) (f : Power → Power) : (s.mapPower f).sbd = s.sbd := (rfl)
@[simp] theorem mapPower_cabs (s : State) (f : Power → Power) : (s.mapPower f).cabs = s.cabs := (rfl)
@[simp] theorem mapPower_leaves (s : State) (f : Power → Power) : (s.mapPower f).leaves = s.leaves := (rfl)
@[simp] theorem mapPower_turns (s : State) (f : Power → Power) : (s.mapPower f).turns = s.turns := (rfl)
@[simp] theorem mapPower_folio (s : State) (f : Power → Power) : (s.mapPower f).folio = s.folio := (rfl)
@[simp] theorem mapPower_job (s : State) (f : Power → Power) : (s.mapPower f).job = s.job := (rfl)
@[simp] theorem mapPower_run (s : State) (f : Power → Power) : (s.mapPower f).run = s.run := (rfl)
@[simp] theorem mapPower_quill (s : State) (f : Power → Power) : (s.mapPower f).quill = s.quill := (rfl)
@[simp] theorem mapPower_svl (s : State) (f : Power → Power) : (s.mapPower f).svl = s.svl := (rfl)
@[simp] theorem mapPower_risk (s : State) (f : Power → Power) : (s.mapPower f).risk = s.risk := (rfl)
@[simp] theorem mapPower_intake (s : State) (f : Power → Power) : (s.mapPower f).intake = s.intake := (rfl)
@[simp] theorem mapPower_hostFrames (s : State) (f : Power → Power) : (s.mapPower f).hostFrames = s.hostFrames := (rfl)

/-! ## `mapEsc` changes esc -/

@[simp] theorem mapEsc_pending (s : State) (f : Escritoire → Escritoire) : (s.mapEsc f).pending = s.pending := (rfl)
@[simp] theorem mapEsc_time (s : State) (f : Escritoire → Escritoire) : (s.mapEsc f).time = s.time := (rfl)
@[simp] theorem mapEsc_free (s : State) (f : Escritoire → Escritoire) : (s.mapEsc f).free = s.free := (rfl)
@[simp] theorem mapEsc_out (s : State) (f : Escritoire → Escritoire) : (s.mapEsc f).out = s.out := (rfl)
@[simp] theorem mapEsc_pins (s : State) (f : Escritoire → Escritoire) : (s.mapEsc f).pins = s.pins := (rfl)
@[simp] theorem mapEsc_power (s : State) (f : Escritoire → Escritoire) : (s.mapEsc f).power = s.power := (rfl)
@[simp] theorem mapEsc_flash (s : State) (f : Escritoire → Escritoire) : (s.mapEsc f).flash = s.flash := (rfl)
@[simp] theorem mapEsc_regs (s : State) (f : Escritoire → Escritoire) : (s.mapEsc f).regs = s.regs := (rfl)
@[simp] theorem mapEsc_win (s : State) (f : Escritoire → Escritoire) : (s.mapEsc f).win = s.win := (rfl)
@[simp] theorem mapEsc_chembe (s : State) (f : Escritoire → Escritoire) : (s.mapEsc f).chembe = s.chembe := (rfl)
@[simp] theorem mapEsc_mem (s : State) (f : Escritoire → Escritoire) : (s.mapEsc f).mem = s.mem := (rfl)
@[simp] theorem mapEsc_sbd (s : State) (f : Escritoire → Escritoire) : (s.mapEsc f).sbd = s.sbd := (rfl)
@[simp] theorem mapEsc_cabs (s : State) (f : Escritoire → Escritoire) : (s.mapEsc f).cabs = s.cabs := (rfl)
@[simp] theorem mapEsc_leaves (s : State) (f : Escritoire → Escritoire) : (s.mapEsc f).leaves = s.leaves := (rfl)
@[simp] theorem mapEsc_turns (s : State) (f : Escritoire → Escritoire) : (s.mapEsc f).turns = s.turns := (rfl)
@[simp] theorem mapEsc_folio (s : State) (f : Escritoire → Escritoire) : (s.mapEsc f).folio = s.folio := (rfl)
@[simp] theorem mapEsc_job (s : State) (f : Escritoire → Escritoire) : (s.mapEsc f).job = s.job := (rfl)
@[simp] theorem mapEsc_run (s : State) (f : Escritoire → Escritoire) : (s.mapEsc f).run = s.run := (rfl)
@[simp] theorem mapEsc_quill (s : State) (f : Escritoire → Escritoire) : (s.mapEsc f).quill = s.quill := (rfl)
@[simp] theorem mapEsc_svl (s : State) (f : Escritoire → Escritoire) : (s.mapEsc f).svl = s.svl := (rfl)
@[simp] theorem mapEsc_risk (s : State) (f : Escritoire → Escritoire) : (s.mapEsc f).risk = s.risk := (rfl)
@[simp] theorem mapEsc_intake (s : State) (f : Escritoire → Escritoire) : (s.mapEsc f).intake = s.intake := (rfl)
@[simp] theorem mapEsc_hostFrames (s : State) (f : Escritoire → Escritoire) : (s.mapEsc f).hostFrames = s.hostFrames := (rfl)

/-! ## `mapIntake` changes intake -/

@[simp] theorem mapIntake_pending (s : State) (f : Intake → Intake) : (s.mapIntake f).pending = s.pending := (rfl)
@[simp] theorem mapIntake_time (s : State) (f : Intake → Intake) : (s.mapIntake f).time = s.time := (rfl)
@[simp] theorem mapIntake_free (s : State) (f : Intake → Intake) : (s.mapIntake f).free = s.free := (rfl)
@[simp] theorem mapIntake_out (s : State) (f : Intake → Intake) : (s.mapIntake f).out = s.out := (rfl)
@[simp] theorem mapIntake_pins (s : State) (f : Intake → Intake) : (s.mapIntake f).pins = s.pins := (rfl)
@[simp] theorem mapIntake_power (s : State) (f : Intake → Intake) : (s.mapIntake f).power = s.power := (rfl)
@[simp] theorem mapIntake_flash (s : State) (f : Intake → Intake) : (s.mapIntake f).flash = s.flash := (rfl)
@[simp] theorem mapIntake_esc (s : State) (f : Intake → Intake) : (s.mapIntake f).esc = s.esc := (rfl)
@[simp] theorem mapIntake_regs (s : State) (f : Intake → Intake) : (s.mapIntake f).regs = s.regs := (rfl)
@[simp] theorem mapIntake_win (s : State) (f : Intake → Intake) : (s.mapIntake f).win = s.win := (rfl)
@[simp] theorem mapIntake_chembe (s : State) (f : Intake → Intake) : (s.mapIntake f).chembe = s.chembe := (rfl)
@[simp] theorem mapIntake_mem (s : State) (f : Intake → Intake) : (s.mapIntake f).mem = s.mem := (rfl)
@[simp] theorem mapIntake_sbd (s : State) (f : Intake → Intake) : (s.mapIntake f).sbd = s.sbd := (rfl)
@[simp] theorem mapIntake_cabs (s : State) (f : Intake → Intake) : (s.mapIntake f).cabs = s.cabs := (rfl)
@[simp] theorem mapIntake_leaves (s : State) (f : Intake → Intake) : (s.mapIntake f).leaves = s.leaves := (rfl)
@[simp] theorem mapIntake_turns (s : State) (f : Intake → Intake) : (s.mapIntake f).turns = s.turns := (rfl)
@[simp] theorem mapIntake_folio (s : State) (f : Intake → Intake) : (s.mapIntake f).folio = s.folio := (rfl)
@[simp] theorem mapIntake_job (s : State) (f : Intake → Intake) : (s.mapIntake f).job = s.job := (rfl)
@[simp] theorem mapIntake_run (s : State) (f : Intake → Intake) : (s.mapIntake f).run = s.run := (rfl)
@[simp] theorem mapIntake_quill (s : State) (f : Intake → Intake) : (s.mapIntake f).quill = s.quill := (rfl)
@[simp] theorem mapIntake_svl (s : State) (f : Intake → Intake) : (s.mapIntake f).svl = s.svl := (rfl)
@[simp] theorem mapIntake_risk (s : State) (f : Intake → Intake) : (s.mapIntake f).risk = s.risk := (rfl)
@[simp] theorem mapIntake_hostFrames (s : State) (f : Intake → Intake) : (s.mapIntake f).hostFrames = s.hostFrames := (rfl)

end Sys2Proof.Machine
end

