-- ==== Sys2Proof/Laws/Ops.lean ====
section
/-! SUPPORT. What the shared operations leave alone: counters, alerts, events, replies, sessions, locks, and the path of a
Chembe command. -/
namespace Sys2Proof.Machine

/-! ## `setEvq` changes chembe -/

@[simp] theorem setEvq_pending (s : State) (b : Bool) (q : EventQueue) : (s.setEvq b q).pending = s.pending := by
  cases b <;> rfl
@[simp] theorem setEvq_time (s : State) (b : Bool) (q : EventQueue) : (s.setEvq b q).time = s.time := by
  cases b <;> rfl
@[simp] theorem setEvq_free (s : State) (b : Bool) (q : EventQueue) : (s.setEvq b q).free = s.free := by
  cases b <;> rfl
@[simp] theorem setEvq_out (s : State) (b : Bool) (q : EventQueue) : (s.setEvq b q).out = s.out := by
  cases b <;> rfl
@[simp] theorem setEvq_pins (s : State) (b : Bool) (q : EventQueue) : (s.setEvq b q).pins = s.pins := by
  cases b <;> rfl
@[simp] theorem setEvq_power (s : State) (b : Bool) (q : EventQueue) : (s.setEvq b q).power = s.power := by
  cases b <;> rfl
@[simp] theorem setEvq_flash (s : State) (b : Bool) (q : EventQueue) : (s.setEvq b q).flash = s.flash := by
  cases b <;> rfl
@[simp] theorem setEvq_esc (s : State) (b : Bool) (q : EventQueue) : (s.setEvq b q).esc = s.esc := by
  cases b <;> rfl
@[simp] theorem setEvq_regs (s : State) (b : Bool) (q : EventQueue) : (s.setEvq b q).regs = s.regs := by
  cases b <;> rfl
@[simp] theorem setEvq_win (s : State) (b : Bool) (q : EventQueue) : (s.setEvq b q).win = s.win := by
  cases b <;> rfl
@[simp] theorem setEvq_mem (s : State) (b : Bool) (q : EventQueue) : (s.setEvq b q).mem = s.mem := by
  cases b <;> rfl
@[simp] theorem setEvq_sbd (s : State) (b : Bool) (q : EventQueue) : (s.setEvq b q).sbd = s.sbd := by
  cases b <;> rfl
@[simp] theorem setEvq_cabs (s : State) (b : Bool) (q : EventQueue) : (s.setEvq b q).cabs = s.cabs := by
  cases b <;> rfl
@[simp] theorem setEvq_leaves (s : State) (b : Bool) (q : EventQueue) : (s.setEvq b q).leaves = s.leaves := by
  cases b <;> rfl
@[simp] theorem setEvq_turns (s : State) (b : Bool) (q : EventQueue) : (s.setEvq b q).turns = s.turns := by
  cases b <;> rfl
@[simp] theorem setEvq_folio (s : State) (b : Bool) (q : EventQueue) : (s.setEvq b q).folio = s.folio := by
  cases b <;> rfl
@[simp] theorem setEvq_job (s : State) (b : Bool) (q : EventQueue) : (s.setEvq b q).job = s.job := by
  cases b <;> rfl
@[simp] theorem setEvq_run (s : State) (b : Bool) (q : EventQueue) : (s.setEvq b q).run = s.run := by
  cases b <;> rfl
@[simp] theorem setEvq_quill (s : State) (b : Bool) (q : EventQueue) : (s.setEvq b q).quill = s.quill := by
  cases b <;> rfl
@[simp] theorem setEvq_svl (s : State) (b : Bool) (q : EventQueue) : (s.setEvq b q).svl = s.svl := by
  cases b <;> rfl
@[simp] theorem setEvq_risk (s : State) (b : Bool) (q : EventQueue) : (s.setEvq b q).risk = s.risk := by
  cases b <;> rfl
@[simp] theorem setEvq_intake (s : State) (b : Bool) (q : EventQueue) : (s.setEvq b q).intake = s.intake := by
  cases b <;> rfl
@[simp] theorem setEvq_hostFrames (s : State) (b : Bool) (q : EventQueue) : (s.setEvq b q).hostFrames = s.hostFrames := by
  cases b <;> rfl

/-! ## `addCounter` changes regs -/

@[simp] theorem addCounter_pending (s : State) (k n : Nat) : (s.addCounter k n).pending = s.pending := by
  unfold State.addCounter; dsimp only; (repeat' split) <;> simp
@[simp] theorem addCounter_time (s : State) (k n : Nat) : (s.addCounter k n).time = s.time := by
  unfold State.addCounter; dsimp only; (repeat' split) <;> simp
@[simp] theorem addCounter_free (s : State) (k n : Nat) : (s.addCounter k n).free = s.free := by
  unfold State.addCounter; dsimp only; (repeat' split) <;> simp
@[simp] theorem addCounter_out (s : State) (k n : Nat) : (s.addCounter k n).out = s.out := by
  unfold State.addCounter; dsimp only; (repeat' split) <;> simp
@[simp] theorem addCounter_pins (s : State) (k n : Nat) : (s.addCounter k n).pins = s.pins := by
  unfold State.addCounter; dsimp only; (repeat' split) <;> simp
@[simp] theorem addCounter_power (s : State) (k n : Nat) : (s.addCounter k n).power = s.power := by
  unfold State.addCounter; dsimp only; (repeat' split) <;> simp
@[simp] theorem addCounter_flash (s : State) (k n : Nat) : (s.addCounter k n).flash = s.flash := by
  unfold State.addCounter; dsimp only; (repeat' split) <;> simp
@[simp] theorem addCounter_esc (s : State) (k n : Nat) : (s.addCounter k n).esc = s.esc := by
  unfold State.addCounter; dsimp only; (repeat' split) <;> simp
@[simp] theorem addCounter_win (s : State) (k n : Nat) : (s.addCounter k n).win = s.win := by
  unfold State.addCounter; dsimp only; (repeat' split) <;> simp
@[simp] theorem addCounter_chembe (s : State) (k n : Nat) : (s.addCounter k n).chembe = s.chembe := by
  unfold State.addCounter; dsimp only; (repeat' split) <;> simp
@[simp] theorem addCounter_mem (s : State) (k n : Nat) : (s.addCounter k n).mem = s.mem := by
  unfold State.addCounter; dsimp only; (repeat' split) <;> simp
@[simp] theorem addCounter_sbd (s : State) (k n : Nat) : (s.addCounter k n).sbd = s.sbd := by
  unfold State.addCounter; dsimp only; (repeat' split) <;> simp
@[simp] theorem addCounter_cabs (s : State) (k n : Nat) : (s.addCounter k n).cabs = s.cabs := by
  unfold State.addCounter; dsimp only; (repeat' split) <;> simp
@[simp] theorem addCounter_leaves (s : State) (k n : Nat) : (s.addCounter k n).leaves = s.leaves := by
  unfold State.addCounter; dsimp only; (repeat' split) <;> simp
@[simp] theorem addCounter_turns (s : State) (k n : Nat) : (s.addCounter k n).turns = s.turns := by
  unfold State.addCounter; dsimp only; (repeat' split) <;> simp
@[simp] theorem addCounter_folio (s : State) (k n : Nat) : (s.addCounter k n).folio = s.folio := by
  unfold State.addCounter; dsimp only; (repeat' split) <;> simp
@[simp] theorem addCounter_job (s : State) (k n : Nat) : (s.addCounter k n).job = s.job := by
  unfold State.addCounter; dsimp only; (repeat' split) <;> simp
@[simp] theorem addCounter_run (s : State) (k n : Nat) : (s.addCounter k n).run = s.run := by
  unfold State.addCounter; dsimp only; (repeat' split) <;> simp
@[simp] theorem addCounter_quill (s : State) (k n : Nat) : (s.addCounter k n).quill = s.quill := by
  unfold State.addCounter; dsimp only; (repeat' split) <;> simp
@[simp] theorem addCounter_svl (s : State) (k n : Nat) : (s.addCounter k n).svl = s.svl := by
  unfold State.addCounter; dsimp only; (repeat' split) <;> simp
@[simp] theorem addCounter_risk (s : State) (k n : Nat) : (s.addCounter k n).risk = s.risk := by
  unfold State.addCounter; dsimp only; (repeat' split) <;> simp
@[simp] theorem addCounter_intake (s : State) (k n : Nat) : (s.addCounter k n).intake = s.intake := by
  unfold State.addCounter; dsimp only; (repeat' split) <;> simp
@[simp] theorem addCounter_hostFrames (s : State) (k n : Nat) : (s.addCounter k n).hostFrames = s.hostFrames := by
  unfold State.addCounter; dsimp only; (repeat' split) <;> simp

/-! ## `riskNote` changes risk -/

@[simp] theorem riskNote_pending (s : State) (c n : Nat) : (s.riskNote c n).pending = s.pending := by
  unfold State.riskNote; dsimp only; (repeat' split) <;> simp
@[simp] theorem riskNote_time (s : State) (c n : Nat) : (s.riskNote c n).time = s.time := by
  unfold State.riskNote; dsimp only; (repeat' split) <;> simp
@[simp] theorem riskNote_free (s : State) (c n : Nat) : (s.riskNote c n).free = s.free := by
  unfold State.riskNote; dsimp only; (repeat' split) <;> simp
@[simp] theorem riskNote_out (s : State) (c n : Nat) : (s.riskNote c n).out = s.out := by
  unfold State.riskNote; dsimp only; (repeat' split) <;> simp
@[simp] theorem riskNote_pins (s : State) (c n : Nat) : (s.riskNote c n).pins = s.pins := by
  unfold State.riskNote; dsimp only; (repeat' split) <;> simp
@[simp] theorem riskNote_power (s : State) (c n : Nat) : (s.riskNote c n).power = s.power := by
  unfold State.riskNote; dsimp only; (repeat' split) <;> simp
@[simp] theorem riskNote_flash (s : State) (c n : Nat) : (s.riskNote c n).flash = s.flash := by
  unfold State.riskNote; dsimp only; (repeat' split) <;> simp
@[simp] theorem riskNote_esc (s : State) (c n : Nat) : (s.riskNote c n).esc = s.esc := by
  unfold State.riskNote; dsimp only; (repeat' split) <;> simp
@[simp] theorem riskNote_regs (s : State) (c n : Nat) : (s.riskNote c n).regs = s.regs := by
  unfold State.riskNote; dsimp only; (repeat' split) <;> simp
@[simp] theorem riskNote_win (s : State) (c n : Nat) : (s.riskNote c n).win = s.win := by
  unfold State.riskNote; dsimp only; (repeat' split) <;> simp
@[simp] theorem riskNote_chembe (s : State) (c n : Nat) : (s.riskNote c n).chembe = s.chembe := by
  unfold State.riskNote; dsimp only; (repeat' split) <;> simp
@[simp] theorem riskNote_mem (s : State) (c n : Nat) : (s.riskNote c n).mem = s.mem := by
  unfold State.riskNote; dsimp only; (repeat' split) <;> simp
@[simp] theorem riskNote_sbd (s : State) (c n : Nat) : (s.riskNote c n).sbd = s.sbd := by
  unfold State.riskNote; dsimp only; (repeat' split) <;> simp
@[simp] theorem riskNote_cabs (s : State) (c n : Nat) : (s.riskNote c n).cabs = s.cabs := by
  unfold State.riskNote; dsimp only; (repeat' split) <;> simp
@[simp] theorem riskNote_leaves (s : State) (c n : Nat) : (s.riskNote c n).leaves = s.leaves := by
  unfold State.riskNote; dsimp only; (repeat' split) <;> simp
@[simp] theorem riskNote_turns (s : State) (c n : Nat) : (s.riskNote c n).turns = s.turns := by
  unfold State.riskNote; dsimp only; (repeat' split) <;> simp
@[simp] theorem riskNote_folio (s : State) (c n : Nat) : (s.riskNote c n).folio = s.folio := by
  unfold State.riskNote; dsimp only; (repeat' split) <;> simp
@[simp] theorem riskNote_job (s : State) (c n : Nat) : (s.riskNote c n).job = s.job := by
  unfold State.riskNote; dsimp only; (repeat' split) <;> simp
@[simp] theorem riskNote_run (s : State) (c n : Nat) : (s.riskNote c n).run = s.run := by
  unfold State.riskNote; dsimp only; (repeat' split) <;> simp
@[simp] theorem riskNote_quill (s : State) (c n : Nat) : (s.riskNote c n).quill = s.quill := by
  unfold State.riskNote; dsimp only; (repeat' split) <;> simp
@[simp] theorem riskNote_svl (s : State) (c n : Nat) : (s.riskNote c n).svl = s.svl := by
  unfold State.riskNote; dsimp only; (repeat' split) <;> simp
@[simp] theorem riskNote_intake (s : State) (c n : Nat) : (s.riskNote c n).intake = s.intake := by
  unfold State.riskNote; dsimp only; (repeat' split) <;> simp
@[simp] theorem riskNote_hostFrames (s : State) (c n : Nat) : (s.riskNote c n).hostFrames = s.hostFrames := by
  unfold State.riskNote; dsimp only; (repeat' split) <;> simp

/-! ## `countAt` changes regs, risk -/

@[simp] theorem countAt_pending (s : State) (c : Nat) (i : Inst) (n : Nat) : (s.countAt c i n).pending = s.pending := by
  exact (foldl_view State.pending _ (fun s k => addCounter_pending s k n) _ _).trans (riskNote_pending s c n)
@[simp] theorem countAt_time (s : State) (c : Nat) (i : Inst) (n : Nat) : (s.countAt c i n).time = s.time := by
  exact (foldl_view State.time _ (fun s k => addCounter_time s k n) _ _).trans (riskNote_time s c n)
@[simp] theorem countAt_free (s : State) (c : Nat) (i : Inst) (n : Nat) : (s.countAt c i n).free = s.free := by
  exact (foldl_view State.free _ (fun s k => addCounter_free s k n) _ _).trans (riskNote_free s c n)
@[simp] theorem countAt_out (s : State) (c : Nat) (i : Inst) (n : Nat) : (s.countAt c i n).out = s.out := by
  exact (foldl_view State.out _ (fun s k => addCounter_out s k n) _ _).trans (riskNote_out s c n)
@[simp] theorem countAt_pins (s : State) (c : Nat) (i : Inst) (n : Nat) : (s.countAt c i n).pins = s.pins := by
  exact (foldl_view State.pins _ (fun s k => addCounter_pins s k n) _ _).trans (riskNote_pins s c n)
@[simp] theorem countAt_power (s : State) (c : Nat) (i : Inst) (n : Nat) : (s.countAt c i n).power = s.power := by
  exact (foldl_view State.power _ (fun s k => addCounter_power s k n) _ _).trans (riskNote_power s c n)
@[simp] theorem countAt_flash (s : State) (c : Nat) (i : Inst) (n : Nat) : (s.countAt c i n).flash = s.flash := by
  exact (foldl_view State.flash _ (fun s k => addCounter_flash s k n) _ _).trans (riskNote_flash s c n)
@[simp] theorem countAt_esc (s : State) (c : Nat) (i : Inst) (n : Nat) : (s.countAt c i n).esc = s.esc := by
  exact (foldl_view State.esc _ (fun s k => addCounter_esc s k n) _ _).trans (riskNote_esc s c n)
@[simp] theorem countAt_win (s : State) (c : Nat) (i : Inst) (n : Nat) : (s.countAt c i n).win = s.win := by
  exact (foldl_view State.win _ (fun s k => addCounter_win s k n) _ _).trans (riskNote_win s c n)
@[simp] theorem countAt_chembe (s : State) (c : Nat) (i : Inst) (n : Nat) : (s.countAt c i n).chembe = s.chembe := by
  exact (foldl_view State.chembe _ (fun s k => addCounter_chembe s k n) _ _).trans (riskNote_chembe s c n)
@[simp] theorem countAt_mem (s : State) (c : Nat) (i : Inst) (n : Nat) : (s.countAt c i n).mem = s.mem := by
  exact (foldl_view State.mem _ (fun s k => addCounter_mem s k n) _ _).trans (riskNote_mem s c n)
@[simp] theorem countAt_sbd (s : State) (c : Nat) (i : Inst) (n : Nat) : (s.countAt c i n).sbd = s.sbd := by
  exact (foldl_view State.sbd _ (fun s k => addCounter_sbd s k n) _ _).trans (riskNote_sbd s c n)
@[simp] theorem countAt_cabs (s : State) (c : Nat) (i : Inst) (n : Nat) : (s.countAt c i n).cabs = s.cabs := by
  exact (foldl_view State.cabs _ (fun s k => addCounter_cabs s k n) _ _).trans (riskNote_cabs s c n)
@[simp] theorem countAt_leaves (s : State) (c : Nat) (i : Inst) (n : Nat) : (s.countAt c i n).leaves = s.leaves := by
  exact (foldl_view State.leaves _ (fun s k => addCounter_leaves s k n) _ _).trans (riskNote_leaves s c n)
@[simp] theorem countAt_turns (s : State) (c : Nat) (i : Inst) (n : Nat) : (s.countAt c i n).turns = s.turns := by
  exact (foldl_view State.turns _ (fun s k => addCounter_turns s k n) _ _).trans (riskNote_turns s c n)
@[simp] theorem countAt_folio (s : State) (c : Nat) (i : Inst) (n : Nat) : (s.countAt c i n).folio = s.folio := by
  exact (foldl_view State.folio _ (fun s k => addCounter_folio s k n) _ _).trans (riskNote_folio s c n)
@[simp] theorem countAt_job (s : State) (c : Nat) (i : Inst) (n : Nat) : (s.countAt c i n).job = s.job := by
  exact (foldl_view State.job _ (fun s k => addCounter_job s k n) _ _).trans (riskNote_job s c n)
@[simp] theorem countAt_run (s : State) (c : Nat) (i : Inst) (n : Nat) : (s.countAt c i n).run = s.run := by
  exact (foldl_view State.run _ (fun s k => addCounter_run s k n) _ _).trans (riskNote_run s c n)
@[simp] theorem countAt_quill (s : State) (c : Nat) (i : Inst) (n : Nat) : (s.countAt c i n).quill = s.quill := by
  exact (foldl_view State.quill _ (fun s k => addCounter_quill s k n) _ _).trans (riskNote_quill s c n)
@[simp] theorem countAt_svl (s : State) (c : Nat) (i : Inst) (n : Nat) : (s.countAt c i n).svl = s.svl := by
  exact (foldl_view State.svl _ (fun s k => addCounter_svl s k n) _ _).trans (riskNote_svl s c n)
@[simp] theorem countAt_intake (s : State) (c : Nat) (i : Inst) (n : Nat) : (s.countAt c i n).intake = s.intake := by
  exact (foldl_view State.intake _ (fun s k => addCounter_intake s k n) _ _).trans (riskNote_intake s c n)
@[simp] theorem countAt_hostFrames (s : State) (c : Nat) (i : Inst) (n : Nat) : (s.countAt c i n).hostFrames = s.hostFrames := by
  exact (foldl_view State.hostFrames _ (fun s k => addCounter_hostFrames s k n) _ _).trans (riskNote_hostFrames s c n)

/-! ## `count` changes regs, risk -/

@[simp] theorem count_pending (s : State) (c : Nat) : (s.count c).pending = s.pending := by
  simp [State.count]
@[simp] theorem count_time (s : State) (c : Nat) : (s.count c).time = s.time := by
  simp [State.count]
@[simp] theorem count_free (s : State) (c : Nat) : (s.count c).free = s.free := by
  simp [State.count]
@[simp] theorem count_out (s : State) (c : Nat) : (s.count c).out = s.out := by
  simp [State.count]
@[simp] theorem count_pins (s : State) (c : Nat) : (s.count c).pins = s.pins := by
  simp [State.count]
@[simp] theorem count_power (s : State) (c : Nat) : (s.count c).power = s.power := by
  simp [State.count]
@[simp] theorem count_flash (s : State) (c : Nat) : (s.count c).flash = s.flash := by
  simp [State.count]
@[simp] theorem count_esc (s : State) (c : Nat) : (s.count c).esc = s.esc := by
  simp [State.count]
@[simp] theorem count_win (s : State) (c : Nat) : (s.count c).win = s.win := by
  simp [State.count]
@[simp] theorem count_chembe (s : State) (c : Nat) : (s.count c).chembe = s.chembe := by
  simp [State.count]
@[simp] theorem count_mem (s : State) (c : Nat) : (s.count c).mem = s.mem := by
  simp [State.count]
@[simp] theorem count_sbd (s : State) (c : Nat) : (s.count c).sbd = s.sbd := by
  simp [State.count]
@[simp] theorem count_cabs (s : State) (c : Nat) : (s.count c).cabs = s.cabs := by
  simp [State.count]
@[simp] theorem count_leaves (s : State) (c : Nat) : (s.count c).leaves = s.leaves := by
  simp [State.count]
@[simp] theorem count_turns (s : State) (c : Nat) : (s.count c).turns = s.turns := by
  simp [State.count]
@[simp] theorem count_folio (s : State) (c : Nat) : (s.count c).folio = s.folio := by
  simp [State.count]
@[simp] theorem count_job (s : State) (c : Nat) : (s.count c).job = s.job := by
  simp [State.count]
@[simp] theorem count_run (s : State) (c : Nat) : (s.count c).run = s.run := by
  simp [State.count]
@[simp] theorem count_quill (s : State) (c : Nat) : (s.count c).quill = s.quill := by
  simp [State.count]
@[simp] theorem count_svl (s : State) (c : Nat) : (s.count c).svl = s.svl := by
  simp [State.count]
@[simp] theorem count_intake (s : State) (c : Nat) : (s.count c).intake = s.intake := by
  simp [State.count]
@[simp] theorem count_hostFrames (s : State) (c : Nat) : (s.count c).hostFrames = s.hostFrames := by
  simp [State.count]

/-! ## `ibi` changes out -/

@[simp] theorem ibi_pending (s : State)  : (s.ibi).pending = s.pending := by
  simp [State.ibi]
@[simp] theorem ibi_time (s : State)  : (s.ibi).time = s.time := by
  simp [State.ibi]
@[simp] theorem ibi_free (s : State)  : (s.ibi).free = s.free := by
  simp [State.ibi]
@[simp] theorem ibi_pins (s : State)  : (s.ibi).pins = s.pins := by
  simp [State.ibi]
@[simp] theorem ibi_power (s : State)  : (s.ibi).power = s.power := by
  simp [State.ibi]
@[simp] theorem ibi_flash (s : State)  : (s.ibi).flash = s.flash := by
  simp [State.ibi]
@[simp] theorem ibi_esc (s : State)  : (s.ibi).esc = s.esc := by
  simp [State.ibi]
@[simp] theorem ibi_regs (s : State)  : (s.ibi).regs = s.regs := by
  simp [State.ibi]
@[simp] theorem ibi_win (s : State)  : (s.ibi).win = s.win := by
  simp [State.ibi]
@[simp] theorem ibi_chembe (s : State)  : (s.ibi).chembe = s.chembe := by
  simp [State.ibi]
@[simp] theorem ibi_mem (s : State)  : (s.ibi).mem = s.mem := by
  simp [State.ibi]
@[simp] theorem ibi_sbd (s : State)  : (s.ibi).sbd = s.sbd := by
  simp [State.ibi]
@[simp] theorem ibi_cabs (s : State)  : (s.ibi).cabs = s.cabs := by
  simp [State.ibi]
@[simp] theorem ibi_leaves (s : State)  : (s.ibi).leaves = s.leaves := by
  simp [State.ibi]
@[simp] theorem ibi_turns (s : State)  : (s.ibi).turns = s.turns := by
  simp [State.ibi]
@[simp] theorem ibi_folio (s : State)  : (s.ibi).folio = s.folio := by
  simp [State.ibi]
@[simp] theorem ibi_job (s : State)  : (s.ibi).job = s.job := by
  simp [State.ibi]
@[simp] theorem ibi_run (s : State)  : (s.ibi).run = s.run := by
  simp [State.ibi]
@[simp] theorem ibi_quill (s : State)  : (s.ibi).quill = s.quill := by
  simp [State.ibi]
@[simp] theorem ibi_svl (s : State)  : (s.ibi).svl = s.svl := by
  simp [State.ibi]
@[simp] theorem ibi_risk (s : State)  : (s.ibi).risk = s.risk := by
  simp [State.ibi]
@[simp] theorem ibi_intake (s : State)  : (s.ibi).intake = s.intake := by
  simp [State.ibi]
@[simp] theorem ibi_hostFrames (s : State)  : (s.ibi).hostFrames = s.hostFrames := by
  simp [State.ibi]

/-! ## `hostRx` changes regs, risk, hostFrames -/

@[simp] theorem hostRx_pending (s : State) (p : Nat) : (s.hostRx p).pending = s.pending := by
  simp [State.hostRx]
@[simp] theorem hostRx_time (s : State) (p : Nat) : (s.hostRx p).time = s.time := by
  simp [State.hostRx]
@[simp] theorem hostRx_free (s : State) (p : Nat) : (s.hostRx p).free = s.free := by
  simp [State.hostRx]
@[simp] theorem hostRx_out (s : State) (p : Nat) : (s.hostRx p).out = s.out := by
  simp [State.hostRx]
@[simp] theorem hostRx_pins (s : State) (p : Nat) : (s.hostRx p).pins = s.pins := by
  simp [State.hostRx]
@[simp] theorem hostRx_power (s : State) (p : Nat) : (s.hostRx p).power = s.power := by
  simp [State.hostRx]
@[simp] theorem hostRx_flash (s : State) (p : Nat) : (s.hostRx p).flash = s.flash := by
  simp [State.hostRx]
@[simp] theorem hostRx_esc (s : State) (p : Nat) : (s.hostRx p).esc = s.esc := by
  simp [State.hostRx]
@[simp] theorem hostRx_win (s : State) (p : Nat) : (s.hostRx p).win = s.win := by
  simp [State.hostRx]
@[simp] theorem hostRx_chembe (s : State) (p : Nat) : (s.hostRx p).chembe = s.chembe := by
  simp [State.hostRx]
@[simp] theorem hostRx_mem (s : State) (p : Nat) : (s.hostRx p).mem = s.mem := by
  simp [State.hostRx]
@[simp] theorem hostRx_sbd (s : State) (p : Nat) : (s.hostRx p).sbd = s.sbd := by
  simp [State.hostRx]
@[simp] theorem hostRx_cabs (s : State) (p : Nat) : (s.hostRx p).cabs = s.cabs := by
  simp [State.hostRx]
@[simp] theorem hostRx_leaves (s : State) (p : Nat) : (s.hostRx p).leaves = s.leaves := by
  simp [State.hostRx]
@[simp] theorem hostRx_turns (s : State) (p : Nat) : (s.hostRx p).turns = s.turns := by
  simp [State.hostRx]
@[simp] theorem hostRx_folio (s : State) (p : Nat) : (s.hostRx p).folio = s.folio := by
  simp [State.hostRx]
@[simp] theorem hostRx_job (s : State) (p : Nat) : (s.hostRx p).job = s.job := by
  simp [State.hostRx]
@[simp] theorem hostRx_run (s : State) (p : Nat) : (s.hostRx p).run = s.run := by
  simp [State.hostRx]
@[simp] theorem hostRx_quill (s : State) (p : Nat) : (s.hostRx p).quill = s.quill := by
  simp [State.hostRx]
@[simp] theorem hostRx_svl (s : State) (p : Nat) : (s.hostRx p).svl = s.svl := by
  simp [State.hostRx]
@[simp] theorem hostRx_intake (s : State) (p : Nat) : (s.hostRx p).intake = s.intake := by
  simp [State.hostRx]

/-! ## `transmit` changes out, regs, risk -/

@[simp] theorem transmit_pending (s : State) (b : Bool) (e : QEvent) (n : Nat) : (s.transmit b e n).pending = s.pending := by
  unfold State.transmit; (repeat' split) <;> simp
@[simp] theorem transmit_time (s : State) (b : Bool) (e : QEvent) (n : Nat) : (s.transmit b e n).time = s.time := by
  unfold State.transmit; (repeat' split) <;> simp
@[simp] theorem transmit_free (s : State) (b : Bool) (e : QEvent) (n : Nat) : (s.transmit b e n).free = s.free := by
  unfold State.transmit; (repeat' split) <;> simp
@[simp] theorem transmit_pins (s : State) (b : Bool) (e : QEvent) (n : Nat) : (s.transmit b e n).pins = s.pins := by
  unfold State.transmit; (repeat' split) <;> simp
@[simp] theorem transmit_power (s : State) (b : Bool) (e : QEvent) (n : Nat) : (s.transmit b e n).power = s.power := by
  unfold State.transmit; (repeat' split) <;> simp
@[simp] theorem transmit_flash (s : State) (b : Bool) (e : QEvent) (n : Nat) : (s.transmit b e n).flash = s.flash := by
  unfold State.transmit; (repeat' split) <;> simp
@[simp] theorem transmit_esc (s : State) (b : Bool) (e : QEvent) (n : Nat) : (s.transmit b e n).esc = s.esc := by
  unfold State.transmit; (repeat' split) <;> simp
@[simp] theorem transmit_win (s : State) (b : Bool) (e : QEvent) (n : Nat) : (s.transmit b e n).win = s.win := by
  unfold State.transmit; (repeat' split) <;> simp
@[simp] theorem transmit_chembe (s : State) (b : Bool) (e : QEvent) (n : Nat) : (s.transmit b e n).chembe = s.chembe := by
  unfold State.transmit; (repeat' split) <;> simp
@[simp] theorem transmit_mem (s : State) (b : Bool) (e : QEvent) (n : Nat) : (s.transmit b e n).mem = s.mem := by
  unfold State.transmit; (repeat' split) <;> simp
@[simp] theorem transmit_sbd (s : State) (b : Bool) (e : QEvent) (n : Nat) : (s.transmit b e n).sbd = s.sbd := by
  unfold State.transmit; (repeat' split) <;> simp
@[simp] theorem transmit_cabs (s : State) (b : Bool) (e : QEvent) (n : Nat) : (s.transmit b e n).cabs = s.cabs := by
  unfold State.transmit; (repeat' split) <;> simp
@[simp] theorem transmit_leaves (s : State) (b : Bool) (e : QEvent) (n : Nat) : (s.transmit b e n).leaves = s.leaves := by
  unfold State.transmit; (repeat' split) <;> simp
@[simp] theorem transmit_turns (s : State) (b : Bool) (e : QEvent) (n : Nat) : (s.transmit b e n).turns = s.turns := by
  unfold State.transmit; (repeat' split) <;> simp
@[simp] theorem transmit_folio (s : State) (b : Bool) (e : QEvent) (n : Nat) : (s.transmit b e n).folio = s.folio := by
  unfold State.transmit; (repeat' split) <;> simp
@[simp] theorem transmit_job (s : State) (b : Bool) (e : QEvent) (n : Nat) : (s.transmit b e n).job = s.job := by
  unfold State.transmit; (repeat' split) <;> simp
@[simp] theorem transmit_run (s : State) (b : Bool) (e : QEvent) (n : Nat) : (s.transmit b e n).run = s.run := by
  unfold State.transmit; (repeat' split) <;> simp
@[simp] theorem transmit_quill (s : State) (b : Bool) (e : QEvent) (n : Nat) : (s.transmit b e n).quill = s.quill := by
  unfold State.transmit; (repeat' split) <;> simp
@[simp] theorem transmit_svl (s : State) (b : Bool) (e : QEvent) (n : Nat) : (s.transmit b e n).svl = s.svl := by
  unfold State.transmit; (repeat' split) <;> simp
@[simp] theorem transmit_intake (s : State) (b : Bool) (e : QEvent) (n : Nat) : (s.transmit b e n).intake = s.intake := by
  unfold State.transmit; (repeat' split) <;> simp
@[simp] theorem transmit_hostFrames (s : State) (b : Bool) (e : QEvent) (n : Nat) : (s.transmit b e n).hostFrames = s.hostFrames := by
  unfold State.transmit; (repeat' split) <;> simp

/-! ## `sendNext` changes out, regs, risk, chembe -/

@[simp] theorem sendNext_pending (s : State) (b : Bool) (q : EventQueue) (e : QEvent) (n : Nat) : (s.sendNext b q e n).pending = s.pending := by
  simp [State.sendNext]
@[simp] theorem sendNext_time (s : State) (b : Bool) (q : EventQueue) (e : QEvent) (n : Nat) : (s.sendNext b q e n).time = s.time := by
  simp [State.sendNext]
@[simp] theorem sendNext_free (s : State) (b : Bool) (q : EventQueue) (e : QEvent) (n : Nat) : (s.sendNext b q e n).free = s.free := by
  simp [State.sendNext]
@[simp] theorem sendNext_pins (s : State) (b : Bool) (q : EventQueue) (e : QEvent) (n : Nat) : (s.sendNext b q e n).pins = s.pins := by
  simp [State.sendNext]
@[simp] theorem sendNext_power (s : State) (b : Bool) (q : EventQueue) (e : QEvent) (n : Nat) : (s.sendNext b q e n).power = s.power := by
  simp [State.sendNext]
@[simp] theorem sendNext_flash (s : State) (b : Bool) (q : EventQueue) (e : QEvent) (n : Nat) : (s.sendNext b q e n).flash = s.flash := by
  simp [State.sendNext]
@[simp] theorem sendNext_esc (s : State) (b : Bool) (q : EventQueue) (e : QEvent) (n : Nat) : (s.sendNext b q e n).esc = s.esc := by
  simp [State.sendNext]
@[simp] theorem sendNext_win (s : State) (b : Bool) (q : EventQueue) (e : QEvent) (n : Nat) : (s.sendNext b q e n).win = s.win := by
  simp [State.sendNext]
@[simp] theorem sendNext_mem (s : State) (b : Bool) (q : EventQueue) (e : QEvent) (n : Nat) : (s.sendNext b q e n).mem = s.mem := by
  simp [State.sendNext]
@[simp] theorem sendNext_sbd (s : State) (b : Bool) (q : EventQueue) (e : QEvent) (n : Nat) : (s.sendNext b q e n).sbd = s.sbd := by
  simp [State.sendNext]
@[simp] theorem sendNext_cabs (s : State) (b : Bool) (q : EventQueue) (e : QEvent) (n : Nat) : (s.sendNext b q e n).cabs = s.cabs := by
  simp [State.sendNext]
@[simp] theorem sendNext_leaves (s : State) (b : Bool) (q : EventQueue) (e : QEvent) (n : Nat) : (s.sendNext b q e n).leaves = s.leaves := by
  simp [State.sendNext]
@[simp] theorem sendNext_turns (s : State) (b : Bool) (q : EventQueue) (e : QEvent) (n : Nat) : (s.sendNext b q e n).turns = s.turns := by
  simp [State.sendNext]
@[simp] theorem sendNext_folio (s : State) (b : Bool) (q : EventQueue) (e : QEvent) (n : Nat) : (s.sendNext b q e n).folio = s.folio := by
  simp [State.sendNext]
@[simp] theorem sendNext_job (s : State) (b : Bool) (q : EventQueue) (e : QEvent) (n : Nat) : (s.sendNext b q e n).job = s.job := by
  simp [State.sendNext]
@[simp] theorem sendNext_run (s : State) (b : Bool) (q : EventQueue) (e : QEvent) (n : Nat) : (s.sendNext b q e n).run = s.run := by
  simp [State.sendNext]
@[simp] theorem sendNext_quill (s : State) (b : Bool) (q : EventQueue) (e : QEvent) (n : Nat) : (s.sendNext b q e n).quill = s.quill := by
  simp [State.sendNext]
@[simp] theorem sendNext_svl (s : State) (b : Bool) (q : EventQueue) (e : QEvent) (n : Nat) : (s.sendNext b q e n).svl = s.svl := by
  simp [State.sendNext]
@[simp] theorem sendNext_intake (s : State) (b : Bool) (q : EventQueue) (e : QEvent) (n : Nat) : (s.sendNext b q e n).intake = s.intake := by
  simp [State.sendNext]
@[simp] theorem sendNext_hostFrames (s : State) (b : Bool) (q : EventQueue) (e : QEvent) (n : Nat) : (s.sendNext b q e n).hostFrames = s.hostFrames := by
  simp [State.sendNext]

/-! ## `pumpGo` changes out, regs, risk, chembe -/

@[simp] theorem pumpGo_pending (s : State) (b : Bool) (n : Nat) : (State.pumpGo b n s).pending = s.pending := by
  induction n generalizing s with
  | zero => rfl
  | succ n ih =>
    simp only [State.pumpGo]
    split
    · rfl
    · split
      · rw [ih]; simp
      · rfl
@[simp] theorem pumpGo_time (s : State) (b : Bool) (n : Nat) : (State.pumpGo b n s).time = s.time := by
  induction n generalizing s with
  | zero => rfl
  | succ n ih =>
    simp only [State.pumpGo]
    split
    · rfl
    · split
      · rw [ih]; simp
      · rfl
@[simp] theorem pumpGo_free (s : State) (b : Bool) (n : Nat) : (State.pumpGo b n s).free = s.free := by
  induction n generalizing s with
  | zero => rfl
  | succ n ih =>
    simp only [State.pumpGo]
    split
    · rfl
    · split
      · rw [ih]; simp
      · rfl
@[simp] theorem pumpGo_pins (s : State) (b : Bool) (n : Nat) : (State.pumpGo b n s).pins = s.pins := by
  induction n generalizing s with
  | zero => rfl
  | succ n ih =>
    simp only [State.pumpGo]
    split
    · rfl
    · split
      · rw [ih]; simp
      · rfl
@[simp] theorem pumpGo_power (s : State) (b : Bool) (n : Nat) : (State.pumpGo b n s).power = s.power := by
  induction n generalizing s with
  | zero => rfl
  | succ n ih =>
    simp only [State.pumpGo]
    split
    · rfl
    · split
      · rw [ih]; simp
      · rfl
@[simp] theorem pumpGo_flash (s : State) (b : Bool) (n : Nat) : (State.pumpGo b n s).flash = s.flash := by
  induction n generalizing s with
  | zero => rfl
  | succ n ih =>
    simp only [State.pumpGo]
    split
    · rfl
    · split
      · rw [ih]; simp
      · rfl
@[simp] theorem pumpGo_esc (s : State) (b : Bool) (n : Nat) : (State.pumpGo b n s).esc = s.esc := by
  induction n generalizing s with
  | zero => rfl
  | succ n ih =>
    simp only [State.pumpGo]
    split
    · rfl
    · split
      · rw [ih]; simp
      · rfl
@[simp] theorem pumpGo_win (s : State) (b : Bool) (n : Nat) : (State.pumpGo b n s).win = s.win := by
  induction n generalizing s with
  | zero => rfl
  | succ n ih =>
    simp only [State.pumpGo]
    split
    · rfl
    · split
      · rw [ih]; simp
      · rfl
@[simp] theorem pumpGo_mem (s : State) (b : Bool) (n : Nat) : (State.pumpGo b n s).mem = s.mem := by
  induction n generalizing s with
  | zero => rfl
  | succ n ih =>
    simp only [State.pumpGo]
    split
    · rfl
    · split
      · rw [ih]; simp
      · rfl
@[simp] theorem pumpGo_sbd (s : State) (b : Bool) (n : Nat) : (State.pumpGo b n s).sbd = s.sbd := by
  induction n generalizing s with
  | zero => rfl
  | succ n ih =>
    simp only [State.pumpGo]
    split
    · rfl
    · split
      · rw [ih]; simp
      · rfl
@[simp] theorem pumpGo_cabs (s : State) (b : Bool) (n : Nat) : (State.pumpGo b n s).cabs = s.cabs := by
  induction n generalizing s with
  | zero => rfl
  | succ n ih =>
    simp only [State.pumpGo]
    split
    · rfl
    · split
      · rw [ih]; simp
      · rfl
@[simp] theorem pumpGo_leaves (s : State) (b : Bool) (n : Nat) : (State.pumpGo b n s).leaves = s.leaves := by
  induction n generalizing s with
  | zero => rfl
  | succ n ih =>
    simp only [State.pumpGo]
    split
    · rfl
    · split
      · rw [ih]; simp
      · rfl
@[simp] theorem pumpGo_turns (s : State) (b : Bool) (n : Nat) : (State.pumpGo b n s).turns = s.turns := by
  induction n generalizing s with
  | zero => rfl
  | succ n ih =>
    simp only [State.pumpGo]
    split
    · rfl
    · split
      · rw [ih]; simp
      · rfl
@[simp] theorem pumpGo_folio (s : State) (b : Bool) (n : Nat) : (State.pumpGo b n s).folio = s.folio := by
  induction n generalizing s with
  | zero => rfl
  | succ n ih =>
    simp only [State.pumpGo]
    split
    · rfl
    · split
      · rw [ih]; simp
      · rfl
@[simp] theorem pumpGo_job (s : State) (b : Bool) (n : Nat) : (State.pumpGo b n s).job = s.job := by
  induction n generalizing s with
  | zero => rfl
  | succ n ih =>
    simp only [State.pumpGo]
    split
    · rfl
    · split
      · rw [ih]; simp
      · rfl
@[simp] theorem pumpGo_run (s : State) (b : Bool) (n : Nat) : (State.pumpGo b n s).run = s.run := by
  induction n generalizing s with
  | zero => rfl
  | succ n ih =>
    simp only [State.pumpGo]
    split
    · rfl
    · split
      · rw [ih]; simp
      · rfl
@[simp] theorem pumpGo_quill (s : State) (b : Bool) (n : Nat) : (State.pumpGo b n s).quill = s.quill := by
  induction n generalizing s with
  | zero => rfl
  | succ n ih =>
    simp only [State.pumpGo]
    split
    · rfl
    · split
      · rw [ih]; simp
      · rfl
@[simp] theorem pumpGo_svl (s : State) (b : Bool) (n : Nat) : (State.pumpGo b n s).svl = s.svl := by
  induction n generalizing s with
  | zero => rfl
  | succ n ih =>
    simp only [State.pumpGo]
    split
    · rfl
    · split
      · rw [ih]; simp
      · rfl
@[simp] theorem pumpGo_intake (s : State) (b : Bool) (n : Nat) : (State.pumpGo b n s).intake = s.intake := by
  induction n generalizing s with
  | zero => rfl
  | succ n ih =>
    simp only [State.pumpGo]
    split
    · rfl
    · split
      · rw [ih]; simp
      · rfl
@[simp] theorem pumpGo_hostFrames (s : State) (b : Bool) (n : Nat) : (State.pumpGo b n s).hostFrames = s.hostFrames := by
  induction n generalizing s with
  | zero => rfl
  | succ n ih =>
    simp only [State.pumpGo]
    split
    · rfl
    · split
      · rw [ih]; simp
      · rfl

/-! ## `pump` changes out, regs, risk, chembe -/

@[simp] theorem pump_pending (s : State) (b : Bool) : (s.pump b).pending = s.pending := by
  simp [State.pump]
@[simp] theorem pump_time (s : State) (b : Bool) : (s.pump b).time = s.time := by
  simp [State.pump]
@[simp] theorem pump_free (s : State) (b : Bool) : (s.pump b).free = s.free := by
  simp [State.pump]
@[simp] theorem pump_pins (s : State) (b : Bool) : (s.pump b).pins = s.pins := by
  simp [State.pump]
@[simp] theorem pump_power (s : State) (b : Bool) : (s.pump b).power = s.power := by
  simp [State.pump]
@[simp] theorem pump_flash (s : State) (b : Bool) : (s.pump b).flash = s.flash := by
  simp [State.pump]
@[simp] theorem pump_esc (s : State) (b : Bool) : (s.pump b).esc = s.esc := by
  simp [State.pump]
@[simp] theorem pump_win (s : State) (b : Bool) : (s.pump b).win = s.win := by
  simp [State.pump]
@[simp] theorem pump_mem (s : State) (b : Bool) : (s.pump b).mem = s.mem := by
  simp [State.pump]
@[simp] theorem pump_sbd (s : State) (b : Bool) : (s.pump b).sbd = s.sbd := by
  simp [State.pump]
@[simp] theorem pump_cabs (s : State) (b : Bool) : (s.pump b).cabs = s.cabs := by
  simp [State.pump]
@[simp] theorem pump_leaves (s : State) (b : Bool) : (s.pump b).leaves = s.leaves := by
  simp [State.pump]
@[simp] theorem pump_turns (s : State) (b : Bool) : (s.pump b).turns = s.turns := by
  simp [State.pump]
@[simp] theorem pump_folio (s : State) (b : Bool) : (s.pump b).folio = s.folio := by
  simp [State.pump]
@[simp] theorem pump_job (s : State) (b : Bool) : (s.pump b).job = s.job := by
  simp [State.pump]
@[simp] theorem pump_run (s : State) (b : Bool) : (s.pump b).run = s.run := by
  simp [State.pump]
@[simp] theorem pump_quill (s : State) (b : Bool) : (s.pump b).quill = s.quill := by
  simp [State.pump]
@[simp] theorem pump_svl (s : State) (b : Bool) : (s.pump b).svl = s.svl := by
  simp [State.pump]
@[simp] theorem pump_intake (s : State) (b : Bool) : (s.pump b).intake = s.intake := by
  simp [State.pump]
@[simp] theorem pump_hostFrames (s : State) (b : Bool) : (s.pump b).hostFrames = s.hostFrames := by
  simp [State.pump]

/-! ## `putEvent` changes out, regs, risk, chembe -/

@[simp] theorem putEvent_pending (s : State) (b : Bool) (e : QEvent) : (s.putEvent b e).pending = s.pending := by
  simp [State.putEvent]
@[simp] theorem putEvent_time (s : State) (b : Bool) (e : QEvent) : (s.putEvent b e).time = s.time := by
  simp [State.putEvent]
@[simp] theorem putEvent_free (s : State) (b : Bool) (e : QEvent) : (s.putEvent b e).free = s.free := by
  simp [State.putEvent]
@[simp] theorem putEvent_pins (s : State) (b : Bool) (e : QEvent) : (s.putEvent b e).pins = s.pins := by
  simp [State.putEvent]
@[simp] theorem putEvent_power (s : State) (b : Bool) (e : QEvent) : (s.putEvent b e).power = s.power := by
  simp [State.putEvent]
@[simp] theorem putEvent_flash (s : State) (b : Bool) (e : QEvent) : (s.putEvent b e).flash = s.flash := by
  simp [State.putEvent]
@[simp] theorem putEvent_esc (s : State) (b : Bool) (e : QEvent) : (s.putEvent b e).esc = s.esc := by
  simp [State.putEvent]
@[simp] theorem putEvent_win (s : State) (b : Bool) (e : QEvent) : (s.putEvent b e).win = s.win := by
  simp [State.putEvent]
@[simp] theorem putEvent_mem (s : State) (b : Bool) (e : QEvent) : (s.putEvent b e).mem = s.mem := by
  simp [State.putEvent]
@[simp] theorem putEvent_sbd (s : State) (b : Bool) (e : QEvent) : (s.putEvent b e).sbd = s.sbd := by
  simp [State.putEvent]
@[simp] theorem putEvent_cabs (s : State) (b : Bool) (e : QEvent) : (s.putEvent b e).cabs = s.cabs := by
  simp [State.putEvent]
@[simp] theorem putEvent_leaves (s : State) (b : Bool) (e : QEvent) : (s.putEvent b e).leaves = s.leaves := by
  simp [State.putEvent]
@[simp] theorem putEvent_turns (s : State) (b : Bool) (e : QEvent) : (s.putEvent b e).turns = s.turns := by
  simp [State.putEvent]
@[simp] theorem putEvent_folio (s : State) (b : Bool) (e : QEvent) : (s.putEvent b e).folio = s.folio := by
  simp [State.putEvent]
@[simp] theorem putEvent_job (s : State) (b : Bool) (e : QEvent) : (s.putEvent b e).job = s.job := by
  simp [State.putEvent]
@[simp] theorem putEvent_run (s : State) (b : Bool) (e : QEvent) : (s.putEvent b e).run = s.run := by
  simp [State.putEvent]
@[simp] theorem putEvent_quill (s : State) (b : Bool) (e : QEvent) : (s.putEvent b e).quill = s.quill := by
  simp [State.putEvent]
@[simp] theorem putEvent_svl (s : State) (b : Bool) (e : QEvent) : (s.putEvent b e).svl = s.svl := by
  simp [State.putEvent]
@[simp] theorem putEvent_intake (s : State) (b : Bool) (e : QEvent) : (s.putEvent b e).intake = s.intake := by
  simp [State.putEvent]
@[simp] theorem putEvent_hostFrames (s : State) (b : Bool) (e : QEvent) : (s.putEvent b e).hostFrames = s.hostFrames := by
  simp [State.putEvent]

/-! ## `raiseStepTo` changes out, regs, risk, chembe -/

@[simp] theorem raiseStepTo_pending (s : State) (b : Bool) (c t : Nat) (body : List Byte) : (s.raiseStepTo b c t body).pending = s.pending := by
  unfold State.raiseStepTo; (repeat' split) <;> simp
@[simp] theorem raiseStepTo_time (s : State) (b : Bool) (c t : Nat) (body : List Byte) : (s.raiseStepTo b c t body).time = s.time := by
  unfold State.raiseStepTo; (repeat' split) <;> simp
@[simp] theorem raiseStepTo_free (s : State) (b : Bool) (c t : Nat) (body : List Byte) : (s.raiseStepTo b c t body).free = s.free := by
  unfold State.raiseStepTo; (repeat' split) <;> simp
@[simp] theorem raiseStepTo_pins (s : State) (b : Bool) (c t : Nat) (body : List Byte) : (s.raiseStepTo b c t body).pins = s.pins := by
  unfold State.raiseStepTo; (repeat' split) <;> simp
@[simp] theorem raiseStepTo_power (s : State) (b : Bool) (c t : Nat) (body : List Byte) : (s.raiseStepTo b c t body).power = s.power := by
  unfold State.raiseStepTo; (repeat' split) <;> simp
@[simp] theorem raiseStepTo_flash (s : State) (b : Bool) (c t : Nat) (body : List Byte) : (s.raiseStepTo b c t body).flash = s.flash := by
  unfold State.raiseStepTo; (repeat' split) <;> simp
@[simp] theorem raiseStepTo_esc (s : State) (b : Bool) (c t : Nat) (body : List Byte) : (s.raiseStepTo b c t body).esc = s.esc := by
  unfold State.raiseStepTo; (repeat' split) <;> simp
@[simp] theorem raiseStepTo_win (s : State) (b : Bool) (c t : Nat) (body : List Byte) : (s.raiseStepTo b c t body).win = s.win := by
  unfold State.raiseStepTo; (repeat' split) <;> simp
@[simp] theorem raiseStepTo_mem (s : State) (b : Bool) (c t : Nat) (body : List Byte) : (s.raiseStepTo b c t body).mem = s.mem := by
  unfold State.raiseStepTo; (repeat' split) <;> simp
@[simp] theorem raiseStepTo_sbd (s : State) (b : Bool) (c t : Nat) (body : List Byte) : (s.raiseStepTo b c t body).sbd = s.sbd := by
  unfold State.raiseStepTo; (repeat' split) <;> simp
@[simp] theorem raiseStepTo_cabs (s : State) (b : Bool) (c t : Nat) (body : List Byte) : (s.raiseStepTo b c t body).cabs = s.cabs := by
  unfold State.raiseStepTo; (repeat' split) <;> simp
@[simp] theorem raiseStepTo_leaves (s : State) (b : Bool) (c t : Nat) (body : List Byte) : (s.raiseStepTo b c t body).leaves = s.leaves := by
  unfold State.raiseStepTo; (repeat' split) <;> simp
@[simp] theorem raiseStepTo_turns (s : State) (b : Bool) (c t : Nat) (body : List Byte) : (s.raiseStepTo b c t body).turns = s.turns := by
  unfold State.raiseStepTo; (repeat' split) <;> simp
@[simp] theorem raiseStepTo_folio (s : State) (b : Bool) (c t : Nat) (body : List Byte) : (s.raiseStepTo b c t body).folio = s.folio := by
  unfold State.raiseStepTo; (repeat' split) <;> simp
@[simp] theorem raiseStepTo_job (s : State) (b : Bool) (c t : Nat) (body : List Byte) : (s.raiseStepTo b c t body).job = s.job := by
  unfold State.raiseStepTo; (repeat' split) <;> simp
@[simp] theorem raiseStepTo_run (s : State) (b : Bool) (c t : Nat) (body : List Byte) : (s.raiseStepTo b c t body).run = s.run := by
  unfold State.raiseStepTo; (repeat' split) <;> simp
@[simp] theorem raiseStepTo_quill (s : State) (b : Bool) (c t : Nat) (body : List Byte) : (s.raiseStepTo b c t body).quill = s.quill := by
  unfold State.raiseStepTo; (repeat' split) <;> simp
@[simp] theorem raiseStepTo_svl (s : State) (b : Bool) (c t : Nat) (body : List Byte) : (s.raiseStepTo b c t body).svl = s.svl := by
  unfold State.raiseStepTo; (repeat' split) <;> simp
@[simp] theorem raiseStepTo_intake (s : State) (b : Bool) (c t : Nat) (body : List Byte) : (s.raiseStepTo b c t body).intake = s.intake := by
  unfold State.raiseStepTo; (repeat' split) <;> simp
@[simp] theorem raiseStepTo_hostFrames (s : State) (b : Bool) (c t : Nat) (body : List Byte) : (s.raiseStepTo b c t body).hostFrames = s.hostFrames := by
  unfold State.raiseStepTo; (repeat' split) <;> simp

/-! ## `raiseTo` changes out, regs, risk, chembe -/

@[simp] theorem raiseTo_pending (s : State) (b : Bool) (c : Nat) (body : List Byte) : (s.raiseTo b c body).pending = s.pending := by
  simp [State.raiseTo]
@[simp] theorem raiseTo_time (s : State) (b : Bool) (c : Nat) (body : List Byte) : (s.raiseTo b c body).time = s.time := by
  simp [State.raiseTo]
@[simp] theorem raiseTo_free (s : State) (b : Bool) (c : Nat) (body : List Byte) : (s.raiseTo b c body).free = s.free := by
  simp [State.raiseTo]
@[simp] theorem raiseTo_pins (s : State) (b : Bool) (c : Nat) (body : List Byte) : (s.raiseTo b c body).pins = s.pins := by
  simp [State.raiseTo]
@[simp] theorem raiseTo_power (s : State) (b : Bool) (c : Nat) (body : List Byte) : (s.raiseTo b c body).power = s.power := by
  simp [State.raiseTo]
@[simp] theorem raiseTo_flash (s : State) (b : Bool) (c : Nat) (body : List Byte) : (s.raiseTo b c body).flash = s.flash := by
  simp [State.raiseTo]
@[simp] theorem raiseTo_esc (s : State) (b : Bool) (c : Nat) (body : List Byte) : (s.raiseTo b c body).esc = s.esc := by
  simp [State.raiseTo]
@[simp] theorem raiseTo_win (s : State) (b : Bool) (c : Nat) (body : List Byte) : (s.raiseTo b c body).win = s.win := by
  simp [State.raiseTo]
@[simp] theorem raiseTo_mem (s : State) (b : Bool) (c : Nat) (body : List Byte) : (s.raiseTo b c body).mem = s.mem := by
  simp [State.raiseTo]
@[simp] theorem raiseTo_sbd (s : State) (b : Bool) (c : Nat) (body : List Byte) : (s.raiseTo b c body).sbd = s.sbd := by
  simp [State.raiseTo]
@[simp] theorem raiseTo_cabs (s : State) (b : Bool) (c : Nat) (body : List Byte) : (s.raiseTo b c body).cabs = s.cabs := by
  simp [State.raiseTo]
@[simp] theorem raiseTo_leaves (s : State) (b : Bool) (c : Nat) (body : List Byte) : (s.raiseTo b c body).leaves = s.leaves := by
  simp [State.raiseTo]
@[simp] theorem raiseTo_turns (s : State) (b : Bool) (c : Nat) (body : List Byte) : (s.raiseTo b c body).turns = s.turns := by
  simp [State.raiseTo]
@[simp] theorem raiseTo_folio (s : State) (b : Bool) (c : Nat) (body : List Byte) : (s.raiseTo b c body).folio = s.folio := by
  simp [State.raiseTo]
@[simp] theorem raiseTo_job (s : State) (b : Bool) (c : Nat) (body : List Byte) : (s.raiseTo b c body).job = s.job := by
  simp [State.raiseTo]
@[simp] theorem raiseTo_run (s : State) (b : Bool) (c : Nat) (body : List Byte) : (s.raiseTo b c body).run = s.run := by
  simp [State.raiseTo]
@[simp] theorem raiseTo_quill (s : State) (b : Bool) (c : Nat) (body : List Byte) : (s.raiseTo b c body).quill = s.quill := by
  simp [State.raiseTo]
@[simp] theorem raiseTo_svl (s : State) (b : Bool) (c : Nat) (body : List Byte) : (s.raiseTo b c body).svl = s.svl := by
  simp [State.raiseTo]
@[simp] theorem raiseTo_intake (s : State) (b : Bool) (c : Nat) (body : List Byte) : (s.raiseTo b c body).intake = s.intake := by
  simp [State.raiseTo]
@[simp] theorem raiseTo_hostFrames (s : State) (b : Bool) (c : Nat) (body : List Byte) : (s.raiseTo b c body).hostFrames = s.hostFrames := by
  simp [State.raiseTo]

/-! ## `raiseStep` changes out, regs, risk, chembe -/

@[simp] theorem raiseStep_pending (s : State) (c t : Nat) (body : List Byte) : (s.raiseStep c t body).pending = s.pending := by
  unfold State.raiseStep; split <;> simp
@[simp] theorem raiseStep_time (s : State) (c t : Nat) (body : List Byte) : (s.raiseStep c t body).time = s.time := by
  unfold State.raiseStep; split <;> simp
@[simp] theorem raiseStep_free (s : State) (c t : Nat) (body : List Byte) : (s.raiseStep c t body).free = s.free := by
  unfold State.raiseStep; split <;> simp
@[simp] theorem raiseStep_pins (s : State) (c t : Nat) (body : List Byte) : (s.raiseStep c t body).pins = s.pins := by
  unfold State.raiseStep; split <;> simp
@[simp] theorem raiseStep_power (s : State) (c t : Nat) (body : List Byte) : (s.raiseStep c t body).power = s.power := by
  unfold State.raiseStep; split <;> simp
@[simp] theorem raiseStep_flash (s : State) (c t : Nat) (body : List Byte) : (s.raiseStep c t body).flash = s.flash := by
  unfold State.raiseStep; split <;> simp
@[simp] theorem raiseStep_esc (s : State) (c t : Nat) (body : List Byte) : (s.raiseStep c t body).esc = s.esc := by
  unfold State.raiseStep; split <;> simp
@[simp] theorem raiseStep_win (s : State) (c t : Nat) (body : List Byte) : (s.raiseStep c t body).win = s.win := by
  unfold State.raiseStep; split <;> simp
@[simp] theorem raiseStep_mem (s : State) (c t : Nat) (body : List Byte) : (s.raiseStep c t body).mem = s.mem := by
  unfold State.raiseStep; split <;> simp
@[simp] theorem raiseStep_sbd (s : State) (c t : Nat) (body : List Byte) : (s.raiseStep c t body).sbd = s.sbd := by
  unfold State.raiseStep; split <;> simp
@[simp] theorem raiseStep_cabs (s : State) (c t : Nat) (body : List Byte) : (s.raiseStep c t body).cabs = s.cabs := by
  unfold State.raiseStep; split <;> simp
@[simp] theorem raiseStep_leaves (s : State) (c t : Nat) (body : List Byte) : (s.raiseStep c t body).leaves = s.leaves := by
  unfold State.raiseStep; split <;> simp
@[simp] theorem raiseStep_turns (s : State) (c t : Nat) (body : List Byte) : (s.raiseStep c t body).turns = s.turns := by
  unfold State.raiseStep; split <;> simp
@[simp] theorem raiseStep_folio (s : State) (c t : Nat) (body : List Byte) : (s.raiseStep c t body).folio = s.folio := by
  unfold State.raiseStep; split <;> simp
@[simp] theorem raiseStep_job (s : State) (c t : Nat) (body : List Byte) : (s.raiseStep c t body).job = s.job := by
  unfold State.raiseStep; split <;> simp
@[simp] theorem raiseStep_run (s : State) (c t : Nat) (body : List Byte) : (s.raiseStep c t body).run = s.run := by
  unfold State.raiseStep; split <;> simp
@[simp] theorem raiseStep_quill (s : State) (c t : Nat) (body : List Byte) : (s.raiseStep c t body).quill = s.quill := by
  unfold State.raiseStep; split <;> simp
@[simp] theorem raiseStep_svl (s : State) (c t : Nat) (body : List Byte) : (s.raiseStep c t body).svl = s.svl := by
  unfold State.raiseStep; split <;> simp
@[simp] theorem raiseStep_intake (s : State) (c t : Nat) (body : List Byte) : (s.raiseStep c t body).intake = s.intake := by
  unfold State.raiseStep; split <;> simp
@[simp] theorem raiseStep_hostFrames (s : State) (c t : Nat) (body : List Byte) : (s.raiseStep c t body).hostFrames = s.hostFrames := by
  unfold State.raiseStep; split <;> simp

/-! ## `raise` changes out, regs, risk, chembe -/

@[simp] theorem raise_pending (s : State) (c : Nat) (body : List Byte) : (s.raise c body).pending = s.pending := by
  simp [State.raise]
@[simp] theorem raise_time (s : State) (c : Nat) (body : List Byte) : (s.raise c body).time = s.time := by
  simp [State.raise]
@[simp] theorem raise_free (s : State) (c : Nat) (body : List Byte) : (s.raise c body).free = s.free := by
  simp [State.raise]
@[simp] theorem raise_pins (s : State) (c : Nat) (body : List Byte) : (s.raise c body).pins = s.pins := by
  simp [State.raise]
@[simp] theorem raise_power (s : State) (c : Nat) (body : List Byte) : (s.raise c body).power = s.power := by
  simp [State.raise]
@[simp] theorem raise_flash (s : State) (c : Nat) (body : List Byte) : (s.raise c body).flash = s.flash := by
  simp [State.raise]
@[simp] theorem raise_esc (s : State) (c : Nat) (body : List Byte) : (s.raise c body).esc = s.esc := by
  simp [State.raise]
@[simp] theorem raise_win (s : State) (c : Nat) (body : List Byte) : (s.raise c body).win = s.win := by
  simp [State.raise]
@[simp] theorem raise_mem (s : State) (c : Nat) (body : List Byte) : (s.raise c body).mem = s.mem := by
  simp [State.raise]
@[simp] theorem raise_sbd (s : State) (c : Nat) (body : List Byte) : (s.raise c body).sbd = s.sbd := by
  simp [State.raise]
@[simp] theorem raise_cabs (s : State) (c : Nat) (body : List Byte) : (s.raise c body).cabs = s.cabs := by
  simp [State.raise]
@[simp] theorem raise_leaves (s : State) (c : Nat) (body : List Byte) : (s.raise c body).leaves = s.leaves := by
  simp [State.raise]
@[simp] theorem raise_turns (s : State) (c : Nat) (body : List Byte) : (s.raise c body).turns = s.turns := by
  simp [State.raise]
@[simp] theorem raise_folio (s : State) (c : Nat) (body : List Byte) : (s.raise c body).folio = s.folio := by
  simp [State.raise]
@[simp] theorem raise_job (s : State) (c : Nat) (body : List Byte) : (s.raise c body).job = s.job := by
  simp [State.raise]
@[simp] theorem raise_run (s : State) (c : Nat) (body : List Byte) : (s.raise c body).run = s.run := by
  simp [State.raise]
@[simp] theorem raise_quill (s : State) (c : Nat) (body : List Byte) : (s.raise c body).quill = s.quill := by
  simp [State.raise]
@[simp] theorem raise_svl (s : State) (c : Nat) (body : List Byte) : (s.raise c body).svl = s.svl := by
  simp [State.raise]
@[simp] theorem raise_intake (s : State) (c : Nat) (body : List Byte) : (s.raise c body).intake = s.intake := by
  simp [State.raise]
@[simp] theorem raise_hostFrames (s : State) (c : Nat) (body : List Byte) : (s.raise c body).hostFrames = s.hostFrames := by
  simp [State.raise]

/-! ## `raisePower` changes out, regs, risk, chembe -/

@[simp] theorem raisePower_pending (s : State) (k v : Nat) : (s.raisePower k v).pending = s.pending := by
  simp [State.raisePower]
@[simp] theorem raisePower_time (s : State) (k v : Nat) : (s.raisePower k v).time = s.time := by
  simp [State.raisePower]
@[simp] theorem raisePower_free (s : State) (k v : Nat) : (s.raisePower k v).free = s.free := by
  simp [State.raisePower]
@[simp] theorem raisePower_pins (s : State) (k v : Nat) : (s.raisePower k v).pins = s.pins := by
  simp [State.raisePower]
@[simp] theorem raisePower_power (s : State) (k v : Nat) : (s.raisePower k v).power = s.power := by
  simp [State.raisePower]
@[simp] theorem raisePower_flash (s : State) (k v : Nat) : (s.raisePower k v).flash = s.flash := by
  simp [State.raisePower]
@[simp] theorem raisePower_esc (s : State) (k v : Nat) : (s.raisePower k v).esc = s.esc := by
  simp [State.raisePower]
@[simp] theorem raisePower_win (s : State) (k v : Nat) : (s.raisePower k v).win = s.win := by
  simp [State.raisePower]
@[simp] theorem raisePower_mem (s : State) (k v : Nat) : (s.raisePower k v).mem = s.mem := by
  simp [State.raisePower]
@[simp] theorem raisePower_sbd (s : State) (k v : Nat) : (s.raisePower k v).sbd = s.sbd := by
  simp [State.raisePower]
@[simp] theorem raisePower_cabs (s : State) (k v : Nat) : (s.raisePower k v).cabs = s.cabs := by
  simp [State.raisePower]
@[simp] theorem raisePower_leaves (s : State) (k v : Nat) : (s.raisePower k v).leaves = s.leaves := by
  simp [State.raisePower]
@[simp] theorem raisePower_turns (s : State) (k v : Nat) : (s.raisePower k v).turns = s.turns := by
  simp [State.raisePower]
@[simp] theorem raisePower_folio (s : State) (k v : Nat) : (s.raisePower k v).folio = s.folio := by
  simp [State.raisePower]
@[simp] theorem raisePower_job (s : State) (k v : Nat) : (s.raisePower k v).job = s.job := by
  simp [State.raisePower]
@[simp] theorem raisePower_run (s : State) (k v : Nat) : (s.raisePower k v).run = s.run := by
  simp [State.raisePower]
@[simp] theorem raisePower_quill (s : State) (k v : Nat) : (s.raisePower k v).quill = s.quill := by
  simp [State.raisePower]
@[simp] theorem raisePower_svl (s : State) (k v : Nat) : (s.raisePower k v).svl = s.svl := by
  simp [State.raisePower]
@[simp] theorem raisePower_intake (s : State) (k v : Nat) : (s.raisePower k v).intake = s.intake := by
  simp [State.raisePower]
@[simp] theorem raisePower_hostFrames (s : State) (k v : Nat) : (s.raisePower k v).hostFrames = s.hostFrames := by
  simp [State.raisePower]

/-! ## `enterSafe` changes out, regs, risk, chembe -/

@[simp] theorem enterSafe_pending (s : State) (c : Nat) : (s.enterSafe c).pending = s.pending := by
  unfold State.enterSafe; (repeat' split) <;> simp
@[simp] theorem enterSafe_time (s : State) (c : Nat) : (s.enterSafe c).time = s.time := by
  unfold State.enterSafe; (repeat' split) <;> simp
@[simp] theorem enterSafe_free (s : State) (c : Nat) : (s.enterSafe c).free = s.free := by
  unfold State.enterSafe; (repeat' split) <;> simp
@[simp] theorem enterSafe_pins (s : State) (c : Nat) : (s.enterSafe c).pins = s.pins := by
  unfold State.enterSafe; (repeat' split) <;> simp
@[simp] theorem enterSafe_power (s : State) (c : Nat) : (s.enterSafe c).power = s.power := by
  unfold State.enterSafe; (repeat' split) <;> simp
@[simp] theorem enterSafe_flash (s : State) (c : Nat) : (s.enterSafe c).flash = s.flash := by
  unfold State.enterSafe; (repeat' split) <;> simp
@[simp] theorem enterSafe_esc (s : State) (c : Nat) : (s.enterSafe c).esc = s.esc := by
  unfold State.enterSafe; (repeat' split) <;> simp
@[simp] theorem enterSafe_win (s : State) (c : Nat) : (s.enterSafe c).win = s.win := by
  unfold State.enterSafe; (repeat' split) <;> simp
@[simp] theorem enterSafe_mem (s : State) (c : Nat) : (s.enterSafe c).mem = s.mem := by
  unfold State.enterSafe; (repeat' split) <;> simp
@[simp] theorem enterSafe_sbd (s : State) (c : Nat) : (s.enterSafe c).sbd = s.sbd := by
  unfold State.enterSafe; (repeat' split) <;> simp
@[simp] theorem enterSafe_cabs (s : State) (c : Nat) : (s.enterSafe c).cabs = s.cabs := by
  unfold State.enterSafe; (repeat' split) <;> simp
@[simp] theorem enterSafe_leaves (s : State) (c : Nat) : (s.enterSafe c).leaves = s.leaves := by
  unfold State.enterSafe; (repeat' split) <;> simp
@[simp] theorem enterSafe_turns (s : State) (c : Nat) : (s.enterSafe c).turns = s.turns := by
  unfold State.enterSafe; (repeat' split) <;> simp
@[simp] theorem enterSafe_folio (s : State) (c : Nat) : (s.enterSafe c).folio = s.folio := by
  unfold State.enterSafe; (repeat' split) <;> simp
@[simp] theorem enterSafe_job (s : State) (c : Nat) : (s.enterSafe c).job = s.job := by
  unfold State.enterSafe; (repeat' split) <;> simp
@[simp] theorem enterSafe_run (s : State) (c : Nat) : (s.enterSafe c).run = s.run := by
  unfold State.enterSafe; (repeat' split) <;> simp
@[simp] theorem enterSafe_quill (s : State) (c : Nat) : (s.enterSafe c).quill = s.quill := by
  unfold State.enterSafe; (repeat' split) <;> simp
@[simp] theorem enterSafe_svl (s : State) (c : Nat) : (s.enterSafe c).svl = s.svl := by
  unfold State.enterSafe; (repeat' split) <;> simp
@[simp] theorem enterSafe_intake (s : State) (c : Nat) : (s.enterSafe c).intake = s.intake := by
  unfold State.enterSafe; (repeat' split) <;> simp
@[simp] theorem enterSafe_hostFrames (s : State) (c : Nat) : (s.enterSafe c).hostFrames = s.hostFrames := by
  unfold State.enterSafe; (repeat' split) <;> simp

/-! ## `sendReply` changes out, regs, risk -/

@[simp] theorem sendReply_pending (s : State) (r : Reply) : (s.sendReply r).pending = s.pending := by
  unfold State.sendReply; (repeat' split) <;> simp
@[simp] theorem sendReply_time (s : State) (r : Reply) : (s.sendReply r).time = s.time := by
  unfold State.sendReply; (repeat' split) <;> simp
@[simp] theorem sendReply_free (s : State) (r : Reply) : (s.sendReply r).free = s.free := by
  unfold State.sendReply; (repeat' split) <;> simp
@[simp] theorem sendReply_pins (s : State) (r : Reply) : (s.sendReply r).pins = s.pins := by
  unfold State.sendReply; (repeat' split) <;> simp
@[simp] theorem sendReply_power (s : State) (r : Reply) : (s.sendReply r).power = s.power := by
  unfold State.sendReply; (repeat' split) <;> simp
@[simp] theorem sendReply_flash (s : State) (r : Reply) : (s.sendReply r).flash = s.flash := by
  unfold State.sendReply; (repeat' split) <;> simp
@[simp] theorem sendReply_esc (s : State) (r : Reply) : (s.sendReply r).esc = s.esc := by
  unfold State.sendReply; (repeat' split) <;> simp
@[simp] theorem sendReply_win (s : State) (r : Reply) : (s.sendReply r).win = s.win := by
  unfold State.sendReply; (repeat' split) <;> simp
@[simp] theorem sendReply_chembe (s : State) (r : Reply) : (s.sendReply r).chembe = s.chembe := by
  unfold State.sendReply; (repeat' split) <;> simp
@[simp] theorem sendReply_mem (s : State) (r : Reply) : (s.sendReply r).mem = s.mem := by
  unfold State.sendReply; (repeat' split) <;> simp
@[simp] theorem sendReply_sbd (s : State) (r : Reply) : (s.sendReply r).sbd = s.sbd := by
  unfold State.sendReply; (repeat' split) <;> simp
@[simp] theorem sendReply_cabs (s : State) (r : Reply) : (s.sendReply r).cabs = s.cabs := by
  unfold State.sendReply; (repeat' split) <;> simp
@[simp] theorem sendReply_leaves (s : State) (r : Reply) : (s.sendReply r).leaves = s.leaves := by
  unfold State.sendReply; (repeat' split) <;> simp
@[simp] theorem sendReply_turns (s : State) (r : Reply) : (s.sendReply r).turns = s.turns := by
  unfold State.sendReply; (repeat' split) <;> simp
@[simp] theorem sendReply_folio (s : State) (r : Reply) : (s.sendReply r).folio = s.folio := by
  unfold State.sendReply; (repeat' split) <;> simp
@[simp] theorem sendReply_job (s : State) (r : Reply) : (s.sendReply r).job = s.job := by
  unfold State.sendReply; (repeat' split) <;> simp
@[simp] theorem sendReply_run (s : State) (r : Reply) : (s.sendReply r).run = s.run := by
  unfold State.sendReply; (repeat' split) <;> simp
@[simp] theorem sendReply_quill (s : State) (r : Reply) : (s.sendReply r).quill = s.quill := by
  unfold State.sendReply; (repeat' split) <;> simp
@[simp] theorem sendReply_svl (s : State) (r : Reply) : (s.sendReply r).svl = s.svl := by
  unfold State.sendReply; (repeat' split) <;> simp
@[simp] theorem sendReply_intake (s : State) (r : Reply) : (s.sendReply r).intake = s.intake := by
  unfold State.sendReply; (repeat' split) <;> simp
@[simp] theorem sendReply_hostFrames (s : State) (r : Reply) : (s.sendReply r).hostFrames = s.hostFrames := by
  unfold State.sendReply; (repeat' split) <;> simp

/-! ## `noteSessions` changes regs -/

@[simp] theorem noteSessions_pending (s : State)  : (s.noteSessions).pending = s.pending := by
  unfold State.noteSessions; dsimp only; (repeat' split) <;> simp
@[simp] theorem noteSessions_time (s : State)  : (s.noteSessions).time = s.time := by
  unfold State.noteSessions; dsimp only; (repeat' split) <;> simp
@[simp] theorem noteSessions_free (s : State)  : (s.noteSessions).free = s.free := by
  unfold State.noteSessions; dsimp only; (repeat' split) <;> simp
@[simp] theorem noteSessions_out (s : State)  : (s.noteSessions).out = s.out := by
  unfold State.noteSessions; dsimp only; (repeat' split) <;> simp
@[simp] theorem noteSessions_pins (s : State)  : (s.noteSessions).pins = s.pins := by
  unfold State.noteSessions; dsimp only; (repeat' split) <;> simp
@[simp] theorem noteSessions_power (s : State)  : (s.noteSessions).power = s.power := by
  unfold State.noteSessions; dsimp only; (repeat' split) <;> simp
@[simp] theorem noteSessions_flash (s : State)  : (s.noteSessions).flash = s.flash := by
  unfold State.noteSessions; dsimp only; (repeat' split) <;> simp
@[simp] theorem noteSessions_esc (s : State)  : (s.noteSessions).esc = s.esc := by
  unfold State.noteSessions; dsimp only; (repeat' split) <;> simp
@[simp] theorem noteSessions_win (s : State)  : (s.noteSessions).win = s.win := by
  unfold State.noteSessions; dsimp only; (repeat' split) <;> simp
@[simp] theorem noteSessions_chembe (s : State)  : (s.noteSessions).chembe = s.chembe := by
  unfold State.noteSessions; dsimp only; (repeat' split) <;> simp
@[simp] theorem noteSessions_mem (s : State)  : (s.noteSessions).mem = s.mem := by
  unfold State.noteSessions; dsimp only; (repeat' split) <;> simp
@[simp] theorem noteSessions_sbd (s : State)  : (s.noteSessions).sbd = s.sbd := by
  unfold State.noteSessions; dsimp only; (repeat' split) <;> simp
@[simp] theorem noteSessions_cabs (s : State)  : (s.noteSessions).cabs = s.cabs := by
  unfold State.noteSessions; dsimp only; (repeat' split) <;> simp
@[simp] theorem noteSessions_leaves (s : State)  : (s.noteSessions).leaves = s.leaves := by
  unfold State.noteSessions; dsimp only; (repeat' split) <;> simp
@[simp] theorem noteSessions_turns (s : State)  : (s.noteSessions).turns = s.turns := by
  unfold State.noteSessions; dsimp only; (repeat' split) <;> simp
@[simp] theorem noteSessions_folio (s : State)  : (s.noteSessions).folio = s.folio := by
  unfold State.noteSessions; dsimp only; (repeat' split) <;> simp
@[simp] theorem noteSessions_job (s : State)  : (s.noteSessions).job = s.job := by
  unfold State.noteSessions; dsimp only; (repeat' split) <;> simp
@[simp] theorem noteSessions_run (s : State)  : (s.noteSessions).run = s.run := by
  unfold State.noteSessions; dsimp only; (repeat' split) <;> simp
@[simp] theorem noteSessions_quill (s : State)  : (s.noteSessions).quill = s.quill := by
  unfold State.noteSessions; dsimp only; (repeat' split) <;> simp
@[simp] theorem noteSessions_svl (s : State)  : (s.noteSessions).svl = s.svl := by
  unfold State.noteSessions; dsimp only; (repeat' split) <;> simp
@[simp] theorem noteSessions_risk (s : State)  : (s.noteSessions).risk = s.risk := by
  unfold State.noteSessions; dsimp only; (repeat' split) <;> simp
@[simp] theorem noteSessions_intake (s : State)  : (s.noteSessions).intake = s.intake := by
  unfold State.noteSessions; dsimp only; (repeat' split) <;> simp
@[simp] theorem noteSessions_hostFrames (s : State)  : (s.noteSessions).hostFrames = s.hostFrames := by
  unfold State.noteSessions; dsimp only; (repeat' split) <;> simp

/-! ## `keepSessions` changes regs, chembe -/

@[simp] theorem keepSessions_pending (s : State) (p : Session → Bool) : (s.keepSessions p).pending = s.pending := by
  simp [State.keepSessions]
@[simp] theorem keepSessions_time (s : State) (p : Session → Bool) : (s.keepSessions p).time = s.time := by
  simp [State.keepSessions]
@[simp] theorem keepSessions_free (s : State) (p : Session → Bool) : (s.keepSessions p).free = s.free := by
  simp [State.keepSessions]
@[simp] theorem keepSessions_out (s : State) (p : Session → Bool) : (s.keepSessions p).out = s.out := by
  simp [State.keepSessions]
@[simp] theorem keepSessions_pins (s : State) (p : Session → Bool) : (s.keepSessions p).pins = s.pins := by
  simp [State.keepSessions]
@[simp] theorem keepSessions_power (s : State) (p : Session → Bool) : (s.keepSessions p).power = s.power := by
  simp [State.keepSessions]
@[simp] theorem keepSessions_flash (s : State) (p : Session → Bool) : (s.keepSessions p).flash = s.flash := by
  simp [State.keepSessions]
@[simp] theorem keepSessions_esc (s : State) (p : Session → Bool) : (s.keepSessions p).esc = s.esc := by
  simp [State.keepSessions]
@[simp] theorem keepSessions_win (s : State) (p : Session → Bool) : (s.keepSessions p).win = s.win := by
  simp [State.keepSessions]
@[simp] theorem keepSessions_mem (s : State) (p : Session → Bool) : (s.keepSessions p).mem = s.mem := by
  simp [State.keepSessions]
@[simp] theorem keepSessions_sbd (s : State) (p : Session → Bool) : (s.keepSessions p).sbd = s.sbd := by
  simp [State.keepSessions]
@[simp] theorem keepSessions_cabs (s : State) (p : Session → Bool) : (s.keepSessions p).cabs = s.cabs := by
  simp [State.keepSessions]
@[simp] theorem keepSessions_leaves (s : State) (p : Session → Bool) : (s.keepSessions p).leaves = s.leaves := by
  simp [State.keepSessions]
@[simp] theorem keepSessions_turns (s : State) (p : Session → Bool) : (s.keepSessions p).turns = s.turns := by
  simp [State.keepSessions]
@[simp] theorem keepSessions_folio (s : State) (p : Session → Bool) : (s.keepSessions p).folio = s.folio := by
  simp [State.keepSessions]
@[simp] theorem keepSessions_job (s : State) (p : Session → Bool) : (s.keepSessions p).job = s.job := by
  simp [State.keepSessions]
@[simp] theorem keepSessions_run (s : State) (p : Session → Bool) : (s.keepSessions p).run = s.run := by
  simp [State.keepSessions]
@[simp] theorem keepSessions_quill (s : State) (p : Session → Bool) : (s.keepSessions p).quill = s.quill := by
  simp [State.keepSessions]
@[simp] theorem keepSessions_svl (s : State) (p : Session → Bool) : (s.keepSessions p).svl = s.svl := by
  simp [State.keepSessions]
@[simp] theorem keepSessions_risk (s : State) (p : Session → Bool) : (s.keepSessions p).risk = s.risk := by
  simp [State.keepSessions]
@[simp] theorem keepSessions_intake (s : State) (p : Session → Bool) : (s.keepSessions p).intake = s.intake := by
  simp [State.keepSessions]
@[simp] theorem keepSessions_hostFrames (s : State) (p : Session → Bool) : (s.keepSessions p).hostFrames = s.hostFrames := by
  simp [State.keepSessions]

/-! ## `setLock` changes regs -/

@[simp] theorem setLock_pending (s : State) (b : Bool) (v : Nat) : (s.setLock b v).pending = s.pending := by
  unfold State.setLock; (repeat' split) <;> simp
@[simp] theorem setLock_time (s : State) (b : Bool) (v : Nat) : (s.setLock b v).time = s.time := by
  unfold State.setLock; (repeat' split) <;> simp
@[simp] theorem setLock_free (s : State) (b : Bool) (v : Nat) : (s.setLock b v).free = s.free := by
  unfold State.setLock; (repeat' split) <;> simp
@[simp] theorem setLock_out (s : State) (b : Bool) (v : Nat) : (s.setLock b v).out = s.out := by
  unfold State.setLock; (repeat' split) <;> simp
@[simp] theorem setLock_pins (s : State) (b : Bool) (v : Nat) : (s.setLock b v).pins = s.pins := by
  unfold State.setLock; (repeat' split) <;> simp
@[simp] theorem setLock_power (s : State) (b : Bool) (v : Nat) : (s.setLock b v).power = s.power := by
  unfold State.setLock; (repeat' split) <;> simp
@[simp] theorem setLock_flash (s : State) (b : Bool) (v : Nat) : (s.setLock b v).flash = s.flash := by
  unfold State.setLock; (repeat' split) <;> simp
@[simp] theorem setLock_esc (s : State) (b : Bool) (v : Nat) : (s.setLock b v).esc = s.esc := by
  unfold State.setLock; (repeat' split) <;> simp
@[simp] theorem setLock_win (s : State) (b : Bool) (v : Nat) : (s.setLock b v).win = s.win := by
  unfold State.setLock; (repeat' split) <;> simp
@[simp] theorem setLock_chembe (s : State) (b : Bool) (v : Nat) : (s.setLock b v).chembe = s.chembe := by
  unfold State.setLock; (repeat' split) <;> simp
@[simp] theorem setLock_mem (s : State) (b : Bool) (v : Nat) : (s.setLock b v).mem = s.mem := by
  unfold State.setLock; (repeat' split) <;> simp
@[simp] theorem setLock_sbd (s : State) (b : Bool) (v : Nat) : (s.setLock b v).sbd = s.sbd := by
  unfold State.setLock; (repeat' split) <;> simp
@[simp] theorem setLock_cabs (s : State) (b : Bool) (v : Nat) : (s.setLock b v).cabs = s.cabs := by
  unfold State.setLock; (repeat' split) <;> simp
@[simp] theorem setLock_leaves (s : State) (b : Bool) (v : Nat) : (s.setLock b v).leaves = s.leaves := by
  unfold State.setLock; (repeat' split) <;> simp
@[simp] theorem setLock_turns (s : State) (b : Bool) (v : Nat) : (s.setLock b v).turns = s.turns := by
  unfold State.setLock; (repeat' split) <;> simp
@[simp] theorem setLock_folio (s : State) (b : Bool) (v : Nat) : (s.setLock b v).folio = s.folio := by
  unfold State.setLock; (repeat' split) <;> simp
@[simp] theorem setLock_job (s : State) (b : Bool) (v : Nat) : (s.setLock b v).job = s.job := by
  unfold State.setLock; (repeat' split) <;> simp
@[simp] theorem setLock_run (s : State) (b : Bool) (v : Nat) : (s.setLock b v).run = s.run := by
  unfold State.setLock; (repeat' split) <;> simp
@[simp] theorem setLock_quill (s : State) (b : Bool) (v : Nat) : (s.setLock b v).quill = s.quill := by
  unfold State.setLock; (repeat' split) <;> simp
@[simp] theorem setLock_svl (s : State) (b : Bool) (v : Nat) : (s.setLock b v).svl = s.svl := by
  unfold State.setLock; (repeat' split) <;> simp
@[simp] theorem setLock_risk (s : State) (b : Bool) (v : Nat) : (s.setLock b v).risk = s.risk := by
  unfold State.setLock; (repeat' split) <;> simp
@[simp] theorem setLock_intake (s : State) (b : Bool) (v : Nat) : (s.setLock b v).intake = s.intake := by
  unfold State.setLock; (repeat' split) <;> simp
@[simp] theorem setLock_hostFrames (s : State) (b : Bool) (v : Nat) : (s.setLock b v).hostFrames = s.hostFrames := by
  unfold State.setLock; (repeat' split) <;> simp

/-! ## `lockDenied` changes regs, risk -/

@[simp] theorem lockDenied_pending (s : State)  : (s.lockDenied).pending = s.pending := by
  simp [State.lockDenied]
@[simp] theorem lockDenied_time (s : State)  : (s.lockDenied).time = s.time := by
  simp [State.lockDenied]
@[simp] theorem lockDenied_free (s : State)  : (s.lockDenied).free = s.free := by
  simp [State.lockDenied]
@[simp] theorem lockDenied_out (s : State)  : (s.lockDenied).out = s.out := by
  simp [State.lockDenied]
@[simp] theorem lockDenied_pins (s : State)  : (s.lockDenied).pins = s.pins := by
  simp [State.lockDenied]
@[simp] theorem lockDenied_power (s : State)  : (s.lockDenied).power = s.power := by
  simp [State.lockDenied]
@[simp] theorem lockDenied_flash (s : State)  : (s.lockDenied).flash = s.flash := by
  simp [State.lockDenied]
@[simp] theorem lockDenied_esc (s : State)  : (s.lockDenied).esc = s.esc := by
  simp [State.lockDenied]
@[simp] theorem lockDenied_win (s : State)  : (s.lockDenied).win = s.win := by
  simp [State.lockDenied]
@[simp] theorem lockDenied_chembe (s : State)  : (s.lockDenied).chembe = s.chembe := by
  simp [State.lockDenied]
@[simp] theorem lockDenied_mem (s : State)  : (s.lockDenied).mem = s.mem := by
  simp [State.lockDenied]
@[simp] theorem lockDenied_sbd (s : State)  : (s.lockDenied).sbd = s.sbd := by
  simp [State.lockDenied]
@[simp] theorem lockDenied_cabs (s : State)  : (s.lockDenied).cabs = s.cabs := by
  simp [State.lockDenied]
@[simp] theorem lockDenied_leaves (s : State)  : (s.lockDenied).leaves = s.leaves := by
  simp [State.lockDenied]
@[simp] theorem lockDenied_turns (s : State)  : (s.lockDenied).turns = s.turns := by
  simp [State.lockDenied]
@[simp] theorem lockDenied_folio (s : State)  : (s.lockDenied).folio = s.folio := by
  simp [State.lockDenied]
@[simp] theorem lockDenied_job (s : State)  : (s.lockDenied).job = s.job := by
  simp [State.lockDenied]
@[simp] theorem lockDenied_run (s : State)  : (s.lockDenied).run = s.run := by
  simp [State.lockDenied]
@[simp] theorem lockDenied_quill (s : State)  : (s.lockDenied).quill = s.quill := by
  simp [State.lockDenied]
@[simp] theorem lockDenied_svl (s : State)  : (s.lockDenied).svl = s.svl := by
  simp [State.lockDenied]
@[simp] theorem lockDenied_intake (s : State)  : (s.lockDenied).intake = s.intake := by
  simp [State.lockDenied]
@[simp] theorem lockDenied_hostFrames (s : State)  : (s.lockDenied).hostFrames = s.hostFrames := by
  simp [State.lockDenied]

/-! ## `rxFrame` changes regs, risk, hostFrames -/

@[simp] theorem rxFrame_pending (s : State) (src : Src) : (s.rxFrame src).pending = s.pending := by
  unfold State.rxFrame; (repeat' split) <;> simp
@[simp] theorem rxFrame_time (s : State) (src : Src) : (s.rxFrame src).time = s.time := by
  unfold State.rxFrame; (repeat' split) <;> simp
@[simp] theorem rxFrame_free (s : State) (src : Src) : (s.rxFrame src).free = s.free := by
  unfold State.rxFrame; (repeat' split) <;> simp
@[simp] theorem rxFrame_out (s : State) (src : Src) : (s.rxFrame src).out = s.out := by
  unfold State.rxFrame; (repeat' split) <;> simp
@[simp] theorem rxFrame_pins (s : State) (src : Src) : (s.rxFrame src).pins = s.pins := by
  unfold State.rxFrame; (repeat' split) <;> simp
@[simp] theorem rxFrame_power (s : State) (src : Src) : (s.rxFrame src).power = s.power := by
  unfold State.rxFrame; (repeat' split) <;> simp
@[simp] theorem rxFrame_flash (s : State) (src : Src) : (s.rxFrame src).flash = s.flash := by
  unfold State.rxFrame; (repeat' split) <;> simp
@[simp] theorem rxFrame_esc (s : State) (src : Src) : (s.rxFrame src).esc = s.esc := by
  unfold State.rxFrame; (repeat' split) <;> simp
@[simp] theorem rxFrame_win (s : State) (src : Src) : (s.rxFrame src).win = s.win := by
  unfold State.rxFrame; (repeat' split) <;> simp
@[simp] theorem rxFrame_chembe (s : State) (src : Src) : (s.rxFrame src).chembe = s.chembe := by
  unfold State.rxFrame; (repeat' split) <;> simp
@[simp] theorem rxFrame_mem (s : State) (src : Src) : (s.rxFrame src).mem = s.mem := by
  unfold State.rxFrame; (repeat' split) <;> simp
@[simp] theorem rxFrame_sbd (s : State) (src : Src) : (s.rxFrame src).sbd = s.sbd := by
  unfold State.rxFrame; (repeat' split) <;> simp
@[simp] theorem rxFrame_cabs (s : State) (src : Src) : (s.rxFrame src).cabs = s.cabs := by
  unfold State.rxFrame; (repeat' split) <;> simp
@[simp] theorem rxFrame_leaves (s : State) (src : Src) : (s.rxFrame src).leaves = s.leaves := by
  unfold State.rxFrame; (repeat' split) <;> simp
@[simp] theorem rxFrame_turns (s : State) (src : Src) : (s.rxFrame src).turns = s.turns := by
  unfold State.rxFrame; (repeat' split) <;> simp
@[simp] theorem rxFrame_folio (s : State) (src : Src) : (s.rxFrame src).folio = s.folio := by
  unfold State.rxFrame; (repeat' split) <;> simp
@[simp] theorem rxFrame_job (s : State) (src : Src) : (s.rxFrame src).job = s.job := by
  unfold State.rxFrame; (repeat' split) <;> simp
@[simp] theorem rxFrame_run (s : State) (src : Src) : (s.rxFrame src).run = s.run := by
  unfold State.rxFrame; (repeat' split) <;> simp
@[simp] theorem rxFrame_quill (s : State) (src : Src) : (s.rxFrame src).quill = s.quill := by
  unfold State.rxFrame; (repeat' split) <;> simp
@[simp] theorem rxFrame_svl (s : State) (src : Src) : (s.rxFrame src).svl = s.svl := by
  unfold State.rxFrame; (repeat' split) <;> simp
@[simp] theorem rxFrame_intake (s : State) (src : Src) : (s.rxFrame src).intake = s.intake := by
  unfold State.rxFrame; (repeat' split) <;> simp

/-! ## `dropChembe` changes regs, risk, hostFrames -/

@[simp] theorem dropChembe_pending (s : State) (src : Src) : (s.dropChembe src).pending = s.pending := by
  unfold State.dropChembe; dsimp only; (repeat' split) <;> simp
@[simp] theorem dropChembe_time (s : State) (src : Src) : (s.dropChembe src).time = s.time := by
  unfold State.dropChembe; dsimp only; (repeat' split) <;> simp
@[simp] theorem dropChembe_free (s : State) (src : Src) : (s.dropChembe src).free = s.free := by
  unfold State.dropChembe; dsimp only; (repeat' split) <;> simp
@[simp] theorem dropChembe_out (s : State) (src : Src) : (s.dropChembe src).out = s.out := by
  unfold State.dropChembe; dsimp only; (repeat' split) <;> simp
@[simp] theorem dropChembe_pins (s : State) (src : Src) : (s.dropChembe src).pins = s.pins := by
  unfold State.dropChembe; dsimp only; (repeat' split) <;> simp
@[simp] theorem dropChembe_power (s : State) (src : Src) : (s.dropChembe src).power = s.power := by
  unfold State.dropChembe; dsimp only; (repeat' split) <;> simp
@[simp] theorem dropChembe_flash (s : State) (src : Src) : (s.dropChembe src).flash = s.flash := by
  unfold State.dropChembe; dsimp only; (repeat' split) <;> simp
@[simp] theorem dropChembe_esc (s : State) (src : Src) : (s.dropChembe src).esc = s.esc := by
  unfold State.dropChembe; dsimp only; (repeat' split) <;> simp
@[simp] theorem dropChembe_win (s : State) (src : Src) : (s.dropChembe src).win = s.win := by
  unfold State.dropChembe; dsimp only; (repeat' split) <;> simp
@[simp] theorem dropChembe_chembe (s : State) (src : Src) : (s.dropChembe src).chembe = s.chembe := by
  unfold State.dropChembe; dsimp only; (repeat' split) <;> simp
@[simp] theorem dropChembe_mem (s : State) (src : Src) : (s.dropChembe src).mem = s.mem := by
  unfold State.dropChembe; dsimp only; (repeat' split) <;> simp
@[simp] theorem dropChembe_sbd (s : State) (src : Src) : (s.dropChembe src).sbd = s.sbd := by
  unfold State.dropChembe; dsimp only; (repeat' split) <;> simp
@[simp] theorem dropChembe_cabs (s : State) (src : Src) : (s.dropChembe src).cabs = s.cabs := by
  unfold State.dropChembe; dsimp only; (repeat' split) <;> simp
@[simp] theorem dropChembe_leaves (s : State) (src : Src) : (s.dropChembe src).leaves = s.leaves := by
  unfold State.dropChembe; dsimp only; (repeat' split) <;> simp
@[simp] theorem dropChembe_turns (s : State) (src : Src) : (s.dropChembe src).turns = s.turns := by
  unfold State.dropChembe; dsimp only; (repeat' split) <;> simp
@[simp] theorem dropChembe_folio (s : State) (src : Src) : (s.dropChembe src).folio = s.folio := by
  unfold State.dropChembe; dsimp only; (repeat' split) <;> simp
@[simp] theorem dropChembe_job (s : State) (src : Src) : (s.dropChembe src).job = s.job := by
  unfold State.dropChembe; dsimp only; (repeat' split) <;> simp
@[simp] theorem dropChembe_run (s : State) (src : Src) : (s.dropChembe src).run = s.run := by
  unfold State.dropChembe; dsimp only; (repeat' split) <;> simp
@[simp] theorem dropChembe_quill (s : State) (src : Src) : (s.dropChembe src).quill = s.quill := by
  unfold State.dropChembe; dsimp only; (repeat' split) <;> simp
@[simp] theorem dropChembe_svl (s : State) (src : Src) : (s.dropChembe src).svl = s.svl := by
  unfold State.dropChembe; dsimp only; (repeat' split) <;> simp
@[simp] theorem dropChembe_intake (s : State) (src : Src) : (s.dropChembe src).intake = s.intake := by
  unfold State.dropChembe; dsimp only; (repeat' split) <;> simp

/-! ## `heard` changes regs, risk, win, chembe, hostFrames -/

@[simp] theorem heard_pending (s : State) (src : Src) : (s.heard src).pending = s.pending := by
  cases src <;> simp only [State.heard] <;> (repeat' split) <;> simp
@[simp] theorem heard_time (s : State) (src : Src) : (s.heard src).time = s.time := by
  cases src <;> simp only [State.heard] <;> (repeat' split) <;> simp
@[simp] theorem heard_free (s : State) (src : Src) : (s.heard src).free = s.free := by
  cases src <;> simp only [State.heard] <;> (repeat' split) <;> simp
@[simp] theorem heard_out (s : State) (src : Src) : (s.heard src).out = s.out := by
  cases src <;> simp only [State.heard] <;> (repeat' split) <;> simp
@[simp] theorem heard_pins (s : State) (src : Src) : (s.heard src).pins = s.pins := by
  cases src <;> simp only [State.heard] <;> (repeat' split) <;> simp
@[simp] theorem heard_power (s : State) (src : Src) : (s.heard src).power = s.power := by
  cases src <;> simp only [State.heard] <;> (repeat' split) <;> simp
@[simp] theorem heard_flash (s : State) (src : Src) : (s.heard src).flash = s.flash := by
  cases src <;> simp only [State.heard] <;> (repeat' split) <;> simp
@[simp] theorem heard_esc (s : State) (src : Src) : (s.heard src).esc = s.esc := by
  cases src <;> simp only [State.heard] <;> (repeat' split) <;> simp
@[simp] theorem heard_mem (s : State) (src : Src) : (s.heard src).mem = s.mem := by
  cases src <;> simp only [State.heard] <;> (repeat' split) <;> simp
@[simp] theorem heard_sbd (s : State) (src : Src) : (s.heard src).sbd = s.sbd := by
  cases src <;> simp only [State.heard] <;> (repeat' split) <;> simp
@[simp] theorem heard_cabs (s : State) (src : Src) : (s.heard src).cabs = s.cabs := by
  cases src <;> simp only [State.heard] <;> (repeat' split) <;> simp
@[simp] theorem heard_leaves (s : State) (src : Src) : (s.heard src).leaves = s.leaves := by
  cases src <;> simp only [State.heard] <;> (repeat' split) <;> simp
@[simp] theorem heard_turns (s : State) (src : Src) : (s.heard src).turns = s.turns := by
  cases src <;> simp only [State.heard] <;> (repeat' split) <;> simp
@[simp] theorem heard_folio (s : State) (src : Src) : (s.heard src).folio = s.folio := by
  cases src <;> simp only [State.heard] <;> (repeat' split) <;> simp
@[simp] theorem heard_job (s : State) (src : Src) : (s.heard src).job = s.job := by
  cases src <;> simp only [State.heard] <;> (repeat' split) <;> simp
@[simp] theorem heard_run (s : State) (src : Src) : (s.heard src).run = s.run := by
  cases src <;> simp only [State.heard] <;> (repeat' split) <;> simp
@[simp] theorem heard_quill (s : State) (src : Src) : (s.heard src).quill = s.quill := by
  cases src <;> simp only [State.heard] <;> (repeat' split) <;> simp
@[simp] theorem heard_svl (s : State) (src : Src) : (s.heard src).svl = s.svl := by
  cases src <;> simp only [State.heard] <;> (repeat' split) <;> simp
@[simp] theorem heard_intake (s : State) (src : Src) : (s.heard src).intake = s.intake := by
  cases src <;> simp only [State.heard] <;> (repeat' split) <;> simp

/-! ## `admitted` changes regs, risk, win, chembe, hostFrames -/

@[simp] theorem admitted_pending (s : State) (h : Hdr) : (s.admitted h).pending = s.pending := by
  simp [State.admitted]
@[simp] theorem admitted_time (s : State) (h : Hdr) : (s.admitted h).time = s.time := by
  simp [State.admitted]
@[simp] theorem admitted_free (s : State) (h : Hdr) : (s.admitted h).free = s.free := by
  simp [State.admitted]
@[simp] theorem admitted_out (s : State) (h : Hdr) : (s.admitted h).out = s.out := by
  simp [State.admitted]
@[simp] theorem admitted_pins (s : State) (h : Hdr) : (s.admitted h).pins = s.pins := by
  simp [State.admitted]
@[simp] theorem admitted_power (s : State) (h : Hdr) : (s.admitted h).power = s.power := by
  simp [State.admitted]
@[simp] theorem admitted_flash (s : State) (h : Hdr) : (s.admitted h).flash = s.flash := by
  simp [State.admitted]
@[simp] theorem admitted_esc (s : State) (h : Hdr) : (s.admitted h).esc = s.esc := by
  simp [State.admitted]
@[simp] theorem admitted_mem (s : State) (h : Hdr) : (s.admitted h).mem = s.mem := by
  simp [State.admitted]
@[simp] theorem admitted_sbd (s : State) (h : Hdr) : (s.admitted h).sbd = s.sbd := by
  simp [State.admitted]
@[simp] theorem admitted_cabs (s : State) (h : Hdr) : (s.admitted h).cabs = s.cabs := by
  simp [State.admitted]
@[simp] theorem admitted_leaves (s : State) (h : Hdr) : (s.admitted h).leaves = s.leaves := by
  simp [State.admitted]
@[simp] theorem admitted_turns (s : State) (h : Hdr) : (s.admitted h).turns = s.turns := by
  simp [State.admitted]
@[simp] theorem admitted_folio (s : State) (h : Hdr) : (s.admitted h).folio = s.folio := by
  simp [State.admitted]
@[simp] theorem admitted_job (s : State) (h : Hdr) : (s.admitted h).job = s.job := by
  simp [State.admitted]
@[simp] theorem admitted_run (s : State) (h : Hdr) : (s.admitted h).run = s.run := by
  simp [State.admitted]
@[simp] theorem admitted_quill (s : State) (h : Hdr) : (s.admitted h).quill = s.quill := by
  simp [State.admitted]
@[simp] theorem admitted_svl (s : State) (h : Hdr) : (s.admitted h).svl = s.svl := by
  simp [State.admitted]
@[simp] theorem admitted_intake (s : State) (h : Hdr) : (s.admitted h).intake = s.intake := by
  simp [State.admitted]

/-! ## `answer` changes out, regs, risk, chembe -/

@[simp] theorem answer_pending (s : State) (h : Hdr) (c st : Nat) (ps : List Byte) : (s.answer h c st ps).pending = s.pending := by
  unfold State.answer; dsimp only; (repeat' split) <;> simp
@[simp] theorem answer_time (s : State) (h : Hdr) (c st : Nat) (ps : List Byte) : (s.answer h c st ps).time = s.time := by
  unfold State.answer; dsimp only; (repeat' split) <;> simp
@[simp] theorem answer_free (s : State) (h : Hdr) (c st : Nat) (ps : List Byte) : (s.answer h c st ps).free = s.free := by
  unfold State.answer; dsimp only; (repeat' split) <;> simp
@[simp] theorem answer_pins (s : State) (h : Hdr) (c st : Nat) (ps : List Byte) : (s.answer h c st ps).pins = s.pins := by
  unfold State.answer; dsimp only; (repeat' split) <;> simp
@[simp] theorem answer_power (s : State) (h : Hdr) (c st : Nat) (ps : List Byte) : (s.answer h c st ps).power = s.power := by
  unfold State.answer; dsimp only; (repeat' split) <;> simp
@[simp] theorem answer_flash (s : State) (h : Hdr) (c st : Nat) (ps : List Byte) : (s.answer h c st ps).flash = s.flash := by
  unfold State.answer; dsimp only; (repeat' split) <;> simp
@[simp] theorem answer_esc (s : State) (h : Hdr) (c st : Nat) (ps : List Byte) : (s.answer h c st ps).esc = s.esc := by
  unfold State.answer; dsimp only; (repeat' split) <;> simp
@[simp] theorem answer_win (s : State) (h : Hdr) (c st : Nat) (ps : List Byte) : (s.answer h c st ps).win = s.win := by
  unfold State.answer; dsimp only; (repeat' split) <;> simp
@[simp] theorem answer_mem (s : State) (h : Hdr) (c st : Nat) (ps : List Byte) : (s.answer h c st ps).mem = s.mem := by
  unfold State.answer; dsimp only; (repeat' split) <;> simp
@[simp] theorem answer_sbd (s : State) (h : Hdr) (c st : Nat) (ps : List Byte) : (s.answer h c st ps).sbd = s.sbd := by
  unfold State.answer; dsimp only; (repeat' split) <;> simp
@[simp] theorem answer_cabs (s : State) (h : Hdr) (c st : Nat) (ps : List Byte) : (s.answer h c st ps).cabs = s.cabs := by
  unfold State.answer; dsimp only; (repeat' split) <;> simp
@[simp] theorem answer_leaves (s : State) (h : Hdr) (c st : Nat) (ps : List Byte) : (s.answer h c st ps).leaves = s.leaves := by
  unfold State.answer; dsimp only; (repeat' split) <;> simp
@[simp] theorem answer_turns (s : State) (h : Hdr) (c st : Nat) (ps : List Byte) : (s.answer h c st ps).turns = s.turns := by
  unfold State.answer; dsimp only; (repeat' split) <;> simp
@[simp] theorem answer_folio (s : State) (h : Hdr) (c st : Nat) (ps : List Byte) : (s.answer h c st ps).folio = s.folio := by
  unfold State.answer; dsimp only; (repeat' split) <;> simp
@[simp] theorem answer_job (s : State) (h : Hdr) (c st : Nat) (ps : List Byte) : (s.answer h c st ps).job = s.job := by
  unfold State.answer; dsimp only; (repeat' split) <;> simp
@[simp] theorem answer_run (s : State) (h : Hdr) (c st : Nat) (ps : List Byte) : (s.answer h c st ps).run = s.run := by
  unfold State.answer; dsimp only; (repeat' split) <;> simp
@[simp] theorem answer_quill (s : State) (h : Hdr) (c st : Nat) (ps : List Byte) : (s.answer h c st ps).quill = s.quill := by
  unfold State.answer; dsimp only; (repeat' split) <;> simp
@[simp] theorem answer_svl (s : State) (h : Hdr) (c st : Nat) (ps : List Byte) : (s.answer h c st ps).svl = s.svl := by
  unfold State.answer; dsimp only; (repeat' split) <;> simp
@[simp] theorem answer_intake (s : State) (h : Hdr) (c st : Nat) (ps : List Byte) : (s.answer h c st ps).intake = s.intake := by
  unfold State.answer; dsimp only; (repeat' split) <;> simp
@[simp] theorem answer_hostFrames (s : State) (h : Hdr) (c st : Nat) (ps : List Byte) : (s.answer h c st ps).hostFrames = s.hostFrames := by
  unfold State.answer; dsimp only; (repeat' split) <;> simp

end Sys2Proof.Machine
end

