-- ==== Sys2Proof/Laws/Command.lean ====
section
/-! SUPPORT. The path of a Chembe command, said once: under which conditions its act runs, and what it answers otherwise. -/
namespace Sys2Proof.Machine

/-- A row that allows a source refuses nothing. -/
theorem refusal_of_allows {a : State} {h : Hdr} {op : OpInfo} (hl : h.lenOk = true) (ha : a.allows h op = true) :
    a.refusal h op true = (none, a) := by
  obtain ⟨code, own, pres, deferred, cls, row, main⟩ := op
  simp only [State.allows, Bool.and_eq_true, Bool.or_eq_true, Bool.not_eq_true', Option.isNone_iff_eq_none] at ha
  obtain ⟨⟨⟨⟨ho, hp⟩, hc⟩, hm⟩, hj⟩ := ha
  have h1 : (own && !h.src.isSide && !a.isOwner h.src) = false := by
    rcases ho with (ho | ho) | ho <;> simp [ho]
  have h2 : (pres && !a.presenceOpen) = false := by rcases hp with hp | hp <;> simp [hp]
  have h4 : (main && !a.power.mainOk) = false := by rcases hm with hm | hm <;> simp [hm]
  cases cls with
  | none => simp [State.refusal, h1, h2, h4, hl, hj]
  | some c =>
    have h3 : a.lockedFor h.src.isSide c = false := by simpa using hc
    simp [State.refusal, h1, h2, h3, h4, hl, hj]

/-- A command that is taken and allowed, with its parameters in range, runs its act. -/
theorem command_of_runs {s : State} {h : Hdr} {op : OpInfo} {ok : Bool} {i : Instr} {act : State → Act}
    (hr : s.runs h op = true) (hok : ok = true) :
    s.command h op ok i act = State.perform h op i (act (s.admitted h)) := by
  subst hok
  simp only [State.runs, State.takes, Bool.and_eq_true, Bool.not_eq_true', beq_iff_eq, decide_eq_true_eq] at hr
  obtain ⟨⟨⟨⟨⟨⟨⟨⟨har, hrec⟩, hx⟩, hv⟩, hc⟩, hst⟩, hl⟩, hu⟩, ha⟩ := hr
  cases hs : s.sessionFor h with
  | none => simp [hs] at hx
  | some x =>
    simp only [hs, decide_eq_true_eq] at hx
    have hg := refusal_of_allows (op := op) hl ha
    have hu' : ¬ 512 ≤ (s.heard h.src).unfinished := by omega
    simp only [State.command, har, hrec, hs, hv, hc, hst, hx, hu', State.gated]
    simp only [State.admitted] at hg
    simp [hg, State.admitted]

/-- A command that is taken and allowed, with a parameter out of range, gets PARAM_INVALID and runs no act. -/
theorem command_of_bad {s : State} {h : Hdr} {op : OpInfo} {ok : Bool} {i : Instr} {act : State → Act}
    (hr : s.runs h op = true) (hok : ok = false) :
    s.command h op ok i act = (s.admitted h).answer h op.code stParam [] := by
  subst hok
  simp only [State.runs, State.takes, Bool.and_eq_true, Bool.not_eq_true', beq_iff_eq, decide_eq_true_eq] at hr
  obtain ⟨⟨⟨⟨⟨⟨⟨⟨har, hrec⟩, hx⟩, hv⟩, hc⟩, hst⟩, hl⟩, hu⟩, ha⟩ := hr
  cases hs : s.sessionFor h with
  | none => simp [hs] at hx
  | some x =>
    simp only [hs, decide_eq_true_eq] at hx
    simp only [State.allows, Bool.and_eq_true, Bool.or_eq_true, Bool.not_eq_true', Option.isNone_iff_eq_none] at ha
    obtain ⟨⟨⟨⟨ho, hp⟩, -⟩, -⟩, -⟩ := ha
    have h1 : (op.own && !h.src.isSide && !(s.admitted h).isOwner h.src) = false := by
      rcases ho with (ho | ho) | ho <;> simp [ho]
    have h2 : (op.pres && !(s.admitted h).presenceOpen) = false := by rcases hp with hp | hp <;> simp [hp]
    have hg : (s.admitted h).refusal h op false = (some stParam, s.admitted h) := by simp [State.refusal, h1, h2]
    have hu' : ¬ 512 ≤ (s.heard h.src).unfinished := by omega
    simp only [State.command, har, hrec, hs, hv, hc, hst, hx, hu', State.gated]
    simp only [State.admitted] at hg
    simp [hg, State.admitted]

/-- An act that answers. -/
@[simp] theorem perform_reply (h : Hdr) (op : OpInfo) (i : Instr) (s : State) (st : Nat) (ps : List Byte) :
    State.perform h op i (.reply s st ps) = s.answer h op.code st ps := rfl

/-- A deferred act that has begun. -/
@[simp] theorem perform_begun (h : Hdr) (op : OpInfo) (i : Instr) (s : State) (r : Option (Nat × List Byte)) (a : Nat) :
    State.perform h op i (.begun s r a) =
      (s.addDeferred h op.code r a).sendReply (mkReply h op.code stSuccess true []) := rfl

/-- The sessions that stay. -/
@[simp] theorem keepSessions_sessions (s : State) (p : Session → Bool) :
    (s.keepSessions p).chembe.sessions = s.chembe.sessions.filter p := by
  unfold State.keepSessions; simp

/-- Making room closes sessions, the source's own among them, and leaves memory, flash, job, run, folio and time alone. -/
theorem makeRoom_spec (s : State) (src : Src) :
    (s.makeRoom src).time = s.time ∧ (s.makeRoom src).mem = s.mem ∧ (s.makeRoom src).flash = s.flash ∧
      (s.makeRoom src).job = s.job ∧ (s.makeRoom src).run = s.run ∧ (s.makeRoom src).folio = s.folio ∧
      ∀ y ∈ (s.makeRoom src).chembe.sessions, y.src.same src = false := by
  unfold State.makeRoom
  dsimp only
  split
  · simp
  · split <;> simp

/-- Drawing a session number advances the free values alone. -/
theorem newSession_fst (s : State) : s.newSession.1 = { s with free := s.free + 1 } := (rfl)

/-- Opening a session adds it and leaves memory, flash, job, run and folio alone. -/
theorem openSession_spec (s : State) (h : Hdr) (f : Nat) :
    (s.openSession h f).mem = s.mem ∧ (s.openSession h f).flash = s.flash ∧ (s.openSession h f).job = s.job ∧
      (s.openSession h f).run = s.run ∧ (s.openSession h f).folio = s.folio ∧
      (s.openSession h f).chembe.sessions = s.chembe.sessions ++ [freshSession h.src s.newSession.2 f s.time] := by
  unfold State.openSession
  dsimp only
  rw [newSession_fst]
  unfold State.addSession
  refine ⟨?_, ?_, ?_, ?_, ?_, ?_⟩ <;> simp

end Sys2Proof.Machine
end

