-- ==== Sys2Proof/Laws/Sparse.lean ====
section
/-! SUPPORT. Sparse lists: read after write, and the canonical form that every operation keeps. -/
namespace Sys2Proof.Machine

variable {α : Type} [DecidableEq α] {d : Nat → α} {m : List (Nat × α)}

/-- The canonical form, said as a pair. -/
theorem spWf_iff : spWf d m = true ↔ m.Pairwise (fun a b => a.1 < b.1) ∧ ∀ p ∈ m, p.2 ≠ d p.1 := by
  simp [spWf]

/-- An empty list is canonical. -/
@[simp] theorem spWf_nil : spWf d ([] : List (Nat × α)) = true := by simp [spWf]

omit [DecidableEq α] in
/-- A key below every listed key reads its default. -/
theorem spGet_below {k : Nat} (h : ∀ p ∈ m, k < p.1) : spGet d m k = d k := by
  induction m with
  | nil => rfl
  | cons p m ih =>
    obtain ⟨j, w⟩ := p
    have hj : k < j := h (j, w) (by simp)
    simp only [spGet]
    rw [if_neg (by omega), ih fun q hq => h q (by simp [hq])]

/-- Read after write, in a list whose keys rise. -/
theorem spGet_spSet {k i : Nat} {v : α} (h : m.Pairwise fun a b => a.1 < b.1) :
    spGet d (spSet d m k v) i = if i = k then v else spGet d m i := by
  induction m with
  | nil =>
    simp only [spSet]
    split
    · next hv => by_cases hi : i = k <;> simp [spGet, hi, hv]
    · by_cases hi : i = k
      · simp [spGet, hi]
      · simp [spGet, hi, Ne.symm hi]
  | cons p m ih =>
    obtain ⟨j, w⟩ := p
    rw [List.pairwise_cons] at h
    obtain ⟨hlt, hm⟩ := h
    simp only [spSet]
    split
    · next hjk =>
      simp only [spGet]
      by_cases hi : j = i
      · subst hi; simp [show j ≠ k by omega]
      · simp [hi, ih hm]
    · next hjk =>
      split
      · next hj =>
        subst hj
        split
        · next hv =>
          by_cases hi : i = j
          · subst hi; simp [spGet_below hlt, hv]
          · simp [spGet, hi, Ne.symm hi]
        · by_cases hi : i = j
          · simp [spGet, hi]
          · simp [spGet, hi, Ne.symm hi]
      · next hj =>
        have hkj : k < j := by omega
        split
        · next hv =>
          by_cases hi : i = k
          · subst hi
            rw [if_pos rfl, hv]
            exact spGet_below fun q hq => by
              rcases List.mem_cons.1 hq with rfl | hq
              · exact hkj
              · exact Nat.lt_trans hkj (hlt q hq)
          · simp [hi]
        · by_cases hi : i = k
          · simp [spGet, hi]
          · simp [spGet, hi, Ne.symm hi]

/-- A key of a written list is the key written or a key listed before. -/
theorem mem_spSet {k : Nat} {v : α} {p : Nat × α} (h : p ∈ spSet d m k v) : p = (k, v) ∧ v ≠ d k ∨ p ∈ m := by
  induction m with
  | nil =>
    simp only [spSet] at h
    split at h
    · simp at h
    · next hv => simp only [List.mem_singleton] at h; exact .inl ⟨h, hv⟩
  | cons q m ih =>
    obtain ⟨j, w⟩ := q
    simp only [spSet] at h
    split at h
    · rcases List.mem_cons.1 h with rfl | h
      · exact .inr (by simp)
      · rcases ih h with h | h
        · exact .inl h
        · exact .inr (by simp [h])
    · split at h
      · split at h
        · exact .inr (by simp [h])
        · next hv =>
          rcases List.mem_cons.1 h with rfl | h
          · exact .inl ⟨rfl, hv⟩
          · exact .inr (by simp [h])
      · split at h
        · exact .inr h
        · next hv =>
          rcases List.mem_cons.1 h with rfl | h
          · exact .inl ⟨rfl, hv⟩
          · exact .inr h

/-- A write keeps the canonical form. -/
theorem spWf_spSet {k : Nat} {v : α} (h : spWf d m = true) : spWf d (spSet d m k v) = true := by
  rw [spWf_iff] at h ⊢
  obtain ⟨hp, hd⟩ := h
  refine ⟨?_, fun p hm => ?_⟩
  · clear hd
    induction m with
    | nil => simp only [spSet]; split <;> simp
    | cons q m ih =>
      obtain ⟨j, w⟩ := q
      have hp' := hp
      rw [List.pairwise_cons] at hp
      obtain ⟨hlt, hm⟩ := hp
      simp only [spSet]
      split
      · next hjk =>
        rw [List.pairwise_cons]
        refine ⟨fun p hpm => ?_, ih hm⟩
        rcases mem_spSet hpm with ⟨rfl, -⟩ | hpm
        · exact hjk
        · exact hlt p hpm
      · next hjk =>
        split
        · next hj =>
          subst hj
          split
          · exact hm
          · rw [List.pairwise_cons]; exact ⟨hlt, hm⟩
        · next hj =>
          have hkj : k < j := by omega
          split
          · exact hp'
          · rw [List.pairwise_cons]
            refine ⟨fun p hpm => ?_, hp'⟩
            rcases List.mem_cons.1 hpm with rfl | hpm
            · exact hkj
            · exact Nat.lt_trans hkj (hlt p hpm)
  · rcases mem_spSet hm with ⟨rfl, hv⟩ | hm
    · exact hv
    · exact hd p hm

/-- Leaving entries out keeps the canonical form. -/
theorem spWf_filter {p : Nat × α → Bool} (h : spWf d m = true) : spWf d (m.filter p) = true := by
  rw [spWf_iff] at h ⊢
  exact ⟨h.1.filter _, fun q hq => h.2 q (List.mem_filter.1 hq).1⟩

/-- Clearing a range of keys keeps the canonical form. -/
theorem spWf_spClear {lo hi : Nat} (h : spWf d m = true) : spWf d (spClear m lo hi) = true := spWf_filter h

/-- Consecutive writes keep the canonical form. -/
theorem spWf_spSetN {k : Nat} {vs : List α} (h : spWf d m = true) : spWf d (spSetN d m k vs) = true := by
  induction vs generalizing m k with
  | nil => exact h
  | cons v vs ih => exact ih (spWf_spSet h)

/-- Read after consecutive writes: inside them the value written, outside what stood there. -/
theorem spGet_spSetN {k i : Nat} {vs : List α} (h : spWf d m = true) :
    spGet d (spSetN d m k vs) i = if h : k ≤ i ∧ i - k < vs.length then vs[i - k]'h.2 else spGet d m i := by
  induction vs generalizing m k with
  | nil => simp [spSetN]
  | cons v vs ih =>
    rw [spSetN, ih (spWf_spSet h), spGet_spSet (spWf_iff.1 h).1]
    by_cases h1 : k + 1 ≤ i ∧ i - (k + 1) < vs.length
    · have h2 : k ≤ i ∧ i - k < (v :: vs).length := by simp; omega
      rw [dif_pos h1, dif_pos h2]
      obtain ⟨n, hn⟩ : ∃ n, i - k = n + 1 := ⟨i - k - 1, by omega⟩
      have : i - (k + 1) = n := by omega
      simp [hn, this]
    · rw [dif_neg h1]
      by_cases hik : i = k
      · subst hik; simp
      · have h2 : ¬ (k ≤ i ∧ i - k < (v :: vs).length) := by simp; omega
        rw [dif_neg h2, if_neg hik]

end Sys2Proof.Machine
end

