-- ==== Sys2Proof/Laws/Kept.lean ====
section
/-! SUPPORT. What every operation keeps, as one relation: sound lists, the queue, the clock, what has been sent, the floors of
the flash; and, where its flags ask for it, memory and the owner. -/
namespace Sys2Proof.Laws
open Sys2Proof.Machine

/-- The relation on the fields that it speaks of. -/
def Core (m o : Bool) (s0 : State) (regs : List (Nat × Word)) (mem : Mem) (err turns : List (Nat × Nat)) (pending : List Instr)
    (time : Nat) (out : List Out) (free svn key : Nat) (owner : Option (Nat × Nat)) : Prop :=
  (s0.Sound → spWf regReset regs = true ∧ Memory.wf mem = true ∧ spWf (fun _ => 0) err = true ∧ spWf (fun _ => 0) turns = true) ∧
  pending = s0.pending ∧ time = s0.time ∧ s0.out <+: out ∧ s0.free ≤ free ∧ s0.flash.svnFloor ≤ svn ∧ s0.flash.keyFloor ≤ key ∧
  (m = true → mem = s0.mem) ∧ (o = true → owner = s0.flash.owner)

/-- `s` has come from `s0` by operations that keep what a step keeps; with `m` memory is untouched, with `o` the owner. -/
def Kept (m o : Bool) (s0 s : State) : Prop :=
  Core m o s0 s.regs s.mem s.sbd.err s.turns s.pending s.time s.out s.free s.flash.svnFloor s.flash.keyFloor s.flash.owner

variable {m o : Bool} {s0 s s' : State} {α β : Type}

theorem Kept.rfl' : Kept m o s s := ⟨fun h => h, rfl, rfl, List.prefix_refl _, le_refl _, le_refl _, le_refl _, fun _ => rfl, fun _ => rfl⟩

/-- Only the fields that `Core` names matter. -/
theorem Kept.upd (h : Kept m o s0 s) (e1 : s'.regs = s.regs) (e2 : s'.mem = s.mem) (e3 : s'.sbd.err = s.sbd.err)
    (e4 : s'.turns = s.turns) (e5 : s'.pending = s.pending) (e6 : s'.time = s.time) (e7 : s'.out = s.out) (e8 : s'.free = s.free)
    (e9 : s'.flash.svnFloor = s.flash.svnFloor) (e10 : s'.flash.keyFloor = s.flash.keyFloor)
    (e11 : s'.flash.owner = s.flash.owner) : Kept m o s0 s' := by
  unfold Kept; rw [e1, e2, e3, e4, e5, e6, e7, e8, e9, e10, e11]; exact h

/-- The same for a record update, in the form in which it stands. -/
theorem Kept.upd2 {pins power flash esc win chembe sbd cabs leaves folio job run quill svl risk intake hostFrames} (h : Kept m o s0 s)
    (e3 : sbd.err = s.sbd.err) (e9 : flash.svnFloor = s.flash.svnFloor) (e10 : flash.keyFloor = s.flash.keyFloor)
    (e11 : flash.owner = s.flash.owner) :
    Kept m o s0 (State.mk s.pending s.time s.free s.out pins power flash esc s.regs win chembe s.mem sbd cabs leaves s.turns folio
      job run quill svl risk intake hostFrames) := Kept.upd h rfl rfl e3 rfl rfl rfl rfl rfl e9 e10 e11

/-- The same where sparse lists, the free values used or the flash change too. -/
theorem Kept.upd3 {free pins power flash esc regs win chembe mem sbd cabs leaves turns folio job run quill svl risk intake hostFrames}
    (h : Kept m o s0 s) (e0 : s.free ≤ free) (e1 : spWf regReset s.regs = true → spWf regReset regs = true)
    (e2 : Memory.wf s.mem = true → Memory.wf mem = true) (em : m = true → mem = s.mem)
    (e3 : spWf (fun _ => 0) s.sbd.err = true → spWf (fun _ => 0) sbd.err = true)
    (e4 : spWf (fun _ => 0) s.turns = true → spWf (fun _ => 0) turns = true) (e9 : s.flash.svnFloor ≤ flash.svnFloor)
    (e10 : s.flash.keyFloor ≤ flash.keyFloor) (e11 : o = true → flash.owner = s.flash.owner) :
    Kept m o s0 (State.mk s.pending s.time free s.out pins power flash esc regs win chembe mem sbd cabs leaves turns folio
      job run quill svl risk intake hostFrames) := by
  obtain ⟨a1, a2, a3, a4, a5, a6, a7, a8, a9⟩ := h
  exact ⟨fun hs => ⟨e1 (a1 hs).1, e2 (a1 hs).2.1, e3 (a1 hs).2.2.1, e4 (a1 hs).2.2.2⟩, a2, a3, a4, le_trans a5 e0,
    le_trans a6 e9, le_trans a7 e10, fun hm => (em hm).trans (a8 hm), fun ho => (e11 ho).trans (a9 ho)⟩

theorem Kept.ite {c : Prop} [Decidable c] {a b : State} (ha : Kept m o s0 a) (hb : Kept m o s0 b) :
    Kept m o s0 (if c then a else b) := by split <;> assumption

/-- A branch that goes on from the other one. -/
theorem Kept.iteR {c : Prop} [Decidable c] {a b : State} (hb : Kept m o s0 b) (ha : Kept m o s0 b → Kept m o s0 a) :
    Kept m o s0 (if c then a else b) := Kept.ite (ha hb) hb

theorem Kept.iteL {c : Prop} [Decidable c] {a b : State} (ha : Kept m o s0 a) (hb : Kept m o s0 a → Kept m o s0 b) :
    Kept m o s0 (if c then a else b) := Kept.ite ha (hb ha)

theorem Kept.fst {p : State × β} {a : State} {b : β} (e : p = (a, b)) (h : Kept m o s0 p.1) : Kept m o s0 a := by
  rw [e] at h; exact h

/-- The same the other way round: what a pair is made of. -/
theorem Kept.ofPair {p : State × β} {a : State} {b : β} (e : p = (a, b)) (h : Kept m o s0 a) : Kept m o s0 p.1 := by
  rw [e]; exact h

theorem Kept.snd {p : β × State} {a : State} {b : β} (e : p = (b, a)) (h : Kept m o s0 p.2) : Kept m o s0 a := by
  rw [e] at h; exact h

theorem Kept.foldl {f : State → α → State} {l : List α} (hs : Kept m o s0 s)
    (hf : ∀ t, Kept m o s0 t → ∀ x, Kept m o s0 (f t x)) : Kept m o s0 (l.foldl f s) := by
  induction l generalizing s with
  | nil => exact hs
  | cons x l ih => exact ih (hf s hs x)

theorem Kept.foldl1 {f : State × β → α → State × β} {l : List α} {p : State × β} (hs : Kept m o s0 p.1)
    (hf : ∀ t, Kept m o s0 t.1 → ∀ x, Kept m o s0 (f t x).1) : Kept m o s0 (l.foldl f p).1 := by
  induction l generalizing p with
  | nil => exact hs
  | cons x l ih => exact ih (hf p hs x)

/-- What an act leaves behind. -/
def ActKept (m o : Bool) (s0 : State) : Act → Prop
  | .reply s _ _ => Kept m o s0 s
  | .begun s _ _ => Kept m o s0 s
  | .hold s => Kept m o s0 s

theorem ActKept.reply {a b} (h : Kept m o s0 s) : ActKept m o s0 (.reply s a b) := h
theorem ActKept.begun {a b} (h : Kept m o s0 s) : ActKept m o s0 (.begun s a b) := h
theorem ActKept.hold (h : Kept m o s0 s) : ActKept m o s0 (.hold s) := h

/-- What an outcome leaves behind. -/
def OutKept (m o : Bool) (s0 : State) (r : Host.Outcome State Fault Refusal) : Prop := ∀ t, r = .next t → Kept m o s0 t

theorem OutKept.next (h : Kept m o s0 s) : OutKept m o s0 (.next s) := by
  intro t e; cases e; exact h
theorem OutKept.fault {x} : OutKept m o s0 (.fault x) := by intro t e; cases e

/-! ## The primitive writes -/

theorem Kept.regs' (h : Kept m o s0 s) {r : List (Nat × Word)} (hr : spWf regReset s.regs = true → spWf regReset r = true) :
    Kept m o s0 { s with regs := r } := by
  obtain ⟨h1, h2⟩ := h
  exact ⟨fun hs => ⟨hr (h1 hs).1, (h1 hs).2⟩, h2⟩

theorem kept_setReg {a v : Nat} (h : Kept m o s0 s) : Kept m o s0 (s.setReg a v) := h.regs' fun hr => spWf_spSet hr
theorem kept_resetRegs {a b : Nat} (h : Kept m o s0 s) : Kept m o s0 (s.resetRegs a b) := h.regs' fun hr => spWf_spClear hr
theorem kept_clearRegs {a b : Nat} (h : Kept m o s0 s) : Kept m o s0 { s with regs := spClear s.regs a b } :=
  h.regs' fun hr => spWf_spClear hr

theorem kept_send {x : Out} (h : Kept m o s0 s) : Kept m o s0 (s.send x) := by
  obtain ⟨h1, h2, h3, h4, h5⟩ := h
  exact ⟨h1, h2, h3, h4.trans (List.prefix_append _ _), h5⟩

theorem kept_free {n : Nat} (h : Kept m o s0 s) : Kept m o s0 { s with free := s.free + n } := by
  obtain ⟨h1, h2, h3, h4, h5, h6⟩ := h
  exact ⟨h1, h2, h3, h4, le_trans h5 (Nat.le_add_right _ _), h6⟩

theorem Kept.turns' (h : Kept m o s0 s) {r : List (Nat × Nat)} (hr : spWf (fun _ => 0) s.turns = true → spWf (fun _ => 0) r = true) :
    Kept m o s0 { s with turns := r } := by
  obtain ⟨h1, h2⟩ := h
  exact ⟨fun hs => ⟨(h1 hs).1, (h1 hs).2.1, (h1 hs).2.2.1, hr (h1 hs).2.2.2⟩, h2⟩

/-- A change of memory that keeps its canonical form. -/
theorem Kept.mem' (h : Kept false o s0 s) {r : Mem} (hr : Memory.wf s.mem = true → Memory.wf r = true) :
    Kept false o s0 { s with mem := r } := by
  obtain ⟨h1, h2, h3, h4, h5, h6, h7, -, h9⟩ := h
  exact ⟨fun hs => ⟨(h1 hs).1, hr (h1 hs).2.1, (h1 hs).2.2⟩, h2, h3, h4, h5, h6, h7, by simp, h9⟩

/-- A change of the Sideboard. -/
theorem Kept.sbd' (h : Kept m o s0 s) {b : Sbd} (hr : spWf (fun _ => 0) s.sbd.err = true → spWf (fun _ => 0) b.err = true) :
    Kept m o s0 { s with sbd := b } := by
  obtain ⟨h1, h2⟩ := h
  exact ⟨fun hs => ⟨(h1 hs).1, (h1 hs).2.1, hr (h1 hs).2.2.1, (h1 hs).2.2.2⟩, h2⟩

/-- A change of the flash. -/
theorem Kept.flash' (h : Kept m o s0 s) {f : Flash} (h1 : s.flash.svnFloor ≤ f.svnFloor) (h2 : s.flash.keyFloor ≤ f.keyFloor)
    (h3 : o = true → f.owner = s.flash.owner) : Kept m o s0 { s with flash := f } := by
  obtain ⟨a, b, c, d, e, f1, f2, g, i⟩ := h
  exact ⟨a, b, c, d, e, le_trans f1 h1, le_trans f2 h2, g, fun ho => (h3 ho).trans (i ho)⟩

theorem kept_mapFlash {f : Flash → Flash} (h : Kept m o s0 s)
    (hf : ∀ x : Flash, x.svnFloor ≤ (f x).svnFloor ∧ x.keyFloor ≤ (f x).keyFloor ∧ (o = true → (f x).owner = x.owner)) :
    Kept m o s0 (s.mapFlash f) := h.flash' (hf _).1 (hf _).2.1 (hf _).2.2

end Sys2Proof.Laws
end

