-- ==== Sys2Proof/Laws/KeptMem.lean ====
section
/-! SUPPORT. The operations that write memory, the flash's owner or a counter of free values: each keeps what `Kept` says, every
sparse list of memory its canonical form. -/
namespace Sys2Proof.Laws
open Sys2Proof.Machine

variable {m o : Bool} {s0 s s' : State}

theorem Kept.trans (h : Kept m o s0 s) (h' : Kept m o s s') : Kept m o s0 s' := by
  obtain ⟨a1, a2, a3, a4, a5, a6, a7, a8, a9⟩ := h
  obtain ⟨b1, b2, b3, b4, b5, b6, b7, b8, b9⟩ := h'
  refine ⟨fun hs => b1 ?_, b2.trans a2, b3.trans a3, a4.trans b4, le_trans a5 b5, le_trans a6 b6, le_trans a7 b7,
    fun hm => (b8 hm).trans (a8 hm), fun ho => (b9 ho).trans (a9 ho)⟩
  exact a1 hs

/-- The canonical form of memory, said as its parts. -/
theorem wf_iff {x : Mem} : Memory.wf x = true ↔ spWf (fun _ => 0) x.dram = true ∧ spWf (checkDefault x.lost) x.check = true ∧
    spWf (fun _ => 0) x.cls = true ∧ spWf (fun _ => 0) x.ink = true ∧ spWf (fun _ => false) x.inkPoison = true ∧
    spWf (fun _ => 0) x.inkErr = true := by
  simp [Memory.wf, and_assoc]

/-- A change of default at keys that the list does not hold. -/
theorem spWf_default {α : Type} [DecidableEq α] {d d' : Nat → α} {l : List (Nat × α)} (h : spWf d l = true)
    (hd : ∀ p ∈ l, d' p.1 = d p.1) : spWf d' l = true := by
  rw [spWf_iff] at h ⊢
  exact ⟨h.1, fun p hp => by rw [hd p hp]; exact h.2 p hp⟩

theorem spWf_foldl {α β : Type} [DecidableEq α] {d : Nat → α} {f : List (Nat × α) → β → List (Nat × α)} {l : List β}
    (hf : ∀ x y, spWf d x = true → spWf d (f x y) = true) : ∀ {x}, spWf d x = true → spWf d (l.foldl f x) = true := by
  induction l with
  | nil => exact fun h => h
  | cons y l ih => exact fun h => ih (hf _ _ h)

/-- The Drawer of a line that is no line of a Drawer does not decide its default. -/
theorem lineDefault_other {l : List (Nat × Nat × Nat × Nat)} {x : List (Nat × Nat × Nat × Nat)} {c n a : Nat}
    (hx : ∀ p ∈ x, p.1 = c ∧ p.2.1 = n) (ha : ofDrawer c n a = false) :
    lineDefault (x ++ l.filter fun p => !(p.1 == c && p.2.1 == n)) a = lineDefault l a := by
  unfold lineDefault
  refine if_congr ?_ rfl rfl
  simp only [List.any_append, List.any_filter, Bool.or_eq_true, List.any_eq_true, Bool.and_eq_true, beq_iff_eq, decide_eq_true_eq,
    Bool.not_eq_true', Bool.and_eq_false_iff, beq_eq_false_iff_ne, ne_eq, ofDrawer] at ha ⊢
  constructor
  · rintro (⟨p, hp, h⟩ | ⟨p, hp, h⟩)
    · obtain ⟨h1, h2⟩ := hx p hp
      omega
    · exact ⟨p, hp, h.2⟩
  · rintro ⟨p, hp, h⟩
    exact .inr ⟨p, hp, by omega, h⟩

theorem spWf_adoptTarget {α : Type} [DecidableEq α] {d d' : Nat → α} {c n wm : Nat} {l : List (Nat × α)} (h : spWf d l = true)
    (hd : ∀ a, ofDrawer c n (if a < targetCopy then a else a - targetCopy) = false → d' a = d a) :
    spWf d' (adoptTarget d' c n wm l) = true := by
  unfold adoptTarget
  refine spWf_foldl (fun _ _ h => spWf_spSet h) ?_
  refine spWf_default (spWf_filter h) fun p hp => hd _ ?_
  simpa using (List.mem_filter.1 hp).2

theorem kept_adoptDrawer {c n wm : Nat} {x : List (Nat × Nat × Nat × Nat)} (h : Kept false o s0 s)
    (hx : ∀ p ∈ x, p.1 = c ∧ p.2.1 = n := by simp) : Kept false o s0 (s.adoptDrawer c n wm x) := by
  refine h.mem' fun hw => ?_
  rw [wf_iff] at hw ⊢
  refine ⟨spWf_adoptTarget hw.1 fun _ _ => rfl, spWf_adoptTarget hw.2.1 fun a ha => ?_, hw.2.2⟩
  simp only [checkDefault]
  split
  · rfl
  · next hk =>
    rw [if_pos (by omega)] at ha
    exact lineDefault_other hx ha

theorem kept_loseLines {a0 a1 a2 : Nat} (h : Kept false o s0 s) : Kept false o s0 (s.loseLines a0 a1 a2) :=
  kept_adoptDrawer h

theorem kept_putRaw {a0 : Nat} {a1 : List Byte} {a2 : Word} (h : Kept false o s0 s) : Kept false o s0 (s.putRaw a0 a1 a2) := by
  unfold State.putRaw
  split
  · exact h
  · refine h.mem' fun hw => ?_
    rw [wf_iff] at hw ⊢
    exact ⟨spWf_spSetN hw.1, spWf_spSet hw.2.1, hw.2.2⟩

theorem kept_dropTarget {a0 a1 : Nat} (h : Kept false o s0 s) : Kept false o s0 (s.dropTarget a0 a1) := by
  refine h.mem' fun hw => ?_
  rw [wf_iff] at hw ⊢
  exact ⟨spWf_filter hw.1, spWf_filter hw.2.1, hw.2.2⟩

theorem kept_clearErr {a0 : Nat} (h : Kept m o s0 s) : Kept m o s0 (s.clearErr a0) := h.sbd' fun hs => spWf_spClear hs

theorem lineDefault_cut {l : List (Nat × Nat × Nat × Nat)} {lo hi a : Nat} (ha : a < lo ∨ hi ≤ a) :
    lineDefault (cutLost l lo hi) a = lineDefault l a := by
  unfold lineDefault cutLost
  refine if_congr ?_ rfl rfl
  simp only [List.any_filter, List.any_flatMap, List.any_eq_true, List.any_cons, List.any_nil, Bool.and_eq_true, Bool.or_eq_true, decide_eq_true_eq, beq_iff_eq, Bool.or_false]
  constructor
  · rintro ⟨p, hp, h | h⟩ <;> refine ⟨p, hp, ?_⟩ <;> omega
  · rintro ⟨p, hp, h⟩
    refine ⟨p, hp, ?_⟩
    omega

theorem lineDefault_dead {d : List (Nat × Nat × Nat)} {l : List (Nat × Nat × Nat × Nat)} {lo hi a : Nat} (ha : a < lo ∨ hi ≤ a) :
    lineDefault (deadLost d lo hi ++ cutLost l lo hi) a = lineDefault l a := by
  rw [← lineDefault_cut (l := l) ha]
  unfold lineDefault
  refine if_congr ?_ rfl rfl
  rw [List.any_append, Bool.or_eq_true, or_iff_right]
  simp only [deadLost, List.any_filter, List.any_map, List.any_eq_true, Function.comp, Bool.and_eq_true, decide_eq_true_eq,
    beq_iff_eq]
  rintro ⟨p, -, h⟩
  omega

theorem kept_zeroLines {a0 a1 : Nat} (h : Kept false o s0 s) : Kept false o s0 (s.zeroLines a0 a1) := by
  have h1 := h.mem' (r := { s.mem with
    dram := spClear (spClear s.mem.dram a0 a1) (a0 + targetCopy) (a1 + targetCopy),
    check := spClear (spClear s.mem.check a0 a1) (a0 + targetCopy) (a1 + targetCopy),
    lost := deadLost s.mem.dead a0 a1 ++ cutLost s.mem.lost a0 a1 }) fun hw => by
      rw [wf_iff] at hw ⊢
      refine ⟨spWf_spClear (spWf_spClear hw.1), spWf_spClear ?_, hw.2.2⟩
      refine spWf_default (spWf_spClear hw.2.1) fun p hp => ?_
      have hp := (List.mem_filter.1 hp).2
      simp only [checkDefault]
      split
      · rfl
      · exact lineDefault_dead (by simpa using hp)
  exact h1.sbd' fun hs => spWf_spClear hs

/-- The target copies that a filter leaves, and the list of homeless Drawers, keep the form. -/
theorem wf_some {x : Mem} (h : Memory.wf x = true) {f : Nat × Byte → Bool} {g : Nat × Word → Bool} :
    Memory.wf { x with dram := x.dram.filter f, check := x.check.filter g } = true := by
  rw [wf_iff] at h ⊢
  exact ⟨spWf_filter h.1, spWf_filter h.2.1, h.2.2⟩

theorem wf_dead {x : Mem} (h : Memory.wf x = true) {d} : Memory.wf { x with dead := d } = true := h

theorem wf_noInk {x : Mem} (h : Memory.wf x = true) : Memory.wf { x with ink := [], inkPoison := [], inkErr := [] } = true := by
  rw [wf_iff] at h ⊢
  exact ⟨h.1, h.2.1, h.2.2.1, spWf_nil, spWf_nil, spWf_nil⟩

theorem wf_onlyFlags {x : Mem} (h : Memory.wf x = true) {a b} :
    Memory.wf { x with cls := [], ink := [], inkPoison := [], inkErr := [], selfRefresh := a, coldStacks := b } = true := by
  rw [wf_iff] at h ⊢
  exact ⟨h.1, h.2.1, spWf_nil, spWf_nil, spWf_nil, spWf_nil⟩

theorem wf_flags {x : Mem} (h : Memory.wf x = true) {a b} : Memory.wf { x with selfRefresh := a, coldStacks := b } = true := h

theorem wf_cls {x : Mem} (h : Memory.wf x = true) {a b} : Memory.wf { x with cls := spSet (fun _ => 0) x.cls a b } = true := by
  rw [wf_iff] at h ⊢
  exact ⟨h.1, h.2.1, spWf_spSet h.2.2.1, h.2.2.2⟩

theorem wf_inkErr {x : Mem} (h : Memory.wf x = true) {f} : Memory.wf { x with inkErr := x.inkErr.filter f } = true := by
  rw [wf_iff] at h ⊢
  exact ⟨h.1, h.2.1, h.2.2.1, h.2.2.2.1, h.2.2.2.2.1, spWf_filter h.2.2.2.2.2⟩

theorem wf_inkBad {x : Mem} (h : Memory.wf x = true) {a b c d e f} : Memory.wf { x with
    ink := spClear x.ink a b, inkPoison := spSet (fun _ => false) x.inkPoison c d, inkErr := spClear x.inkErr e f } = true := by
  rw [wf_iff] at h ⊢
  exact ⟨h.1, h.2.1, h.2.2.1, spWf_spClear h.2.2.2.1, spWf_spSet h.2.2.2.2.1, spWf_spClear h.2.2.2.2.2⟩

theorem wf_inkStore {x : Mem} (h : Memory.wf x = true) {β : Type} {l : List β} {k : β → Nat} {w : β → List Byte} {c d e f}
    {p : Prop} [Decidable p] : Memory.wf { x with
    ink := l.foldl (fun m r => spSetN (fun _ => 0) m (k r) (w r)) x.ink, inkPoison := spSet (fun _ => false) x.inkPoison c d,
    inkErr := if p then spClear x.inkErr e f else x.inkErr } = true := by
  rw [wf_iff] at h ⊢
  refine ⟨h.1, h.2.1, h.2.2.1, spWf_foldl (fun _ _ h => spWf_spSetN h) h.2.2.2.1, spWf_spSet h.2.2.2.2.1, ?_⟩
  show spWf _ (ite _ _ _) = true
  split
  · exact spWf_spClear h.2.2.2.2.2
  · exact h.2.2.2.2.2

theorem wf_noTargets {x : Mem} (h : Memory.wf x = true) {a b} :
    Memory.wf { x with dram := spClear x.dram a b, check := spClear x.check a b } = true := by
  rw [wf_iff] at h ⊢
  exact ⟨spWf_spClear h.1, spWf_spClear h.2.1, h.2.2⟩

theorem kept_clearDram (h : Kept false o s0 s) : Kept false o s0 s.clearDram := by
  refine h.mem' fun hw => ?_
  rw [wf_iff] at hw ⊢
  exact ⟨spWf_nil, spWf_nil, spWf_nil, hw.2.2.2⟩

theorem kept_setTurn {a0 a1 : Nat} (h : Kept m o s0 s) : Kept m o s0 (s.setTurn a0 a1) := h.turns' fun hs => spWf_spSet hs

end Sys2Proof.Laws
end

