-- ==== Sys2Proof/Laws/KeepsOps.lean ====
section
/-! SUPPORT. What each operation of Machine/Ops.lean keeps, by the relation of Laws/Kept.lean. -/
namespace Sys2Proof.Laws
open Sys2Proof.Machine

theorem kept_put {m o : Bool} {s0 s : State} {f v : _} (h : Kept m o s0 s) :
    Kept m o s0 (State.put s f v) := by
  unfold State.put
  with_reducible exact kept_setReg ‹_›

theorem kept_alert {m o : Bool} {s0 s : State} {b : _} (h : Kept m o s0 s) :
    Kept m o s0 (State.alert s b) := by
  unfold State.alert
  with_reducible exact kept_setReg ‹_›

theorem kept_put2 {m o : Bool} {s0 s : State} {lo hi v : _} (h : Kept m o s0 s) :
    Kept m o s0 (State.put2 s lo hi v) := by
  unfold State.put2
  with_reducible exact kept_put (kept_put ‹_›)

theorem kept_addCounter {m o : Bool} {s0 s : State} {k n : _} (h : Kept m o s0 s) :
    Kept m o s0 (State.addCounter s k n) := by
  unfold State.addCounter
  dsimp only
  refine Kept.ite ?_ ?_
  · with_reducible exact kept_put2 ‹_›
  · refine Kept.ite ?_ ?_
    · with_reducible exact kept_setReg (kept_put2 ‹_›)
    · with_reducible exact kept_setReg (kept_put2 ‹_›)

theorem kept_riskNote {m o : Bool} {s0 s : State} {code n : _} (h : Kept m o s0 s) :
    Kept m o s0 (State.riskNote s code n) := by
  unfold State.riskNote
  dsimp only
  refine Kept.ite ?_ ?_
  · with_reducible refine Kept.upd2 ?_ rfl rfl rfl rfl
    with_reducible assumption
  · refine Kept.ite ?_ ?_
    · with_reducible refine Kept.upd2 ?_ rfl rfl rfl rfl
      with_reducible assumption
    · refine Kept.ite ?_ ?_
      · with_reducible refine Kept.upd2 ?_ rfl rfl rfl rfl
        with_reducible assumption
      · refine Kept.iteR ?_ (fun _ => ?_)
        · with_reducible assumption
        · with_reducible refine Kept.upd2 ?_ rfl rfl rfl rfl
          with_reducible assumption

theorem kept_countAt {m o : Bool} {s0 s : State} {code i n : _} (h : Kept m o s0 s) :
    Kept m o s0 (State.countAt s code i n) := by
  unfold State.countAt
  refine Kept.foldl ?_ (fun _ _ _ => ?_)
  · with_reducible exact kept_riskNote ‹_›
  · with_reducible exact kept_addCounter ‹_›

theorem kept_count {m o : Bool} {s0 s : State} {code : _} (h : Kept m o s0 s) :
    Kept m o s0 (State.count s code) := by
  unfold State.count
  with_reducible exact kept_countAt ‹_›

theorem kept_setEvq {m o : Bool} {s0 s : State} {side q : _} (h : Kept m o s0 s) :
    Kept m o s0 (State.setEvq s side q) := by
  unfold State.setEvq
  dsimp only
  refine Kept.ite ?_ ?_
  · with_reducible refine Kept.upd2 ?_ rfl rfl rfl rfl
    with_reducible assumption
  · with_reducible refine Kept.upd2 ?_ rfl rfl rfl rfl
    with_reducible assumption

theorem kept_ibi {m o : Bool} {s0 s : State} (h : Kept m o s0 s) :
    Kept m o s0 (State.ibi s) := by
  unfold State.ibi
  with_reducible exact kept_send ‹_›

theorem kept_transmit {m o : Bool} {s0 s : State} {side e n : _} (h : Kept m o s0 s) :
    Kept m o s0 (State.transmit s side e n) := by
  unfold State.transmit
  dsimp only
  refine Kept.ite ?_ ?_
  · split
    · with_reducible exact kept_send (kept_ibi ‹_›)
    · with_reducible assumption
  · split
    · refine Kept.iteR ?_ (fun _ => ?_)
      · with_reducible exact kept_countAt (kept_countAt (kept_send ‹_›))
      · with_reducible exact kept_countAt ‹_›
    · with_reducible assumption

theorem kept_sendNext {m o : Bool} {s0 s : State} {side q e sent : _} (h : Kept m o s0 s) :
    Kept m o s0 (State.sendNext s side q e sent) := by
  unfold State.sendNext
  dsimp only
  with_reducible exact kept_transmit (kept_setEvq ‹_›)

theorem kept_pumpGo {m o : Bool} {s0 s : State} {side a1 : _} (h : Kept m o s0 s) :
    Kept m o s0 (State.pumpGo side a1 s) := by
  unfold State.pumpGo
  dsimp only
  split
  · with_reducible assumption
  · split
    · with_reducible assumption
    · refine Kept.iteR ?_ (fun _ => ?_)
      · with_reducible assumption
      · with_reducible exact kept_pumpGo (kept_sendNext ‹_›)

theorem kept_pump {m o : Bool} {s0 s : State} {side : _} (h : Kept m o s0 s) :
    Kept m o s0 (State.pump s side) := by
  unfold State.pump
  with_reducible exact kept_pumpGo ‹_›

theorem kept_putEvent {m o : Bool} {s0 s : State} {side e : _} (h : Kept m o s0 s) :
    Kept m o s0 (State.putEvent s side e) := by
  unfold State.putEvent
  dsimp only
  with_reducible exact kept_pump (kept_setEvq ‹_›)

theorem kept_raiseStepTo {m o : Bool} {s0 s : State} {side code step body : _} (h : Kept m o s0 s) :
    Kept m o s0 (State.raiseStepTo s side code step body) := by
  unfold State.raiseStepTo
  refine Kept.iteL ?_ (fun _ => ?_)
  · with_reducible assumption
  · with_reducible exact kept_putEvent ‹_›

theorem kept_raiseStep {m o : Bool} {s0 s : State} {code step body : _} (h : Kept m o s0 s) :
    Kept m o s0 (State.raiseStep s code step body) := by
  unfold State.raiseStep
  with_reducible refine kept_raiseStepTo ?_
  refine Kept.iteR ?_ (fun _ => ?_)
  · with_reducible assumption
  · with_reducible exact kept_raiseStepTo ‹_›

theorem kept_raise {m o : Bool} {s0 s : State} {code body : _} (h : Kept m o s0 s) :
    Kept m o s0 (State.raise s code body) := by
  unfold State.raise
  with_reducible exact kept_raiseStep ‹_›

theorem kept_bump {m o : Bool} {s0 s : State} {f n : _} (h : Kept m o s0 s) :
    Kept m o s0 (State.bump s f n) := by
  unfold State.bump
  with_reducible exact kept_put ‹_›

theorem kept_setJobState {m o : Bool} {s0 s : State} {v : _} (h : Kept m o s0 s) :
    Kept m o s0 (State.setJobState s v) := by
  unfold State.setJobState
  with_reducible exact kept_put ‹_›

theorem kept_enterSafe {m o : Bool} {s0 s : State} {cause : _} (h : Kept m o s0 s) :
    Kept m o s0 (State.enterSafe s cause) := by
  unfold State.enterSafe
  refine Kept.iteL ?_ (fun _ => ?_)
  · with_reducible assumption
  · with_reducible exact kept_raise (kept_alert (kept_put (kept_setJobState ‹_›)))

theorem kept_raiseTo {m o : Bool} {s0 s : State} {side code body : _} (h : Kept m o s0 s) :
    Kept m o s0 (State.raiseTo s side code body) := by
  unfold State.raiseTo
  with_reducible exact kept_raiseStepTo ‹_›

theorem kept_noteSessions {m o : Bool} {s0 s : State} (h : Kept m o s0 s) :
    Kept m o s0 (State.noteSessions s) := by
  unfold State.noteSessions
  dsimp only
  refine Kept.iteR ?_ (fun _ => ?_)
  · with_reducible assumption
  · with_reducible exact kept_put (kept_put ‹_›)

theorem kept_mapSessions {m o : Bool} {s0 s : State} {f : _} (h : Kept m o s0 s) :
    Kept m o s0 (State.mapSessions s f) := by
  unfold State.mapSessions
  dsimp only
  with_reducible refine Kept.upd2 ?_ rfl rfl rfl rfl
  with_reducible assumption

theorem kept_hostRx {m o : Bool} {s0 s : State} {port : _} (h : Kept m o s0 s) :
    Kept m o s0 (State.hostRx s port) := by
  unfold State.hostRx
  dsimp only
  with_reducible refine kept_countAt ?_
  with_reducible refine kept_countAt ?_
  with_reducible refine Kept.upd2 ?_ rfl rfl rfl rfl
  with_reducible assumption

theorem kept_sendReply {m o : Bool} {s0 s : State} {r : _} (h : Kept m o s0 s) :
    Kept m o s0 (State.sendReply s r) := by
  unfold State.sendReply
  split
  · refine Kept.iteR ?_ (fun _ => ?_)
    · with_reducible assumption
    · with_reducible exact kept_countAt (kept_send ‹_›)
  · with_reducible exact kept_send (kept_ibi ‹_›)

theorem kept_raisePower {m o : Bool} {s0 s : State} {kind value : _} (h : Kept m o s0 s) :
    Kept m o s0 (State.raisePower s kind value) := by
  unfold State.raisePower
  with_reducible exact kept_raise ‹_›

theorem kept_tie {m o : Bool} {s0 s : State} {element : _} (h : Kept m o s0 s) :
    Kept m o s0 (State.tie s element).1 := by
  unfold State.tie
  dsimp only
  split
  · dsimp only
    with_reducible refine kept_countAt ?_
    with_reducible refine kept_setTurn ?_
    with_reducible refine Kept.upd3 ?_ ?_ ?_ ?_ ?_ ?_ ?_ ?_ ?_ ?_
    · with_reducible assumption
    · exact Nat.le_add_right _ _
    · with_reducible exact fun h => h
    · with_reducible exact fun h => h
    · with_reducible exact fun _ => rfl
    · with_reducible exact fun h => h
    · with_reducible exact fun h => h
    · exact le_refl _
    · exact le_refl _
    · with_reducible exact fun _ => rfl
  · dsimp only
    with_reducible exact kept_setTurn ‹_›

theorem kept_keepSessions {m o : Bool} {s0 s : State} {p : _} (h : Kept m o s0 s) :
    Kept m o s0 (State.keepSessions s p) := by
  unfold State.keepSessions
  dsimp only
  with_reducible refine kept_noteSessions ?_
  with_reducible refine Kept.upd2 ?_ rfl rfl rfl rfl
  with_reducible assumption

end Sys2Proof.Laws
end

