-- ==== Sys2Proof/Laws/KeepsMemory.lean ====
section
/-! SUPPORT. What each operation of Machine/Memory.lean keeps, by the relation of Laws/Kept.lean. -/
namespace Sys2Proof.Laws
open Sys2Proof.Machine

theorem kept_setCab {m o : Bool} {s0 s : State} {c f : _} (h : Kept m o s0 s) :
    Kept m o s0 (State.setCab s c f) := by
  unfold State.setCab
  with_reducible refine Kept.upd2 ?_ rfl rfl rfl rfl
  with_reducible assumption

theorem kept_noteDrawers {m o : Bool} {s0 s : State} {c : _} (h : Kept m o s0 s) :
    Kept m o s0 (State.noteDrawers s c) := by
  unfold State.noteDrawers
  dsimp only
  with_reducible exact kept_put ‹_›

theorem kept_setDstate {m o : Bool} {s0 s : State} {c p v : _} (h : Kept m o s0 s) :
    Kept m o s0 (State.setDstate s c p v) := by
  unfold State.setDstate
  with_reducible exact kept_noteDrawers (kept_put ‹_›)

theorem kept_noteSlots {m o : Bool} {s0 s : State} {c : _} (h : Kept m o s0 s) :
    Kept m o s0 (State.noteSlots s c) := by
  unfold State.noteSlots
  dsimp only
  with_reducible exact kept_put (kept_put ‹_›)

theorem kept_cabWrite {o : Bool} {s0 s : State} {a dt d : _} (h : Kept false o s0 s) :
    Kept false o s0 (State.cabWrite s a dt d) := by
  unfold State.cabWrite
  dsimp only
  refine Kept.iteR ?_ (fun _ => ?_)
  · with_reducible exact kept_countAt (kept_putRaw ‹_›)
  · with_reducible exact kept_putRaw ‹_›

theorem kept_drop {m o : Bool} {s0 s : State} {a : _} (h : Kept m o s0 s) :
    Kept m o s0 (State.drop s a) := by
  unfold State.drop
  dsimp only
  with_reducible refine Kept.upd2 ?_ rfl rfl rfl rfl
  with_reducible assumption

theorem kept_putHeld {m o : Bool} {s0 s : State} {l : _} (h : Kept m o s0 s) :
    Kept m o s0 (State.putHeld s l) := by
  unfold State.putHeld
  dsimp only
  with_reducible refine Kept.upd2 ?_ rfl rfl rfl rfl
  with_reducible assumption

theorem kept_noteFault {m o : Bool} {s0 s : State} {a kind : _} (h : Kept m o s0 s) :
    Kept m o s0 (State.noteFault s a kind) := by
  unfold State.noteFault
  dsimp only
  with_reducible refine kept_put ?_
  refine Kept.iteL ?_ (fun _ => ?_)
  · with_reducible assumption
  · with_reducible exact kept_put (kept_put (kept_put (kept_put ‹_›)))

theorem kept_reportLine {m o : Bool} {s0 s : State} {a kind : _} (h : Kept m o s0 s) :
    Kept m o s0 (State.reportLine s a kind) := by
  unfold State.reportLine
  with_reducible exact kept_raise (kept_alert (kept_noteFault ‹_›))

theorem kept_voidStep {m o : Bool} {s0 s : State} {status unit addr : _} (h : Kept m o s0 s) :
    Kept m o s0 (State.voidStep s status unit addr) := by
  unfold State.voidStep
  dsimp only
  refine Kept.iteR ?_ (fun _ => ?_)
  · with_reducible assumption
  · with_reducible refine Kept.upd2 ?_ rfl rfl rfl rfl
    with_reducible assumption

theorem kept_checkSlice {o : Bool} {s0 s : State} {a faults : _} (h : Kept false o s0 s) :
    Kept false o s0 (State.checkSlice s a faults) := by
  unfold State.checkSlice
  dsimp only
  split
  · with_reducible assumption
  · with_reducible exact kept_clearErr ‹_›
  · with_reducible exact kept_countAt (kept_put (kept_clearErr ‹_›))
  · refine Kept.ite ?_ ?_
    · refine Kept.iteR ?_ (fun _ => ?_)
      · with_reducible refine kept_reportLine ?_
        with_reducible refine kept_putHeld ?_
        with_reducible refine kept_cabWrite ?_
        with_reducible refine kept_countAt ?_
        with_reducible refine kept_put ?_
        refine Kept.iteL ?_ (fun _ => ?_)
        · with_reducible exact kept_clearErr ‹_›
        · with_reducible exact kept_put ‹_›
      · with_reducible exact kept_voidStep ‹_›
    · with_reducible refine kept_drop ?_
      with_reducible refine kept_countAt ?_
      with_reducible refine kept_put ?_
      refine Kept.iteL ?_ (fun _ => ?_)
      · with_reducible exact kept_clearErr ‹_›
      · with_reducible exact kept_put ‹_›

theorem kept_writeback {o : Bool} {s0 s : State} {a : _} (h : Kept false o s0 s) :
    Kept false o s0 (State.writeback s a) := by
  unfold State.writeback
  dsimp only
  split
  · refine Kept.iteR ?_ (fun _ => ?_)
    · with_reducible exact kept_checkSlice ‹_›
    · with_reducible exact kept_countAt (kept_putHeld (kept_cabWrite ‹_›))
  · with_reducible exact kept_checkSlice ‹_›

theorem kept_writebackAll {o : Bool} {s0 s : State} (h : Kept false o s0 s) :
    Kept false o s0 (State.writebackAll s) := by
  unfold State.writebackAll
  refine Kept.foldl ?_ (fun _ _ _ => ?_)
  · with_reducible assumption
  · with_reducible exact kept_writeback ‹_›

theorem kept_dropOpen {m o : Bool} {s0 s : State} {a : _} (h : Kept m o s0 s) :
    Kept m o s0 (State.dropOpen s a) := by
  unfold State.dropOpen
  dsimp only
  with_reducible refine kept_noteSlots ?_
  with_reducible refine Kept.upd2 ?_ rfl rfl rfl rfl
  with_reducible assumption

theorem kept_evict {o : Bool} {s0 s : State} {a : _} (h : Kept false o s0 s) :
    Kept false o s0 (State.evict s a) := by
  unfold State.evict
  with_reducible exact kept_clearErr (kept_drop (kept_writeback ‹_›))

theorem kept_makeWay {o : Bool} {s0 s : State} {a : _} (h : Kept false o s0 s) :
    Kept false o s0 (State.makeWay s a) := by
  unfold State.makeWay
  split
  · with_reducible exact kept_evict ‹_›
  · with_reducible assumption

theorem kept_hold {o : Bool} {s0 s : State} {l : _} (h : Kept false o s0 s) :
    Kept false o s0 (State.hold s l) := by
  unfold State.hold
  with_reducible refine kept_putHeld ?_
  refine Kept.iteL ?_ (fun _ => ?_)
  · with_reducible assumption
  · with_reducible exact kept_makeWay ‹_›

theorem kept_endEvac {m o : Bool} {s0 s : State} {c : _} (h : Kept m o s0 s) :
    Kept m o s0 (State.endEvac s c) := by
  unfold State.endEvac
  with_reducible exact kept_put (kept_put (kept_put ‹_›))

theorem kept_noteFailures {m o : Bool} {s0 s : State} {c : _} (h : Kept m o s0 s) :
    Kept m o s0 (State.noteFailures s c) := by
  unfold State.noteFailures
  dsimp only
  with_reducible exact kept_put (kept_put ‹_›)

theorem kept_failDrawer {m o : Bool} {s0 s : State} {c p : _} (h : Kept m o s0 s) :
    Kept m o s0 (State.failDrawer s c p) := by
  unfold State.failDrawer
  dsimp only
  with_reducible refine kept_noteFailures ?_
  with_reducible refine kept_setDstate ?_
  refine kept_mapFlash ?_ (fun _ => by split <;> exact ⟨le_refl _, le_refl _, fun _ => rfl⟩)
  with_reducible assumption

theorem kept_noteWorn {m o : Bool} {s0 s : State} {c : _} (h : Kept m o s0 s) :
    Kept m o s0 (State.noteWorn s c) := by
  unfold State.noteWorn
  dsimp only
  refine Kept.iteL ?_ (fun _ => ?_)
  · with_reducible assumption
  · refine Kept.ite ?_ ?_
    · with_reducible refine Kept.upd2 ?_ rfl rfl rfl rfl
      with_reducible assumption
    · with_reducible exact kept_enterSafe ‹_›

theorem kept_loseDrawer {m o : Bool} {s0 s : State} {c p : _} (h : Kept m o s0 s) :
    Kept m o s0 (State.loseDrawer s c p) := by
  unfold State.loseDrawer
  with_reducible exact kept_noteWorn (kept_failDrawer ‹_›)

theorem kept_startEvac {m o : Bool} {s0 s : State} {c l : _} (h : Kept m o s0 s) :
    Kept m o s0 (State.startEvac s c l) := by
  unfold State.startEvac
  dsimp only
  split
  · with_reducible exact kept_countAt (kept_put (kept_put (kept_put (kept_put (kept_put (kept_setDstate ‹_›))))))
  · with_reducible exact kept_setCab (kept_put (kept_setDstate ‹_›))

theorem kept_abortTarget {o : Bool} {s0 s : State} {c : _} (h : Kept false o s0 s) :
    Kept false o s0 (State.abortTarget s c) := by
  unfold State.abortTarget
  dsimp only
  with_reducible exact kept_startEvac (kept_loseDrawer (kept_countAt (kept_endEvac (kept_setDstate (kept_dropTarget ‹_›)))))

theorem kept_decodeAt {o : Bool} {s0 s : State} {a : _} (h : Kept false o s0 s) :
    Kept false o s0 (State.decodeAt s a).1 := by
  unfold State.decodeAt
  dsimp only
  split
  · split
    · dsimp only
      with_reducible assumption
    · dsimp only
      with_reducible exact kept_abortTarget ‹_›
  · dsimp only
    with_reducible assumption

theorem kept_noteQueue {m o : Bool} {s0 s : State} {c : _} (h : Kept m o s0 s) :
    Kept m o s0 (State.noteQueue s c) := by
  unfold State.noteQueue
  with_reducible exact kept_put ‹_›

theorem kept_evacTrigger {m o : Bool} {s0 s : State} {c l : _} (h : Kept m o s0 s) :
    Kept m o s0 (State.evacTrigger s c l) := by
  unfold State.evacTrigger
  dsimp only
  refine Kept.iteL ?_ (fun _ => ?_)
  · with_reducible assumption
  · refine Kept.ite ?_ ?_
    · refine Kept.iteR ?_ (fun _ => ?_)
      · with_reducible assumption
      · with_reducible exact kept_noteQueue (kept_setCab ‹_›)
    · with_reducible exact kept_startEvac ‹_›

theorem kept_noteCE {m o : Bool} {s0 s : State} {a : _} (h : Kept m o s0 s) :
    Kept m o s0 (State.noteCE s a) := by
  unfold State.noteCE
  dsimp only
  refine Kept.iteR ?_ (fun _ => ?_)
  · with_reducible exact kept_setCab ‹_›
  · with_reducible exact kept_evacTrigger ‹_›

theorem kept_cabRead {o : Bool} {s0 s : State} {a faults spill : _} (h : Kept false o s0 s) :
    Kept false o s0 (State.cabRead s a faults spill).1 := by
  unfold State.cabRead
  dsimp only
  split
  · dsimp only
    with_reducible exact kept_decodeAt (kept_countAt ‹_›)
  · dsimp only
    with_reducible exact kept_countAt (kept_decodeAt (kept_countAt ‹_›))
  · dsimp only
    with_reducible exact kept_noteCE (kept_countAt (kept_bump (kept_cabWrite (kept_decodeAt (kept_countAt ‹_›)))))
  · dsimp only
    refine Kept.iteR ?_ (fun _ => ?_)
    · with_reducible exact kept_reportLine (kept_countAt (kept_decodeAt (kept_countAt ‹_›)))
    · with_reducible exact kept_voidStep ‹_›
  · split
    · dsimp only
      refine Kept.ite ?_ ?_
      · with_reducible exact kept_noteFault (kept_countAt (kept_bump (kept_decodeAt (kept_countAt ‹_›))))
      · refine Kept.iteR ?_ (fun _ => ?_)
        · with_reducible exact kept_reportLine (kept_countAt (kept_bump (kept_decodeAt (kept_countAt ‹_›))))
        · with_reducible exact kept_voidStep ‹_›
    · dsimp only
      refine Kept.iteR ?_ (fun _ => ?_)
      · with_reducible exact kept_evacTrigger (kept_reportLine (kept_countAt (kept_bump (kept_cabWrite (kept_decodeAt
          (kept_countAt ‹_›))))))
      · with_reducible exact kept_voidStep ‹_›

theorem kept_fetch {o : Bool} {s0 s : State} {a faults spill : _} (h : Kept false o s0 s) :
    Kept false o s0 (State.fetch s a faults spill).1 := by
  unfold State.fetch
  dsimp only
  split
  · dsimp only
    refine Kept.iteR ?_ (fun _ => ?_)
    · with_reducible exact kept_countAt (kept_checkSlice ‹_›)
    · with_reducible exact kept_voidStep ‹_›
  · split
    · dsimp only
      with_reducible exact kept_cabRead (kept_countAt (kept_checkSlice ‹_›))
    · dsimp only
      with_reducible exact kept_hold (kept_cabRead (kept_countAt (kept_checkSlice ‹_›)))
    · dsimp only
      with_reducible exact kept_hold (kept_cabRead (kept_countAt (kept_checkSlice ‹_›)))

theorem kept_oldLine {o : Bool} {s0 s : State} {a : _} (h : Kept false o s0 s) :
    Kept false o s0 (State.oldLine s a).1 := by
  unfold State.oldLine
  split
  · dsimp only
    with_reducible assumption
  · with_reducible exact kept_fetch ‹_›

theorem kept_noteWrite {m o : Bool} {s0 s : State} {a dt marked nib : _} (h : Kept m o s0 s) :
    Kept m o s0 (State.noteWrite s a dt marked nib) := by
  unfold State.noteWrite
  dsimp only
  split
  · with_reducible assumption
  · with_reducible refine Kept.upd2 ?_ rfl rfl rfl rfl
    refine Kept.iteR ?_ (fun _ => ?_)
    · with_reducible assumption
    · with_reducible exact kept_put ‹_›

theorem kept_holdWrite {o : Bool} {s0 s : State} {l nib : _} (h : Kept false o s0 s) :
    Kept false o s0 (State.holdWrite s l nib) := by
  unfold State.holdWrite
  with_reducible exact kept_noteWrite (kept_hold ‹_›)

theorem kept_sealWrite {o : Bool} {s0 s : State} {l nibs : _} (h : Kept false o s0 s) :
    Kept false o s0 (State.sealWrite s l nibs) := by
  unfold State.sealWrite
  dsimp only
  refine Kept.iteR ?_ (fun _ => ?_)
  · with_reducible exact kept_holdWrite ‹_›
  · with_reducible refine Kept.upd2 ?_ rfl rfl rfl rfl
    with_reducible assumption

theorem kept_sealLine {o : Bool} {s0 s : State} {a : _} (h : Kept false o s0 s) :
    Kept false o s0 (State.sealLine s a) := by
  unfold State.sealLine
  dsimp only
  split
  · with_reducible assumption
  · refine Kept.iteL ?_ (fun _ => ?_)
    · refine Kept.iteL ?_ (fun _ => ?_)
      · refine Kept.iteL ?_ (fun _ => ?_)
        · with_reducible exact kept_countAt (kept_dropOpen (kept_oldLine (kept_checkSlice ‹_›)))
        · with_reducible exact kept_countAt ‹_›
      · with_reducible exact kept_put (kept_countAt ‹_›)
    · refine Kept.ite ?_ ?_
      · with_reducible exact kept_voidStep (kept_reportLine (kept_hold ‹_›))
      · refine Kept.ite ?_ ?_
        · with_reducible exact kept_sealWrite ‹_›
        · with_reducible exact kept_sealWrite ‹_›

theorem kept_sealAll {o : Bool} {s0 s : State} (h : Kept false o s0 s) :
    Kept false o s0 (State.sealAll s) := by
  unfold State.sealAll
  refine Kept.foldl ?_ (fun _ _ _ => ?_)
  · with_reducible assumption
  · with_reducible exact kept_sealLine ‹_›

theorem kept_lineRead {o : Bool} {s0 s : State} {a faults spill : _} (h : Kept false o s0 s) :
    Kept false o s0 (State.lineRead s a faults spill).1 := by
  unfold State.lineRead
  with_reducible exact kept_fetch (kept_sealLine ‹_›)

theorem kept_readRange {o : Bool} {s0 s : State} {addr n faults : _} (h : Kept false o s0 s) :
    Kept false o s0 (State.readRange s addr n faults).1 := by
  unfold State.readRange
  dsimp only
  refine Kept.foldl1 ?_ (fun _ _ _ => ?_)
  · dsimp only
    with_reducible assumption
  · dsimp only
    with_reducible exact kept_lineRead ‹_›

theorem kept_touch {o : Bool} {s0 s : State} {addr n faults : _} (h : Kept false o s0 s) :
    Kept false o s0 (State.touch s addr n faults) := by
  unfold State.touch
  with_reducible exact kept_readRange ‹_›

theorem kept_lineStore {o : Bool} {s0 s : State} {a dt marked nib : _} (h : Kept false o s0 s) :
    Kept false o s0 (State.lineStore s a dt marked nib) := by
  unfold State.lineStore
  dsimp only
  refine Kept.ite ?_ ?_
  · with_reducible exact kept_holdWrite (kept_clearErr (kept_sealLine ‹_›))
  · with_reducible exact kept_holdWrite (kept_clearErr (kept_sealLine ‹_›))

theorem kept_lineWrite {o : Bool} {s0 s : State} {a dt marked : _} (h : Kept false o s0 s) :
    Kept false o s0 (State.lineWrite s a dt marked) := by
  unfold State.lineWrite
  with_reducible exact kept_lineStore ‹_›

theorem kept_mergeMask {o : Bool} {s0 s : State} {a mask dt faults nib : _} (h : Kept false o s0 s) :
    Kept false o s0 (State.mergeMask s a mask dt faults nib).1 := by
  unfold State.mergeMask
  dsimp only
  split
  · dsimp only
    with_reducible exact kept_countAt (kept_fetch (kept_checkSlice (kept_sealLine ‹_›)))
  · dsimp only
    with_reducible exact kept_holdWrite (kept_countAt (kept_fetch (kept_checkSlice (kept_sealLine ‹_›))))

theorem kept_mergeWrite {o : Bool} {s0 s : State} {addr dt faults : _} (h : Kept false o s0 s) :
    Kept false o s0 (State.mergeWrite s addr dt faults).1 := by
  unfold State.mergeWrite
  dsimp only
  with_reducible exact kept_mergeMask ‹_›

theorem kept_writeRange {o : Bool} {s0 s : State} {addr dt : _} (h : Kept false o s0 s) :
    Kept false o s0 (State.writeRange s addr dt).1 := by
  unfold State.writeRange
  dsimp only
  refine Kept.foldl1 ?_ (fun _ _ _ => ?_)
  · dsimp only
    with_reducible assumption
  · split
    · dsimp only
      with_reducible exact kept_lineWrite ‹_›
    · dsimp only
      with_reducible exact kept_mergeWrite ‹_›

theorem kept_zeroRange {o : Bool} {s0 s : State} {lo hi : _} (h : Kept false o s0 s) :
    Kept false o s0 (State.zeroRange s lo hi) := by
  unfold State.zeroRange
  refine Kept.foldl ?_ (fun _ _ _ => ?_)
  · with_reducible exact kept_zeroLines ‹_›
  · with_reducible exact kept_noteSlots ‹_›

theorem kept_putOpen {m o : Bool} {s0 s : State} {l : _} (h : Kept m o s0 s) :
    Kept m o s0 (State.putOpen s l) := by
  unfold State.putOpen
  dsimp only
  with_reducible refine kept_noteSlots ?_
  with_reducible refine Kept.upd2 ?_ rfl rfl rfl rfl
  with_reducible assumption

theorem kept_takeWays {o : Bool} {s0 s : State} {c : _} (h : Kept false o s0 s) :
    Kept false o s0 (State.takeWays s c) := by
  unfold State.takeWays
  dsimp only
  refine Kept.foldl ?_ (fun _ _ _ => ?_)
  · with_reducible assumption
  · refine Kept.iteR ?_ (fun _ => ?_)
    · with_reducible assumption
    · with_reducible exact kept_evict ‹_›

theorem kept_openLine {o : Bool} {s0 s : State} {a fmt : _} (h : Kept false o s0 s) :
    Kept false o s0 (State.openLine s a fmt) := by
  unfold State.openLine
  dsimp only
  with_reducible refine kept_countAt ?_
  with_reducible refine kept_putOpen ?_
  with_reducible refine kept_fetch ?_
  with_reducible refine kept_putOpen ?_
  refine Kept.iteL ?_ (fun _ => ?_)
  · with_reducible assumption
  · with_reducible exact kept_takeWays ‹_›

theorem kept_addNow {o : Bool} {s0 s : State} {addr fmt code marked nib : _} (h : Kept false o s0 s) :
    Kept false o s0 (State.addNow s addr fmt code marked nib) := by
  unfold State.addNow
  dsimp only
  split
  · refine Kept.iteL ?_ (fun _ => ?_)
    · with_reducible assumption
    · with_reducible exact kept_openLine ‹_›
  · with_reducible refine kept_countAt ?_
    with_reducible refine kept_putOpen ?_
    refine Kept.iteL ?_ (fun _ => ?_)
    · with_reducible assumption
    · with_reducible exact kept_openLine ‹_›

theorem kept_exactAdd {o : Bool} {s0 s : State} {addr fmt code marked src : _} (h : Kept false o s0 s) :
    Kept false o s0 (State.exactAdd s addr fmt code marked src) := by
  unfold State.exactAdd
  dsimp only
  refine Kept.ite ?_ ?_
  · with_reducible refine kept_addNow ?_
    split
    · refine Kept.iteL ?_ (fun _ => ?_)
      · with_reducible assumption
      · with_reducible exact kept_sealLine ‹_›
    · with_reducible assumption
  · with_reducible refine kept_countAt ?_
    with_reducible refine kept_put ?_
    with_reducible refine Kept.upd2 ?_ rfl rfl rfl rfl
    split
    · refine Kept.iteL ?_ (fun _ => ?_)
      · with_reducible assumption
      · with_reducible exact kept_sealLine ‹_›
    · with_reducible assumption

theorem kept_setPhys {m o : Bool} {s0 s : State} {c l p : _} (h : Kept m o s0 s) :
    Kept m o s0 (State.setPhys s c l p) := by
  unfold State.setPhys
  with_reducible exact kept_put ‹_›

theorem kept_wordOp {o : Bool} {s0 s : State} {addr f faults : _} (h : Kept false o s0 s) :
    Kept false o s0 (State.wordOp s addr f faults).1 := by
  unfold State.wordOp
  dsimp only
  split
  · dsimp only
    with_reducible exact kept_countAt (kept_fetch (kept_checkSlice (kept_sealLine ‹_›)))
  · dsimp only
    with_reducible exact kept_holdWrite (kept_countAt (kept_fetch (kept_checkSlice (kept_sealLine ‹_›))))

theorem kept_nextEvac {m o : Bool} {s0 s : State} {c : _} (h : Kept m o s0 s) :
    Kept m o s0 (State.nextEvac s c) := by
  unfold State.nextEvac
  split
  · with_reducible assumption
  · refine Kept.iteL ?_ (fun _ => ?_)
    · with_reducible assumption
    · with_reducible exact kept_startEvac (kept_noteQueue (kept_setCab ‹_›))

theorem kept_resWait {o : Bool} {s0 s : State} {c : _} (h : Kept false o s0 s) :
    Kept false o s0 (State.resWait s c) := by
  unfold State.resWait
  dsimp only
  split
  · refine Kept.iteR ?_ (fun _ => ?_)
    · with_reducible assumption
    · with_reducible refine kept_exactAdd ?_
      with_reducible refine Kept.upd2 ?_ rfl rfl rfl rfl
      with_reducible assumption
  · with_reducible assumption

end Sys2Proof.Laws
end

