-- ==== Sys2Proof/Laws/KeepsFabric.lean ====
section
/-! SUPPORT. What each operation of Machine/Fabric.lean keeps, by the relation of Laws/Kept.lean. -/
namespace Sys2Proof.Laws
open Sys2Proof.Machine

theorem kept_mapQuill {m o : Bool} {s0 s : State} {f : _} (h : Kept m o s0 s) :
    Kept m o s0 (State.mapQuill s f) := by
  unfold State.mapQuill
  with_reducible refine Kept.upd2 ?_ rfl rfl rfl rfl
  with_reducible assumption

theorem kept_onPort {m o : Bool} {s0 s : State} {p f : _} (h : Kept m o s0 s) :
    Kept m o s0 (State.onPort s p f) := by
  unfold State.onPort
  with_reducible exact kept_mapQuill ‹_›

theorem kept_sendPort {m o : Bool} {s0 s : State} {p lines a3 : _} (h : Kept m o s0 s) :
    Kept m o s0 (State.sendPort s p lines a3) := by
  unfold State.sendPort
  dsimp only
  refine Kept.ite ?_ ?_
  · with_reducible exact kept_send (kept_onPort ‹_›)
  · with_reducible exact kept_onPort (kept_onPort ‹_›)

theorem kept_setChan {m o : Bool} {s0 s : State} {c : _} (h : Kept m o s0 s) :
    Kept m o s0 (State.setChan s c) := by
  unfold State.setChan
  with_reducible exact kept_mapQuill ‹_›

theorem kept_sendAck {m o : Bool} {s0 s : State} {c nak : _} (h : Kept m o s0 s) :
    Kept m o s0 (State.sendAck s c nak) := by
  unfold State.sendAck
  dsimp only
  with_reducible exact kept_sendPort (kept_setChan ‹_›)

theorem kept_freeSlots {m o : Bool} {s0 s : State} {p peer vc n : _} (h : Kept m o s0 s) :
    Kept m o s0 (State.freeSlots s p peer vc n) := by
  unfold State.freeSlots
  dsimp only
  split
  · with_reducible assumption
  · with_reducible exact kept_setChan ‹_›

theorem kept_dropHeld {m o : Bool} {s0 s : State} (h : Kept m o s0 s) :
    Kept m o s0 (State.dropHeld s) := by
  unfold State.dropHeld
  with_reducible refine kept_mapQuill ?_
  refine Kept.foldl ?_ (fun _ _ _ => ?_)
  · with_reducible assumption
  · with_reducible exact kept_freeSlots ‹_›

theorem kept_dropQueued {m o : Bool} {s0 s : State} (h : Kept m o s0 s) :
    Kept m o s0 (State.dropQueued s) := by
  unfold State.dropQueued
  dsimp only
  with_reducible exact kept_mapQuill ‹_›

theorem kept_dropWaiting {m o : Bool} {s0 s : State} (h : Kept m o s0 s) :
    Kept m o s0 (State.dropWaiting s) := by
  unfold State.dropWaiting
  dsimp only
  with_reducible refine Kept.upd2 ?_ rfl rfl rfl rfl
  refine Kept.foldl ?_ (fun _ _ _ => ?_)
  · with_reducible assumption
  · split
    · with_reducible exact kept_freeSlots ‹_›
    · with_reducible assumption

theorem kept_noteStall {m o : Bool} {s0 s : State} {p was : _} (h : Kept m o s0 s) :
    Kept m o s0 (State.noteStall s p was) := by
  unfold State.noteStall
  refine Kept.iteR ?_ (fun _ => ?_)
  · with_reducible assumption
  · with_reducible exact kept_countAt ‹_›

theorem kept_noteRetry {m o : Bool} {s0 s : State} {p : _} (h : Kept m o s0 s) :
    Kept m o s0 (State.noteRetry s p) := by
  unfold State.noteRetry
  dsimp only
  with_reducible refine kept_put ?_
  refine Kept.iteR ?_ (fun _ => ?_)
  · with_reducible assumption
  · with_reducible exact kept_countAt ‹_›

theorem kept_countBytes {m o : Bool} {s0 s : State} {p f : _} (h : Kept m o s0 s) :
    Kept m o s0 (State.countBytes s p f) := by
  unfold State.countBytes
  with_reducible exact kept_onPort ‹_›

theorem kept_wire {m o : Bool} {s0 s : State} {c f : _} (h : Kept m o s0 s) :
    Kept m o s0 (State.wire s c f) := by
  unfold State.wire
  dsimp only
  with_reducible refine kept_noteRetry ?_
  with_reducible refine kept_countBytes ?_
  refine Kept.iteR ?_ (fun _ => ?_)
  · with_reducible exact kept_countAt (kept_countAt (kept_sendPort (kept_setChan ‹_›)))
  · with_reducible exact kept_countAt ‹_›

theorem kept_queueFrame {m o : Bool} {s0 s : State} {p peer f : _} (h : Kept m o s0 s) :
    Kept m o s0 (State.queueFrame s p peer f) := by
  unfold State.queueFrame
  split
  · with_reducible assumption
  · refine Kept.ite ?_ ?_
    · with_reducible exact kept_wire ‹_›
    · with_reducible exact kept_noteRetry (kept_setChan ‹_›)

theorem kept_offer {m o : Bool} {s0 s : State} {p peer f : _} (h : Kept m o s0 s) :
    Kept m o s0 (State.offer s p peer f) := by
  unfold State.offer
  with_reducible exact kept_noteStall (kept_queueFrame ‹_›)

theorem kept_pickPort {m o : Bool} {s0 s : State} {ps : _} (h : Kept m o s0 s) :
    Kept m o s0 (State.pickPort s ps).1 := by
  unfold State.pickPort
  split
  · dsimp only
    with_reducible assumption
  · dsimp only
    with_reducible assumption
  · dsimp only
    with_reducible refine Kept.upd3 ?_ ?_ ?_ ?_ ?_ ?_ ?_ ?_ ?_ ?_
    · with_reducible assumption
    · exact Nat.le_add_right _ _
    · with_reducible exact fun h => h
    · with_reducible exact fun h => h
    · with_reducible exact fun _ => rfl
    · with_reducible exact fun h => h
    · with_reducible exact fun h => h
    · exact le_refl _
    · exact le_refl _
    · with_reducible exact fun _ => rfl

theorem kept_routeRole {m o : Bool} {s0 s : State} {qtype a2 pl : _} (h : Kept m o s0 s) :
    Kept m o s0 (State.routeRole s qtype a2 pl) := by
  unfold State.routeRole
  dsimp only
  refine Kept.ite ?_ ?_
  · with_reducible exact kept_put ‹_›
  · split
    · with_reducible exact kept_offer (kept_pickPort ‹_›)
    · with_reducible exact kept_pickPort ‹_›

theorem kept_takeMseq {m o : Bool} {s0 s : State} {list dst group : _} (h : Kept m o s0 s) :
    Kept m o s0 (State.takeMseq s list dst group).1 := by
  unfold State.takeMseq
  dsimp only
  with_reducible exact kept_mapQuill ‹_›

theorem kept_rideTo {m o : Bool} {s0 s : State} {role kind arg pl marked : _} (h : Kept m o s0 s) :
    Kept m o s0 (State.rideTo s role kind arg pl marked) := by
  unfold State.rideTo
  dsimp only
  with_reducible exact kept_routeRole (kept_takeMseq ‹_›)

theorem kept_ride {m o : Bool} {s0 s : State} {kind arg pl marked : _} (h : Kept m o s0 s) :
    Kept m o s0 (State.ride s kind arg pl marked) := by
  unfold State.ride
  refine Kept.foldl ?_ (fun _ _ _ => ?_)
  · with_reducible assumption
  · with_reducible exact kept_rideTo ‹_›

theorem kept_pumpChan {m o : Bool} {s0 s : State} {p peer : _} (h : Kept m o s0 s) :
    Kept m o s0 (State.pumpChan s p peer) := by
  unfold State.pumpChan
  dsimp only
  split
  · with_reducible assumption
  · with_reducible refine kept_noteStall ?_
    refine Kept.foldl ?_ (fun _ _ _ => ?_)
    · with_reducible exact kept_setChan ‹_›
    · with_reducible exact kept_queueFrame ‹_›

theorem kept_pumpPort {m o : Bool} {s0 s : State} {p : _} (h : Kept m o s0 s) :
    Kept m o s0 (State.pumpPort s p) := by
  unfold State.pumpPort
  refine Kept.foldl ?_ (fun _ _ _ => ?_)
  · with_reducible assumption
  · with_reducible exact kept_pumpChan ‹_›

theorem kept_noteChans {m o : Bool} {s0 s : State} {p : _} (h : Kept m o s0 s) :
    Kept m o s0 (State.noteChans s p) := by
  unfold State.noteChans
  with_reducible exact kept_put ‹_›

theorem kept_releasePort {m o : Bool} {s0 s : State} {p : _} (h : Kept m o s0 s) :
    Kept m o s0 (State.releasePort s p) := by
  unfold State.releasePort
  dsimp only
  refine Kept.iteR ?_ (fun _ => ?_)
  · with_reducible assumption
  · with_reducible refine kept_pumpPort ?_
    refine Kept.foldl ?_ (fun _ _ _ => ?_)
    · with_reducible exact kept_onPort ‹_›
    · with_reducible exact kept_send ‹_›

theorem kept_flushEchoes {m o : Bool} {s0 s : State} (h : Kept m o s0 s) :
    Kept m o s0 (State.flushEchoes s) := by
  unfold State.flushEchoes
  dsimp only
  refine Kept.iteL ?_ (fun _ => ?_)
  · with_reducible assumption
  · refine Kept.foldl ?_ (fun _ _ _ => ?_)
    · with_reducible refine Kept.upd2 ?_ rfl rfl rfl rfl
      with_reducible assumption
    · with_reducible exact kept_ride ‹_›

theorem kept_openGroup {m o : Bool} {s0 s : State} {p peer mac g : _} (h : Kept m o s0 s) :
    Kept m o s0 (State.openGroup s p peer mac g) := by
  unfold State.openGroup
  refine Kept.iteL ?_ (fun _ => ?_)
  · with_reducible assumption
  · with_reducible exact kept_mapQuill ‹_›

theorem kept_routeGroup {m o : Bool} {s0 s : State} {arrival qtype a3 pl : _} (h : Kept m o s0 s) :
    Kept m o s0 (State.routeGroup s arrival qtype a3 pl) := by
  unfold State.routeGroup
  dsimp only
  refine Kept.ite ?_ ?_
  · with_reducible exact kept_put ‹_›
  · refine Kept.ite ?_ ?_
    · refine Kept.foldl ?_ (fun _ _ _ => ?_)
      · with_reducible assumption
      · with_reducible exact kept_offer ‹_›
    · refine Kept.iteL ?_ (fun _ => ?_)
      · with_reducible assumption
      · refine Kept.foldl ?_ (fun _ _ _ => ?_)
        · with_reducible assumption
        · with_reducible exact kept_offer (kept_openGroup ‹_›)

end Sys2Proof.Laws
end

