-- ==== Sys2Proof/Laws/KeepsSurvive.lean ====
section
/-! SUPPORT. What each operation of Machine/Survive.lean keeps, by the relation of Laws/Kept.lean. -/
namespace Sys2Proof.Laws
open Sys2Proof.Machine

theorem kept_mapSvl {m o : Bool} {s0 s : State} {f : _} (h : Kept m o s0 s) :
    Kept m o s0 (State.mapSvl s f) := by
  unfold State.mapSvl
  with_reducible refine Kept.upd2 ?_ rfl rfl rfl rfl
  with_reducible assumption

theorem kept_noteRanges {m o : Bool} {s0 s : State} (h : Kept m o s0 s) :
    Kept m o s0 (State.noteRanges s) := by
  unfold State.noteRanges
  dsimp only
  refine Kept.iteR ?_ (fun _ => ?_)
  · with_reducible exact kept_put (kept_put ‹_›)
  · with_reducible exact kept_put ‹_›

theorem kept_unsendFrom {m o : Bool} {s0 s : State} {a1 : _} (h : Kept m o s0 s) :
    Kept m o s0 (State.unsendFrom s a1) := by
  unfold State.unsendFrom
  with_reducible exact kept_noteRanges (kept_mapSvl ‹_›)

theorem kept_mark {m o : Bool} {s0 s : State} {code pl : _} (h : Kept m o s0 s) :
    Kept m o s0 (State.mark s code pl) := by
  unfold State.mark
  with_reducible exact kept_ride ‹_›

theorem kept_markLevel {m o : Bool} {s0 s : State} {level : _} (h : Kept m o s0 s) :
    Kept m o s0 (State.markLevel s level) := by
  unfold State.markLevel
  refine Kept.iteL ?_ (fun _ => ?_)
  · with_reducible assumption
  · with_reducible exact kept_mapSvl (kept_mark ‹_›)

theorem kept_stopFollow {m o : Bool} {s0 s : State} (h : Kept m o s0 s) :
    Kept m o s0 (State.stopFollow s) := by
  unfold State.stopFollow
  with_reducible exact kept_noteRanges (kept_put (kept_mapSvl ‹_›))

theorem kept_sendPairs {m o : Bool} {s0 s : State} {f : _} (h : Kept m o s0 s) :
    Kept m o s0 (State.sendPairs s f) := by
  unfold State.sendPairs
  refine Kept.foldl ?_ (fun _ _ _ => ?_)
  · with_reducible assumption
  · with_reducible exact kept_rideTo ‹_›

theorem kept_hashLeaf {o : Bool} {s0 s : State} {place len i : _} (h : Kept false o s0 s) :
    Kept false o s0 (State.hashLeaf s place len i).1 := by
  unfold State.hashLeaf
  dsimp only
  refine Kept.foldl1 ?_ (fun _ _ _ => ?_)
  · dsimp only
    with_reducible assumption
  · split
    · dsimp only
      with_reducible exact kept_lineRead ‹_›
    · dsimp only
      with_reducible assumption

theorem kept_keptHashes {o : Bool} {s0 s : State} {base a2 : _} (h : Kept false o s0 s) :
    Kept false o s0 (State.keptHashes s base a2).1 := by
  unfold State.keptHashes
  dsimp only
  with_reducible exact kept_readRange ‹_›

theorem kept_hashDue {o : Bool} {s0 s : State} {base place len a4 due : _} (h : Kept false o s0 s) :
    Kept false o s0 (State.hashDue s base place len a4 due).1 := by
  unfold State.hashDue
  dsimp only
  refine Kept.foldl1 ?_ (fun _ _ _ => ?_)
  · dsimp only
    with_reducible exact kept_keptHashes ‹_›
  · split
    · dsimp only
      with_reducible exact kept_count (kept_hashLeaf ‹_›)
    · dsimp only
      with_reducible assumption

theorem kept_writeLevel {o : Bool} {s0 s : State} {base ls : _} (h : Kept false o s0 s) :
    Kept false o s0 (State.writeLevel s base ls) := by
  unfold State.writeLevel
  refine Kept.foldl ?_ (fun _ _ _ => ?_)
  · with_reducible assumption
  · refine Kept.iteL ?_ (fun _ => ?_)
    · with_reducible assumption
    · with_reducible exact kept_lineWrite ‹_›

theorem kept_writeLevels {o : Bool} {s0 s : State} {n base : Nat} {hs : List (List Byte)} (h : Kept false o s0 s) :
    Kept false o s0 (State.writeLevels s n base hs) := by
  induction n generalizing s base hs with
  | zero => exact h
  | succ n ih =>
    unfold State.writeLevels
    exact Kept.ite (kept_writeLevel h) (ih (kept_writeLevel h))

theorem kept_digestImage {o : Bool} {s0 s : State} {base : Nat} {place : Nat → Option Nat} {len step : Nat} {due : Nat →
    Bool} (h : Kept false o s0 s) :
    Kept false o s0 (State.digestImage s base place len step due).1 := by
  exact Kept.ofPair rfl (kept_writeLevels (kept_hashDue h))

theorem kept_ownDigest {o : Bool} {s0 s : State} (h : Kept false o s0 s) :
    Kept false o s0 (State.ownDigest s).1 := by
  unfold State.ownDigest
  dsimp only
  with_reducible refine Kept.upd2 ?_ rfl rfl rfl rfl
  with_reducible exact kept_digestImage (kept_readRange ‹_›)

theorem kept_setDigestRegs {m o : Bool} {s0 s : State} {base d : _} (h : Kept m o s0 s) :
    Kept m o s0 (State.setDigestRegs s base d) := by
  unfold State.setDigestRegs
  refine Kept.foldl ?_ (fun _ _ _ => ?_)
  · with_reducible assumption
  · with_reducible exact kept_setReg ‹_›

theorem kept_markBegin {m o : Bool} {s0 s : State} (h : Kept m o s0 s) :
    Kept m o s0 (State.markBegin s) := by
  unfold State.markBegin
  refine Kept.iteR ?_ (fun _ => ?_)
  · with_reducible assumption
  · with_reducible exact kept_mark ‹_›

theorem kept_markLatch {m o : Bool} {s0 s : State} {value stale : _} (h : Kept m o s0 s) :
    Kept m o s0 (State.markLatch s value stale) := by
  unfold State.markLatch
  refine Kept.iteR ?_ (fun _ => ?_)
  · with_reducible assumption
  · with_reducible exact kept_mark ‹_›

theorem kept_setRange {m o : Bool} {s0 s : State} {i f : _} (h : Kept m o s0 s) :
    Kept m o s0 (State.setRange s i f) := by
  unfold State.setRange
  with_reducible exact kept_mapSvl ‹_›

theorem kept_sendCopy {o : Bool} {s0 s : State} {i n r : _} (h : Kept false o s0 s) :
    Kept false o s0 (State.sendCopy s i n r) := by
  unfold State.sendCopy
  dsimp only
  split
  · with_reducible exact kept_setRange ‹_›
  · refine Kept.ite ?_ ?_
    · with_reducible refine kept_mark ?_
      with_reducible refine kept_setRange ?_
      refine Kept.foldl1 ?_ (fun _ _ _ => ?_)
      · dsimp only
        with_reducible assumption
      · dsimp only
        with_reducible exact kept_lineRead ‹_›
    · with_reducible refine kept_mapSvl ?_
      with_reducible refine kept_setRange ?_
      refine Kept.foldl ?_ (fun _ _ _ => ?_)
      · refine Kept.foldl1 ?_ (fun _ _ _ => ?_)
        · dsimp only
          with_reducible assumption
        · dsimp only
          with_reducible exact kept_lineRead ‹_›
      · with_reducible exact kept_ride ‹_›

theorem kept_sendMap {m o : Bool} {s0 s : State} {f : _} (h : Kept m o s0 s) :
    Kept m o s0 (State.sendMap s f) := by
  unfold State.sendMap
  dsimp only
  with_reducible exact kept_mapSvl (kept_ride ‹_›)

theorem kept_rideGo {o : Bool} {s0 s : State} {f n : _} (h : Kept false o s0 s) :
    Kept false o s0 (State.rideGo f n s) := by
  induction n generalizing s with
  | zero => exact h
  | succ n ih =>
    unfold State.rideGo
    split
    · exact h
    · split
      · exact ih (kept_sendMap h)
      · split
        · exact ih (kept_sendCopy h)
        · exact h

theorem kept_rideMore {o : Bool} {s0 s : State} (h : Kept false o s0 s) :
    Kept false o s0 (State.rideMore s) := by
  unfold State.rideMore
  split
  · refine Kept.iteR ?_ (fun _ => ?_)
    · with_reducible assumption
    · with_reducible exact kept_rideGo ‹_›
  · with_reducible assumption

theorem kept_startFollow {m o : Bool} {s0 s : State} (h : Kept m o s0 s) :
    Kept m o s0 (State.startFollow s) := by
  unfold State.startFollow
  split
  · refine Kept.iteR ?_ (fun _ => ?_)
    · with_reducible assumption
    · with_reducible exact kept_noteRanges (kept_put (kept_mapSvl ‹_›))
  · with_reducible assumption

theorem kept_markEnd {m o : Bool} {s0 s : State} {digest : _} (h : Kept m o s0 s) :
    Kept m o s0 (State.markEnd s digest) := by
  unfold State.markEnd
  dsimp only
  refine Kept.iteR ?_ (fun _ => ?_)
  · with_reducible assumption
  · refine Kept.foldl ?_ (fun _ _ _ => ?_)
    · with_reducible assumption
    · with_reducible exact kept_mark ‹_›

theorem kept_retryFailed {m o : Bool} {s0 s : State} (h : Kept m o s0 s) :
    Kept m o s0 (State.retryFailed s) := by
  unfold State.retryFailed
  with_reducible exact kept_mapSvl ‹_›

end Sys2Proof.Laws
end

