-- ==== Sys2Proof/Laws/KeepsChembe.lean ====
section
/-! SUPPORT. What each operation of Machine/Chembe.lean keeps, by the relation of Laws/Kept.lean. -/
namespace Sys2Proof.Laws
open Sys2Proof.Machine

theorem kept_Act_did {m o : Bool} {s0 s : State} {status params : _} (h : Kept m o s0 s) :
    ActKept m o s0 (Act.did s status params) := by
  unfold Act.did
  refine ActKept.begun ?_
  with_reducible assumption

theorem kept_Act_no {m o : Bool} {s0 s : State} {status : _} (h : Kept m o s0 s) :
    ActKept m o s0 (Act.no s status) := by
  unfold Act.no
  refine ActKept.reply ?_
  with_reducible assumption

theorem kept_Act_ok {m o : Bool} {s0 s : State} (h : Kept m o s0 s) :
    ActKept m o s0 (Act.ok s) := by
  unfold Act.ok
  refine ActKept.reply ?_
  with_reducible assumption

theorem kept_addDeferred {m o : Bool} {s0 s : State} {a1 code result arg : _} (h : Kept m o s0 s) :
    Kept m o s0 (State.addDeferred s a1 code result arg) := by
  unfold State.addDeferred
  dsimp only
  with_reducible refine Kept.upd2 ?_ rfl rfl rfl rfl
  with_reducible assumption

theorem kept_addSession {m o : Bool} {s0 s : State} {x : _} (h : Kept m o s0 s) :
    Kept m o s0 (State.addSession s x) := by
  unfold State.addSession
  dsimp only
  with_reducible refine kept_noteSessions ?_
  with_reducible refine Kept.upd2 ?_ rfl rfl rfl rfl
  with_reducible assumption

theorem kept_rxFrame {m o : Bool} {s0 s : State} {src : _} (h : Kept m o s0 s) :
    Kept m o s0 (State.rxFrame s src) := by
  unfold State.rxFrame
  split
  · with_reducible exact kept_hostRx ‹_›
  · with_reducible assumption

theorem kept_heard {m o : Bool} {s0 s : State} {src : _} (h : Kept m o s0 s) :
    Kept m o s0 (State.heard s src) := by
  unfold State.heard
  dsimp only
  with_reducible refine kept_mapSessions ?_
  split
  · refine Kept.ite ?_ ?_
    · with_reducible refine Kept.upd2 ?_ rfl rfl rfl rfl
      with_reducible exact kept_countAt (kept_rxFrame ‹_›)
    · with_reducible refine Kept.upd2 ?_ rfl rfl rfl rfl
      with_reducible exact kept_countAt (kept_rxFrame ‹_›)
  · with_reducible refine Kept.upd2 ?_ rfl rfl rfl rfl
    with_reducible exact kept_countAt (kept_rxFrame ‹_›)

theorem kept_onSession {m o : Bool} {s0 s : State} {a1 f : _} (h : Kept m o s0 s) :
    Kept m o s0 (State.onSession s a1 f) := by
  unfold State.onSession
  with_reducible exact kept_mapSessions ‹_›

theorem kept_finishOp {m o : Bool} {s0 s : State} {code st ps : _} (h : Kept m o s0 s) :
    Kept m o s0 (State.finishOp s code st ps) := by
  unfold State.finishOp
  dsimp only
  with_reducible refine Kept.upd2 ?_ rfl rfl rfl rfl
  with_reducible assumption

theorem kept_answer {m o : Bool} {s0 s : State} {a1 code st ps : _} (h : Kept m o s0 s) :
    Kept m o s0 (State.answer s a1 code st ps) := by
  unfold State.answer
  dsimp only
  refine Kept.iteR ?_ (fun _ => ?_)
  · with_reducible exact kept_sendReply ‹_›
  · with_reducible exact kept_onSession ‹_›

theorem kept_setLock {m o : Bool} {s0 s : State} {mgmt v : _} (h : Kept m o s0 s) :
    Kept m o s0 (State.setLock s mgmt v) := by
  unfold State.setLock
  refine Kept.ite ?_ ?_
  · with_reducible exact kept_put ‹_›
  · with_reducible exact kept_put ‹_›

theorem kept_claimed {m : Bool} {s0 s : State} {p a alt : _} (h : Kept m false s0 s) :
    Kept m false s0 (State.claimed s p a alt) := by
  have ht : Kept m false s0 (if s.newOwner a then s.setLock false 0 else s) := Kept.ite (kept_setLock h) h
  have hf : (if s.newOwner a then s.setLock false 0 else s).flash = s.flash := by split <;> rfl
  unfold State.claimed
  refine kept_put (Kept.upd3 ht (le_refl _) (fun h => h) (fun h => h) (fun _ => rfl) (fun h => h) (fun h => h) ?_ ?_ (fun h
      => by cases h))
  · rw [hf]
  · rw [hf]

theorem kept_dropChembe {m o : Bool} {s0 s : State} {src : _} (h : Kept m o s0 s) :
    Kept m o s0 (State.dropChembe s src) := by
  unfold State.dropChembe
  dsimp only
  split
  · with_reducible exact kept_bump (kept_countAt (kept_rxFrame ‹_›))
  · with_reducible exact kept_countAt (kept_rxFrame ‹_›)

theorem kept_perform {m o : Bool} {s0 : State} {a0 op i a3 : _} (h : ActKept m o s0 a3) :
    Kept m o s0 (State.perform a0 op i a3) := by
  cases a3 with
  | reply s a b => exact kept_answer h
  | begun s a b => exact kept_sendReply (kept_addDeferred h)
  | hold s =>
    have h1 : Kept m o s0 ({ s with chembe := { s.chembe with held := s.chembe.held ++ [i] } } : State) := Kept.upd2 h rfl
        rfl rfl rfl
    unfold State.perform
    dsimp only
    split
    · exact kept_sendReply (kept_addDeferred h1)
    · exact h1

theorem kept_lockDenied {m o : Bool} {s0 s : State} (h : Kept m o s0 s) :
    Kept m o s0 (State.lockDenied s) := by
  unfold State.lockDenied
  with_reducible exact kept_count (kept_put ‹_›)

theorem kept_refusal {m o : Bool} {s0 s : State} {a1 op ok : _} (h : Kept m o s0 s) :
    Kept m o s0 (State.refusal s a1 op ok).2 := by
  unfold State.refusal
  dsimp only
  split
  · dsimp only
    with_reducible assumption
  · split
    · dsimp only
      with_reducible assumption
    · split
      · dsimp only
        with_reducible assumption
      · split
        · split
          · dsimp only
            with_reducible exact kept_lockDenied ‹_›
          · split
            · dsimp only
              with_reducible assumption
            · dsimp only
              with_reducible assumption
        · split
          · dsimp only
            with_reducible exact kept_lockDenied ‹_›
          · split
            · dsimp only
              with_reducible assumption
            · dsimp only
              with_reducible assumption

theorem kept_gated {m o : Bool} {s0 s : State} {a1 op ok i act : _} (h : Kept m o s0 s) (h_act : ∀ t, Kept m o s0 t →
    ActKept m o s0 (act t)) :
    Kept m o s0 (State.gated s a1 op ok i act) := by
  unfold State.gated
  split
  · with_reducible refine kept_answer ?_
    refine Kept.snd (by with_reducible assumption) ?_
    with_reducible exact kept_refusal ‹_›
  · with_reducible refine kept_perform ?_
    refine h_act _ ?_
    refine Kept.snd (by with_reducible assumption) ?_
    with_reducible exact kept_refusal ‹_›

theorem kept_command {m o : Bool} {s0 s : State} {a1 op ok i act : _} (h : Kept m o s0 s) (h_act : ∀ t, Kept m o s0 t →
    ActKept m o s0 (act t)) : Kept m o s0 (State.command s a1 op ok i act) := by
  unfold State.command
  refine Kept.iteL h (fun _ => ?_)
  cases s.sessionFor a1 with
  | none => exact kept_dropChembe h
  | some x =>
    have h1 : Kept m o s0 (s.heard a1.src) := kept_heard h
    refine Kept.ite (kept_sendReply h1) (Kept.ite (kept_sendReply h1) ?_)
    cases x.classify a1.seq with
    | outside => exact kept_sendReply h1
    | dup =>
      have h2 : Kept m o s0 ((s.heard a1.src).countAt 0xC3 (srcInst a1.src) 1) := kept_countAt h1
      cases x.cache.find? (fun p => p.1 == a1.seq) with
      | some r => exact kept_sendReply h2
      | none => exact Kept.ite (kept_sendReply h2) (Kept.ite h2 (kept_gated h2 h_act))
    | new => exact Kept.ite (kept_sendReply h1) (kept_gated (kept_onSession h1) h_act)

theorem kept_sendDone {m o : Bool} {s0 s : State} {d st ps : _} (h : Kept m o s0 s) :
    Kept m o s0 (State.sendDone s d st ps) := by
  unfold State.sendDone
  dsimp only
  split
  · refine Kept.ite ?_ ?_
    · with_reducible exact kept_putEvent ‹_›
    · refine Kept.iteR ?_ (fun _ => ?_)
      · with_reducible assumption
      · with_reducible exact kept_send ‹_›
  · refine Kept.ite ?_ ?_
    · with_reducible exact kept_putEvent ‹_›
    · refine Kept.iteR ?_ (fun _ => ?_)
      · with_reducible assumption
      · with_reducible exact kept_send (kept_ibi ‹_›)

theorem kept_endDeferred {m o : Bool} {s0 s : State} {d st ps : _} (h : Kept m o s0 s) :
    Kept m o s0 (State.endDeferred s d st ps) := by
  unfold State.endDeferred
  dsimp only
  refine Kept.iteR ?_ (fun _ => ?_)
  · with_reducible refine kept_sendDone ?_
    with_reducible refine Kept.upd2 ?_ rfl rfl rfl rfl
    with_reducible assumption
  · with_reducible exact kept_mapSessions ‹_›

theorem kept_endOwnership {m : Bool} {s0 s : State} (h : Kept m false s0 s) :
    Kept m false s0 (State.endOwnership s) := by
  unfold State.endOwnership
  exact kept_put (kept_setLock (Kept.upd3 h (le_refl _) (fun h => h) (fun h => h) (fun _ => rfl) (fun h => h) (fun h => h)
    (le_refl _) (le_refl _) (fun h => by cases h)))

theorem kept_makeRoom {m o : Bool} {s0 s : State} {src : _} (h : Kept m o s0 s) :
    Kept m o s0 (State.makeRoom s src) := by
  unfold State.makeRoom
  dsimp only
  refine Kept.iteL ?_ (fun _ => ?_)
  · with_reducible exact kept_keepSessions ‹_›
  · split
    · with_reducible exact kept_keepSessions ‹_›
    · with_reducible assumption

theorem kept_newSession {m o : Bool} {s0 s : State} (h : Kept m o s0 s) :
    Kept m o s0 (State.newSession s).1 := by
  unfold State.newSession
  dsimp only
  with_reducible refine Kept.upd3 ?_ ?_ ?_ ?_ ?_ ?_ ?_ ?_ ?_ ?_
  · with_reducible assumption
  · exact Nat.le_add_right _ _
  · with_reducible exact fun h => h
  · with_reducible exact fun h => h
  · with_reducible exact fun _ => rfl
  · with_reducible exact fun h => h
  · with_reducible exact fun h => h
  · exact le_refl _
  · exact le_refl _
  · with_reducible exact fun _ => rfl

theorem kept_openSession {m o : Bool} {s0 s : State} {a1 firstSeq : _} (h : Kept m o s0 s) :
    Kept m o s0 (State.openSession s a1 firstSeq) := by
  unfold State.openSession
  dsimp only
  with_reducible exact kept_sendReply (kept_addSession (kept_newSession ‹_›))

theorem kept_hello {m o : Bool} {s0 s : State} {a1 firstSeq : _} (h : Kept m o s0 s) :
    Kept m o s0 (State.hello s a1 firstSeq) := by
  unfold State.hello
  refine Kept.iteL ?_ (fun _ => ?_)
  · with_reducible assumption
  · refine Kept.ite ?_ ?_
    · with_reducible exact kept_dropChembe ‹_›
    · refine Kept.ite ?_ ?_
      · with_reducible exact kept_sendReply (kept_heard ‹_›)
      · refine Kept.ite ?_ ?_
        · with_reducible exact kept_sendReply (kept_heard ‹_›)
        · with_reducible exact kept_openSession (kept_makeRoom (kept_heard ‹_›))

theorem kept_setReceiver {m o : Bool} {s0 s : State} {viaMask eid : _} (h : Kept m o s0 s) :
    Kept m o s0 (State.setReceiver s viaMask eid) := by
  unfold State.setReceiver
  dsimp only
  refine Kept.iteL ?_ (fun _ => ?_)
  · with_reducible refine Kept.upd2 ?_ rfl rfl rfl rfl
    with_reducible assumption
  · with_reducible exact kept_pump (kept_setEvq ‹_›)

theorem kept_execChembeRefused {m o : Bool} {s0 s : State} {packet : _} (h : Kept m o s0 s) :
    OutKept m o s0 (execChembeRefused packet s) := by
  unfold execChembeRefused
  refine OutKept.next ?_
  refine Kept.iteR ?_ (fun _ => ?_)
  · with_reducible assumption
  · with_reducible exact kept_dropChembe ‹_›

theorem kept_execClaim {m : Bool} {s0 s : State} {a0 alt : _} (h : Kept m false s0 s) :
    OutKept m false s0 (execClaim a0 alt s) := by
  unfold execClaim
  refine OutKept.next ?_
  with_reducible refine kept_command ?_ ?_
  · with_reducible assumption
  · intro _ _
    split
    · with_reducible exact kept_Act_no ‹_›
    · with_reducible exact kept_Act_ok (kept_pump (kept_claimed ‹_›))

theorem kept_execEventAck {m o : Bool} {s0 s : State} {a0 seq : _} (h : Kept m o s0 s) :
    OutKept m o s0 (execEventAck a0 seq s) := by
  unfold execEventAck
  dsimp only
  refine OutKept.next ?_
  with_reducible refine kept_command ?_ ?_
  · with_reducible assumption
  · intro _ _
    split
    · split
      · with_reducible exact kept_Act_ok (kept_pump (kept_setEvq ‹_›))
      · with_reducible exact kept_Act_ok ‹_›
    · split
      · split
        · with_reducible exact kept_Act_ok (kept_pump (kept_setEvq ‹_›))
        · with_reducible exact kept_Act_ok ‹_›
      · split
        · with_reducible exact kept_Act_ok (kept_pump (kept_setEvq ‹_›))
        · with_reducible exact kept_Act_ok ‹_›

theorem kept_execEventMask {m o : Bool} {s0 s : State} {a0 mask : _} (h : Kept m o s0 s) :
    OutKept m o s0 (execEventMask a0 mask s) := by
  unfold execEventMask
  dsimp only
  refine OutKept.next ?_
  with_reducible refine kept_command ?_ ?_
  · with_reducible assumption
  · intro _ _
    split
    · with_reducible exact kept_Act_ok (kept_setEvq ‹_›)
    · with_reducible exact kept_Act_ok (kept_setReceiver (kept_setEvq ‹_›))

theorem kept_execEventResend {m o : Bool} {s0 s : State} {side : _} (h : Kept m o s0 s) :
    OutKept m o s0 (execEventResend side s) := by
  unfold execEventResend
  dsimp only
  refine OutKept.next ?_
  split
  · split
    · refine Kept.iteR ?_ (fun _ => ?_)
      · with_reducible assumption
      · with_reducible exact kept_transmit (kept_setEvq ‹_›)
    · with_reducible exact kept_pump ‹_›
  · with_reducible assumption

theorem kept_execHello {m o : Bool} {s0 s : State} {a0 _version firstSeq : _} (h : Kept m o s0 s) :
    OutKept m o s0 (execHello a0 _version firstSeq s) := by
  unfold execHello
  refine OutKept.next ?_
  with_reducible exact kept_hello ‹_›

theorem kept_execJobStatus {m o : Bool} {s0 s : State} {a0 : _} (h : Kept m o s0 s) :
    OutKept m o s0 (execJobStatus a0 s) := by
  unfold execJobStatus
  refine OutKept.next ?_
  with_reducible refine kept_command ?_ ?_
  · with_reducible assumption
  · intro _ _
    refine ActKept.reply ?_
    with_reducible assumption

theorem kept_execLock {m o : Bool} {s0 s : State} {a0 cls : _} (h : Kept m o s0 s) :
    OutKept m o s0 (execLock a0 cls s) := by
  unfold execLock
  dsimp only
  refine OutKept.next ?_
  with_reducible refine kept_command ?_ ?_
  · with_reducible assumption
  · intro _ _
    split
    · with_reducible exact kept_Act_no ‹_›
    · refine ActKept.reply ?_
      with_reducible exact kept_setLock ‹_›

theorem kept_execLockTimeout {m o : Bool} {s0 s : State} {mgmt : _} (h : Kept m o s0 s) :
    OutKept m o s0 (execLockTimeout mgmt s) := by
  unfold execLockTimeout
  dsimp only
  refine OutKept.next ?_
  refine Kept.iteR ?_ (fun _ => ?_)
  · with_reducible assumption
  · with_reducible exact kept_setLock ‹_›

theorem kept_execOpcodeUnknown {m o : Bool} {s0 s : State} {a0 opcode : _} (h : Kept m o s0 s) :
    OutKept m o s0 (execOpcodeUnknown a0 opcode s) := by
  unfold execOpcodeUnknown
  refine OutKept.next ?_
  refine Kept.iteL ?_ (fun _ => ?_)
  · with_reducible assumption
  · with_reducible refine kept_command ?_ ?_
    · with_reducible assumption
    · intro _ _
      with_reducible exact kept_Act_no ‹_›

theorem kept_execPing {m o : Bool} {s0 s : State} {a0 data : _} (h : Kept m o s0 s) :
    OutKept m o s0 (execPing a0 data s) := by
  unfold execPing
  refine OutKept.next ?_
  with_reducible refine kept_command ?_ ?_
  · with_reducible assumption
  · intro _ _
    refine ActKept.reply ?_
    with_reducible assumption

theorem kept_execRelease {m : Bool} {s0 s : State} {a0 : _} (h : Kept m false s0 s) :
    OutKept m false s0 (execRelease a0 s) := by
  unfold execRelease
  refine OutKept.next ?_
  with_reducible refine kept_command ?_ ?_
  · with_reducible assumption
  · intro _ _
    with_reducible exact kept_Act_ok (kept_endOwnership ‹_›)

theorem kept_execSessionTimeout {m o : Bool} {s0 s : State} {side session : _} (h : Kept m o s0 s) :
    OutKept m o s0 (execSessionTimeout side session s) := by
  unfold execSessionTimeout
  refine OutKept.next ?_
  with_reducible exact kept_keepSessions ‹_›

theorem kept_execStepReport {m o : Bool} {s0 s : State} {a0 step first : _} (h : Kept m o s0 s) :
    OutKept m o s0 (execStepReport a0 step first s) := by
  unfold execStepReport
  refine OutKept.next ?_
  with_reducible refine kept_command ?_ ?_
  · with_reducible assumption
  · intro _ _
    split
    · refine ActKept.reply ?_
      with_reducible assumption
    · with_reducible exact kept_Act_no ‹_›

theorem kept_execUnlock {m o : Bool} {s0 s : State} {a0 cls : _} (h : Kept m o s0 s) :
    OutKept m o s0 (execUnlock a0 cls s) := by
  unfold execUnlock
  dsimp only
  refine OutKept.next ?_
  with_reducible refine kept_command ?_ ?_
  · with_reducible assumption
  · intro _ _
    refine ActKept.reply ?_
    with_reducible exact kept_setLock ‹_›

end Sys2Proof.Laws
end

