-- ==== Sys2Proof/Laws/KeepsFlags.lean ====
section
/-! SUPPORT. What each operation of Machine/Flags.lean keeps, by the relation of Laws/Kept.lean. -/
namespace Sys2Proof.Laws
open Sys2Proof.Machine

theorem kept_mapRun {m o : Bool} {s0 s : State} {f : _} (h : Kept m o s0 s) :
    Kept m o s0 (State.mapRun s f) := by
  unfold State.mapRun
  with_reducible refine Kept.upd2 ?_ rfl rfl rfl rfl
  with_reducible assumption

theorem kept_mapJob {m o : Bool} {s0 s : State} {f : _} (h : Kept m o s0 s) :
    Kept m o s0 (State.mapJob s f) := by
  unfold State.mapJob
  with_reducible refine Kept.upd2 ?_ rfl rfl rfl rfl
  with_reducible assumption

theorem kept_gauge {m o : Bool} {s0 s : State} {a1 a : _} (h : Kept m o s0 s) :
    Kept m o s0 (State.gauge s a1 a) := by
  unfold State.gauge
  refine Kept.iteR ?_ (fun _ => ?_)
  · with_reducible assumption
  · with_reducible exact kept_mapJob ‹_›

end Sys2Proof.Laws
end

