-- ==== Sys2Proof/Laws/KeepsOperands.lean ====
section
/-! SUPPORT. What each operation of Machine/Operands.lean keeps, by the relation of Laws/Kept.lean. -/
namespace Sys2Proof.Laws
open Sys2Proof.Machine

theorem kept_storeLine {o : Bool} {s0 s : State} {p a cells bad nib : _} (h : Kept false o s0 s) :
    Kept false o s0 (State.storeLine s p a cells bad nib) := by
  unfold State.storeLine
  dsimp only
  split
  · refine Kept.ite ?_ ?_
    · with_reducible exact kept_lineStore ‹_›
    · refine Kept.ite ?_ ?_
      · with_reducible exact kept_lineStore ‹_›
      · with_reducible exact kept_mergeMask ‹_›
  · refine Kept.ite ?_ ?_
    · with_reducible refine Kept.upd3 ?_ ?_ ?_ ?_ ?_ ?_ ?_ ?_ ?_ ?_
      · with_reducible exact kept_countAt ‹_›
      · exact le_refl _
      · with_reducible exact fun h => h
      · with_reducible exact fun h => wf_inkBad h
      · exact fun h => absurd h Bool.false_ne_true
      · with_reducible exact fun h => h
      · with_reducible exact fun h => h
      · exact le_refl _
      · exact le_refl _
      · with_reducible exact fun _ => rfl
    · refine Kept.iteL ?_ (fun _ => ?_)
      · with_reducible exact kept_countAt ‹_›
      · with_reducible refine Kept.upd3 ?_ ?_ ?_ ?_ ?_ ?_ ?_ ?_ ?_ ?_
        · with_reducible assumption
        · exact le_refl _
        · with_reducible exact fun h => h
        · with_reducible exact fun h => wf_inkStore h
        · exact fun h => absurd h Bool.false_ne_true
        · with_reducible exact fun h => h
        · with_reducible exact fun h => h
        · exact le_refl _
        · exact le_refl _
        · with_reducible exact fun _ => rfl

theorem kept_storeCells {o : Bool} {s0 s : State} {p cells bad nib : _} (h : Kept false o s0 s) :
    Kept false o s0 (State.storeCells s p cells bad nib) := by
  unfold State.storeCells
  dsimp only
  refine Kept.foldl ?_ (fun _ _ _ => ?_)
  · with_reducible assumption
  · with_reducible exact kept_storeLine ‹_›

theorem kept_writeRecord {o : Bool} {s0 s : State} {eng addr bs : _} (h : Kept false o s0 s) :
    Kept false o s0 (State.writeRecord s eng addr bs) := by
  unfold State.writeRecord
  dsimp only
  with_reducible exact kept_storeCells ‹_›

theorem kept_inkRead {o : Bool} {s0 s : State} {desk a : _} (h : Kept false o s0 s) :
    Kept false o s0 (State.inkRead s desk a).1 := by
  unfold State.inkRead
  dsimp only
  split
  · split
    · split
      · split
        · dsimp only
          with_reducible refine Kept.upd3 ?_ ?_ ?_ ?_ ?_ ?_ ?_ ?_ ?_ ?_
          · with_reducible exact kept_voidStep (kept_put (kept_countAt ‹_›))
          · exact le_refl _
          · with_reducible exact fun h => h
          · with_reducible exact fun h => wf_inkErr h
          · exact fun h => absurd h Bool.false_ne_true
          · with_reducible exact fun h => h
          · with_reducible exact fun h => h
          · exact le_refl _
          · exact le_refl _
          · with_reducible exact fun _ => rfl
        · dsimp only
          with_reducible refine Kept.upd3 ?_ ?_ ?_ ?_ ?_ ?_ ?_ ?_ ?_ ?_
          · with_reducible exact kept_voidStep (kept_put (kept_countAt ‹_›))
          · exact le_refl _
          · with_reducible exact fun h => h
          · with_reducible exact fun h => wf_inkErr h
          · exact fun h => absurd h Bool.false_ne_true
          · with_reducible exact fun h => h
          · with_reducible exact fun h => h
          · exact le_refl _
          · exact le_refl _
          · with_reducible exact fun _ => rfl
      · split
        · dsimp only
          with_reducible refine Kept.upd3 ?_ ?_ ?_ ?_ ?_ ?_ ?_ ?_ ?_ ?_
          · with_reducible exact kept_voidStep (kept_put (kept_put (kept_put (kept_countAt ‹_›))))
          · exact le_refl _
          · with_reducible exact fun h => h
          · with_reducible exact fun h => wf_inkErr h
          · exact fun h => absurd h Bool.false_ne_true
          · with_reducible exact fun h => h
          · with_reducible exact fun h => h
          · exact le_refl _
          · exact le_refl _
          · with_reducible exact fun _ => rfl
        · dsimp only
          with_reducible refine Kept.upd3 ?_ ?_ ?_ ?_ ?_ ?_ ?_ ?_ ?_ ?_
          · with_reducible exact kept_voidStep (kept_put (kept_put (kept_put (kept_countAt ‹_›))))
          · exact le_refl _
          · with_reducible exact fun h => h
          · with_reducible exact fun h => wf_inkErr h
          · exact fun h => absurd h Bool.false_ne_true
          · with_reducible exact fun h => h
          · with_reducible exact fun h => h
          · exact le_refl _
          · exact le_refl _
          · with_reducible exact fun _ => rfl
    · split
      · dsimp only
        with_reducible refine Kept.upd3 ?_ ?_ ?_ ?_ ?_ ?_ ?_ ?_ ?_ ?_
        · with_reducible exact kept_countAt ‹_›
        · exact le_refl _
        · with_reducible exact fun h => h
        · with_reducible exact fun h => wf_inkErr h
        · exact fun h => absurd h Bool.false_ne_true
        · with_reducible exact fun h => h
        · with_reducible exact fun h => h
        · exact le_refl _
        · exact le_refl _
        · with_reducible exact fun _ => rfl
      · dsimp only
        with_reducible refine Kept.upd3 ?_ ?_ ?_ ?_ ?_ ?_ ?_ ?_ ?_ ?_
        · with_reducible exact kept_countAt ‹_›
        · exact le_refl _
        · with_reducible exact fun h => h
        · with_reducible exact fun h => wf_inkErr h
        · exact fun h => absurd h Bool.false_ne_true
        · with_reducible exact fun h => h
        · with_reducible exact fun h => h
        · exact le_refl _
        · exact le_refl _
        · with_reducible exact fun _ => rfl
  · split
    · split
      · split
        · dsimp only
          with_reducible refine Kept.upd3 ?_ ?_ ?_ ?_ ?_ ?_ ?_ ?_ ?_ ?_
          · with_reducible exact kept_voidStep (kept_put (kept_put (kept_bump (kept_countAt ‹_›))))
          · exact le_refl _
          · with_reducible exact fun h => h
          · with_reducible exact fun h => wf_inkErr h
          · exact fun h => absurd h Bool.false_ne_true
          · with_reducible exact fun h => h
          · with_reducible exact fun h => h
          · exact le_refl _
          · exact le_refl _
          · with_reducible exact fun _ => rfl
        · dsimp only
          with_reducible refine Kept.upd3 ?_ ?_ ?_ ?_ ?_ ?_ ?_ ?_ ?_ ?_
          · with_reducible exact kept_voidStep (kept_put (kept_put (kept_bump (kept_countAt ‹_›))))
          · exact le_refl _
          · with_reducible exact fun h => h
          · with_reducible exact fun h => wf_inkErr h
          · exact fun h => absurd h Bool.false_ne_true
          · with_reducible exact fun h => h
          · with_reducible exact fun h => h
          · exact le_refl _
          · exact le_refl _
          · with_reducible exact fun _ => rfl
      · split
        · dsimp only
          with_reducible refine Kept.upd3 ?_ ?_ ?_ ?_ ?_ ?_ ?_ ?_ ?_ ?_
          · with_reducible exact kept_voidStep (kept_put (kept_put (kept_put (kept_put (kept_bump (kept_countAt ‹_›))))))
          · exact le_refl _
          · with_reducible exact fun h => h
          · with_reducible exact fun h => wf_inkErr h
          · exact fun h => absurd h Bool.false_ne_true
          · with_reducible exact fun h => h
          · with_reducible exact fun h => h
          · exact le_refl _
          · exact le_refl _
          · with_reducible exact fun _ => rfl
        · dsimp only
          with_reducible refine Kept.upd3 ?_ ?_ ?_ ?_ ?_ ?_ ?_ ?_ ?_ ?_
          · with_reducible exact kept_voidStep (kept_put (kept_put (kept_put (kept_put (kept_bump (kept_countAt ‹_›))))))
          · exact le_refl _
          · with_reducible exact fun h => h
          · with_reducible exact fun h => wf_inkErr h
          · exact fun h => absurd h Bool.false_ne_true
          · with_reducible exact fun h => h
          · with_reducible exact fun h => h
          · exact le_refl _
          · exact le_refl _
          · with_reducible exact fun _ => rfl
    · split
      · dsimp only
        with_reducible refine Kept.upd3 ?_ ?_ ?_ ?_ ?_ ?_ ?_ ?_ ?_ ?_
        · with_reducible exact kept_put (kept_bump (kept_countAt ‹_›))
        · exact le_refl _
        · with_reducible exact fun h => h
        · with_reducible exact fun h => wf_inkErr h
        · exact fun h => absurd h Bool.false_ne_true
        · with_reducible exact fun h => h
        · with_reducible exact fun h => h
        · exact le_refl _
        · exact le_refl _
        · with_reducible exact fun _ => rfl
      · dsimp only
        with_reducible refine Kept.upd3 ?_ ?_ ?_ ?_ ?_ ?_ ?_ ?_ ?_ ?_
        · with_reducible exact kept_put (kept_bump (kept_countAt ‹_›))
        · exact le_refl _
        · with_reducible exact fun h => h
        · with_reducible exact fun h => wf_inkErr h
        · exact fun h => absurd h Bool.false_ne_true
        · with_reducible exact fun h => h
        · with_reducible exact fun h => h
        · exact le_refl _
        · exact le_refl _
        · with_reducible exact fun _ => rfl

theorem kept_takeLine {o : Bool} {s0 s : State} {p a spill : _} (h : Kept false o s0 s) :
    Kept false o s0 (State.takeLine s p a spill).1 := by
  unfold State.takeLine
  split
  · with_reducible exact kept_lineRead ‹_›
  · with_reducible exact kept_inkRead ‹_›

theorem kept_takeLines {o : Bool} {s0 s : State} {p as spill : _} (h : Kept false o s0 s) :
    Kept false o s0 (State.takeLines s p as spill).1 := by
  unfold State.takeLines
  dsimp only
  refine Kept.foldl1 ?_ (fun _ _ _ => ?_)
  · dsimp only
    with_reducible assumption
  · dsimp only
    with_reducible exact kept_takeLine ‹_›

theorem kept_readRows {o : Bool} {s0 s : State} {eng a2 rows c n spill : _} (h : Kept false o s0 s) :
    Kept false o s0 (State.readRows s eng a2 rows c n spill).1 := by
  unfold State.readRows
  dsimp only
  with_reducible exact kept_takeLines (kept_takeLines ‹_›)

theorem kept_storeRows {o : Bool} {s0 s : State} {a1 rows nib : _} (h : Kept false o s0 s) :
    Kept false o s0 (State.storeRows s a1 rows nib).1 := by
  unfold State.storeRows
  dsimp only
  refine Kept.foldl ?_ (fun _ _ _ => ?_)
  · with_reducible assumption
  · with_reducible exact kept_storeCells (kept_storeCells ‹_›)

end Sys2Proof.Laws
end

