-- ==== Sys2Proof/Laws/KeepsJobOps.lean ====
section
/-! SUPPORT. What each operation of Machine/JobOps.lean keeps, by the relation of Laws/Kept.lean. -/
namespace Sys2Proof.Laws
open Sys2Proof.Machine

theorem kept_discardOpen {o : Bool} {s0 s : State} (h : Kept false o s0 s) :
    Kept false o s0 (State.discardOpen s) := by
  unfold State.discardOpen
  dsimp only
  with_reducible refine kept_writebackAll ?_
  refine Kept.foldl ?_ (fun _ _ _ => ?_)
  · with_reducible refine Kept.upd2 ?_ rfl rfl rfl rfl
    with_reducible assumption
  · with_reducible exact kept_noteSlots ‹_›

theorem kept_flushQueues {m o : Bool} {s0 s : State} (h : Kept m o s0 s) :
    Kept m o s0 (State.flushQueues s) := by
  unfold State.flushQueues
  dsimp only
  refine Kept.foldl ?_ (fun _ _ _ => ?_)
  · with_reducible exact kept_mapQuill ‹_›
  · split
    · with_reducible exact kept_sendAck ‹_›
    · with_reducible assumption

theorem kept_stopLists {m o : Bool} {s0 s : State} (h : Kept m o s0 s) :
    Kept m o s0 (State.stopLists s) := by
  unfold State.stopLists
  dsimp only
  with_reducible refine kept_put ?_
  with_reducible refine kept_put ?_
  with_reducible refine kept_put ?_
  with_reducible refine kept_put ?_
  refine Kept.foldl ?_ (fun _ _ _ => ?_)
  · with_reducible exact kept_mapQuill (kept_mapRun (kept_mapJob (kept_dropQueued (kept_dropWaiting (kept_dropHeld ‹_›)))))
  · with_reducible exact kept_put ‹_›

theorem kept_endVoid {o : Bool} {s0 s : State} {abort status unit addr : _} (h : Kept false o s0 s) :
    Kept false o s0 (State.endVoid s abort status unit addr) := by
  unfold State.endVoid
  dsimp only
  with_reducible refine kept_raise ?_
  with_reducible refine kept_alert ?_
  with_reducible refine kept_count ?_
  with_reducible refine kept_setJobState ?_
  with_reducible refine kept_mapRun ?_
  with_reducible refine kept_mapSvl ?_
  with_reducible refine kept_unsendFrom ?_
  with_reducible refine kept_stopLists ?_
  refine Kept.ite ?_ ?_
  · with_reducible exact kept_flushQueues (kept_discardOpen ‹_›)
  · with_reducible exact kept_sealAll ‹_›

theorem kept_voidNow {o : Bool} {s0 s : State} {abort status unit addr : _} (h : Kept false o s0 s) :
    Kept false o s0 (State.voidNow s abort status unit addr) := by
  unfold State.voidNow
  dsimp only
  split
  · with_reducible exact kept_enterSafe (kept_endVoid ‹_›)
  · with_reducible exact kept_endVoid ‹_›

theorem kept_notePending {m o : Bool} {s0 s : State} (h : Kept m o s0 s) :
    Kept m o s0 (State.notePending s) := by
  unfold State.notePending
  with_reducible exact kept_put ‹_›

theorem kept_setEng {m o : Bool} {s0 s : State} {e : _} (h : Kept m o s0 s) :
    Kept m o s0 (State.setEng s e) := by
  unfold State.setEng
  with_reducible exact kept_mapJob ‹_›

theorem kept_setSem {m o : Bool} {s0 s : State} {i v : _} (h : Kept m o s0 s) :
    Kept m o s0 (State.setSem s i v) := by
  unfold State.setSem
  with_reducible exact kept_mapJob ‹_›

theorem kept_signal {m o : Bool} {s0 s : State} {i scope : _} (h : Kept m o s0 s) :
    Kept m o s0 (State.signal s i scope) := by
  unfold State.signal
  dsimp only
  refine Kept.ite ?_ ?_
  · with_reducible refine kept_setSem ?_
    refine Kept.iteR ?_ (fun _ => ?_)
    · with_reducible assumption
    · with_reducible exact kept_mapJob ‹_›
  · with_reducible refine kept_setSem ?_
    refine Kept.iteR ?_ (fun _ => ?_)
    · with_reducible assumption
    · with_reducible exact kept_mapJob ‹_›

theorem kept_advance {m o : Bool} {s0 s : State} {c : _} (h : Kept m o s0 s) :
    Kept m o s0 (State.advance s c) := by
  unfold State.advance
  dsimp only
  split
  · with_reducible assumption
  · with_reducible refine kept_setEng ?_
    refine Kept.iteR ?_ (fun _ => ?_)
    · refine Kept.iteR ?_ (fun _ => ?_)
      · with_reducible assumption
      · with_reducible exact kept_signal ‹_›
    · with_reducible exact kept_mapRun ‹_›

theorem kept_noteBusy {m o : Bool} {s0 s : State} {desk since : _} (h : Kept m o s0 s) :
    Kept m o s0 (State.noteBusy s desk since) := by
  unfold State.noteBusy
  dsimp only
  with_reducible refine Kept.upd2 ?_ rfl rfl rfl rfl
  with_reducible assumption

theorem kept_noteStatus {m o : Bool} {s0 s : State} {c status flags : _} (h : Kept m o s0 s) :
    Kept m o s0 (State.noteStatus s c status flags) := by
  unfold State.noteStatus
  dsimp only
  with_reducible refine kept_mapRun ?_
  refine Kept.ite ?_ ?_
  · with_reducible exact kept_voidStep ‹_›
  · refine Kept.iteR ?_ (fun _ => ?_)
    · with_reducible assumption
    · with_reducible exact kept_mapRun ‹_›

theorem kept_finishEng {o : Bool} {s0 s : State} {c r : _} (h : Kept false o s0 s) :
    Kept false o s0 (State.finishEng s c r) := by
  unfold State.finishEng
  dsimp only
  split
  · with_reducible assumption
  · with_reducible refine kept_advance ?_
    with_reducible refine kept_noteStatus ?_
    refine Kept.iteR ?_ (fun _ => ?_)
    · with_reducible exact kept_writeRecord ‹_›
    · with_reducible exact kept_noteBusy ‹_›

theorem kept_discardFar {m o : Bool} {s0 s : State} (h : Kept m o s0 s) :
    Kept m o s0 (State.discardFar s) := by
  unfold State.discardFar
  dsimp only
  refine Kept.foldl ?_ (fun _ _ _ => ?_)
  · with_reducible refine Kept.upd2 ?_ rfl rfl rfl rfl
    with_reducible assumption
  · with_reducible exact kept_countAt ‹_›

theorem kept_acquire {m o : Bool} {s0 s : State} {d : _} (h : Kept m o s0 s) :
    Kept m o s0 (State.acquire s d) := by
  unfold State.acquire
  dsimp only
  refine Kept.iteR ?_ (fun _ => ?_)
  · with_reducible assumption
  · refine Kept.iteR ?_ (fun _ => ?_)
    · with_reducible exact kept_discardFar ‹_›
    · with_reducible exact kept_count (kept_bump ‹_›)

theorem kept_dropPending {m o : Bool} {s0 s : State} {a1 : _} (h : Kept m o s0 s) :
    Kept m o s0 (State.dropPending s a1) := by
  unfold State.dropPending
  with_reducible exact kept_notePending (kept_mapRun ‹_›)

theorem kept_resetSteps {m o : Bool} {s0 s : State} {step : _} (h : Kept m o s0 s) :
    Kept m o s0 (State.resetSteps s step) := by
  unfold State.resetSteps
  dsimp only
  refine Kept.iteL ?_ (fun _ => ?_)
  · with_reducible exact kept_dropPending ‹_›
  · with_reducible exact kept_put ‹_›

theorem kept_settle {m o : Bool} {s0 s : State} (h : Kept m o s0 s) :
    Kept m o s0 (State.settle s) := by
  unfold State.settle
  with_reducible exact kept_flushEchoes ‹_›

theorem kept_freshStep {m o : Bool} {s0 s : State} (h : Kept m o s0 s) :
    Kept m o s0 (State.freshStep s) := by
  unfold State.freshStep
  dsimp only
  with_reducible refine kept_put ?_
  with_reducible refine kept_put ?_
  refine Kept.iteL ?_ (fun _ => ?_)
  · with_reducible refine Kept.upd2 ?_ rfl rfl rfl rfl
    with_reducible exact kept_mapSvl (kept_mapQuill (kept_mapJob (kept_mapRun ‹_›)))
  · with_reducible exact kept_put ‹_›

theorem kept_setPhase {m o : Bool} {s0 s : State} {c p : _} (h : Kept m o s0 s) :
    Kept m o s0 (State.setPhase s c p) := by
  unfold State.setPhase
  dsimp only
  with_reducible exact kept_setEng ‹_›

theorem kept_setShape {m o : Bool} {s0 s : State} {i v : _} (h : Kept m o s0 s) :
    Kept m o s0 (State.setShape s i v) := by
  unfold State.setShape
  with_reducible exact kept_mapJob ‹_›

theorem kept_latch {m o : Bool} {s0 s : State} {value stale : _} (h : Kept m o s0 s) :
    Kept m o s0 (State.latch s value stale) := by
  unfold State.latch
  dsimp only
  with_reducible refine kept_markLatch ?_
  refine Kept.iteR ?_ (fun _ => ?_)
  · with_reducible exact kept_put (kept_put (kept_put (kept_notePending (kept_mapRun ‹_›))))
  · refine Kept.foldl ?_ (fun _ _ _ => ?_)
    · with_reducible exact kept_count (kept_bump ‹_›)
    · with_reducible exact kept_put ‹_›

theorem kept_nop {m o : Bool} {s0 s : State} {c : _} (h : Kept m o s0 s) :
    Kept m o s0 (State.nop s c) := by
  unfold State.nop
  split
  · with_reducible assumption
  · refine Kept.iteR ?_ (fun _ => ?_)
    · with_reducible assumption
    · with_reducible exact kept_advance (kept_acquire ‹_›)

theorem kept_startEng {m o : Bool} {s0 s : State} {c kind work : _} (h : Kept m o s0 s) (h_work : ∀ t, Kept m o s0 t → ∀ x,
    Kept m o s0 (work t x).1) :
    Kept m o s0 (State.startEng s c kind work) := by
  unfold State.startEng
  dsimp only
  split
  · with_reducible assumption
  · refine Kept.iteL ?_ (fun _ => ?_)
    · with_reducible assumption
    · refine Kept.ite ?_ ?_
      · with_reducible exact kept_setPhase (kept_setEng (kept_acquire ‹_›))
      · with_reducible refine kept_setPhase ?_
        refine h_work _ ?_ _
        with_reducible exact kept_setEng (kept_acquire ‹_›)

end Sys2Proof.Laws
end

