-- ==== Sys2Proof/Laws/KeepsReplays.lean ====
section
/-! SUPPORT. What each operation of Machine/Replays.lean keeps, by the relation of Laws/Kept.lean. -/
namespace Sys2Proof.Laws
open Sys2Proof.Machine

theorem kept_setReplay {m o : Bool} {s0 s : State} {r : _} (h : Kept m o s0 s) :
    Kept m o s0 (State.setReplay s r) := by
  unfold State.setReplay
  with_reducible exact kept_mapJob ‹_›

theorem kept_replayWork {m o : Bool} {s0 s : State} {c r d work : _} (h : Kept m o s0 s) (h_work : ∀ t, Kept m o s0 t → ∀
    x, Kept m o s0 (work t x).1) :
    Kept m o s0 (State.replayWork s c r d work) := by
  unfold State.replayWork
  dsimp only
  with_reducible refine kept_setReplay ?_
  with_reducible refine kept_countAt ?_
  with_reducible refine kept_mapJob ?_
  refine h_work _ ?_ _
  with_reducible exact kept_setEng (kept_acquire ‹_›)

theorem kept_logReplay {o : Bool} {s0 s : State} {bs : _} (h : Kept false o s0 s) :
    Kept false o s0 (State.logReplay s bs) := by
  unfold State.logReplay
  dsimp only
  with_reducible refine kept_mapJob ?_
  refine Kept.foldl ?_ (fun _ _ _ => ?_)
  · with_reducible assumption
  · with_reducible exact kept_wordOp ‹_›

theorem kept_replayDone {o : Bool} {s0 s : State} {c : _} (h : Kept false o s0 s) :
    Kept false o s0 (State.replayDone s c) := by
  unfold State.replayDone
  dsimp only
  split
  · with_reducible assumption
  · split
    · with_reducible assumption
    · with_reducible refine kept_setReplay ?_
      refine Kept.iteR ?_ (fun _ => ?_)
      · refine Kept.iteR ?_ (fun _ => ?_)
        · refine Kept.iteR ?_ (fun _ => ?_)
          · with_reducible exact kept_logReplay ‹_›
          · with_reducible exact kept_noteBusy ‹_›
        · with_reducible exact kept_voidStep ‹_›
      · with_reducible exact kept_signal ‹_›

theorem kept_replayNop {m o : Bool} {s0 s : State} {c : _} (h : Kept m o s0 s) :
    Kept m o s0 (State.replayNop s c) := by
  unfold State.replayNop
  dsimp only
  split
  · refine Kept.iteR ?_ (fun _ => ?_)
    · with_reducible assumption
    · with_reducible refine kept_setReplay ?_
      refine Kept.iteR ?_ (fun _ => ?_)
      · with_reducible exact kept_acquire ‹_›
      · with_reducible exact kept_signal ‹_›
  · with_reducible assumption

theorem kept_startOrReplay {m o : Bool} {s0 s : State} {c kind work : _} (h : Kept m o s0 s) (h_work : ∀ b t, Kept m o s0 t
    → ∀ x, Kept m o s0 (work b t x).1) :
    Kept m o s0 (State.startOrReplay s c kind work) := by
  unfold State.startOrReplay
  split
  · refine Kept.iteR ?_ (fun _ => ?_)
    · with_reducible assumption
    · with_reducible refine kept_replayWork ?_ ?_
      · with_reducible assumption
      · intro _ _ _
        refine h_work _ _ ?_ _
        with_reducible assumption
  · with_reducible refine kept_startEng ?_ ?_
    · with_reducible assumption
    · intro _ _ _
      refine h_work _ _ ?_ _
      with_reducible assumption

end Sys2Proof.Laws
end

