-- ==== Sys2Proof/Laws/KeepsBlotter.lean ====
section
/-! SUPPORT. What each operation of Machine/Blotter.lean keeps, by the relation of Laws/Kept.lean. -/
namespace Sys2Proof.Laws
open Sys2Proof.Machine

theorem kept_bound {m o : Bool} {s0 s : State} {c bank : _} (h : Kept m o s0 s) :
    Kept m o s0 (State.bound s c bank) := by
  unfold State.bound
  split
  · with_reducible exact kept_mapJob ‹_›
  · with_reducible assumption

theorem kept_setStanding {m o : Bool} {s0 s : State} {desk x : _} (h : Kept m o s0 s) :
    Kept m o s0 (State.setStanding s desk x) := by
  unfold State.setStanding
  with_reducible exact kept_mapJob ‹_›

theorem kept_endStanding {m o : Bool} {s0 s : State} {desk d : _} (h : Kept m o s0 s) :
    Kept m o s0 (State.endStanding s desk d) := by
  unfold State.endStanding
  refine Kept.iteR ?_ (fun _ => ?_)
  · with_reducible assumption
  · with_reducible exact kept_setStanding ‹_›

theorem kept_strokeRows {o : Bool} {s0 s : State} {k a2 rows n : _} (h : Kept false o s0 s) :
    Kept false o s0 (State.strokeRows s k a2 rows n).1 := by
  unfold State.strokeRows
  with_reducible exact kept_readRows ‹_›

theorem kept_putRows {o : Bool} {s0 s : State} {a1 rows nf clamps : _} (h : Kept false o s0 s) :
    Kept false o s0 (State.putRows s a1 rows nf clamps).1 := by
  unfold State.putRows
  dsimp only
  with_reducible exact kept_gauge (kept_storeRows ‹_›)

theorem kept_strokeRun {m o : Bool} {s0 s : State} {desk f d bank empty work : _} (h : Kept m o s0 s) (h_work : ∀ t, Kept m
    o s0 t → ∀ x, Kept m o s0 (work t x).1) :
    Kept m o s0 (State.strokeRun s desk f d bank empty work).1 := by
  unfold State.strokeRun
  dsimp only
  split
  · dsimp only
    with_reducible exact kept_countAt (kept_endStanding ‹_›)
  · split
    · split
      · dsimp only
        with_reducible refine kept_countAt ?_
        with_reducible refine kept_endStanding ?_
        refine Kept.iteR ?_ (fun _ => ?_)
        · with_reducible assumption
        · with_reducible exact kept_countAt ‹_›
      · dsimp only
        with_reducible refine kept_countAt ?_
        refine h_work _ ?_ _
        refine Kept.iteR ?_ (fun _ => ?_)
        · with_reducible assumption
        · with_reducible exact kept_countAt ‹_›
    · split
      · dsimp only
        with_reducible refine kept_countAt ?_
        with_reducible refine kept_endStanding ?_
        refine Kept.iteR ?_ (fun _ => ?_)
        · with_reducible assumption
        · with_reducible exact kept_countAt ‹_›
      · dsimp only
        with_reducible refine kept_countAt ?_
        refine h_work _ ?_ _
        refine Kept.iteR ?_ (fun _ => ?_)
        · with_reducible assumption
        · with_reducible exact kept_countAt ‹_›

theorem kept_strokeBegin {m o : Bool} {s0 s : State} {c f d empty work : _} (h : Kept m o s0 s) (h_work : ∀ t, Kept m o s0
    t → ∀ x, Kept m o s0 (work t x).1) :
    Kept m o s0 (State.strokeBegin s c f d empty work) := by
  unfold State.strokeBegin
  dsimp only
  split
  · with_reducible exact kept_countAt (kept_setPhase ‹_›)
  · with_reducible refine kept_setPhase ?_
    with_reducible refine kept_strokeRun ?_ ?_
    · with_reducible exact kept_bound ‹_›
    · intro _ _ _
      refine h_work _ ?_ _
      with_reducible assumption

theorem kept_stroke {m o : Bool} {s0 s : State} {c kind empty work : _} (h : Kept m o s0 s) (h_work : ∀ t, Kept m o s0 t →
    ∀ x, Kept m o s0 (work t x).1) :
    Kept m o s0 (State.stroke s c kind empty work) := by
  unfold State.stroke
  dsimp only
  refine Kept.iteL ?_ (fun _ => ?_)
  · with_reducible assumption
  · split
    · with_reducible assumption
    · split
      · refine Kept.iteL ?_ (fun _ => ?_)
        · with_reducible assumption
        · split
          · with_reducible assumption
          · with_reducible refine kept_settle ?_
            with_reducible refine kept_setStanding ?_
            with_reducible refine kept_replayWork ?_ ?_
            · with_reducible exact kept_countAt (kept_setStanding (kept_bound ‹_›))
            · intro _ _ _
              with_reducible refine kept_strokeRun ?_ ?_
              · with_reducible assumption
              · intro _ _ _
                refine h_work _ ?_ _
                with_reducible assumption
      · split
        · with_reducible assumption
        · refine Kept.iteL ?_ (fun _ => ?_)
          · with_reducible assumption
          · with_reducible refine kept_settle ?_
            refine Kept.ite ?_ ?_
            · with_reducible exact kept_setPhase (kept_setEng (kept_acquire ‹_›))
            · with_reducible refine kept_strokeBegin ?_ ?_
              · with_reducible exact kept_countAt (kept_setEng (kept_acquire ‹_›))
              · intro _ _ _
                refine h_work _ ?_ _
                with_reducible assumption

theorem kept_unbind {m o : Bool} {s0 s : State} {c : _} (h : Kept m o s0 s) :
    Kept m o s0 (State.unbind s c) := by
  unfold State.unbind
  with_reducible exact kept_mapJob ‹_›

theorem kept_execNop {m o : Bool} {s0 s : State} {engine : _} (h : Kept m o s0 s) :
    OutKept m o s0 (execNop engine s) := by
  unfold execNop
  refine OutKept.next ?_
  split
  · with_reducible exact kept_replayNop ‹_›
  · with_reducible exact kept_nop ‹_›

theorem kept_execStrokeDone {o : Bool} {s0 s : State} {desk : _} (h : Kept false o s0 s) :
    OutKept false o s0 (execStrokeDone desk s) := by
  unfold execStrokeDone
  refine OutKept.next ?_
  refine Kept.iteL ?_ (fun _ => ?_)
  · with_reducible assumption
  · refine Kept.ite ?_ ?_
    · with_reducible exact kept_settle (kept_unbind (kept_replayDone ‹_›))
    · split
      · with_reducible exact kept_settle (kept_countAt (kept_unbind (kept_finishEng ‹_›)))
      · with_reducible assumption

end Sys2Proof.Laws
end

