-- ==== Sys2Proof/Laws/KeepsIntake.lean ====
section
/-! SUPPORT. What each operation of Machine/Intake.lean keeps, by the relation of Laws/Kept.lean. -/
namespace Sys2Proof.Laws
open Sys2Proof.Machine

theorem kept_headDist {m o : Bool} {s0 s : State} (h : Kept m o s0 s) :
    Kept m o s0 (State.headDist s) := by
  unfold State.headDist
  refine Kept.iteL ?_ (fun _ => ?_)
  · with_reducible assumption
  · with_reducible exact kept_put ‹_›

theorem kept_sendPause {m o : Bool} {s0 s : State} {quanta : _} (h : Kept m o s0 s) :
    Kept m o s0 (State.sendPause s quanta) := by
  unfold State.sendPause
  refine Kept.foldl ?_ (fun _ _ _ => ?_)
  · with_reducible assumption
  · refine Kept.iteR ?_ (fun _ => ?_)
    · with_reducible assumption
    · with_reducible exact kept_countAt (kept_send ‹_›)

theorem kept_endPause {m o : Bool} {s0 s : State} (h : Kept m o s0 s) :
    Kept m o s0 (State.endPause s) := by
  unfold State.endPause
  refine Kept.iteR ?_ (fun _ => ?_)
  · with_reducible assumption
  · with_reducible exact kept_sendPause (kept_put ‹_›)

theorem kept_mapIntake {m o : Bool} {s0 s : State} {f : _} (h : Kept m o s0 s) :
    Kept m o s0 (State.mapIntake s f) := by
  unfold State.mapIntake
  with_reducible refine Kept.upd2 ?_ rfl rfl rfl rfl
  with_reducible assumption

theorem kept_setRingFree {m o : Bool} {s0 s : State} {n : _} (h : Kept m o s0 s) :
    Kept m o s0 (State.setRingFree s n) := by
  unfold State.setRingFree
  with_reducible exact kept_endPause (kept_put (kept_mapIntake ‹_›))

theorem kept_noteFree {m o : Bool} {s0 s : State} (h : Kept m o s0 s) :
    Kept m o s0 (State.noteFree s) := by
  unfold State.noteFree
  with_reducible exact kept_setRingFree ‹_›

theorem kept_releaseSamples {m o : Bool} {s0 s : State} {p : _} (h : Kept m o s0 s) :
    Kept m o s0 (State.releaseSamples s p) := by
  unfold State.releaseSamples
  dsimp only
  with_reducible exact kept_setRingFree (kept_mapIntake ‹_›)

theorem kept_declare {m o : Bool} {s0 s : State} {port cause r : _} (h : Kept m o s0 s) :
    Kept m o s0 (State.declare s port cause r) := by
  unfold State.declare
  dsimp only
  with_reducible exact kept_raise (kept_countAt (kept_bump (kept_put (kept_releaseSamples (kept_mapIntake ‹_›)))))

theorem kept_intakeDrop {m o : Bool} {s0 s : State} {port : _} (h : Kept m o s0 s) :
    Kept m o s0 (State.intakeDrop s port) := by
  unfold State.intakeDrop
  with_reducible exact kept_countAt (kept_bump (kept_put ‹_›))

theorem kept_intakeFrame {m o : Bool} {s0 s : State} {port kind a3 payload work : _} (h : Kept m o s0 s) (h_work : ∀ t,
    Kept m o s0 t → Kept m o s0 (work t)) :
    Kept m o s0 (State.intakeFrame s port kind a3 payload work) := by
  unfold State.intakeFrame
  dsimp only
  refine Kept.iteL ?_ (fun _ => ?_)
  · with_reducible assumption
  · refine Kept.ite ?_ ?_
    · refine h_work _ ?_
      with_reducible exact kept_mapIntake (kept_countAt (kept_hostRx ‹_›))
    · with_reducible exact kept_intakeDrop (kept_countAt (kept_hostRx ‹_›))

theorem kept_logTake {o : Bool} {s0 s : State} {first taken skipped gaps : _} (h : Kept false o s0 s) :
    Kept false o s0 (State.logTake s first taken skipped gaps) := by
  unfold State.logTake
  dsimp only
  with_reducible exact kept_mapIntake (kept_put (kept_lineWrite ‹_›))

theorem kept_noteRtt {m o : Bool} {s0 s : State} (h : Kept m o s0 s) :
    Kept m o s0 (State.noteRtt s) := by
  unfold State.noteRtt
  dsimp only
  with_reducible exact kept_put (kept_put (kept_put (kept_put ‹_›)))

theorem kept_writeFragment {o : Bool} {s0 s : State} {x frag payload : _} (h : Kept false o s0 s) :
    Kept false o s0 (State.writeFragment s x frag payload) := by
  unfold State.writeFragment
  refine Kept.foldl ?_ (fun _ _ _ => ?_)
  · with_reducible assumption
  · with_reducible exact kept_lineWrite ‹_›

theorem kept_placeFragment {o : Bool} {s0 s : State} {x a2 payload : _} (h : Kept false o s0 s) :
    Kept false o s0 (State.placeFragment s x a2 payload) := by
  unfold State.placeFragment
  with_reducible exact kept_mapIntake (kept_writeFragment ‹_›)

theorem kept_readSample {o : Bool} {s0 s : State} {x : _} (h : Kept false o s0 s) :
    Kept false o s0 (State.readSample s x).1 := by
  unfold State.readSample
  dsimp only
  with_reducible exact kept_takeLines ‹_›

theorem kept_setNext {m o : Bool} {s0 s : State} {n : _} (h : Kept m o s0 s) :
    Kept m o s0 (State.setNext s n) := by
  unfold State.setNext
  dsimp only
  with_reducible exact kept_mapIntake (kept_put2 ‹_›)

theorem kept_takeFragment {o : Bool} {s0 s : State} {port a2 payload : _} (h : Kept false o s0 s) :
    Kept false o s0 (State.takeFragment s port a2 payload) := by
  unfold State.takeFragment
  dsimp only
  split
  · refine Kept.ite ?_ ?_
    · with_reducible exact kept_intakeDrop ‹_›
    · with_reducible exact kept_placeFragment ‹_›
  · refine Kept.ite ?_ ?_
    · with_reducible exact kept_intakeDrop ‹_›
    · refine Kept.ite ?_ ?_
      · with_reducible exact kept_declare ‹_›
      · refine Kept.ite ?_ ?_
        · with_reducible exact kept_declare ‹_›
        · with_reducible exact kept_placeFragment (kept_setRingFree (kept_mapIntake ‹_›))

theorem kept_takeGap {m o : Bool} {s0 s : State} {port a2 : _} (h : Kept m o s0 s) :
    Kept m o s0 (State.takeGap s port a2) := by
  unfold State.takeGap
  dsimp only
  refine Kept.ite ?_ ?_
  · with_reducible exact kept_intakeDrop ‹_›
  · refine Kept.foldl ?_ (fun _ _ _ => ?_)
    · with_reducible assumption
    · with_reducible exact kept_declare ‹_›

theorem kept_execFragment {o : Bool} {s0 s : State} {port _prio a2 payload : _} (h : Kept false o s0 s) :
    OutKept false o s0 (execFragment port _prio a2 payload s) := by
  unfold execFragment
  refine OutKept.next ?_
  with_reducible refine kept_intakeFrame ?_ ?_
  · with_reducible assumption
  · intro _ _
    with_reducible exact kept_takeFragment ‹_›

theorem kept_execGap {m o : Bool} {s0 s : State} {port _prio a2 payload : _} (h : Kept m o s0 s) :
    OutKept m o s0 (execGap port _prio a2 payload s) := by
  unfold execGap
  refine OutKept.next ?_
  with_reducible refine kept_intakeFrame ?_ ?_
  · with_reducible assumption
  · intro _ _
    with_reducible exact kept_takeGap ‹_›

theorem kept_execIntakePause {m o : Bool} {s0 s : State} (h : Kept m o s0 s) :
    OutKept m o s0 (execIntakePause s) := by
  unfold execIntakePause
  refine OutKept.next ?_
  refine Kept.iteL ?_ (fun _ => ?_)
  · with_reducible assumption
  · refine Kept.ite ?_ ?_
    · refine Kept.ite ?_ ?_
      · with_reducible exact kept_endPause ‹_›
      · refine Kept.iteR ?_ (fun _ => ?_)
        · with_reducible assumption
        · with_reducible exact kept_mapIntake (kept_sendPause ‹_›)
    · refine Kept.iteR ?_ (fun _ => ?_)
      · with_reducible assumption
      · with_reducible exact kept_mapIntake (kept_sendPause (kept_count (kept_put ‹_›)))

theorem kept_execIntakeRttSample {m o : Bool} {s0 s : State} {port lastFrameNs : _} (h : Kept m o s0 s) :
    OutKept m o s0 (execIntakeRttSample port lastFrameNs s) := by
  unfold execIntakeRttSample
  dsimp only
  refine OutKept.next ?_
  split
  · refine Kept.iteL ?_ (fun _ => ?_)
    · with_reducible assumption
    · with_reducible exact kept_noteRtt (kept_mapIntake (kept_countAt ‹_›))
  · with_reducible assumption

theorem kept_execIntakeThreshMove {m o : Bool} {s0 s : State} (h : Kept m o s0 s) :
    OutKept m o s0 (execIntakeThreshMove s) := by
  unfold execIntakeThreshMove
  dsimp only
  refine OutKept.next ?_
  refine Kept.iteL ?_ (fun _ => ?_)
  · refine Kept.iteR ?_ (fun _ => ?_)
    · with_reducible assumption
    · with_reducible exact kept_noteRtt ‹_›
  · refine Kept.iteL ?_ (fun _ => ?_)
    · with_reducible assumption
    · with_reducible exact kept_endPause (kept_count (kept_put ‹_›))

end Sys2Proof.Laws
end

