-- ==== Sys2Proof/Laws/KeepsFirmware.lean ====
section
/-! SUPPORT. What each operation of Machine/Firmware.lean keeps, by the relation of Laws/Kept.lean. -/
namespace Sys2Proof.Laws
open Sys2Proof.Machine

theorem kept_mapEsc {m o : Bool} {s0 s : State} {f : _} (h : Kept m o s0 s) :
    Kept m o s0 (State.mapEsc s f) := by
  unfold State.mapEsc
  with_reducible refine Kept.upd2 ?_ rfl rfl rfl rfl
  with_reducible assumption

theorem kept_runImage {m o : Bool} {s0 s : State} {i trial w : _} (h : Kept m o s0 s) :
    Kept m o s0 (State.runImage s i trial w) := by
  unfold State.runImage
  dsimp only
  with_reducible exact kept_put (kept_put (kept_put (kept_mapEsc ‹_›)))

theorem kept_bootActive {m o : Bool} {s0 s : State} (h : Kept m o s0 s) :
    Kept m o s0 (State.bootActive s) := by
  unfold State.bootActive
  dsimp only
  split
  · with_reducible exact kept_runImage ‹_›
  · split
    · with_reducible exact kept_runImage ‹_›
    · with_reducible exact kept_mapEsc ‹_›

theorem kept_bootId {m o : Bool} {s0 s : State} (h : Kept m o s0 s) :
    Kept m o s0 (State.bootId s) := by
  unfold State.bootId
  dsimp only
  split
  · with_reducible refine kept_put ?_
    split
    · refine kept_mapFlash ?_ (fun _ => ⟨le_refl _, le_refl _, fun _ => rfl⟩)
      with_reducible assumption
    · with_reducible assumption
  · split
    · with_reducible refine kept_put ?_
      refine kept_mapFlash ?_ (fun _ => ⟨le_refl _, le_refl _, fun _ => rfl⟩)
      split
      · refine kept_mapFlash ?_ (fun _ => ⟨le_refl _, le_refl _, fun _ => rfl⟩)
        with_reducible assumption
      · with_reducible assumption
    · with_reducible refine kept_put ?_
      split
      · refine kept_mapFlash ?_ (fun _ => ⟨le_refl _, le_refl _, fun _ => rfl⟩)
        with_reducible assumption
      · with_reducible assumption

theorem kept_logPower {m o : Bool} {s0 s : State} {r : _} (h : Kept m o s0 s) :
    Kept m o s0 (State.logPower s r) := by
  unfold State.logPower
  refine kept_mapFlash ?_ (fun _ => ⟨le_refl _, le_refl _, fun _ => rfl⟩)
  with_reducible assumption

theorem kept_bootRom {m o : Bool} {s0 s : State} (h : Kept m o s0 s) :
    Kept m o s0 (State.bootRom s) := by
  unfold State.bootRom
  refine Kept.ite ?_ ?_
  · split
    · refine Kept.ite ?_ ?_
      · with_reducible refine kept_runImage ?_
        refine kept_mapFlash ?_ (fun _ => ⟨le_refl _, le_refl _, fun _ => rfl⟩)
        with_reducible assumption
      · with_reducible refine kept_bootActive ?_
        with_reducible refine kept_logPower ?_
        refine kept_mapFlash ?_ (fun _ => ⟨le_refl _, le_refl _, fun _ => rfl⟩)
        with_reducible assumption
    · with_reducible refine kept_bootActive ?_
      with_reducible refine kept_logPower ?_
      refine kept_mapFlash ?_ (fun _ => ⟨le_refl _, le_refl _, fun _ => rfl⟩)
      with_reducible assumption
  · with_reducible exact kept_bootActive ‹_›

theorem kept_notePresence {m o : Bool} {s0 s : State} (h : Kept m o s0 s) :
    Kept m o s0 (State.notePresence s) := by
  unfold State.notePresence
  with_reducible exact kept_put (kept_put ‹_›)

theorem kept_raisePresence {m o : Bool} {s0 s : State} {st : _} (h : Kept m o s0 s) :
    Kept m o s0 (State.raisePresence s st) := by
  unfold State.raisePresence
  dsimp only
  with_reducible refine kept_raise ?_
  refine Kept.iteL ?_ (fun _ => ?_)
  · with_reducible exact kept_notePresence ‹_›
  · with_reducible exact kept_count ‹_›

theorem kept_closeWindow {m o : Bool} {s0 s : State} (h : Kept m o s0 s) :
    Kept m o s0 (State.closeWindow s) := by
  unfold State.closeWindow
  refine Kept.iteR ?_ (fun _ => ?_)
  · with_reducible assumption
  · with_reducible exact kept_raisePresence (kept_mapEsc ‹_›)

theorem kept_newIdentity {m o : Bool} {s0 s : State} (h : Kept m o s0 s) :
    Kept m o s0 (State.newIdentity s).1 := by
  unfold State.newIdentity
  dsimp only
  with_reducible refine Kept.upd3 ?_ ?_ ?_ ?_ ?_ ?_ ?_ ?_ ?_ ?_
  · with_reducible assumption
  · exact Nat.le_add_right _ _
  · with_reducible exact fun h => h
  · with_reducible exact fun h => h
  · with_reducible exact fun _ => rfl
  · with_reducible exact fun h => h
  · with_reducible exact fun h => h
  · exact le_refl _
  · exact le_refl _
  · with_reducible exact fun _ => rfl

theorem kept_commission {m o : Bool} {s0 s : State} {ohms : _} (h : Kept m o s0 s) :
    Kept m o s0 (State.commission s ohms) := by
  unfold State.commission
  dsimp only
  with_reducible refine kept_bootId ?_
  refine kept_mapFlash ?_ (fun _ => ⟨le_refl _, le_refl _, fun _ => rfl⟩)
  with_reducible refine kept_newIdentity ?_
  with_reducible refine Kept.upd3 ?_ ?_ ?_ ?_ ?_ ?_ ?_ ?_ ?_ ?_
  · with_reducible assumption
  · exact Nat.le_add_right _ _
  · with_reducible exact fun h => h
  · with_reducible exact fun h => h
  · with_reducible exact fun _ => rfl
  · with_reducible exact fun h => h
  · with_reducible exact fun h => h
  · exact le_refl _
  · exact le_refl _
  · with_reducible exact fun _ => rfl

theorem kept_setSlot {m o : Bool} {s0 s : State} {i w : _} (h : Kept m o s0 s) :
    Kept m o s0 (State.setSlot s i w) := by
  unfold State.setSlot
  dsimp only
  refine Kept.ite ?_ ?_
  · with_reducible refine Kept.upd2 ?_ rfl rfl rfl rfl
    with_reducible assumption
  · with_reducible refine Kept.upd2 ?_ rfl rfl rfl rfl
    with_reducible assumption

theorem kept_noteLoop {m o : Bool} {s0 s : State} {ohms : _} (h : Kept m o s0 s) :
    Kept m o s0 (State.noteLoop s ohms) := by
  unfold State.noteLoop
  with_reducible exact kept_put (kept_mapEsc ‹_›)

theorem kept_sealRecord {m o : Bool} {s0 s : State} {kind ohms : _} (h : Kept m o s0 s) :
    Kept m o s0 (State.sealRecord s kind ohms) := by
  unfold State.sealRecord
  refine kept_mapFlash h (fun _ => ?_)
  dsimp only
  split
  · exact ⟨le_refl _, le_refl _, fun _ => rfl⟩
  · split <;> exact ⟨le_refl _, le_refl _, fun _ => rfl⟩

theorem kept_sealBreakNow {m o : Bool} {s0 s : State} {kind ohms : _} (h : Kept m o s0 s) :
    Kept m o s0 (State.sealBreakNow s kind ohms) := by
  unfold State.sealBreakNow
  dsimp only
  refine Kept.iteL ?_ (fun _ => ?_)
  · with_reducible assumption
  · with_reducible refine kept_raise ?_
    with_reducible refine kept_alert ?_
    with_reducible refine kept_put ?_
    refine kept_mapFlash ?_ (fun _ => ⟨le_refl _, le_refl _, fun _ => rfl⟩)
    with_reducible exact kept_sealRecord ‹_›

theorem kept_trialReady {m o : Bool} {s0 s : State} (h : Kept m o s0 s) :
    Kept m o s0 (State.trialReady s) := by
  unfold State.trialReady
  refine Kept.iteR h (fun _ => ?_)
  split
  · exact kept_mapEsc (kept_mapFlash h (fun _ => ⟨le_max_left _ _, le_max_left _ _, fun _ => rfl⟩))
  · exact h

end Sys2Proof.Laws
end

