-- ==== Sys2Proof/Laws/KeepsLinks.lean ====
section
/-! SUPPORT. What each operation of Machine/Links.lean keeps, by the relation of Laws/Kept.lean. -/
namespace Sys2Proof.Laws
open Sys2Proof.Machine

theorem kept_quillCheck {o : Bool} {s0 s : State} {list : _} (h : Kept false o s0 s) :
    Kept false o s0 (State.quillCheck s list) := by
  unfold State.quillCheck
  dsimp only
  split
  · refine Kept.iteR ?_ (fun _ => ?_)
    · with_reducible assumption
    · with_reducible exact kept_finishEng ‹_›
  · with_reducible assumption

theorem kept_reportStep {m o : Bool} {s0 s : State} {step : _} (h : Kept m o s0 s) :
    Kept m o s0 (State.reportStep s step) := by
  unfold State.reportStep
  split
  · with_reducible refine kept_raiseStepTo ?_
    refine Kept.iteR ?_ (fun _ => ?_)
    · with_reducible assumption
    · with_reducible exact kept_raiseStepTo ‹_›
  · with_reducible assumption

theorem kept_reportSteps {m o : Bool} {s0 s : State} (h : Kept m o s0 s) :
    Kept m o s0 (State.reportSteps s) := by
  unfold State.reportSteps
  dsimp only
  refine Kept.foldl ?_ (fun _ _ _ => ?_)
  · with_reducible exact kept_mapRun ‹_›
  · with_reducible exact kept_reportStep ‹_›

theorem kept_quillChecks {o : Bool} {s0 s : State} (h : Kept false o s0 s) :
    Kept false o s0 (State.quillChecks s) := by
  unfold State.quillChecks
  with_reducible refine kept_reportSteps ?_
  refine Kept.foldl ?_ (fun _ _ _ => ?_)
  · with_reducible assumption
  · with_reducible exact kept_quillCheck ‹_›

theorem kept_acked {o : Bool} {s0 s : State} {c covers : _} (h : Kept false o s0 s) :
    Kept false o s0 (State.acked s c covers) := by
  unfold State.acked
  dsimp only
  refine Kept.iteL ?_ (fun _ => ?_)
  · with_reducible assumption
  · with_reducible exact kept_quillChecks (kept_noteRetry (kept_pumpPort (kept_noteRetry (kept_onPort (kept_setChan ‹_›)))))

theorem kept_raiseLink {m o : Bool} {s0 s : State} {port kind : _} (h : Kept m o s0 s) :
    Kept m o s0 (State.raiseLink s port kind) := by
  unfold State.raiseLink
  with_reducible exact kept_alert (kept_raise ‹_›)

theorem kept_closeChans {m o : Bool} {s0 s : State} {p : _} (h : Kept m o s0 s) :
    Kept m o s0 (State.closeChans s p) := by
  unfold State.closeChans
  with_reducible exact kept_noteChans (kept_mapQuill ‹_›)

theorem kept_noteBundle {m o : Bool} {s0 s : State} {p : _} (h : Kept m o s0 s) :
    Kept m o s0 (State.noteBundle s p) := by
  unfold State.noteBundle
  dsimp only
  with_reducible exact kept_put ‹_›

theorem kept_linkDown {m o : Bool} {s0 s : State} {p : _} (h : Kept m o s0 s) :
    Kept m o s0 (State.linkDown s p) := by
  unfold State.linkDown
  with_reducible exact kept_noteBundle (kept_put (kept_put (kept_put (kept_put ‹_›))))

theorem kept_sendCtrl {m o : Bool} {s0 s : State} {p kind role mac data : _} (h : Kept m o s0 s) :
    Kept m o s0 (State.sendCtrl s p kind role mac data) := by
  unfold State.sendCtrl
  dsimp only
  with_reducible exact kept_sendPort ‹_›

theorem kept_sendHandover {m o : Bool} {s0 s : State} {c port : _} (h : Kept m o s0 s) :
    Kept m o s0 (State.sendHandover s c port) := by
  unfold State.sendHandover
  with_reducible exact kept_sendCtrl ‹_›

theorem kept_portLoss {o : Bool} {s0 s : State} {p : _} (h : Kept false o s0 s) :
    Kept false o s0 (State.portLoss s p) := by
  unfold State.portLoss
  dsimp only
  refine Kept.iteL ?_ (fun _ => ?_)
  · with_reducible assumption
  · split
    · refine Kept.foldl ?_ (fun _ _ _ => ?_)
      · with_reducible exact kept_put (kept_onPort (kept_countAt (kept_noteRetry (kept_closeChans (kept_linkDown ‹_›)))))
      · with_reducible exact kept_mapQuill (kept_sendHandover ‹_›)
    · refine Kept.iteR ?_ (fun _ => ?_)
      · with_reducible exact kept_raiseLink (kept_put (kept_mapQuill (kept_onPort (kept_countAt (kept_noteRetry
          (kept_closeChans (kept_linkDown ‹_›)))))))
      · with_reducible exact kept_voidNow ‹_›

theorem kept_freeFrame {m o : Bool} {s0 s : State} {fr : _} (h : Kept m o s0 s) :
    Kept m o s0 (State.freeFrame s fr) := by
  unfold State.freeFrame
  refine Kept.iteL ?_ (fun _ => ?_)
  · with_reducible assumption
  · with_reducible exact kept_freeSlots ‹_›

theorem kept_farDown {m o : Bool} {s0 s : State} {port peer : _} (h : Kept m o s0 s) :
    Kept m o s0 (State.farDown s port peer) := by
  unfold State.farDown
  dsimp only
  split
  · with_reducible exact kept_mapQuill (kept_sendHandover (kept_noteChans (kept_mapQuill ‹_›)))
  · with_reducible assumption

theorem kept_putChan {m o : Bool} {s0 s : State} {c : _} (h : Kept m o s0 s) :
    Kept m o s0 (State.putChan s c) := by
  unfold State.putChan
  with_reducible exact kept_noteChans (kept_mapQuill ‹_›)

theorem kept_sendHello {m o : Bool} {s0 s : State} {p role mac : _} (h : Kept m o s0 s) :
    Kept m o s0 (State.sendHello s p role mac) := by
  unfold State.sendHello
  with_reducible exact kept_sendCtrl ‹_›

theorem kept_greet {m o : Bool} {s0 s : State} {p r : _} (h : Kept m o s0 s) :
    Kept m o s0 (State.greet s p r) := by
  unfold State.greet
  dsimp only
  with_reducible refine kept_sendHello ?_
  split
  · refine Kept.ite ?_ ?_
    · with_reducible exact kept_setChan ‹_›
    · with_reducible exact kept_putChan ‹_›
  · refine Kept.iteR ?_ (fun _ => ?_)
    · with_reducible assumption
    · with_reducible exact kept_putChan ‹_›

theorem kept_handOn {m o : Bool} {s0 s : State} {port peer f : _} (h : Kept m o s0 s) :
    Kept m o s0 (State.handOn s port peer f) := by
  unfold State.handOn
  dsimp only
  split
  · with_reducible exact kept_offer (kept_countAt (kept_pickPort ‹_›))
  · with_reducible exact kept_pickPort ‹_›

theorem kept_hearHello {m o : Bool} {s0 s : State} {p role peerPort mac c0 c1 : _} (h : Kept m o s0 s) :
    Kept m o s0 (State.hearHello s p role peerPort mac c0 c1) := by
  unfold State.hearHello
  dsimp only
  refine Kept.ite ?_ ?_
  · with_reducible exact kept_put (kept_onPort (kept_closeChans (kept_linkDown (kept_put (kept_put ‹_›)))))
  · split
    · refine Kept.ite ?_ ?_
      · with_reducible exact kept_putChan (kept_put (kept_put (kept_put (kept_put (kept_onPort ‹_›)))))
      · with_reducible exact kept_pumpChan (kept_setChan (kept_put (kept_put (kept_put (kept_put (kept_onPort ‹_›))))))
    · refine Kept.iteR ?_ (fun _ => ?_)
      · with_reducible exact kept_put (kept_put (kept_put (kept_put (kept_onPort ‹_›))))
      · with_reducible exact kept_putChan ‹_›

theorem kept_noteCode {m o : Bool} {s0 s : State} {fr : _} (h : Kept m o s0 s) :
    Kept m o s0 (State.noteCode s fr) := by
  unfold State.noteCode
  dsimp only
  refine Kept.iteL ?_ (fun _ => ?_)
  · refine Kept.iteL ?_ (fun _ => ?_)
    · refine Kept.iteL ?_ (fun _ => ?_)
      · with_reducible assumption
      · with_reducible exact kept_countAt (kept_bump ‹_›)
    · with_reducible exact kept_countAt (kept_bump ‹_›)
  · with_reducible exact kept_countAt ‹_›

theorem kept_openRx {m o : Bool} {s0 s : State} {fr : _} (h : Kept m o s0 s) :
    Kept m o s0 (State.openRx s fr) := by
  unfold State.openRx
  refine Kept.iteR ?_ (fun _ => ?_)
  · with_reducible assumption
  · with_reducible exact kept_openGroup ‹_›

theorem kept_linkRx {o : Bool} {s0 s : State} {fr : _} (h : Kept false o s0 s) :
    Kept false o s0 (State.linkRx s fr).1 := by
  unfold State.linkRx
  dsimp only
  split
  · dsimp only
    with_reducible assumption
  · split
    · dsimp only
      with_reducible exact kept_openRx (kept_noteCode ‹_›)
    · split
      · split
        · dsimp only
          refine Kept.iteR ?_ (fun _ => ?_)
          · with_reducible exact kept_acked (kept_countAt (kept_countAt (kept_setChan (kept_openRx (kept_noteCode ‹_›)))))
          · with_reducible exact kept_sendAck ‹_›
        · dsimp only
          with_reducible exact kept_acked (kept_countAt (kept_countAt (kept_setChan (kept_openRx (kept_noteCode ‹_›)))))
      · split
        · dsimp only
          with_reducible exact kept_openRx (kept_noteCode ‹_›)
        · dsimp only
          with_reducible exact kept_sendAck (kept_openRx (kept_noteCode ‹_›))

theorem kept_linkUp {m o : Bool} {s0 s : State} {p speed high : _} (h : Kept m o s0 s) :
    Kept m o s0 (State.linkUp s p speed high) := by
  unfold State.linkUp
  with_reducible exact kept_noteBundle (kept_put (kept_put (kept_put ‹_›)))

theorem kept_openSwitched {m o : Bool} {s0 s : State} (h : Kept m o s0 s) :
    Kept m o s0 (State.openSwitched s) := by
  unfold State.openSwitched
  refine Kept.iteR ?_ (fun _ => ?_)
  · with_reducible assumption
  · refine Kept.foldl ?_ (fun _ _ _ => ?_)
    · with_reducible assumption
    · refine Kept.iteR ?_ (fun _ => ?_)
      · with_reducible assumption
      · refine Kept.foldl ?_ (fun _ _ _ => ?_)
        · with_reducible assumption
        · with_reducible exact kept_greet ‹_›

theorem kept_receive {o : Bool} {s0 s : State} {a1 fr handle : _} (h : Kept false o s0 s) (h_handle : ∀ t, Kept false o s0
    t → Kept false o s0 (handle t).1) :
    Kept false o s0 (State.receive s a1 fr handle) := by
  unfold State.receive
  dsimp only
  refine Kept.iteL ?_ (fun _ => ?_)
  · with_reducible exact kept_linkRx ‹_›
  · refine Kept.ite ?_ ?_
    · with_reducible exact kept_freeSlots (kept_put ‹_›)
    · refine Kept.iteL ?_ (fun _ => ?_)
      · refine h_handle _ ?_
        with_reducible assumption
      · with_reducible exact kept_freeFrame ‹_›

theorem kept_startRetrain {m o : Bool} {s0 s : State} {p : _} (h : Kept m o s0 s) :
    Kept m o s0 (State.startRetrain s p) := by
  unfold State.startRetrain
  dsimp only
  with_reducible exact kept_onPort (kept_countAt (kept_noteBundle (kept_put (kept_put (kept_put ‹_›)))))

theorem kept_resend {m o : Bool} {s0 s : State} {c : _} (h : Kept m o s0 s) :
    Kept m o s0 (State.resend s c) := by
  unfold State.resend
  dsimp only
  refine Kept.iteR ?_ (fun _ => ?_)
  · with_reducible refine kept_onPort ?_
    with_reducible refine kept_setChan ?_
    refine Kept.foldl ?_ (fun _ _ _ => ?_)
    · with_reducible exact kept_countAt ‹_›
    · with_reducible exact kept_bump (kept_countAt (kept_sendPort ‹_›))
  · with_reducible exact kept_startRetrain ‹_›

theorem kept_resumeChan {m o : Bool} {s0 s : State} {p peer : _} (h : Kept m o s0 s) :
    Kept m o s0 (State.resumeChan s p peer) := by
  unfold State.resumeChan
  split
  · with_reducible exact kept_pumpChan (kept_resend ‹_›)
  · with_reducible assumption

theorem kept_takeAck {o : Bool} {s0 s : State} {c a2 : _} (h : Kept false o s0 s) :
    Kept false o s0 (State.takeAck s c a2) := by
  unfold State.takeAck
  dsimp only
  refine Kept.ite ?_ ?_
  · with_reducible exact kept_acked (kept_setChan ‹_›)
  · with_reducible exact kept_acked (kept_setChan ‹_›)

theorem kept_execAck {o : Bool} {s0 s : State} {frame : _} (h : Kept false o s0 s) :
    OutKept false o s0 (execAck frame s) := by
  unfold execAck
  dsimp only
  refine OutKept.next ?_
  refine Kept.iteL ?_ (fun _ => ?_)
  · with_reducible assumption
  · refine Kept.iteL ?_ (fun _ => ?_)
    · with_reducible exact kept_noteCode ‹_›
    · refine Kept.ite ?_ ?_
      · with_reducible exact kept_put ‹_›
      · split
        · with_reducible assumption
        · with_reducible refine kept_pumpPort ?_
          refine Kept.iteR ?_ (fun _ => ?_)
          · with_reducible exact kept_takeAck ‹_›
          · split
            · refine Kept.iteL ?_ (fun _ => ?_)
              · with_reducible assumption
              · with_reducible exact kept_resend ‹_›
            · with_reducible assumption

theorem kept_execAckSend {m o : Bool} {s0 s : State} {port peer : _} (h : Kept m o s0 s) :
    OutKept m o s0 (execAckSend port peer s) := by
  unfold execAckSend
  refine OutKept.next ?_
  split
  · split
    · refine Kept.iteR ?_ (fun _ => ?_)
      · with_reducible assumption
      · with_reducible exact kept_sendAck ‹_›
    · with_reducible assumption
  · with_reducible assumption

theorem kept_execAckTimeout {m o : Bool} {s0 s : State} {port peer : _} (h : Kept m o s0 s) :
    OutKept m o s0 (execAckTimeout port peer s) := by
  unfold execAckTimeout
  dsimp only
  refine OutKept.next ?_
  split
  · split
    · refine Kept.iteR ?_ (fun _ => ?_)
      · with_reducible assumption
      · with_reducible exact kept_resend ‹_›
    · with_reducible assumption
  · with_reducible assumption

theorem kept_execBadFrame {o : Bool} {s0 s : State} {frame ethertypeOk qtype : _} (h : Kept false o s0 s) :
    OutKept false o s0 (execBadFrame frame ethertypeOk qtype s) := by
  unfold execBadFrame
  dsimp only
  refine OutKept.next ?_
  refine Kept.iteL ?_ (fun _ => ?_)
  · with_reducible assumption
  · refine Kept.ite ?_ ?_
    · with_reducible exact kept_put ‹_›
    · refine Kept.iteL ?_ (fun _ => ?_)
      · with_reducible assumption
      · refine Kept.ite ?_ ?_
        · refine Kept.iteR ?_ (fun _ => ?_)
          · with_reducible exact kept_noteCode ‹_›
          · with_reducible exact kept_put ‹_›
        · with_reducible refine kept_receive ?_ ?_
          · with_reducible assumption
          · intro _ _
            dsimp only
            with_reducible assumption

theorem kept_execHandover {o : Bool} {s0 s : State} {dead lastLseq : _} (h : Kept false o s0 s) :
    OutKept false o s0 (execHandover dead lastLseq s) := by
  unfold execHandover
  dsimp only
  refine OutKept.next ?_
  with_reducible refine kept_quillChecks ?_
  refine Kept.foldl ?_ (fun _ _ _ => ?_)
  · with_reducible refine kept_mapQuill ?_
    refine Kept.iteR ?_ (fun _ => ?_)
    · with_reducible assumption
    · with_reducible exact kept_farDown ‹_›
  · refine Kept.foldl ?_ (fun _ _ _ => ?_)
    · with_reducible assumption
    · with_reducible exact kept_handOn ‹_›

theorem kept_execPfcFrame {m o : Bool} {s0 s : State} {port prio quanta : _} (h : Kept m o s0 s) :
    OutKept m o s0 (execPfcFrame port prio quanta s) := by
  unfold execPfcFrame
  dsimp only
  refine OutKept.next ?_
  refine Kept.iteL ?_ (fun _ => ?_)
  · with_reducible assumption
  · refine Kept.ite ?_ ?_
    · with_reducible exact kept_put ‹_›
    · refine Kept.iteL ?_ (fun _ => ?_)
      · with_reducible assumption
      · refine Kept.ite ?_ ?_
        · with_reducible exact kept_releasePort (kept_onPort ‹_›)
        · refine Kept.iteL ?_ (fun _ => ?_)
          · with_reducible exact kept_onPort ‹_›
          · with_reducible exact kept_countAt ‹_›

theorem kept_execPortTrain {m o : Bool} {s0 s : State} {port lanes : _} (h : Kept m o s0 s) :
    OutKept m o s0 (execPortTrain port lanes s) := by
  unfold execPortTrain
  dsimp only
  refine OutKept.next ?_
  refine Kept.iteR ?_ (fun _ => ?_)
  · with_reducible assumption
  · split
    · with_reducible refine kept_sendHello ?_
      refine Kept.iteR ?_ (fun _ => ?_)
      · with_reducible exact kept_onPort (kept_linkUp ‹_›)
      · with_reducible exact kept_countAt ‹_›
    · with_reducible assumption

theorem kept_execQEqAdapt {m o : Bool} {s0 s : State} {port margin lane : _} (h : Kept m o s0 s) :
    OutKept m o s0 (execQEqAdapt port margin lane s) := by
  unfold execQEqAdapt
  dsimp only
  refine OutKept.next ?_
  refine Kept.iteR ?_ (fun _ => ?_)
  · with_reducible assumption
  · refine Kept.iteR ?_ (fun _ => ?_)
    · with_reducible exact kept_onPort (kept_sendCtrl (kept_countAt (kept_put (kept_put ‹_›))))
    · with_reducible exact kept_startRetrain ‹_›

theorem kept_execQHello {m o : Bool} {s0 s : State} {port role peerPort mac credits0 credits1 : _} (h : Kept m o s0 s) :
    OutKept m o s0 (execQHello port role peerPort mac credits0 credits1 s) := by
  unfold execQHello
  refine OutKept.next ?_
  refine Kept.iteR ?_ (fun _ => ?_)
  · with_reducible assumption
  · with_reducible exact kept_hearHello ‹_›

theorem kept_execQLinkDown {o : Bool} {s0 s : State} {port lanes : _} (h : Kept false o s0 s) :
    OutKept false o s0 (execQLinkDown port lanes s) := by
  unfold execQLinkDown
  dsimp only
  refine OutKept.next ?_
  refine Kept.iteR ?_ (fun _ => ?_)
  · with_reducible assumption
  · with_reducible exact kept_portLoss ‹_›

theorem kept_execQRetrain {o : Bool} {s0 s : State} {port lanes alignmentLost : _} (h : Kept false o s0 s) :
    OutKept false o s0 (execQRetrain port lanes alignmentLost s) := by
  unfold execQRetrain
  dsimp only
  refine OutKept.next ?_
  split
  · split
    · refine Kept.foldl ?_ (fun _ _ _ => ?_)
      · with_reducible refine kept_releasePort ?_
        refine Kept.iteR ?_ (fun _ => ?_)
        · with_reducible refine kept_onPort ?_
          with_reducible refine kept_linkUp ?_
          refine Kept.iteR ?_ (fun _ => ?_)
          · with_reducible assumption
          · with_reducible exact kept_startRetrain ‹_›
        · with_reducible exact kept_countAt (kept_countAt (kept_put ‹_›))
      · with_reducible exact kept_resumeChan ‹_›
    · with_reducible refine kept_portLoss ?_
      refine Kept.iteR ?_ (fun _ => ?_)
      · with_reducible assumption
      · with_reducible exact kept_startRetrain ‹_›
  · refine Kept.iteR ?_ (fun _ => ?_)
    · with_reducible assumption
    · with_reducible exact kept_startRetrain ‹_›

end Sys2Proof.Laws
end

