-- ==== Sys2Proof/Laws/KeepsPower.lean ====
section
/-! SUPPORT. What each operation of Machine/Power.lean keeps, by the relation of Laws/Kept.lean. -/
namespace Sys2Proof.Laws
open Sys2Proof.Machine

theorem kept_abandonEvac {o : Bool} {s0 s : State} {c : _} (h : Kept false o s0 s) :
    Kept false o s0 (State.abandonEvac s c) := by
  unfold State.abandonEvac
  dsimp only
  refine Kept.foldl ?_ (fun _ _ _ => ?_)
  · with_reducible refine Kept.upd3 ?_ ?_ ?_ ?_ ?_ ?_ ?_ ?_ ?_ ?_
    · with_reducible exact kept_setCab ‹_›
    · exact le_refl _
    · with_reducible exact fun h => h
    · with_reducible exact fun h => wf_some h
    · exact fun h => absurd h Bool.false_ne_true
    · with_reducible exact fun h => h
    · with_reducible exact fun h => h
    · exact le_refl _
    · exact le_refl _
    · with_reducible exact fun _ => rfl
  · refine Kept.ite ?_ ?_
    · with_reducible exact kept_setDstate ‹_›
    · refine Kept.iteR ?_ (fun _ => ?_)
      · with_reducible assumption
      · with_reducible exact kept_setDstate ‹_›

theorem kept_abandonEvacs {o : Bool} {s0 s : State} (h : Kept false o s0 s) :
    Kept false o s0 (State.abandonEvacs s) := by
  unfold State.abandonEvacs
  refine Kept.foldl ?_ (fun _ _ _ => ?_)
  · with_reducible assumption
  · with_reducible exact kept_abandonEvac ‹_›

theorem kept_abortJob {o : Bool} {s0 s : State} (h : Kept false o s0 s) :
    Kept false o s0 (State.abortJob s) := by
  unfold State.abortJob
  refine Kept.iteR ?_ (fun _ => ?_)
  · with_reducible assumption
  · with_reducible exact kept_voidNow ‹_›

theorem kept_dropDeferred {m o : Bool} {s0 s : State} (h : Kept m o s0 s) :
    Kept m o s0 (State.dropDeferred s) := by
  unfold State.dropDeferred
  dsimp only
  with_reducible refine Kept.upd2 ?_ rfl rfl rfl rfl
  with_reducible assumption

theorem kept_dropHostSessions {m o : Bool} {s0 s : State} (h : Kept m o s0 s) :
    Kept m o s0 (State.dropHostSessions s) := by
  unfold State.dropHostSessions
  dsimp only
  with_reducible refine Kept.upd2 ?_ rfl rfl rfl rfl
  with_reducible assumption

theorem kept_mapPower {m o : Bool} {s0 s : State} {f : _} (h : Kept m o s0 s) :
    Kept m o s0 (State.mapPower s f) := by
  unfold State.mapPower
  with_reducible refine Kept.upd2 ?_ rfl rfl rfl rfl
  with_reducible assumption

theorem kept_clearMain {o : Bool} {s0 s : State} {maps : _} (h : Kept false o s0 s) :
    Kept false o s0 (State.clearMain s maps) := by
  unfold State.clearMain
  dsimp only
  refine Kept.iteR ?_ (fun _ => ?_)
  · with_reducible refine kept_put ?_
    with_reducible refine kept_setJobState ?_
    with_reducible refine kept_mapPower ?_
    with_reducible refine kept_dropHostSessions ?_
    with_reducible refine kept_dropDeferred ?_
    with_reducible refine Kept.upd3 ?_ ?_ ?_ ?_ ?_ ?_ ?_ ?_ ?_ ?_
    · with_reducible assumption
    · exact le_refl _
    · with_reducible exact fun h => spWf_filter h
    · with_reducible exact fun h => wf_noInk h
    · exact fun h => absurd h Bool.false_ne_true
    · exact fun _ => rfl
    · with_reducible exact fun _ => spWf_nil
    · exact le_refl _
    · exact le_refl _
    · with_reducible exact fun _ => rfl
  · refine Kept.foldl ?_ (fun _ _ _ => ?_)
    · refine Kept.foldl ?_ (fun _ _ _ => ?_)
      · with_reducible assumption
      · with_reducible exact kept_put ‹_›
    · with_reducible exact kept_noteFailures (kept_noteDrawers ‹_›)

theorem kept_mainLostNow {m o : Bool} {s0 s : State} {cause : _} (h : Kept m o s0 s) :
    Kept m o s0 (State.mainLostNow s cause) := by
  unfold State.mainLostNow
  with_reducible exact kept_raiseTo (kept_alert (kept_put ‹_›))

theorem kept_mainReached {m o : Bool} {s0 s : State} {st : _} (h : Kept m o s0 s) :
    Kept m o s0 (State.mainReached s st) := by
  unfold State.mainReached
  dsimp only
  with_reducible refine Kept.upd2 ?_ rfl rfl rfl rfl
  with_reducible assumption

theorem kept_railsShown {m o : Bool} {s0 s : State} {on : _} (h : Kept m o s0 s) :
    Kept m o s0 (State.railsShown s on) := by
  unfold State.railsShown
  dsimp only
  with_reducible exact kept_put (kept_put (kept_put (kept_put (kept_put (kept_put (kept_put (kept_put (kept_put ‹_›))))))))

theorem kept_enterHold {o : Bool} {s0 s : State} (h : Kept false o s0 s) :
    Kept false o s0 (State.enterHold s) := by
  unfold State.enterHold
  dsimp only
  with_reducible refine kept_mainReached ?_
  with_reducible refine kept_count ?_
  with_reducible refine kept_mainLostNow ?_
  with_reducible refine Kept.upd3 ?_ ?_ ?_ ?_ ?_ ?_ ?_ ?_ ?_ ?_
  · with_reducible exact kept_mapPower (kept_railsShown (kept_clearMain (kept_abandonEvacs (kept_discardOpen (kept_abortJob
      ‹_›)))))
  · exact le_refl _
  · with_reducible exact fun h => h
  · with_reducible exact fun h => wf_flags h
  · exact fun h => absurd h Bool.false_ne_true
  · with_reducible exact fun h => h
  · with_reducible exact fun h => h
  · exact le_refl _
  · exact le_refl _
  · with_reducible exact fun _ => rfl

theorem kept_railsOff {o : Bool} {s0 s : State} (h : Kept false o s0 s) :
    Kept false o s0 (State.railsOff s) := by
  unfold State.railsOff
  dsimp only
  with_reducible refine kept_mainReached ?_
  with_reducible refine Kept.upd3 ?_ ?_ ?_ ?_ ?_ ?_ ?_ ?_ ?_ ?_
  · with_reducible exact kept_mapPower (kept_railsShown (kept_clearDram (kept_clearMain ‹_›)))
  · exact le_refl _
  · with_reducible exact fun h => spWf_spClear h
  · with_reducible exact fun h => h
  · with_reducible exact fun _ => rfl
  · with_reducible exact fun h => h
  · with_reducible exact fun h => h
  · exact le_refl _
  · exact le_refl _
  · with_reducible exact fun _ => rfl

theorem kept_loseRequest {o : Bool} {s0 s : State} (h : Kept false o s0 s) :
    Kept false o s0 (State.loseRequest s) := by
  unfold State.loseRequest
  split
  · with_reducible assumption
  · with_reducible exact kept_railsOff ‹_›
  · with_reducible exact kept_mainLostNow (kept_railsOff (kept_abortJob ‹_›))

theorem kept_actSwitch {o : Bool} {s0 s : State} {on : _} (h : Kept false o s0 s) :
    Kept false o s0 (State.actSwitch s on).1 := by
  unfold State.actSwitch
  split
  · dsimp only
    with_reducible exact kept_loseRequest ‹_›
  · dsimp only
    with_reducible assumption
  · dsimp only
    with_reducible assumption
  · dsimp only
    with_reducible exact kept_enterHold ‹_›
  · dsimp only
    with_reducible assumption
  · dsimp only
    with_reducible exact kept_enterHold ‹_›
  · dsimp only
    with_reducible assumption

theorem kept_actWaiting {o : Bool} {s0 s : State} (h : Kept false o s0 s) :
    Kept false o s0 (State.actWaiting s) := by
  unfold State.actWaiting
  dsimp only
  refine Kept.foldl ?_ (fun _ _ _ => ?_)
  · with_reducible assumption
  · with_reducible refine Kept.upd2 ?_ rfl rfl rfl rfl
    refine Kept.iteL ?_ (fun _ => ?_)
    · with_reducible assumption
    · with_reducible exact kept_mapPower (kept_actSwitch ‹_›)

theorem kept_loadPresets {m o : Bool} {s0 s : State} {lo hi : _} (h : Kept m o s0 s) :
    Kept m o s0 (State.loadPresets s lo hi) := by
  unfold State.loadPresets
  dsimp only
  refine Kept.foldl ?_ (fun _ _ _ => ?_)
  · with_reducible assumption
  · split
    · refine Kept.iteR ?_ (fun _ => ?_)
      · refine Kept.foldl ?_ (fun _ _ _ => ?_)
        · with_reducible assumption
        · with_reducible exact kept_put ‹_›
      · with_reducible exact kept_headDist ‹_›
    · with_reducible assumption

theorem kept_blockRegs {m o : Bool} {s0 s : State} {base : _} (h : Kept m o s0 s) :
    Kept m o s0 (State.blockRegs s base) := by
  unfold State.blockRegs
  dsimp only
  refine Kept.iteR ?_ (fun _ => ?_)
  · refine Kept.foldl ?_ (fun _ _ _ => ?_)
    · with_reducible exact kept_loadPresets (kept_resetRegs ‹_›)
    · with_reducible exact kept_setReg ‹_›
  · with_reducible exact kept_noteDrawers ‹_›

theorem kept_hostDown {m o : Bool} {s0 s : State} {a1 : _} (h : Kept m o s0 s) :
    Kept m o s0 (State.hostDown s a1) := by
  unfold State.hostDown
  dsimp only
  refine Kept.iteL ?_ (fun _ => ?_)
  · with_reducible assumption
  · split
    · refine Kept.iteR ?_ (fun _ => ?_)
      · with_reducible exact kept_raiseLink (kept_countAt (kept_put (kept_put (kept_put (kept_put ‹_›)))))
      · with_reducible exact kept_raiseLink ‹_›
    · with_reducible exact kept_raiseLink (kept_countAt (kept_put (kept_put (kept_put (kept_put ‹_›)))))

theorem kept_remap {m o : Bool} {s0 s : State} {c l p : _} (h : Kept m o s0 s) :
    Kept m o s0 (State.remap s c l p) := by
  unfold State.remap
  with_reducible refine kept_setDstate ?_
  refine kept_mapFlash ?_ (fun _ => ⟨le_refl _, le_refl _, fun _ => rfl⟩)
  with_reducible exact kept_setPhys ‹_›

theorem kept_takeSpare {o : Bool} {s0 s : State} {c l : _} (h : Kept false o s0 s) :
    Kept false o s0 (State.takeSpare s c l) := by
  unfold State.takeSpare
  dsimp only
  split
  · with_reducible refine Kept.upd3 ?_ ?_ ?_ ?_ ?_ ?_ ?_ ?_ ?_ ?_
    · with_reducible exact kept_remap ‹_›
    · exact le_refl _
    · with_reducible exact fun h => h
    · with_reducible exact fun h => wf_dead h
    · exact fun h => absurd h Bool.false_ne_true
    · with_reducible exact fun h => h
    · with_reducible exact fun h => h
    · exact le_refl _
    · exact le_refl _
    · with_reducible exact fun _ => rfl
  · with_reducible assumption

theorem kept_blockState {o : Bool} {s0 s : State} {base : _} (h : Kept false o s0 s) :
    Kept false o s0 (State.blockState s base) := by
  unfold State.blockState
  dsimp only
  refine Kept.ite ?_ ?_
  · with_reducible refine Kept.upd2 ?_ rfl rfl rfl rfl
    with_reducible assumption
  · refine Kept.ite ?_ ?_
    · with_reducible refine kept_mapJob ?_
      with_reducible refine Kept.upd2 ?_ rfl rfl rfl rfl
      with_reducible assumption
    · refine Kept.ite ?_ ?_
      · with_reducible refine Kept.upd3 ?_ ?_ ?_ ?_ ?_ ?_ ?_ ?_ ?_ ?_
        · with_reducible assumption
        · exact le_refl _
        · with_reducible exact fun h => h
        · with_reducible exact fun h => wf_noInk h
        · exact fun h => absurd h Bool.false_ne_true
        · with_reducible exact fun h => h
        · with_reducible exact fun h => h
        · exact le_refl _
        · exact le_refl _
        · with_reducible exact fun _ => rfl
      · refine Kept.ite ?_ ?_
        · with_reducible refine Kept.upd3 ?_ ?_ ?_ ?_ ?_ ?_ ?_ ?_ ?_ ?_
          · with_reducible exact kept_discardOpen ‹_›
          · exact le_refl _
          · with_reducible exact fun h => h
          · with_reducible exact fun h => h
          · with_reducible exact fun _ => rfl
          · exact fun _ => rfl
          · with_reducible exact fun h => h
          · exact le_refl _
          · exact le_refl _
          · with_reducible exact fun _ => rfl
        · refine Kept.ite ?_ ?_
          · refine Kept.foldl ?_ (fun _ _ _ => ?_)
            · with_reducible refine kept_abandonEvac ?_
              refine Kept.foldl ?_ (fun _ _ _ => ?_)
              · with_reducible assumption
              · with_reducible exact kept_writeback ‹_›
            · with_reducible exact kept_takeSpare ‹_›
          · refine Kept.ite ?_ ?_
            · with_reducible exact kept_mapRun ‹_›
            · refine Kept.ite ?_ ?_
              · with_reducible exact kept_portLoss ‹_›
              · refine Kept.ite ?_ ?_
                · with_reducible refine Kept.upd2 ?_ rfl rfl rfl rfl
                  with_reducible exact kept_hostDown ‹_›
                · refine Kept.ite ?_ ?_
                  · with_reducible refine Kept.upd2 ?_ rfl rfl rfl rfl
                    with_reducible assumption
                  · refine Kept.iteR ?_ (fun _ => ?_)
                    · with_reducible assumption
                    · with_reducible exact kept_mapSvl ‹_›

theorem kept_cfgIgnored {m o : Bool} {s0 s : State} {addr mgmt : _} (h : Kept m o s0 s) :
    Kept m o s0 (State.cfgIgnored s addr mgmt) := by
  unfold State.cfgIgnored
  dsimp only
  with_reducible refine kept_count ?_
  with_reducible refine kept_alert ?_
  with_reducible refine kept_put ?_
  refine Kept.iteL ?_ (fun _ => ?_)
  · with_reducible assumption
  · with_reducible exact kept_put (kept_put ‹_›)

theorem kept_blockReset {o : Bool} {s0 s : State} {blk mgmt : _} (h : Kept false o s0 s) :
    Kept false o s0 (State.blockReset s blk mgmt) := by
  unfold State.blockReset
  dsimp only
  split
  · with_reducible exact kept_cfgIgnored ‹_›
  · refine Kept.ite ?_ ?_
    · with_reducible exact kept_cfgIgnored ‹_›
    · refine Kept.iteR ?_ (fun _ => ?_)
      · with_reducible refine Kept.upd2 ?_ rfl rfl rfl rfl
        with_reducible exact kept_blockRegs (kept_blockState ‹_›)
      · with_reducible exact kept_noteBundle ‹_›

theorem kept_enablePorts {m o : Bool} {s0 s : State} (h : Kept m o s0 s) :
    Kept m o s0 (State.enablePorts s) := by
  unfold State.enablePorts
  dsimp only
  refine Kept.foldl ?_ (fun _ _ _ => ?_)
  · with_reducible refine kept_put ?_
    with_reducible refine kept_put ?_
    with_reducible refine kept_put ?_
    with_reducible refine kept_put ?_
    with_reducible refine kept_put ?_
    with_reducible refine kept_put ?_
    refine Kept.foldl ?_ (fun _ _ _ => ?_)
    · with_reducible assumption
    · with_reducible exact kept_put ‹_›
  · with_reducible exact kept_noteBundle ‹_›

theorem kept_bootMain {m o : Bool} {s0 s : State} (h : Kept m o s0 s) :
    Kept m o s0 (State.bootMain s) := by
  unfold State.bootMain
  with_reducible exact kept_enablePorts (kept_loadPresets ‹_›)

theorem kept_warmReset {o : Bool} {s0 s : State} (h : Kept false o s0 s) :
    Kept false o s0 (State.warmReset s) := by
  unfold State.warmReset
  dsimp only
  with_reducible refine kept_bootMain ?_
  with_reducible refine kept_mapPower ?_
  with_reducible refine kept_put ?_
  with_reducible refine kept_put ?_
  with_reducible refine kept_put ?_
  with_reducible refine Kept.upd3 ?_ ?_ ?_ ?_ ?_ ?_ ?_ ?_ ?_ ?_
  · with_reducible exact kept_put (kept_clearMain (kept_abandonEvacs (kept_discardOpen (kept_abortJob ‹_›))))
  · exact le_refl _
  · with_reducible exact fun h => h
  · with_reducible exact fun h => wf_flags h
  · exact fun h => absurd h Bool.false_ne_true
  · with_reducible exact fun h => h
  · with_reducible exact fun h => h
  · exact le_refl _
  · exact le_refl _
  · with_reducible exact fun _ => rfl

theorem kept_resetRequest {o : Bool} {s0 s : State} {kind blk mgmt : _} (h : Kept false o s0 s) :
    Kept false o s0 (State.resetRequest s kind blk mgmt) := by
  unfold State.resetRequest
  refine Kept.iteL ?_ (fun _ => ?_)
  · with_reducible assumption
  · refine Kept.ite ?_ ?_
    · with_reducible exact kept_cfgIgnored ‹_›
    · refine Kept.ite ?_ ?_
      · with_reducible exact kept_warmReset ‹_›
      · with_reducible exact kept_blockReset ‹_›

theorem kept_ageVin {m o : Bool} {s0 s : State} (h : Kept m o s0 s) :
    Kept m o s0 (State.ageVin s) := by
  unfold State.ageVin
  dsimp only
  refine Kept.iteL ?_ (fun _ => ?_)
  · with_reducible assumption
  · with_reducible refine kept_put ?_
    with_reducible refine Kept.upd2 ?_ rfl rfl rfl rfl
    with_reducible assumption

theorem kept_bootEsc {m o : Bool} {s0 s : State} {feedId slotId : _} (h : Kept m o s0 s) :
    Kept m o s0 (State.bootEsc s feedId slotId) := by
  unfold State.bootEsc
  dsimp only
  with_reducible refine kept_bootId ?_
  with_reducible refine kept_bootRom ?_
  refine Kept.iteL ?_ (fun _ => ?_)
  · with_reducible refine kept_put ?_
    with_reducible refine kept_put ?_
    refine kept_mapFlash ?_ (fun _ => ⟨le_refl _, le_refl _, fun _ => rfl⟩)
    with_reducible exact kept_mapEsc (kept_put (kept_put (kept_put (kept_put (kept_loadPresets (kept_mapPower ‹_›))))))
  · with_reducible exact kept_alert (kept_put ‹_›)

theorem kept_freshStandby {o : Bool} {s0 s : State} (h : Kept false o s0 s) :
    Kept false o s0 (State.freshStandby s) := by
  obtain ⟨-, a2, a3, a4, a5, a6, a7, -, a9⟩ := h
  exact ⟨fun _ => ⟨show spWf _ State.reset.regs = true by decide, show Memory.wf State.reset.mem = true by decide,
    show spWf _ State.reset.sbd.err = true by decide, show spWf _ State.reset.turns = true by decide⟩, a2, a3, a4, a5, a6,
        a7, by simp, a9⟩

theorem kept_noteVin {m o : Bool} {s0 s : State} {mv : _} (h : Kept m o s0 s) :
    Kept m o s0 (State.noteVin s mv) := by
  unfold State.noteVin
  dsimp only
  with_reducible refine kept_put ?_
  with_reducible refine kept_put ?_
  with_reducible refine kept_mapPower ?_
  with_reducible refine Kept.upd2 ?_ rfl rfl rfl rfl
  with_reducible assumption

theorem kept_coldStarted {o : Bool} {s0 s : State} {vinMv feedId slotId : _} (h : Kept false o s0 s) :
    Kept false o s0 (State.coldStarted s vinMv feedId slotId) := by
  unfold State.coldStarted
  dsimp only
  refine Kept.iteR ?_ (fun _ => ?_)
  · refine Kept.iteR ?_ (fun _ => ?_)
    · with_reducible refine kept_noteVin ?_
      refine kept_mapFlash ?_ (fun _ => ⟨le_refl _, le_refl _, fun _ => rfl⟩)
      with_reducible exact kept_mapPower (kept_freshStandby ‹_›)
    · with_reducible refine kept_raisePower ?_
      refine kept_mapFlash ?_ (fun _ => ⟨le_refl _, le_refl _, fun _ => rfl⟩)
      with_reducible assumption
  · with_reducible exact kept_bootEsc ‹_›

theorem kept_escReady {m o : Bool} {s0 s : State} {ohms : _} (h : Kept m o s0 s) :
    Kept m o s0 (State.escReady s ohms) := by
  unfold State.escReady
  dsimp only
  refine Kept.ite ?_ ?_
  · with_reducible refine kept_sealBreakNow ?_
    refine Kept.iteR ?_ (fun _ => ?_)
    · split
      · refine Kept.iteL ?_ (fun _ => ?_)
        · with_reducible exact kept_noteLoop (kept_mapEsc ‹_›)
        · with_reducible exact kept_commission ‹_›
      · with_reducible exact kept_noteLoop (kept_mapEsc ‹_›)
    · with_reducible exact kept_sealBreakNow (kept_mapEsc ‹_›)
  · refine Kept.iteR ?_ (fun _ => ?_)
    · refine Kept.iteR ?_ (fun _ => ?_)
      · split
        · refine Kept.iteL ?_ (fun _ => ?_)
          · with_reducible exact kept_noteLoop (kept_mapEsc ‹_›)
          · with_reducible exact kept_commission ‹_›
        · with_reducible exact kept_noteLoop (kept_mapEsc ‹_›)
      · with_reducible exact kept_sealBreakNow (kept_mapEsc ‹_›)
    · with_reducible exact kept_sealBreakNow ‹_›

theorem kept_failTraining {o : Bool} {s0 s : State} {kept c p : _} (h : Kept false o s0 s) :
    Kept false o s0 (State.failTraining s kept c p) := by
  unfold State.failTraining
  dsimp only
  split
  · with_reducible refine kept_takeSpare ?_
    with_reducible refine Kept.upd3 ?_ ?_ ?_ ?_ ?_ ?_ ?_ ?_ ?_ ?_
    · refine Kept.iteR ?_ (fun _ => ?_)
      · with_reducible exact kept_failDrawer ‹_›
      · with_reducible exact kept_loseLines ‹_›
    · exact le_refl _
    · with_reducible exact fun h => h
    · with_reducible exact fun h => wf_dead h
    · exact fun h => absurd h Bool.false_ne_true
    · with_reducible exact fun h => h
    · with_reducible exact fun h => h
    · exact le_refl _
    · exact le_refl _
    · with_reducible exact fun _ => rfl
  · with_reducible exact kept_failDrawer ‹_›

theorem kept_follow {m o : Bool} {s0 s : State} {f on : _} (h : Kept m o s0 s) :
    Kept m o s0 (State.follow s f on).1 := by
  unfold State.follow
  dsimp only
  with_reducible exact kept_put ‹_›

theorem kept_gaspTwice {m o : Bool} {s0 s : State} (h : Kept m o s0 s) :
    Kept m o s0 (State.gaspTwice s) := by
  unfold State.gaspTwice
  split
  · split
    · refine Kept.iteR ?_ (fun _ => ?_)
      · with_reducible assumption
      · with_reducible exact kept_send ‹_›
    · with_reducible assumption
  · with_reducible assumption

theorem kept_lastGasp {o : Bool} {s0 s : State} {vinMv lastedNs : _} (h : Kept false o s0 s) :
    Kept false o s0 (State.lastGasp s vinMv lastedNs) := by
  unfold State.lastGasp
  dsimp only
  with_reducible refine kept_logPower ?_
  with_reducible refine kept_gaspTwice ?_
  with_reducible refine kept_raise ?_
  refine Kept.iteL ?_ (fun _ => ?_)
  · refine Kept.iteR ?_ (fun _ => ?_)
    · with_reducible refine kept_mapPower ?_
      refine Kept.iteR ?_ (fun _ => ?_)
      · with_reducible exact kept_alert (kept_put (kept_noteVin ‹_›))
      · with_reducible exact kept_raisePower (kept_put ‹_›)
    · with_reducible exact kept_voidNow ‹_›
  · with_reducible exact kept_put (kept_ride ‹_›)

theorem kept_loadMaps {o : Bool} {s0 s : State} (h : Kept false o s0 s) :
    Kept false o s0 (State.loadMaps s) := by
  unfold State.loadMaps
  dsimp only
  refine Kept.foldl ?_ (fun _ _ _ => ?_)
  · refine Kept.foldl ?_ (fun _ _ _ => ?_)
    · with_reducible assumption
    · with_reducible exact kept_setPhys ‹_›
  · with_reducible refine kept_noteFailures ?_
    refine Kept.foldl ?_ (fun _ _ _ => ?_)
    · refine Kept.foldl ?_ (fun _ _ _ => ?_)
      · with_reducible assumption
      · with_reducible exact kept_setDstate ‹_›
    · refine Kept.iteR ?_ (fun _ => ?_)
      · with_reducible assumption
      · with_reducible exact kept_takeSpare ‹_›

theorem kept_vddBoth {m o : Bool} {s0 s : State} {f : _} (h : Kept m o s0 s) (h_f : ∀ t, Kept m o s0 t → ∀ x, Kept m o s0
    (f t x)) :
    Kept m o s0 (State.vddBoth s f) := by
  unfold State.vddBoth
  refine h_f _ ?_ _
  refine h_f _ ?_ _
  with_reducible assumption

theorem kept_vddDown {m o : Bool} {s0 s : State} {d : _} (h : Kept m o s0 s) :
    Kept m o s0 (State.vddDown s d) := by
  unfold State.vddDown
  with_reducible exact kept_put ‹_›

theorem kept_vddUp {m o : Bool} {s0 s : State} {d : _} (h : Kept m o s0 s) :
    Kept m o s0 (State.vddUp s d) := by
  unfold State.vddUp
  with_reducible exact kept_put ‹_›

theorem kept_vddCap {m o : Bool} {s0 s : State} {up down : _} (h : Kept m o s0 s) :
    Kept m o s0 (State.vddCap s up down) := by
  unfold State.vddCap
  dsimp only
  refine Kept.ite ?_ ?_
  · refine Kept.ite ?_ ?_
    · with_reducible refine kept_vddBoth ?_ ?_
      · with_reducible assumption
      · intro _ _ _
        with_reducible exact kept_vddUp ‹_›
    · refine Kept.iteR ?_ (fun _ => ?_)
      · with_reducible assumption
      · with_reducible refine kept_vddBoth ?_ ?_
        · with_reducible assumption
        · intro _ _ _
          with_reducible exact kept_vddDown ‹_›
  · refine Kept.ite ?_ ?_
    · with_reducible exact kept_vddUp ‹_›
    · with_reducible exact kept_vddDown ‹_›

theorem kept_loopMove {m o : Bool} {s0 s : State} {powerW : _} (h : Kept m o s0 s) :
    Kept m o s0 (State.loopMove s powerW).1 := by
  unfold State.loopMove
  dsimp only
  split
  · dsimp only
    with_reducible assumption
  · split
    · dsimp only
      with_reducible refine kept_vddBoth ?_ ?_
      · with_reducible assumption
      · intro _ _ _
        with_reducible exact kept_vddDown ‹_›
    · split
      · dsimp only
        refine Kept.iteR ?_ (fun _ => ?_)
        · with_reducible exact kept_mapPower ‹_›
        · with_reducible refine kept_vddBoth ?_ ?_
          · with_reducible assumption
          · intro _ _ _
            with_reducible exact kept_vddDown ‹_›
      · split
        · dsimp only
          refine Kept.ite ?_ ?_
          · with_reducible exact kept_vddCap ‹_›
          · with_reducible refine kept_vddBoth ?_ ?_
            · with_reducible assumption
            · intro _ _ _
              refine Kept.iteR ?_ (fun _ => ?_)
              · with_reducible assumption
              · with_reducible exact kept_vddDown ‹_›
        · dsimp only
          refine Kept.ite ?_ ?_
          · with_reducible exact kept_vddCap ‹_›
          · with_reducible refine kept_vddBoth ?_ ?_
            · with_reducible assumption
            · intro _ _ _
              split
              · refine Kept.iteL ?_ (fun _ => ?_)
                · with_reducible assumption
                · with_reducible exact kept_vddUp ‹_›
              · with_reducible exact kept_vddDown ‹_›
              · with_reducible assumption

theorem kept_loopWith {m o : Bool} {s0 s : State} {powerW : _} (h : Kept m o s0 s) :
    Kept m o s0 (State.loopWith s powerW) := by
  unfold State.loopWith
  dsimp only
  refine Kept.iteR ?_ (fun _ => ?_)
  · with_reducible refine kept_follow ?_
    refine Kept.iteR ?_ (fun _ => ?_)
    · with_reducible exact kept_follow (kept_loopMove ‹_›)
    · with_reducible exact kept_count (kept_alert (kept_raisePower ‹_›))
  · with_reducible exact kept_count (kept_alert (kept_raisePower ‹_›))

theorem kept_lostStandby {m o : Bool} {s0 s : State} {vinMv : _} (h : Kept m o s0 s) :
    Kept m o s0 (State.lostStandby s vinMv) := by
  unfold State.lostStandby
  dsimp only
  refine Kept.iteL ?_ (fun _ => ?_)
  · with_reducible exact kept_noteVin (kept_closeWindow ‹_›)
  · with_reducible exact kept_logPower ‹_›

theorem kept_mainFault {o : Bool} {s0 s : State} {cause : _} (h : Kept false o s0 s) :
    Kept false o s0 (State.mainFault s cause) := by
  unfold State.mainFault
  dsimp only
  refine Kept.iteR ?_ (fun _ => ?_)
  · with_reducible exact kept_railsOff ‹_›
  · with_reducible exact kept_mainLostNow ‹_›

theorem kept_mainStart {m o : Bool} {s0 s : State} (h : Kept m o s0 s) :
    Kept m o s0 (State.mainStart s) := by
  unfold State.mainStart
  dsimp only
  with_reducible refine kept_bootMain ?_
  with_reducible refine kept_mapEsc ?_
  with_reducible refine kept_mapPower ?_
  refine Kept.iteL ?_ (fun _ => ?_)
  · with_reducible exact kept_railsShown ‹_›
  · with_reducible refine Kept.upd3 ?_ ?_ ?_ ?_ ?_ ?_ ?_ ?_ ?_ ?_
    · with_reducible assumption
    · exact le_refl _
    · with_reducible exact fun h => spWf_spClear h
    · with_reducible exact fun h => h
    · with_reducible exact fun _ => rfl
    · with_reducible exact fun h => h
    · with_reducible exact fun h => h
    · exact le_refl _
    · exact le_refl _
    · with_reducible exact fun _ => rfl

theorem kept_noteBars {m o : Bool} {s0 s : State} {powerW : _} (h : Kept m o s0 s) :
    Kept m o s0 (State.noteBars s powerW) := by
  unfold State.noteBars
  dsimp only
  with_reducible exact kept_mapPower ‹_›

theorem kept_tripNow {o : Bool} {s0 s : State} {cause : _} (h : Kept false o s0 s) :
    Kept false o s0 (State.tripNow s cause) := by
  unfold State.tripNow
  dsimp only
  with_reducible exact kept_raisePower (kept_put (kept_mapPower (kept_mainFault ‹_›)))

theorem kept_noteDraw {m o : Bool} {s0 s : State} {powerW : _} (h : Kept m o s0 s) :
    Kept m o s0 (State.noteDraw s powerW) := by
  unfold State.noteDraw
  dsimp only
  with_reducible exact kept_mapPower (kept_put (kept_put ‹_›))

theorem kept_setPlanks {m o : Bool} {s0 s : State} {d l planks : _} (h : Kept m o s0 s) :
    Kept m o s0 (State.setPlanks s d l planks) := by
  unfold State.setPlanks
  dsimp only
  with_reducible exact kept_setReg ‹_›

theorem kept_plankTest {m o : Bool} {s0 s : State} {planks : _} (h : Kept m o s0 s) :
    Kept m o s0 (State.plankTest s planks) := by
  unfold State.plankTest
  dsimp only
  refine Kept.foldl ?_ (fun _ _ _ => ?_)
  · refine kept_mapFlash ?_ (fun _ => ⟨le_refl _, le_refl _, fun _ => rfl⟩)
    with_reducible assumption
  · with_reducible refine kept_put ?_
    refine Kept.foldl ?_ (fun _ _ _ => ?_)
    · with_reducible assumption
    · with_reducible exact kept_setPlanks ‹_›

theorem kept_resetAsserted {o : Bool} {s0 s : State} (h : Kept false o s0 s) :
    Kept false o s0 (State.resetAsserted s) := by
  unfold State.resetAsserted
  dsimp only
  with_reducible refine kept_put ?_
  with_reducible refine kept_setReg ?_
  with_reducible refine kept_put ?_
  with_reducible refine kept_mapPower ?_
  with_reducible refine kept_mapEsc ?_
  with_reducible refine Kept.upd2 ?_ rfl rfl rfl rfl
  with_reducible exact kept_freshStandby (kept_closeWindow ‹_›)

theorem kept_startDone {o : Bool} {s0 s : State} {k planks drawers : _} (h : Kept false o s0 s) :
    Kept false o s0 (State.startDone s k planks drawers) := by
  unfold State.startDone
  dsimp only
  with_reducible refine kept_mainReached ?_
  refine Kept.ite ?_ ?_
  · with_reducible refine kept_enterSafe ?_
    with_reducible refine kept_put ?_
    with_reducible refine kept_setJobState ?_
    with_reducible refine kept_mapPower ?_
    with_reducible refine kept_noteFree ?_
    refine Kept.foldl ?_ (fun _ _ _ => ?_)
    · with_reducible refine Kept.upd3 ?_ ?_ ?_ ?_ ?_ ?_ ?_ ?_ ?_ ?_
      · refine Kept.foldl ?_ (fun _ _ _ => ?_)
        · refine Kept.ite ?_ ?_
          · with_reducible exact kept_loadMaps (kept_plankTest (kept_clearDram ‹_›))
          · refine Kept.foldl ?_ (fun _ _ _ => ?_)
            · refine Kept.foldl ?_ (fun _ _ _ => ?_)
              · with_reducible assumption
              · with_reducible exact kept_noteFailures ‹_›
            · with_reducible exact kept_takeSpare ‹_›
        · with_reducible exact kept_failTraining ‹_›
      · exact le_refl _
      · with_reducible exact fun h => h
      · with_reducible exact fun h => wf_flags h
      · exact fun h => absurd h Bool.false_ne_true
      · with_reducible exact fun h => h
      · with_reducible exact fun h => h
      · exact le_refl _
      · exact le_refl _
      · with_reducible exact fun _ => rfl
    · with_reducible exact kept_put ‹_›
  · refine Kept.ite ?_ ?_
    · with_reducible refine kept_enterSafe ?_
      with_reducible refine kept_put ?_
      with_reducible refine kept_setJobState ?_
      with_reducible refine kept_mapPower ?_
      with_reducible refine kept_noteFree ?_
      refine Kept.foldl ?_ (fun _ _ _ => ?_)
      · with_reducible refine Kept.upd3 ?_ ?_ ?_ ?_ ?_ ?_ ?_ ?_ ?_ ?_
        · refine Kept.foldl ?_ (fun _ _ _ => ?_)
          · refine Kept.ite ?_ ?_
            · with_reducible exact kept_loadMaps (kept_plankTest (kept_clearDram ‹_›))
            · refine Kept.foldl ?_ (fun _ _ _ => ?_)
              · refine Kept.foldl ?_ (fun _ _ _ => ?_)
                · with_reducible assumption
                · with_reducible exact kept_noteFailures ‹_›
              · with_reducible exact kept_takeSpare ‹_›
          · with_reducible exact kept_failTraining ‹_›
        · exact le_refl _
        · with_reducible exact fun h => h
        · with_reducible exact fun h => wf_flags h
        · exact fun h => absurd h Bool.false_ne_true
        · with_reducible exact fun h => h
        · with_reducible exact fun h => h
        · exact le_refl _
        · exact le_refl _
        · with_reducible exact fun _ => rfl
      · with_reducible exact kept_put ‹_›
    · with_reducible refine kept_trialReady ?_
      with_reducible refine kept_put ?_
      with_reducible refine kept_put ?_
      with_reducible refine kept_setJobState ?_
      with_reducible refine kept_mapPower ?_
      with_reducible refine kept_noteFree ?_
      refine Kept.foldl ?_ (fun _ _ _ => ?_)
      · with_reducible refine Kept.upd3 ?_ ?_ ?_ ?_ ?_ ?_ ?_ ?_ ?_ ?_
        · refine Kept.foldl ?_ (fun _ _ _ => ?_)
          · refine Kept.ite ?_ ?_
            · with_reducible exact kept_loadMaps (kept_plankTest (kept_clearDram ‹_›))
            · refine Kept.foldl ?_ (fun _ _ _ => ?_)
              · refine Kept.foldl ?_ (fun _ _ _ => ?_)
                · with_reducible assumption
                · with_reducible exact kept_noteFailures ‹_›
              · with_reducible exact kept_takeSpare ‹_›
          · with_reducible exact kept_failTraining ‹_›
        · exact le_refl _
        · with_reducible exact fun h => h
        · with_reducible exact fun h => wf_flags h
        · exact fun h => absurd h Bool.false_ne_true
        · with_reducible exact fun h => h
        · with_reducible exact fun h => h
        · exact le_refl _
        · exact le_refl _
        · with_reducible exact fun _ => rfl
      · with_reducible exact kept_put ‹_›

theorem kept_voidLost {m o : Bool} {s0 s : State} (h : Kept m o s0 s) :
    Kept m o s0 (State.voidLost s) := by
  unfold State.voidLost
  dsimp only
  refine Kept.iteR ?_ (fun _ => ?_)
  · with_reducible assumption
  · with_reducible exact kept_mapRun (kept_setJobState (kept_unsendFrom (kept_stopLists ‹_›)))

theorem kept_execColdStart {o : Bool} {s0 s : State} {vinMv feedId slotId : _} (h : Kept false o s0 s) :
    OutKept false o s0 (execColdStart vinMv feedId slotId s) := by
  unfold execColdStart
  refine OutKept.next ?_
  refine Kept.iteL ?_ (fun _ => ?_)
  · with_reducible assumption
  · with_reducible exact kept_coldStarted ‹_›

theorem kept_execEscritoireReady {m o : Bool} {s0 s : State} {ohms : _} (h : Kept m o s0 s) :
    OutKept m o s0 (execEscritoireReady ohms s) := by
  unfold execEscritoireReady
  refine OutKept.next ?_
  refine Kept.iteR ?_ (fun _ => ?_)
  · with_reducible assumption
  · with_reducible exact kept_escReady ‹_›

theorem kept_execFeedWarn {m o : Bool} {s0 s : State} {asserted lastedNs : _} (h : Kept m o s0 s) :
    OutKept m o s0 (execFeedWarn asserted lastedNs s) := by
  unfold execFeedWarn
  dsimp only
  refine OutKept.next ?_
  refine Kept.iteR ?_ (fun _ => ?_)
  · with_reducible assumption
  · refine Kept.iteR ?_ (fun _ => ?_)
    · with_reducible refine Kept.upd2 ?_ rfl rfl rfl rfl
      with_reducible exact kept_raisePower (kept_put ‹_›)
    · with_reducible exact kept_count (kept_alert ‹_›)

theorem kept_execGaspRailsOff {o : Bool} {s0 s : State} (h : Kept false o s0 s) :
    OutKept false o s0 (execGaspRailsOff s) := by
  unfold execGaspRailsOff
  refine OutKept.next ?_
  split
  · refine Kept.iteR ?_ (fun _ => ?_)
    · with_reducible assumption
    · with_reducible exact kept_railsOff ‹_›
  · with_reducible assumption

theorem kept_execGateUpdate {m o : Bool} {s0 s : State} {powerW : _} (h : Kept m o s0 s) :
    OutKept m o s0 (execGateUpdate powerW s) := by
  unfold execGateUpdate
  dsimp only
  refine OutKept.next ?_
  refine Kept.iteL ?_ (fun _ => ?_)
  · with_reducible assumption
  · refine Kept.ite ?_ ?_
    · with_reducible exact kept_mapPower ‹_›
    · refine Kept.iteR ?_ (fun _ => ?_)
      · with_reducible assumption
      · with_reducible exact kept_mapPower ‹_›

theorem kept_execHeartbeat {m o : Bool} {s0 s : State} {_secretary : _} (h : Kept m o s0 s) :
    OutKept m o s0 (execHeartbeat _secretary s) := by
  unfold execHeartbeat
  refine OutKept.next ?_
  refine Kept.iteR ?_ (fun _ => ?_)
  · with_reducible assumption
  · with_reducible exact kept_mapEsc ‹_›

theorem kept_execMainLost {m o : Bool} {s0 s : State} (h : Kept m o s0 s) :
    OutKept m o s0 (execMainLost s) := by
  unfold execMainLost
  refine OutKept.next ?_
  refine Kept.iteR ?_ (fun _ => ?_)
  · with_reducible assumption
  · with_reducible exact kept_mainLostNow (kept_noteSessions (kept_dropHostSessions (kept_voidLost ‹_›)))

theorem kept_execMainOnStart {m o : Bool} {s0 s : State} (h : Kept m o s0 s) :
    OutKept m o s0 (execMainOnStart s) := by
  unfold execMainOnStart
  refine OutKept.next ?_
  refine Kept.iteR ?_ (fun _ => ?_)
  · with_reducible assumption
  · with_reducible exact kept_mainStart ‹_›

theorem kept_execMainPower {o : Bool} {s0 s : State} {a0 on : _} (h : Kept false o s0 s) :
    OutKept false o s0 (execMainPower a0 on s) := by
  unfold execMainPower
  dsimp only
  refine OutKept.next ?_
  with_reducible refine kept_command ?_ ?_
  · with_reducible assumption
  · intro _ _
    split
    · with_reducible exact kept_Act_did (kept_mapPower ‹_›)
    · split
      · refine ActKept.begun ?_
        with_reducible assumption
      · refine ActKept.begun ?_
        refine Kept.iteL ?_ (fun _ => ?_)
        · with_reducible assumption
        · with_reducible exact kept_mapPower (kept_actSwitch ‹_›)

theorem kept_execMainRailFault {o : Bool} {s0 s : State} (h : Kept false o s0 s) :
    OutKept false o s0 (execMainRailFault s) := by
  unfold execMainRailFault
  refine OutKept.next ?_
  refine Kept.iteR ?_ (fun _ => ?_)
  · with_reducible assumption
  · with_reducible exact kept_mainFault ‹_›

theorem kept_execOvervolt {o : Bool} {s0 s : State} {vinMv lastedNs : _} (h : Kept false o s0 s) :
    OutKept false o s0 (execOvervolt vinMv lastedNs s) := by
  unfold execOvervolt
  dsimp only
  refine OutKept.next ?_
  refine Kept.iteR ?_ (fun _ => ?_)
  · with_reducible assumption
  · refine Kept.iteR ?_ (fun _ => ?_)
    · with_reducible exact kept_mapPower (kept_noteVin (kept_mainFault ‹_›))
    · with_reducible exact kept_raisePower ‹_›

theorem kept_execPowerFail {o : Bool} {s0 s : State} {vinMv lastedNs : _} (h : Kept false o s0 s) :
    OutKept false o s0 (execPowerFail vinMv lastedNs s) := by
  unfold execPowerFail
  refine OutKept.next ?_
  refine Kept.ite ?_ ?_
  · with_reducible exact kept_lastGasp ‹_›
  · refine Kept.iteR ?_ (fun _ => ?_)
    · with_reducible assumption
    · with_reducible exact kept_railsOff (kept_noteVin ‹_›)

theorem kept_execPowerSet {m o : Bool} {s0 s : State} {a0 mode target : _} (h : Kept m o s0 s) :
    OutKept m o s0 (execPowerSet a0 mode target s) := by
  unfold execPowerSet
  dsimp only
  refine OutKept.next ?_
  with_reducible refine kept_command ?_ ?_
  · with_reducible assumption
  · intro _ _
    with_reducible refine kept_Act_ok ?_
    refine Kept.ite ?_ ?_
    · with_reducible exact kept_put (kept_put ‹_›)
    · with_reducible exact kept_put (kept_put ‹_›)

theorem kept_execPowerStatus {m o : Bool} {s0 s : State} {a0 : _} (h : Kept m o s0 s) :
    OutKept m o s0 (execPowerStatus a0 s) := by
  unfold execPowerStatus
  refine OutKept.next ?_
  with_reducible refine kept_command ?_ ?_
  · with_reducible assumption
  · intro _ _
    refine ActKept.reply ?_
    with_reducible exact kept_mapPower ‹_›

theorem kept_execPwrEnFall {o : Bool} {s0 s : State} (h : Kept false o s0 s) :
    OutKept false o s0 (execPwrEnFall s) := by
  unfold execPwrEnFall
  dsimp only
  refine OutKept.next ?_
  with_reducible refine kept_loseRequest ?_
  with_reducible refine Kept.upd2 ?_ rfl rfl rfl rfl
  with_reducible assumption

theorem kept_execPwrEnRise {m o : Bool} {s0 s : State} (h : Kept m o s0 s) :
    OutKept m o s0 (execPwrEnRise s) := by
  unfold execPwrEnRise
  dsimp only
  refine OutKept.next ?_
  with_reducible refine Kept.upd2 ?_ rfl rfl rfl rfl
  with_reducible assumption

theorem kept_execReady {o : Bool} {s0 s : State} {planks drawers : _} (h : Kept false o s0 s) :
    OutKept false o s0 (execReady planks drawers s) := by
  unfold execReady
  refine OutKept.next ?_
  split
  · with_reducible exact kept_actWaiting (kept_startDone ‹_›)
  · with_reducible assumption

theorem kept_execResetN {o : Bool} {s0 s : State} {lowNs : _} (h : Kept false o s0 s) :
    OutKept false o s0 (execResetN lowNs s) := by
  unfold execResetN
  refine OutKept.next ?_
  refine Kept.iteR ?_ (fun _ => ?_)
  · with_reducible assumption
  · with_reducible exact kept_resetAsserted ‹_›

theorem kept_execResetNRelease {m o : Bool} {s0 s : State} {feedId slotId : _} (h : Kept m o s0 s) :
    OutKept m o s0 (execResetNRelease feedId slotId s) := by
  unfold execResetNRelease
  dsimp only
  refine OutKept.next ?_
  refine Kept.iteL ?_ (fun _ => ?_)
  · with_reducible assumption
  · refine Kept.iteR ?_ (fun _ => ?_)
    · with_reducible refine Kept.upd2 ?_ rfl rfl rfl rfl
      with_reducible assumption
    · with_reducible exact kept_bootEsc ‹_›

theorem kept_execStandbyLoss {o : Bool} {s0 s : State} {vinMv : _} (h : Kept false o s0 s) :
    OutKept false o s0 (execStandbyLoss vinMv s) := by
  unfold execStandbyLoss
  refine OutKept.next ?_
  refine Kept.iteR ?_ (fun _ => ?_)
  · with_reducible assumption
  · with_reducible exact kept_freshStandby (kept_lostStandby ‹_›)

theorem kept_execThermTrip {o : Bool} {s0 s : State} {cause : _} (h : Kept false o s0 s) :
    OutKept false o s0 (execThermTrip cause s) := by
  unfold execThermTrip
  refine OutKept.next ?_
  refine Kept.iteR ?_ (fun _ => ?_)
  · with_reducible assumption
  · with_reducible exact kept_tripNow ‹_›

theorem kept_execUndervolt {m o : Bool} {s0 s : State} {vinMv : _} (h : Kept m o s0 s) :
    OutKept m o s0 (execUndervolt vinMv s) := by
  unfold execUndervolt
  dsimp only
  refine OutKept.next ?_
  refine Kept.iteL ?_ (fun _ => ?_)
  · with_reducible assumption
  · refine Kept.iteL ?_ (fun _ => ?_)
    · with_reducible exact kept_noteVin ‹_›
    · with_reducible exact kept_raisePower (kept_put ‹_›)

theorem kept_execVloopStep {m o : Bool} {s0 s : State} {powerW : _} (h : Kept m o s0 s) :
    OutKept m o s0 (execVloopStep powerW s) := by
  unfold execVloopStep
  refine OutKept.next ?_
  refine Kept.iteL ?_ (fun _ => ?_)
  · with_reducible assumption
  · with_reducible exact kept_loopWith (kept_noteBars (kept_count (kept_noteDraw ‹_›)))

end Sys2Proof.Laws
end

