-- ==== Sys2Proof/Laws/KeepsMemCmds.lean ====
section
/-! SUPPORT. What each operation of Machine/MemCmds.lean keeps, by the relation of Laws/Kept.lean. -/
namespace Sys2Proof.Laws
open Sys2Proof.Machine

theorem kept_applyBanks {m o : Bool} {s0 s : State} {hit : _} (h : Kept m o s0 s) :
    Kept m o s0 (State.applyBanks s hit) := by
  unfold State.applyBanks
  dsimp only
  with_reducible exact kept_mapJob ‹_›

theorem kept_copyBytes {o : Bool} {s0 s : State} {src dst n : _} (h : Kept false o s0 s) :
    Kept false o s0 (State.copyBytes s src dst n) := by
  unfold State.copyBytes
  dsimp only
  with_reducible exact kept_writeRange (kept_readRange ‹_›)

theorem kept_applyBlock {o : Bool} {s0 s : State} {a1 n : _} (h : Kept false o s0 s) :
    Kept false o s0 (State.applyBlock s a1 n) := by
  unfold State.applyBlock
  dsimp only
  refine Kept.foldl ?_ (fun _ _ _ => ?_)
  · refine Kept.foldl ?_ (fun _ _ _ => ?_)
    · with_reducible refine kept_applyBanks ?_
      refine Kept.foldl ?_ (fun _ _ _ => ?_)
      · refine Kept.iteR ?_ (fun _ => ?_)
        · refine Kept.iteR ?_ (fun _ => ?_)
          · with_reducible refine kept_resetSteps ?_
            refine Kept.iteR ?_ (fun _ => ?_)
            · with_reducible refine kept_touch ?_
              refine Kept.foldl ?_ (fun _ _ _ => ?_)
              · with_reducible assumption
              · with_reducible exact kept_touch ‹_›
            · with_reducible exact kept_put ‹_›
          · with_reducible exact kept_put2 ‹_›
        · with_reducible exact kept_put ‹_›
      · with_reducible exact kept_mapJob ‹_›
    · refine Kept.iteR ?_ (fun _ => ?_)
      · with_reducible assumption
      · with_reducible exact kept_copyBytes ‹_›
  · refine Kept.iteR ?_ (fun _ => ?_)
    · with_reducible assumption
    · with_reducible exact kept_copyBytes ‹_›

theorem kept_unhold {m o : Bool} {s0 s : State} {i : _} (h : Kept m o s0 s) :
    Kept m o s0 (State.unhold s i) := by
  unfold State.unhold
  dsimp only
  with_reducible refine Kept.upd2 ?_ rfl rfl rfl rfl
  with_reducible assumption

theorem kept_answerHeld {m o : Bool} {s0 s : State} {a1 i code a : _} (h : Kept m o s0 s) (ha : ActKept m o s0 a) :
    Kept m o s0 (State.answerHeld s a1 i code a) := by
  cases a with
  | reply s a b => exact kept_answer (kept_unhold ha)
  | begun s a b => exact h
  | hold s => exact h

theorem kept_digestAct {o : Bool} {s0 s : State} {base n before : _} (h : Kept false o s0 s) :
    ActKept false o s0 (State.digestAct s base n before) := by
  unfold State.digestAct
  dsimp only
  split
  · with_reducible exact kept_Act_no ‹_›
  · split
    · refine ActKept.hold ?_
      with_reducible assumption
    · with_reducible exact kept_Act_did (kept_readRange ‹_›)

theorem kept_onDeferred {m o : Bool} {s0 s : State} {a1 f : _} (h : Kept m o s0 s) :
    Kept m o s0 (State.onDeferred s a1 f) := by
  unfold State.onDeferred
  dsimp only
  with_reducible refine Kept.upd2 ?_ rfl rfl rfl rfl
  with_reducible assumption

theorem kept_finishHeld {m o : Bool} {s0 s : State} {a1 i base n a : _} (h : Kept m o s0 s) (ha : ActKept m o s0 a) :
    Kept m o s0 (State.finishHeld s a1 i base n a) := by
  cases a with
  | reply s a b => exact kept_onDeferred (kept_unhold ha)
  | begun s a b => exact kept_onDeferred (kept_unhold ha)
  | hold s => exact h

theorem kept_memAtomicAct {o : Bool} {s0 s : State} {addr op operand comparand : _} (h : Kept false o s0 s) :
    ActKept false o s0 (State.memAtomicAct s addr op operand comparand) := by
  unfold State.memAtomicAct
  dsimp only
  split
  · with_reducible exact kept_Act_no ‹_›
  · split
    · refine ActKept.hold ?_
      with_reducible assumption
    · refine ActKept.reply ?_
      with_reducible exact kept_settle (kept_wordOp ‹_›)

theorem kept_memWriteAct {o : Bool} {s0 s : State} {addr dt : _} (h : Kept false o s0 s) :
    ActKept false o s0 (State.memWriteAct s addr dt) := by
  unfold State.memWriteAct
  dsimp only
  split
  · with_reducible exact kept_Act_no ‹_›
  · split
    · refine ActKept.hold ?_
      with_reducible assumption
    · with_reducible exact kept_Act_no (kept_settle (kept_writeRange ‹_›))

theorem kept_dropFetch {m o : Bool} {s0 s : State} {f : _} (h : Kept m o s0 s) :
    Kept m o s0 (State.dropFetch s f) := by
  unfold State.dropFetch
  with_reducible exact kept_mapQuill ‹_›

theorem kept_readFetched {m o : Bool} {s0 s : State} {addr n : Nat} {x : _} (h : Kept m o s0 s) (e : State.readFetched s
    addr n = some x) :
    Kept m o s0 x.1 := by
  unfold State.readFetched at e
  dsimp only at e
  split at e
  · cases e; exact kept_dropFetch h
  · cases e

theorem kept_readLocal {o : Bool} {s0 s : State} {addr n : _} (h : Kept false o s0 s) :
    ActKept false o s0 (State.readLocal s addr n) := by
  unfold State.readLocal
  dsimp only
  split
  · with_reducible exact kept_Act_no ‹_›
  · split
    · refine ActKept.hold ?_
      with_reducible assumption
    · refine ActKept.reply ?_
      with_reducible exact kept_readRange ‹_›

theorem kept_retry_dropMask {m o : Bool} {s0 : State} {a : _} (h : ActKept m o s0 a) :
    ActKept m o s0 (State.retry.dropMask a) := by
  cases a <;> exact h

theorem kept_emptyRing {m o : Bool} {s0 s : State} (h : Kept m o s0 s) :
    Kept m o s0 (State.emptyRing s) := by
  unfold State.emptyRing
  with_reducible exact kept_noteFree (kept_mapIntake ‹_›)

theorem kept_noteZeroed {m o : Bool} {s0 s : State} {lo hi : _} (h : Kept m o s0 s) :
    Kept m o s0 (State.noteZeroed s lo hi) := by
  unfold State.noteZeroed
  dsimp only
  refine Kept.foldl ?_ (fun _ _ _ => ?_)
  · with_reducible assumption
  · refine Kept.foldl ?_ (fun _ _ _ => ?_)
    · with_reducible assumption
    · with_reducible exact kept_noteWrite ‹_›

theorem kept_scrubWork {o : Bool} {s0 s : State} {base n sflags : _} (h : Kept false o s0 s) :
    Kept false o s0 (State.scrubWork s base n sflags).1 := by
  unfold State.scrubWork
  dsimp only
  with_reducible refine kept_readRange ?_
  with_reducible refine kept_settle ?_
  refine Kept.iteR ?_ (fun _ => ?_)
  · refine Kept.iteR ?_ (fun _ => ?_)
    · with_reducible exact kept_noteZeroed (kept_zeroRange ‹_›)
    · with_reducible refine Kept.upd3 ?_ ?_ ?_ ?_ ?_ ?_ ?_ ?_ ?_ ?_
      · with_reducible assumption
      · exact le_refl _
      · with_reducible exact fun h => h
      · with_reducible exact fun h => wf_noInk h
      · exact fun h => absurd h Bool.false_ne_true
      · with_reducible exact fun h => h
      · with_reducible exact fun h => h
      · exact le_refl _
      · exact le_refl _
      · with_reducible exact fun _ => rfl
  · with_reducible exact kept_emptyRing (kept_zeroRange ‹_›)

theorem kept_scrubAct {o : Bool} {s0 s : State} {base n sflags before : _} (h : Kept false o s0 s) :
    ActKept false o s0 (State.scrubAct s base n sflags before) := by
  unfold State.scrubAct
  dsimp only
  split
  · with_reducible exact kept_Act_no ‹_›
  · split
    · refine ActKept.hold ?_
      with_reducible assumption
    · with_reducible exact kept_Act_did (kept_scrubWork ‹_›)

theorem kept_stateWriteAct {o : Bool} {s0 s : State} {offset data : _} (h : Kept false o s0 s) :
    ActKept false o s0 (State.stateWriteAct s offset data) := by
  unfold State.stateWriteAct
  dsimp only
  split
  · refine ActKept.hold ?_
    with_reducible assumption
  · split
    · with_reducible exact kept_Act_no (kept_touch ‹_›)
    · with_reducible exact kept_Act_ok (kept_settle (kept_applyBlock (kept_writeRange (kept_touch ‹_›))))

theorem kept_retry {o : Bool} {s0 s : State} {i : _} (h : Kept false o s0 s) :
    Kept false o s0 (State.retry s i) := by
  unfold State.retry
  split
  · refine Kept.ite ?_ ?_
    · split
      · with_reducible refine kept_answerHeld ?_ ?_
        · with_reducible assumption
        · refine ActKept.reply ?_
          exact kept_readFetched (by with_reducible assumption) (by with_reducible assumption)
      · with_reducible assumption
    · with_reducible refine kept_answerHeld ?_ ?_
      · with_reducible assumption
      · with_reducible exact kept_readLocal ‹_›
  · with_reducible refine kept_answerHeld ?_ ?_
    · with_reducible assumption
    · with_reducible exact kept_memWriteAct ‹_›
  · with_reducible refine kept_answerHeld ?_ ?_
    · with_reducible assumption
    · with_reducible exact kept_memAtomicAct ‹_›
  · with_reducible refine kept_answerHeld ?_ ?_
    · with_reducible assumption
    · with_reducible exact kept_retry_dropMask (kept_readLocal ‹_›)
  · with_reducible refine kept_answerHeld ?_ ?_
    · with_reducible assumption
    · with_reducible exact kept_stateWriteAct ‹_›
  · with_reducible refine kept_finishHeld ?_ ?_
    · with_reducible assumption
    · with_reducible exact kept_scrubAct ‹_›
  · with_reducible refine kept_finishHeld ?_ ?_
    · with_reducible assumption
    · with_reducible exact kept_digestAct ‹_›
  · with_reducible assumption

theorem kept_runHeld {o : Bool} {s0 s : State} (h : Kept false o s0 s) :
    Kept false o s0 (State.runHeld s) := by
  unfold State.runHeld
  refine Kept.foldl ?_ (fun _ _ _ => ?_)
  · with_reducible assumption
  · with_reducible exact kept_retry ‹_›

theorem kept_requestGo {m o : Bool} {s0 : State} {role k a n : Nat} {p : State × List (Nat × Nat × Nat)} (h : Kept m o s0
    p.1) :
    Kept m o s0 (State.requestGo role k a n p).1 := by
  induction k generalizing a n p with
  | zero => exact h
  | succ k ih =>
    unfold State.requestGo
    split
    · exact h
    · exact ih (kept_routeRole (kept_takeMseq h))

theorem kept_startFetch {m o : Bool} {s0 s : State} {role a n : _} (h : Kept m o s0 s) :
    Kept m o s0 (State.startFetch s role a n) := by
  have h1 := kept_requestGo (role := role) (k := n / 32 + 1) (a := a) (n := n) (p := (s, [])) h
  unfold State.startFetch
  generalize State.requestGo role (n / 32 + 1) a n (s, []) = p at h1 ⊢
  exact kept_mapQuill h1

theorem kept_farLines {m o : Bool} {s0 s : State} {role a n : Nat} {x : _} (h : Kept m o s0 s) (e : State.farLines s role a
    n = some x) :
    Kept m o s0 x.1 := by
  unfold State.farLines at e
  dsimp only at e
  split at e
  · cases e; exact Kept.foldl h (fun _ h _ => kept_countAt h)
  · cases e

theorem kept_memReadAct {o : Bool} {s0 s : State} {addr n mflags : _} (h : Kept false o s0 s) :
    ActKept false o s0 (State.memReadAct s addr n mflags) := by
  unfold State.memReadAct
  dsimp only
  split
  · with_reducible exact kept_readLocal ‹_›
  · split
    · with_reducible exact kept_Act_no ‹_›
    · split
      · with_reducible exact kept_readLocal ‹_›
      · split
        · with_reducible exact kept_Act_no ‹_›
        · split
          · refine ActKept.reply ?_
            exact kept_farLines (by with_reducible assumption) (by with_reducible assumption)
          · refine ActKept.hold ?_
            with_reducible exact kept_startFetch ‹_›

theorem kept_noteRange {m o : Bool} {s0 s : State} {a1 base n : _} (h : Kept m o s0 s) :
    Kept m o s0 (State.noteRange s a1 base n) := by
  unfold State.noteRange
  with_reducible exact kept_onDeferred ‹_›

theorem kept_execCommandDone {o : Bool} {s0 s : State} {index : _} (h : Kept false o s0 s) :
    OutKept false o s0 (execCommandDone index s) := by
  unfold execCommandDone
  dsimp only
  refine OutKept.next ?_
  split
  · split
    · with_reducible refine kept_runHeld ?_
      with_reducible refine kept_endDeferred ?_
      refine Kept.iteR ?_ (fun _ => ?_)
      · with_reducible assumption
      · with_reducible exact kept_setJobState ‹_›
    · with_reducible assumption
  · with_reducible assumption

theorem kept_execDigest {o : Bool} {s0 s : State} {a0 base bytes : _} (h : Kept false o s0 s) :
    OutKept false o s0 (execDigest a0 base bytes s) := by
  unfold execDigest
  refine OutKept.next ?_
  with_reducible refine kept_noteRange ?_
  with_reducible refine kept_command ?_ ?_
  · with_reducible assumption
  · intro _ _
    with_reducible exact kept_digestAct ‹_›

theorem kept_execMemAtomic {o : Bool} {s0 s : State} {a0 addr op operand comparand : _} (h : Kept false o s0 s) :
    OutKept false o s0 (execMemAtomic a0 addr op operand comparand s) := by
  unfold execMemAtomic
  refine OutKept.next ?_
  with_reducible refine kept_command ?_ ?_
  · with_reducible assumption
  · intro _ _
    with_reducible exact kept_memAtomicAct ‹_›

theorem kept_execMemRead {o : Bool} {s0 s : State} {a0 addr bytes mflags : _} (h : Kept false o s0 s) :
    OutKept false o s0 (execMemRead a0 addr bytes mflags s) := by
  unfold execMemRead
  refine OutKept.next ?_
  with_reducible refine kept_command ?_ ?_
  · with_reducible assumption
  · intro _ _
    with_reducible exact kept_memReadAct ‹_›

theorem kept_execMemWrite {o : Bool} {s0 s : State} {a0 addr mflags data : _} (h : Kept false o s0 s) :
    OutKept false o s0 (execMemWrite a0 addr mflags data s) := by
  unfold execMemWrite
  refine OutKept.next ?_
  with_reducible refine kept_command ?_ ?_
  · with_reducible assumption
  · intro _ _
    with_reducible exact kept_memWriteAct ‹_›

theorem kept_execScrub {o : Bool} {s0 s : State} {a0 base bytes sflags : _} (h : Kept false o s0 s) :
    OutKept false o s0 (execScrub a0 base bytes sflags s) := by
  unfold execScrub
  refine OutKept.next ?_
  with_reducible refine kept_noteRange ?_
  with_reducible refine kept_command ?_ ?_
  · with_reducible assumption
  · intro _ _
    with_reducible exact kept_scrubAct ‹_›

theorem kept_execStateRead {o : Bool} {s0 s : State} {a0 offset bytes : _} (h : Kept false o s0 s) :
    OutKept false o s0 (execStateRead a0 offset bytes s) := by
  unfold execStateRead
  refine OutKept.next ?_
  with_reducible refine kept_command ?_ ?_
  · with_reducible assumption
  · intro _ _
    with_reducible exact kept_retry_dropMask (kept_readLocal ‹_›)

theorem kept_execStateWrite {o : Bool} {s0 s : State} {a0 offset data : _} (h : Kept false o s0 s) :
    OutKept false o s0 (execStateWrite a0 offset data s) := by
  unfold execStateWrite
  refine OutKept.next ?_
  with_reducible refine kept_command ?_ ?_
  · with_reducible assumption
  · intro _ _
    with_reducible exact kept_stateWriteAct ‹_›

end Sys2Proof.Laws
end

