-- ==== Sys2Proof/Laws/KeepsRisk.lean ====
section
/-! SUPPORT. What each operation of Machine/Risk.lean keeps, by the relation of Laws/Kept.lean. -/
namespace Sys2Proof.Laws
open Sys2Proof.Machine

theorem kept_noteBudget {m o : Bool} {s0 s : State} (h : Kept m o s0 s) :
    Kept m o s0 (State.noteBudget s) := by
  unfold State.noteBudget
  with_reducible exact kept_put ‹_›

theorem kept_setLevel {m o : Bool} {s0 s : State} {l : _} (h : Kept m o s0 s) :
    Kept m o s0 (State.setLevel s l) := by
  unfold State.setLevel
  dsimp only
  refine Kept.iteL ?_ (fun _ => ?_)
  · with_reducible assumption
  · refine Kept.iteR ?_ (fun _ => ?_)
    · refine Kept.iteR ?_ (fun _ => ?_)
      · with_reducible refine kept_markLevel ?_
        with_reducible refine kept_noteBudget ?_
        refine Kept.iteR ?_ (fun _ => ?_)
        · with_reducible exact kept_raise (kept_count (kept_put (kept_put ‹_›)))
        · with_reducible exact kept_alert ‹_›
      · with_reducible exact kept_raise ‹_›
    · with_reducible exact kept_stopFollow ‹_›

theorem kept_clampLevel {m o : Bool} {s0 s : State} (h : Kept m o s0 s) :
    Kept m o s0 (State.clampLevel s) := by
  unfold State.clampLevel
  dsimp only
  refine Kept.ite ?_ ?_
  · with_reducible exact kept_setLevel (kept_put ‹_›)
  · refine Kept.iteR ?_ (fun _ => ?_)
    · with_reducible exact kept_put ‹_›
    · with_reducible exact kept_setLevel ‹_›

theorem kept_moveLevel {m o : Bool} {s0 s : State} {r : _} (h : Kept m o s0 s) :
    Kept m o s0 (State.moveLevel s r) := by
  unfold State.moveLevel
  dsimp only
  refine Kept.ite ?_ ?_
  · with_reducible refine kept_setLevel ?_
    with_reducible refine Kept.upd2 ?_ rfl rfl rfl rfl
    with_reducible exact kept_put ‹_›
  · refine Kept.iteL ?_ (fun _ => ?_)
    · with_reducible exact kept_put ‹_›
    · refine Kept.iteL ?_ (fun _ => ?_)
      · with_reducible refine Kept.upd2 ?_ rfl rfl rfl rfl
        with_reducible assumption
      · split
        · with_reducible refine Kept.upd2 ?_ rfl rfl rfl rfl
          with_reducible assumption
        · refine Kept.iteL ?_ (fun _ => ?_)
          · with_reducible assumption
          · refine Kept.ite ?_ ?_
            · with_reducible exact kept_put ‹_›
            · refine Kept.iteL ?_ (fun _ => ?_)
              · with_reducible assumption
              · with_reducible exact kept_setLevel ‹_›

theorem kept_watchDwell {m o : Bool} {s0 s : State} {r : _} (h : Kept m o s0 s) :
    Kept m o s0 (State.watchDwell s r) := by
  unfold State.watchDwell
  dsimp only
  with_reducible refine Kept.upd2 ?_ rfl rfl rfl rfl
  with_reducible assumption

theorem kept_execRiskSample {m o : Bool} {s0 s : State} (h : Kept m o s0 s) :
    OutKept m o s0 (execRiskSample s) := by
  unfold execRiskSample
  dsimp only
  refine OutKept.next ?_
  refine Kept.iteL ?_ (fun _ => ?_)
  · with_reducible assumption
  · refine Kept.ite ?_ ?_
    · with_reducible refine kept_watchDwell ?_
      with_reducible refine kept_clampLevel ?_
      with_reducible refine kept_put ?_
      with_reducible refine kept_put ?_
      refine Kept.foldl ?_ (fun _ _ _ => ?_)
      · with_reducible assumption
      · with_reducible exact kept_put ‹_›
    · with_reducible refine kept_moveLevel ?_
      with_reducible refine kept_put ?_
      with_reducible refine kept_put ?_
      refine Kept.foldl ?_ (fun _ _ _ => ?_)
      · with_reducible assumption
      · with_reducible exact kept_put ‹_›

end Sys2Proof.Laws
end

