-- ==== Sys2Proof/Laws/KeepsRegisters.lean ====
section
/-! SUPPORT. What each operation of Machine/Registers.lean keeps, by the relation of Laws/Kept.lean. -/
namespace Sys2Proof.Laws
open Sys2Proof.Machine

theorem kept_Act_status {m o : Bool} {s0 : State} {p : _} (h : Kept m o s0 p.1) :
    ActKept m o s0 (Act.status p) := by
  exact h

theorem kept_afterPair {m o : Bool} {s0 s : State} {a old mgmt : _} (h : Kept m o s0 s) :
    Kept m o s0 (State.afterPair s a old mgmt) := by
  unfold State.afterPair
  dsimp only
  refine Kept.ite ?_ ?_
  · refine Kept.iteR ?_ (fun _ => ?_)
    · with_reducible assumption
    · with_reducible refine Kept.upd2 ?_ rfl rfl rfl rfl
      with_reducible exact kept_put ‹_›
  · refine Kept.ite ?_ ?_
    · refine Kept.ite ?_ ?_
      · with_reducible exact kept_put ‹_›
      · with_reducible exact kept_setReg ‹_›
    · refine Kept.iteR ?_ (fun _ => ?_)
      · with_reducible assumption
      · refine Kept.iteR ?_ (fun _ => ?_)
        · with_reducible assumption
        · with_reducible exact kept_evacTrigger (kept_put ‹_›)

theorem kept_afterReply {o : Bool} {s0 s : State} (h : Kept false o s0 s) :
    Kept false o s0 (State.afterReply s) := by
  unfold State.afterReply
  dsimp only
  split
  · with_reducible refine kept_resetRequest ?_
    with_reducible refine Kept.upd2 ?_ rfl rfl rfl rfl
    with_reducible assumption
  · with_reducible assumption

theorem kept_clearCounters {m o : Bool} {s0 s : State} (h : Kept m o s0 s) :
    Kept m o s0 (State.clearCounters s) := by
  unfold State.clearCounters
  with_reducible exact kept_resetRegs (kept_resetRegs ‹_›)

theorem kept_enableMoved {o : Bool} {s0 s : State} {a on : _} (h : Kept false o s0 s) :
    Kept false o s0 (State.enableMoved s a on) := by
  unfold State.enableMoved
  dsimp only
  refine Kept.ite ?_ ?_
  · refine Kept.iteL ?_ (fun _ => ?_)
    · with_reducible assumption
    · with_reducible exact kept_put (kept_noteBundle (kept_portLoss ‹_›))
  · refine Kept.ite ?_ ?_
    · refine Kept.iteR ?_ (fun _ => ?_)
      · with_reducible assumption
      · with_reducible exact kept_noteFree ‹_›
    · refine Kept.ite ?_ ?_
      · refine Kept.iteR ?_ (fun _ => ?_)
        · with_reducible assumption
        · refine Kept.foldl ?_ (fun _ _ _ => ?_)
          · with_reducible assumption
          · with_reducible exact kept_releasePort ‹_›
      · refine Kept.ite ?_ ?_
        · refine Kept.iteL ?_ (fun _ => ?_)
          · with_reducible assumption
          · with_reducible exact kept_hostDown ‹_›
        · refine Kept.ite ?_ ?_
          · refine Kept.iteR ?_ (fun _ => ?_)
            · with_reducible exact kept_put ‹_›
            · with_reducible exact kept_runHeld ‹_›
          · refine Kept.ite ?_ ?_
            · with_reducible exact kept_runHeld ‹_›
            · refine Kept.ite ?_ ?_
              · with_reducible exact kept_mapJob ‹_›
              · refine Kept.iteR ?_ (fun _ => ?_)
                · with_reducible assumption
                · with_reducible exact kept_mapJob ‹_›

theorem kept_holdAlerts {m o : Bool} {s0 s : State} (h : Kept m o s0 s) :
    Kept m o s0 (State.holdAlerts s) := by
  unfold State.holdAlerts
  dsimp only
  refine Kept.iteR ?_ (fun _ => ?_)
  · refine Kept.iteR ?_ (fun _ => ?_)
    · with_reducible assumption
    · with_reducible exact kept_alert ‹_›
  · with_reducible exact kept_alert ‹_›

theorem kept_snapshot {m o : Bool} {s0 s : State} (h : Kept m o s0 s) :
    Kept m o s0 (State.snapshot s) := by
  unfold State.snapshot
  dsimp only
  with_reducible refine kept_put ?_
  with_reducible refine kept_put2 ?_
  refine Kept.foldl ?_ (fun _ _ _ => ?_)
  · with_reducible assumption
  · with_reducible exact kept_setReg (kept_setReg ‹_›)

theorem kept_afterWrite {o : Bool} {s0 s : State} {a old v mgmt : _} (h : Kept false o s0 s) :
    Kept false o s0 (State.afterWrite s a old v mgmt) := by
  unfold State.afterWrite
  dsimp only
  refine Kept.ite ?_ ?_
  · with_reducible exact kept_put (kept_put ‹_›)
  · refine Kept.ite ?_ ?_
    · refine Kept.iteR ?_ (fun _ => ?_)
      · refine Kept.iteR ?_ (fun _ => ?_)
        · with_reducible assumption
        · with_reducible exact kept_snapshot ‹_›
      · with_reducible exact kept_clearCounters ‹_›
    · refine Kept.ite ?_ ?_
      · with_reducible exact kept_holdAlerts ‹_›
      · refine Kept.ite ?_ ?_
        · with_reducible exact kept_clampLevel ‹_›
        · refine Kept.ite ?_ ?_
          · with_reducible exact kept_headDist ‹_›
          · refine Kept.ite ?_ ?_
            · with_reducible exact kept_cfgIgnored (kept_put ‹_›)
            · split
              · refine Kept.iteR ?_ (fun _ => ?_)
                · with_reducible assumption
                · with_reducible exact kept_enableMoved ‹_›
              · with_reducible assumption

theorem kept_noteCollision {m o : Bool} {s0 s : State} {a addr mgmt : _} (h : Kept m o s0 s) :
    Kept m o s0 (State.noteCollision s a addr mgmt) := by
  unfold State.noteCollision
  dsimp only
  refine Kept.iteR ?_ (fun _ => ?_)
  · with_reducible refine Kept.upd2 ?_ rfl rfl rfl rfl
    with_reducible assumption
  · with_reducible refine kept_count ?_
    with_reducible refine kept_alert ?_
    with_reducible refine kept_put ?_
    refine Kept.iteL ?_ (fun _ => ?_)
    · with_reducible assumption
    · with_reducible exact kept_put (kept_put ‹_›)

theorem kept_collide {m o : Bool} {s0 s : State} {a addr mgmt : _} (h : Kept m o s0 s) :
    Kept m o s0 (State.collide s a addr mgmt) := by
  unfold State.collide
  refine Kept.iteR ?_ (fun _ => ?_)
  · with_reducible assumption
  · with_reducible exact kept_noteCollision ‹_›

theorem kept_dropHalf {m o : Bool} {s0 s : State} {base : _} (h : Kept m o s0 s) :
    Kept m o s0 (State.dropHalf s base) := by
  unfold State.dropHalf
  dsimp only
  with_reducible refine Kept.upd2 ?_ rfl rfl rfl rfl
  with_reducible assumption

theorem kept_guardFault {m o : Bool} {s0 s : State} {addr mgmt : _} (h : Kept m o s0 s) :
    Kept m o s0 (State.guardFault s addr mgmt) := by
  unfold State.guardFault
  dsimp only
  with_reducible refine kept_count ?_
  with_reducible refine kept_alert ?_
  with_reducible refine kept_put ?_
  refine Kept.iteL ?_ (fun _ => ?_)
  · with_reducible assumption
  · with_reducible exact kept_put (kept_put ‹_›)

theorem kept_holdHalf {m o : Bool} {s0 s : State} {a v mgmt : _} (h : Kept m o s0 s) :
    Kept m o s0 (State.holdHalf s a v mgmt) := by
  unfold State.holdHalf
  dsimp only
  with_reducible refine Kept.upd2 ?_ rfl rfl rfl rfl
  with_reducible assumption

theorem kept_readReg {m o : Bool} {s0 s : State} {mgmt addr : _} (h : Kept m o s0 s) :
    Kept m o s0 (State.readReg s mgmt addr).1 := by
  unfold State.readReg
  dsimp only
  split
  · dsimp only
    with_reducible assumption
  · split
    · dsimp only
      with_reducible refine Kept.upd2 ?_ rfl rfl rfl rfl
      with_reducible assumption
    · dsimp only
      refine Kept.iteR ?_ (fun _ => ?_)
      · refine Kept.iteR ?_ (fun _ => ?_)
        · with_reducible assumption
        · with_reducible refine Kept.upd2 ?_ rfl rfl rfl rfl
          with_reducible assumption
      · with_reducible exact kept_put ‹_›

theorem kept_readRegs {m o : Bool} {s0 s : State} {mgmt addr n : _} (h : Kept m o s0 s) :
    Kept m o s0 (State.readRegs s mgmt addr n).1 := by
  unfold State.readRegs
  dsimp only
  refine Kept.foldl1 ?_ (fun _ _ _ => ?_)
  · dsimp only
    with_reducible assumption
  · dsimp only
    with_reducible exact kept_readReg ‹_›

theorem kept_writeAlias {m o : Bool} {s0 s : State} {a al v : _} (h : Kept m o s0 s) :
    Kept m o s0 (State.writeAlias s a al v) := by
  unfold State.writeAlias
  dsimp only
  split
  · with_reducible assumption
  · with_reducible exact kept_setReg ‹_›

theorem kept_testTouched {m o : Bool} {s0 s : State} (h : Kept m o s0 s) :
    Kept m o s0 (State.testTouched s) := by
  unfold State.testTouched
  with_reducible exact kept_count (kept_alert (kept_put ‹_›))

theorem kept_writeOwn {o : Bool} {s0 s : State} {mgmt a v pair : _} (h : Kept false o s0 s) :
    Kept false o s0 (State.writeOwn s mgmt a v pair) := by
  unfold State.writeOwn
  dsimp only
  split
  · with_reducible assumption
  · refine Kept.iteR ?_ (fun _ => ?_)
    · with_reducible refine kept_afterWrite ?_
      refine Kept.iteR ?_ (fun _ => ?_)
      · refine Kept.iteL ?_ (fun _ => ?_)
        · with_reducible exact kept_setReg ‹_›
        · with_reducible exact kept_testTouched ‹_›
      · with_reducible exact kept_cfgIgnored ‹_›
    · with_reducible exact kept_afterPair ‹_›

theorem kept_writeReg {o : Bool} {s0 s : State} {mgmt addr v : _} (h : Kept false o s0 s) :
    Kept false o s0 (State.writeReg s mgmt addr v).1 := by
  unfold State.writeReg
  dsimp only
  split
  · split
    · split
      · dsimp only
        with_reducible exact kept_collide (kept_writeOwn (kept_dropHalf ‹_›))
      · dsimp only
        with_reducible exact kept_dropHalf ‹_›
    · dsimp only
      with_reducible exact kept_guardFault (kept_dropHalf ‹_›)
  · split
    · dsimp only
      with_reducible exact kept_guardFault ‹_›
    · split
      · dsimp only
        with_reducible assumption
      · split
        · dsimp only
          with_reducible exact kept_collide (kept_holdHalf ‹_›)
        · split
          · dsimp only
            with_reducible exact kept_collide (kept_writeOwn ‹_›)
          · dsimp only
            with_reducible exact kept_collide (kept_writeAlias ‹_›)

theorem kept_regWrite {o : Bool} {s0 s : State} {a1 addr value i : _} (h : Kept false o s0 s) :
    Kept false o s0 (State.regWrite s a1 addr value i) := by
  unfold State.regWrite
  with_reducible refine kept_afterReply ?_
  with_reducible refine kept_command ?_ ?_
  · with_reducible assumption
  · intro _ _
    with_reducible exact kept_Act_status (kept_writeReg ‹_›)

theorem kept_writePair {o : Bool} {s0 s : State} {mgmt addr v : _} (h : Kept false o s0 s) :
    Kept false o s0 (State.writePair s mgmt addr v).1 := by
  unfold State.writePair
  dsimp only
  split
  · dsimp only
    with_reducible exact kept_guardFault (kept_dropHalf ‹_›)
  · split
    · dsimp only
      with_reducible assumption
    · dsimp only
      with_reducible exact kept_collide (kept_writeOwn ‹_›)

theorem kept_regWritePair {o : Bool} {s0 s : State} {a1 addr value i : _} (h : Kept false o s0 s) :
    Kept false o s0 (State.regWritePair s a1 addr value i) := by
  unfold State.regWritePair
  with_reducible refine kept_afterReply ?_
  with_reducible refine kept_command ?_ ?_
  · with_reducible assumption
  · intro _ _
    with_reducible exact kept_Act_status (kept_writePair ‹_›)

theorem kept_execBlockReset {o : Bool} {s0 s : State} {a0 block : _} (h : Kept false o s0 s) :
    OutKept false o s0 (execBlockReset a0 block s) := by
  unfold execBlockReset
  refine OutKept.next ?_
  with_reducible exact kept_regWritePair ‹_›

theorem kept_execClear {o : Bool} {s0 s : State} {a0 : _} (h : Kept false o s0 s) :
    OutKept false o s0 (execClear a0 s) := by
  unfold execClear
  refine OutKept.next ?_
  with_reducible exact kept_regWrite ‹_›

theorem kept_execEvacReq {o : Bool} {s0 s : State} {a0 cab lchan : _} (h : Kept false o s0 s) :
    OutKept false o s0 (execEvacReq a0 cab lchan s) := by
  unfold execEvacReq
  refine OutKept.next ?_
  with_reducible exact kept_regWritePair ‹_›

theorem kept_execGuardTimeout {m o : Bool} {s0 s : State} {block : _} (h : Kept m o s0 s) :
    OutKept m o s0 (execGuardTimeout block s) := by
  unfold execGuardTimeout
  dsimp only
  refine OutKept.next ?_
  split
  · refine Kept.iteR ?_ (fun _ => ?_)
    · with_reducible assumption
    · with_reducible exact kept_guardFault (kept_dropHalf ‹_›)
  · with_reducible assumption

theorem kept_execRegRead {m o : Bool} {s0 s : State} {a0 addr count : _} (h : Kept m o s0 s) :
    OutKept m o s0 (execRegRead a0 addr count s) := by
  unfold execRegRead
  dsimp only
  refine OutKept.next ?_
  with_reducible refine kept_command ?_ ?_
  · with_reducible assumption
  · intro _ _
    refine ActKept.reply ?_
    with_reducible exact kept_readRegs ‹_›

theorem kept_execRegWrite {o : Bool} {s0 s : State} {a0 addr value : _} (h : Kept false o s0 s) :
    OutKept false o s0 (execRegWrite a0 addr value s) := by
  unfold execRegWrite
  refine OutKept.next ?_
  with_reducible exact kept_regWrite ‹_›

theorem kept_execRegWritePair {o : Bool} {s0 s : State} {a0 addr value : _} (h : Kept false o s0 s) :
    OutKept false o s0 (execRegWritePair a0 addr value s) := by
  unfold execRegWritePair
  refine OutKept.next ?_
  with_reducible exact kept_regWritePair ‹_›

theorem kept_execSnap {o : Bool} {s0 s : State} {a0 : _} (h : Kept false o s0 s) :
    OutKept false o s0 (execSnap a0 s) := by
  unfold execSnap
  refine OutKept.next ?_
  with_reducible exact kept_regWrite ‹_›

theorem kept_execWarmReset {o : Bool} {s0 s : State} {a0 : _} (h : Kept false o s0 s) :
    OutKept false o s0 (execWarmReset a0 s) := by
  unfold execWarmReset
  refine OutKept.next ?_
  with_reducible exact kept_regWritePair ‹_›

end Sys2Proof.Laws
end

