-- ==== Sys2Proof/Laws/KeepsLoad.lean ====
section
/-! SUPPORT. What each operation of Machine/Load.lean keeps, by the relation of Laws/Kept.lean. -/
namespace Sys2Proof.Laws
open Sys2Proof.Machine

theorem kept_readBlock {o : Bool} {s0 s : State} (h : Kept false o s0 s) :
    Kept false o s0 (State.readBlock s) := by
  unfold State.readBlock
  dsimp only
  with_reducible exact kept_touch (kept_touch (kept_touch ‹_›))

theorem kept_assembleBlock {o : Bool} {s0 s : State} {step : _} (h : Kept false o s0 s) :
    Kept false o s0 (State.assembleBlock s step) := by
  unfold State.assembleBlock
  dsimp only
  refine Kept.foldl ?_ (fun _ _ _ => ?_)
  · with_reducible exact kept_readBlock ‹_›
  · with_reducible exact kept_writeRange ‹_›

theorem kept_freshBlock {o : Bool} {s0 s : State} (h : Kept false o s0 s) :
    Kept false o s0 (State.freshBlock s) := by
  unfold State.freshBlock
  dsimp only
  with_reducible exact kept_assembleBlock (kept_writeRange (kept_zeroRange (kept_readRange ‹_›)))

theorem kept_freshPaths {m o : Bool} {s0 s : State} {f : _} (h : Kept m o s0 s) :
    Kept m o s0 (State.freshPaths s f) := by
  unfold State.freshPaths
  dsimp only
  with_reducible exact kept_put (kept_put2 (kept_mapSvl (kept_stopFollow (kept_put (kept_put (kept_resetRegs (kept_mapQuill
      (kept_dropHeld ‹_›))))))))

theorem kept_writeSystem {o : Bool} {s0 s : State} {a bs : _} (h : Kept false o s0 s) :
    Kept false o s0 (State.writeSystem s a bs) := by
  unfold State.writeSystem
  with_reducible exact kept_writeRange ‹_›

theorem kept_freshRecords {o : Bool} {s0 s : State} {f : _} (h : Kept false o s0 s) :
    Kept false o s0 (State.freshRecords s f) := by
  unfold State.freshRecords
  dsimp only
  with_reducible exact kept_writeSystem (kept_writeSystem ‹_›)

theorem kept_setClass {o : Bool} {s0 s : State} {p c : _} (h : Kept false o s0 s) :
    Kept false o s0 (State.setClass s p c) := by
  unfold State.setClass
  dsimp only
  refine Kept.iteL ?_ (fun _ => ?_)
  · with_reducible assumption
  · with_reducible refine Kept.upd3 ?_ ?_ ?_ ?_ ?_ ?_ ?_ ?_ ?_ ?_
    · with_reducible exact kept_zeroRange ‹_›
    · exact le_refl _
    · with_reducible exact fun h => h
    · with_reducible exact fun h => wf_cls h
    · exact fun h => absurd h Bool.false_ne_true
    · with_reducible exact fun h => h
    · with_reducible exact fun h => h
    · exact le_refl _
    · exact le_refl _
    · with_reducible exact fun _ => rfl

theorem kept_setClasses {o : Bool} {s0 s : State} {f : _} (h : Kept false o s0 s) :
    Kept false o s0 (State.setClasses s f) := by
  unfold State.setClasses
  dsimp only
  refine Kept.foldl ?_ (fun _ _ _ => ?_)
  · refine Kept.foldl ?_ (fun _ _ _ => ?_)
    · with_reducible assumption
    · with_reducible exact kept_setClass ‹_›
  · refine Kept.foldl ?_ (fun _ _ _ => ?_)
    · with_reducible assumption
    · with_reducible exact kept_setClass ‹_›

theorem kept_accept {o : Bool} {s0 s : State} {f : _} (h : Kept false o s0 s) :
    Kept false o s0 (State.accept s f) := by
  unfold State.accept
  dsimp only
  with_reducible refine kept_clampLevel ?_
  with_reducible refine kept_freshBlock ?_
  with_reducible refine kept_freshPaths ?_
  with_reducible refine kept_put ?_
  with_reducible refine kept_put2 ?_
  with_reducible refine kept_put ?_
  with_reducible refine kept_freshRecords ?_
  with_reducible refine kept_put ?_
  with_reducible refine kept_put ?_
  with_reducible refine kept_put ?_
  with_reducible refine kept_notePending ?_
  with_reducible refine kept_mapRun ?_
  with_reducible refine Kept.upd2 ?_ rfl rfl rfl rfl
  with_reducible exact kept_setClasses ‹_›

theorem kept_loadAct {o : Bool} {s0 s : State} {n digest : _} (h : Kept false o s0 s) :
    ActKept false o s0 (State.loadAct s n digest) := by
  unfold State.loadAct
  dsimp only
  split
  · with_reducible exact kept_Act_no ‹_›
  · split
    · with_reducible exact kept_Act_did (kept_setJobState (kept_readRange ‹_›))
    · split
      · with_reducible exact kept_Act_did (kept_setJobState (kept_readRange ‹_›))
      · with_reducible exact kept_Act_did (kept_accept (kept_setJobState (kept_readRange ‹_›)))

theorem kept_execFolioData {o : Bool} {s0 s : State} {a0 offset data : _} (h : Kept false o s0 s) :
    OutKept false o s0 (execFolioData a0 offset data s) := by
  unfold execFolioData
  refine OutKept.next ?_
  with_reducible refine kept_command ?_ ?_
  · with_reducible assumption
  · intro _ _
    with_reducible exact kept_Act_ok (kept_settle (kept_writeRange ‹_›))

theorem kept_execLoadFolio {o : Bool} {s0 s : State} {a0 imageBytes digest : _} (h : Kept false o s0 s) :
    OutKept false o s0 (execLoadFolio a0 imageBytes digest s) := by
  unfold execLoadFolio
  refine OutKept.next ?_
  with_reducible refine kept_command ?_ ?_
  · with_reducible assumption
  · intro _ _
    with_reducible exact kept_loadAct ‹_›

end Sys2Proof.Laws
end

