-- ==== Sys2Proof/Laws/KeepsRestore.lean ====
section
/-! SUPPORT. What each operation of Machine/Restore.lean keeps, by the relation of Laws/Kept.lean. -/
namespace Sys2Proof.Laws
open Sys2Proof.Machine

theorem kept_endRecover {m o : Bool} {s0 s : State} {adopt status digest : _} (h : Kept m o s0 s) :
    Kept m o s0 (State.endRecover s adopt status digest) := by
  unfold State.endRecover
  with_reducible exact kept_finishOp (kept_mapSvl ‹_›)

theorem kept_putImage {o : Bool} {s0 s : State} {a1 d marked : _} (h : Kept false o s0 s) :
    Kept false o s0 (State.putImage s a1 d marked) := by
  unfold State.putImage
  dsimp only
  split
  · with_reducible refine Kept.upd2 ?_ rfl rfl rfl rfl
    with_reducible exact kept_put (kept_lineWrite ‹_›)
  · with_reducible assumption

theorem kept_readImage {o : Bool} {s0 s : State} {base n : _} (h : Kept false o s0 s) :
    Kept false o s0 (State.readImage s base n).1 := by
  unfold State.readImage
  dsimp only
  refine Kept.foldl1 ?_ (fun _ _ _ => ?_)
  · dsimp only
    with_reducible assumption
  · dsimp only
    with_reducible exact kept_lineRead ‹_›

theorem kept_adopted {m o : Bool} {s0 s : State} {f st latch goes : _} (h : Kept m o s0 s) :
    Kept m o s0 (State.adopted s f st latch goes) := by
  unfold State.adopted
  dsimp only
  with_reducible refine kept_sendPairs ?_
  refine Kept.iteR ?_ (fun _ => ?_)
  · with_reducible refine kept_put ?_
    with_reducible refine kept_put ?_
    with_reducible refine kept_mapSvl ?_
    split
    · with_reducible exact kept_put (kept_put (kept_put (kept_discardFar ‹_›)))
    · with_reducible exact kept_put (kept_put (kept_discardFar ‹_›))
  · with_reducible exact kept_noteRanges (kept_put (kept_mapSvl ‹_›))

theorem kept_imageAt {o : Bool} {s0 s : State} {st digest : _} (h : Kept false o s0 s) :
    Kept false o s0 (State.imageAt s st digest) := by
  unfold State.imageAt
  dsimp only
  with_reducible exact kept_mapSvl (kept_applyBlock (kept_put ‹_›))

theorem kept_verifyImage {o : Bool} {s0 s : State} {f r digest latch goes : _} (h : Kept false o s0 s) :
    Kept false o s0 (State.verifyImage s f r digest latch goes) := by
  unfold State.verifyImage
  dsimp only
  refine Kept.ite ?_ ?_
  · with_reducible refine kept_endRecover ?_
    refine Kept.iteR ?_ (fun _ => ?_)
    · with_reducible exact kept_imageAt (kept_ownDigest ‹_›)
    · with_reducible exact kept_adopted ‹_›
  · with_reducible exact kept_endRecover (kept_mapSvl (kept_ownDigest ‹_›))

theorem kept_adoptHere {o : Bool} {s0 s : State} {f st : _} (h : Kept false o s0 s) :
    Kept false o s0 (State.adoptHere s f st) := by
  unfold State.adoptHere
  dsimp only
  refine Kept.ite ?_ ?_
  · with_reducible exact kept_endRecover (kept_readImage ‹_›)
  · with_reducible refine kept_verifyImage ?_
    refine Kept.foldl ?_ (fun _ _ _ => ?_)
    · with_reducible exact kept_readImage ‹_›
    · with_reducible exact kept_putImage ‹_›

theorem kept_syncHead {o : Bool} {s0 s : State} (h : Kept false o s0 s) :
    Kept false o s0 (State.syncHead s) := by
  unfold State.syncHead
  dsimp only
  split
  · refine Kept.foldl ?_ (fun _ _ _ => ?_)
    · with_reducible assumption
    · refine Kept.iteL ?_ (fun _ => ?_)
      · with_reducible assumption
      · with_reducible exact kept_lineWrite ‹_›
  · with_reducible assumption

theorem kept_shadowRead {o : Bool} {s0 s : State} {reader off : _} (h : Kept false o s0 s) :
    Kept false o s0 (State.shadowRead s reader off).1 := by
  unfold State.shadowRead
  dsimp only
  split
  · dsimp only
    with_reducible assumption
  · split
    · split
      · dsimp only
        with_reducible exact kept_lineRead (kept_syncHead ‹_›)
      · dsimp only
        with_reducible assumption
    · split
      · dsimp only
        with_reducible assumption
      · dsimp only
        with_reducible exact kept_lineRead ‹_›

theorem kept_askLeaves {m o : Bool} {s0 s : State} {p due : _} (h : Kept m o s0 s) :
    Kept m o s0 (State.askLeaves s p due) := by
  unfold State.askLeaves
  with_reducible refine kept_mapSvl ?_
  refine Kept.foldl ?_ (fun _ _ _ => ?_)
  · with_reducible assumption
  · with_reducible exact kept_startFetch ‹_›

theorem kept_placeLeaves {o : Bool} {s0 s : State} {fs : _} (h : Kept false o s0 s) :
    Kept false o s0 (State.placeLeaves s fs) := by
  unfold State.placeLeaves
  refine Kept.foldl ?_ (fun _ _ _ => ?_)
  · with_reducible assumption
  · with_reducible refine kept_dropFetch ?_
    refine Kept.foldl ?_ (fun _ _ _ => ?_)
    · with_reducible assumption
    · with_reducible exact kept_putImage ‹_›

theorem kept_recoverGo {o : Bool} {s0 s : State} (h : Kept false o s0 s) :
    Kept false o s0 (State.recoverGo s) := by
  unfold State.recoverGo
  dsimp only
  split
  · split
    · with_reducible assumption
    · split
      · with_reducible exact kept_endRecover (kept_dropFetch ‹_›)
      · refine Kept.ite ?_ ?_
        · with_reducible exact kept_endRecover (kept_dropFetch ‹_›)
        · refine Kept.iteR ?_ (fun _ => ?_)
          · refine Kept.iteL ?_ (fun _ => ?_)
            · with_reducible assumption
            · with_reducible exact kept_askLeaves ‹_›
          · with_reducible exact kept_verifyImage (kept_dropFetch (kept_placeLeaves ‹_›))
  · with_reducible assumption

theorem kept_startRecover {m o : Bool} {s0 s : State} {p st adopt : _} (h : Kept m o s0 s) :
    Kept m o s0 (State.startRecover s p st adopt) := by
  unfold State.startRecover
  with_reducible exact kept_startFetch (kept_mapSvl ‹_›)

theorem kept_execAdopt {o : Bool} {s0 s : State} {a0 role step : _} (h : Kept false o s0 s) :
    OutKept false o s0 (execAdopt a0 role step s) := by
  unfold execAdopt
  dsimp only
  refine OutKept.next ?_
  split
  · refine Kept.iteR ?_ (fun _ => ?_)
    · with_reducible refine kept_command ?_ ?_
      · with_reducible assumption
      · intro _ _
        split
        · with_reducible exact kept_Act_no ‹_›
        · split
          · split
            · with_reducible exact kept_Act_did ‹_›
            · split
              · refine ActKept.begun ?_
                with_reducible exact kept_mapSvl ‹_›
              · refine ActKept.begun ?_
                with_reducible exact kept_startRecover ‹_›
          · with_reducible exact kept_Act_did ‹_›
    · with_reducible exact kept_adoptHere ‹_›
  · with_reducible refine kept_command ?_ ?_
    · with_reducible assumption
    · intro _ _
      split
      · with_reducible exact kept_Act_no ‹_›
      · split
        · split
          · with_reducible exact kept_Act_did ‹_›
          · split
            · refine ActKept.begun ?_
              with_reducible exact kept_mapSvl ‹_›
            · refine ActKept.begun ?_
              with_reducible exact kept_startRecover ‹_›
        · with_reducible exact kept_Act_did ‹_›

theorem kept_execRestore {m o : Bool} {s0 s : State} {a0 step : _} (h : Kept m o s0 s) :
    OutKept m o s0 (execRestore a0 step s) := by
  unfold execRestore
  refine OutKept.next ?_
  with_reducible refine kept_command ?_ ?_
  · with_reducible assumption
  · intro _ _
    split
    · with_reducible exact kept_Act_no ‹_›
    · split
      · refine ActKept.begun ?_
        with_reducible exact kept_startRecover ‹_›
      · with_reducible exact kept_Act_did ‹_›

end Sys2Proof.Laws
end

