-- ==== Sys2Proof/Laws/KeepsQuillRx.lean ====
section
/-! SUPPORT. What each operation of Machine/QuillRx.lean keeps, by the relation of Laws/Kept.lean. -/
namespace Sys2Proof.Laws
open Sys2Proof.Machine

theorem kept_addLines {o : Bool} {s0 s : State} {fr a2 : _} (h : Kept false o s0 s) :
    Kept false o s0 (State.addLines s fr a2) := by
  unfold State.addLines
  dsimp only
  with_reducible refine kept_countAt ?_
  refine Kept.foldl ?_ (fun _ _ _ => ?_)
  · with_reducible assumption
  · with_reducible exact kept_exactAdd ‹_›

theorem kept_answerRead {o : Bool} {s0 s : State} {a1 : _} (h : Kept false o s0 s) :
    Kept false o s0 (State.answerRead s a1) := by
  unfold State.answerRead
  dsimp only
  refine Kept.foldl ?_ (fun _ _ _ => ?_)
  · with_reducible refine kept_settle ?_
    refine Kept.foldl1 ?_ (fun _ _ _ => ?_)
    · dsimp only
      with_reducible assumption
    · split
      · dsimp only
        with_reducible exact kept_shadowRead ‹_›
      · split
        · dsimp only
          with_reducible assumption
        · dsimp only
          with_reducible exact kept_lineRead ‹_›
  · with_reducible exact kept_routeRole ‹_›

theorem kept_sendReport {m o : Bool} {s0 s : State} {srcRole srcList dst group mseq step kind : _} (h : Kept m o s0 s) :
    Kept m o s0 (State.sendReport s srcRole srcList dst group mseq step kind) := by
  unfold State.sendReport
  dsimp only
  with_reducible exact kept_routeRole ‹_›

theorem kept_refuse {m o : Bool} {s0 s : State} {a1 group late : _} (h : Kept m o s0 s) :
    Kept m o s0 (State.refuse s a1 group late) := by
  unfold State.refuse
  dsimp only
  with_reducible refine kept_sendReport ?_
  refine Kept.ite ?_ ?_
  · with_reducible exact kept_put ‹_›
  · with_reducible exact kept_put ‹_›

theorem kept_byStep {m o : Bool} {s0 s : State} {a1 fr group new take : _} (h : Kept m o s0 s) (h_take : ∀ t, Kept m o s0 t
    → Kept m o s0 (take t)) :
    Kept m o s0 (State.byStep s a1 fr group new take).1 := by
  unfold State.byStep
  dsimp only
  split
  · dsimp only
    with_reducible exact kept_refuse ‹_›
  · split
    · dsimp only
      with_reducible refine kept_mapQuill ?_
      refine Kept.iteR ?_ (fun _ => ?_)
      · with_reducible assumption
      · with_reducible exact kept_countAt ‹_›
    · split
      · dsimp only
        with_reducible exact kept_refuse ‹_›
      · split
        · dsimp only
          with_reducible exact kept_refuse ‹_›
        · dsimp only
          refine h_take _ ?_
          with_reducible assumption

theorem kept_noteMsg {m o : Bool} {s0 s : State} {fr group lines close : _} (h : Kept m o s0 s) :
    Kept m o s0 (State.noteMsg s fr group lines close) := by
  unfold State.noteMsg
  dsimp only
  refine Kept.iteR ?_ (fun _ => ?_)
  · with_reducible exact kept_put (kept_mapQuill ‹_›)
  · with_reducible exact kept_countAt ‹_›

theorem kept_writeLines {o : Bool} {s0 s : State} {fr a2 : _} (h : Kept false o s0 s) :
    Kept false o s0 (State.writeLines s fr a2) := by
  unfold State.writeLines
  refine Kept.foldl ?_ (fun _ _ _ => ?_)
  · with_reducible assumption
  · with_reducible exact kept_lineWrite ‹_›

theorem kept_takeData {o : Bool} {s0 s : State} {a1 fr group new : _} (h : Kept false o s0 s) :
    Kept false o s0 (State.takeData s a1 fr group new).1 := by
  unfold State.takeData
  with_reducible refine kept_byStep ?_ ?_
  · with_reducible assumption
  · intro _ _
    refine Kept.ite ?_ ?_
    · with_reducible exact kept_noteMsg ‹_›
    · split
      · with_reducible refine kept_settle ?_
        with_reducible refine kept_noteMsg ?_
        refine Kept.ite ?_ ?_
        · with_reducible exact kept_addLines ‹_›
        · with_reducible exact kept_writeLines ‹_›
      · with_reducible assumption

theorem kept_releaseHeld {o : Bool} {s0 s : State} (h : Kept false o s0 s) :
    Kept false o s0 (State.releaseHeld s) := by
  unfold State.releaseHeld
  dsimp only
  refine Kept.foldl ?_ (fun _ _ _ => ?_)
  · with_reducible exact kept_mapQuill ‹_›
  · refine Kept.iteL ?_ (fun _ => ?_)
    · with_reducible exact kept_takeData ‹_›
    · with_reducible exact kept_freeFrame ‹_›

theorem kept_deliver {o : Bool} {s0 s : State} {srcRole srcList dst group mseq : _} (h : Kept false o s0 s) :
    Kept false o s0 (State.deliver s srcRole srcList dst group mseq) := by
  unfold State.deliver
  dsimp only
  split
  · with_reducible assumption
  · refine Kept.iteL ?_ (fun _ => ?_)
    · with_reducible assumption
    · refine Kept.iteR ?_ (fun _ => ?_)
      · with_reducible refine kept_sendReport ?_
        split
        · with_reducible exact kept_signal (kept_mapQuill ‹_›)
        · with_reducible exact kept_mapQuill ‹_›
      · with_reducible exact kept_releaseHeld ‹_›

theorem kept_notePass {m o : Bool} {s0 s : State} {a1 a2 : _} (h : Kept m o s0 s) :
    Kept m o s0 (State.notePass s a1 a2) := by
  unfold State.notePass
  refine Kept.iteL ?_ (fun _ => ?_)
  · with_reducible assumption
  · with_reducible exact kept_mapQuill ‹_›

theorem kept_toGroup {m o : Bool} {s0 s : State} {a1 fr handle : _} (h : Kept m o s0 s) (h_handle : ∀ t, Kept m o s0 t →
    Kept m o s0 (handle t).1) :
    Kept m o s0 (State.toGroup s a1 fr handle).1 := by
  unfold State.toGroup
  dsimp only
  split
  · dsimp only
    with_reducible exact kept_put ‹_›
  · split
    · refine h_handle _ ?_
      refine Kept.iteL ?_ (fun _ => ?_)
      · with_reducible assumption
      · with_reducible exact kept_routeGroup ‹_›
    · dsimp only
      refine Kept.iteL ?_ (fun _ => ?_)
      · with_reducible assumption
      · with_reducible exact kept_routeGroup ‹_›

theorem kept_toRole {m o : Bool} {s0 s : State} {a1 fr handle : _} (h : Kept m o s0 s) (h_handle : ∀ t, Kept m o s0 t →
    Kept m o s0 (handle t).1) :
    Kept m o s0 (State.toRole s a1 fr handle).1 := by
  unfold State.toRole
  split
  · refine h_handle _ ?_
    with_reducible assumption
  · dsimp only
    with_reducible exact kept_routeRole ‹_›

theorem kept_handleData {o : Bool} {s0 s : State} {a1 fr : _} (h : Kept false o s0 s) :
    Kept false o s0 (State.handleData s a1 fr).1 := by
  unfold State.handleData
  dsimp only
  split
  · with_reducible refine kept_toGroup ?_ ?_
    · with_reducible refine kept_notePass ?_
      refine Kept.iteR ?_ (fun _ => ?_)
      · with_reducible assumption
      · with_reducible exact kept_countAt ‹_›
    · intro _ _
      with_reducible exact kept_takeData ‹_›
  · with_reducible refine kept_toRole ?_ ?_
    · with_reducible assumption
    · intro _ _
      with_reducible exact kept_takeData ‹_›

theorem kept_trimFar {m o : Bool} {s0 s : State} (h : Kept m o s0 s) :
    Kept m o s0 (State.trimFar s) := by
  unfold State.trimFar
  dsimp only
  with_reducible refine Kept.upd2 ?_ rfl rfl rfl rfl
  with_reducible assumption

theorem kept_keepOne {o : Bool} {s0 s : State} {role l : _} (h : Kept false o s0 s) :
    Kept false o s0 (State.keepOne s role l) := by
  unfold State.keepOne
  dsimp only
  with_reducible refine kept_countAt ?_
  refine Kept.iteR ?_ (fun _ => ?_)
  · with_reducible refine kept_trimFar ?_
    with_reducible refine Kept.upd2 ?_ rfl rfl rfl rfl
    with_reducible assumption
  · split
    · with_reducible exact kept_evict ‹_›
    · with_reducible assumption

theorem kept_keepFar {o : Bool} {s0 s : State} {role ls : _} (h : Kept false o s0 s) :
    Kept false o s0 (State.keepFar s role ls) := by
  unfold State.keepFar
  refine Kept.ite ?_ ?_
  · with_reducible exact kept_trimFar ‹_›
  · refine Kept.foldl ?_ (fun _ _ _ => ?_)
    · with_reducible assumption
    · with_reducible exact kept_keepOne ‹_›

theorem kept_noteRefused {m o : Bool} {s0 s : State} {a1 status : _} (h : Kept m o s0 s) :
    Kept m o s0 (State.noteRefused s a1 status) := by
  unfold State.noteRefused
  dsimp only
  split
  · split
    · refine Kept.iteR ?_ (fun _ => ?_)
      · with_reducible assumption
      · with_reducible exact kept_setPhase ‹_›
    · with_reducible assumption
  · with_reducible assumption

theorem kept_takeReport {o : Bool} {s0 s : State} {a1 : _} (h : Kept false o s0 s) :
    Kept false o s0 (State.takeReport s a1) := by
  unfold State.takeReport
  dsimp only
  refine Kept.iteL ?_ (fun _ => ?_)
  · with_reducible assumption
  · with_reducible refine kept_quillChecks ?_
    refine Kept.iteL ?_ (fun _ => ?_)
    · with_reducible exact kept_mapQuill ‹_›
    · with_reducible exact kept_noteRefused (kept_voidStep ‹_›)

theorem kept_takeResp {o : Bool} {s0 s : State} {fr : _} (h : Kept false o s0 s) :
    Kept false o s0 (State.takeResp s fr) := by
  unfold State.takeResp
  dsimp only
  split
  · with_reducible assumption
  · with_reducible exact kept_recoverGo (kept_runHeld (kept_mapQuill (kept_keepFar ‹_›)))

theorem kept_execDelivery {o : Bool} {s0 s : State} {srcRole srcList dst group mseq : _} (h : Kept false o s0 s) :
    OutKept false o s0 (execDelivery srcRole srcList dst group mseq s) := by
  unfold execDelivery
  refine OutKept.next ?_
  with_reducible exact kept_deliver ‹_›

theorem kept_execQFrameAdd {o : Bool} {s0 s : State} {frame : _} (h : Kept false o s0 s) :
    OutKept false o s0 (execQFrameAdd frame s) := by
  unfold execQFrameAdd
  refine OutKept.next ?_
  with_reducible refine kept_receive ?_ ?_
  · with_reducible assumption
  · intro _ _
    with_reducible exact kept_handleData ‹_›

theorem kept_execQFrameClose {o : Bool} {s0 s : State} {frame : _} (h : Kept false o s0 s) :
    OutKept false o s0 (execQFrameClose frame s) := by
  unfold execQFrameClose
  refine OutKept.next ?_
  with_reducible refine kept_receive ?_ ?_
  · with_reducible assumption
  · intro _ _
    with_reducible exact kept_handleData ‹_›

theorem kept_execQFrameMcast {o : Bool} {s0 s : State} {frame : _} (h : Kept false o s0 s) :
    OutKept false o s0 (execQFrameMcast frame s) := by
  unfold execQFrameMcast
  refine OutKept.next ?_
  with_reducible refine kept_receive ?_ ?_
  · with_reducible assumption
  · intro _ _
    with_reducible exact kept_handleData ‹_›

theorem kept_execQFrameWrite {o : Bool} {s0 s : State} {frame : _} (h : Kept false o s0 s) :
    OutKept false o s0 (execQFrameWrite frame s) := by
  unfold execQFrameWrite
  refine OutKept.next ?_
  with_reducible refine kept_receive ?_ ?_
  · with_reducible assumption
  · intro _ _
    with_reducible exact kept_handleData ‹_›

theorem kept_execReadReq {o : Bool} {s0 s : State} {frame : _} (h : Kept false o s0 s) :
    OutKept false o s0 (execReadReq frame s) := by
  unfold execReadReq
  refine OutKept.next ?_
  with_reducible refine kept_receive ?_ ?_
  · with_reducible assumption
  · intro _ _
    with_reducible refine kept_toRole ?_ ?_
    · with_reducible assumption
    · intro _ _
      dsimp only
      with_reducible exact kept_answerRead ‹_›

theorem kept_execReadResp {o : Bool} {s0 s : State} {frame : _} (h : Kept false o s0 s) :
    OutKept false o s0 (execReadResp frame s) := by
  unfold execReadResp
  refine OutKept.next ?_
  with_reducible refine kept_receive ?_ ?_
  · with_reducible assumption
  · intro _ _
    with_reducible refine kept_toRole ?_ ?_
    · with_reducible assumption
    · intro _ _
      dsimp only
      with_reducible exact kept_takeResp ‹_›

theorem kept_execReport {o : Bool} {s0 s : State} {frame : _} (h : Kept false o s0 s) :
    OutKept false o s0 (execReport frame s) := by
  unfold execReport
  refine OutKept.next ?_
  with_reducible refine kept_receive ?_ ?_
  · with_reducible assumption
  · intro _ _
    with_reducible refine kept_toRole ?_ ?_
    · with_reducible assumption
    · intro _ _
      dsimp only
      with_reducible exact kept_takeReport ‹_›

end Sys2Proof.Laws
end

