-- ==== Sys2Proof/Laws/KeepsSteps.lean ====
section
/-! SUPPORT. What each operation of Machine/Steps.lean keeps, by the relation of Laws/Kept.lean. -/
namespace Sys2Proof.Laws
open Sys2Proof.Machine

theorem kept_beginStep {o : Bool} {s0 s : State} (h : Kept false o s0 s) :
    Kept false o s0 (State.beginStep s) := by
  unfold State.beginStep
  dsimp only
  with_reducible refine kept_rideMore ?_
  with_reducible refine kept_releaseHeld ?_
  refine Kept.iteR ?_ (fun _ => ?_)
  · with_reducible refine kept_markBegin ?_
    refine Kept.iteR ?_ (fun _ => ?_)
    · with_reducible exact kept_count (kept_freshStep ‹_›)
    · with_reducible exact kept_startFollow ‹_›
  · with_reducible exact kept_markLatch ‹_›

theorem kept_switchBank {m o : Bool} {s0 s : State} {step : _} (h : Kept m o s0 s) :
    Kept m o s0 (State.switchBank s step) := by
  unfold State.switchBank
  dsimp only
  refine Kept.iteR ?_ (fun _ => ?_)
  · with_reducible assumption
  · with_reducible exact kept_discardFar (kept_count (kept_put (kept_put (kept_put (kept_put ‹_›)))))

theorem kept_boundary {o : Bool} {s0 s : State} {f : _} (h : Kept false o s0 s) :
    Kept false o s0 (State.boundary s f) := by
  unfold State.boundary
  dsimp only
  with_reducible exact kept_mapRun (kept_put (kept_mapJob (kept_countAt (kept_count (kept_mapSvl (kept_retryFailed
      (kept_mapRun (kept_markEnd (kept_setDigestRegs (kept_ownDigest (kept_settle (kept_assembleBlock (kept_switchBank
      ‹_›)))))))))))))

theorem kept_commitGauges {o : Bool} {s0 s : State} {f : _} (h : Kept false o s0 s) :
    Kept false o s0 (State.commitGauges s f) := by
  unfold State.commitGauges
  dsimp only
  refine Kept.foldl ?_ (fun _ _ _ => ?_)
  · with_reducible assumption
  · with_reducible exact kept_lineWrite (kept_touch ‹_›)

theorem kept_dryAlarm {m o : Bool} {s0 s : State} {l sv : _} (h : Kept m o s0 s) :
    Kept m o s0 (State.dryAlarm s l sv) := by
  unfold State.dryAlarm
  dsimp only
  with_reducible refine kept_raise ?_
  with_reducible refine kept_count ?_
  with_reducible refine kept_put ?_
  refine Kept.iteL ?_ (fun _ => ?_)
  · with_reducible assumption
  · with_reducible exact kept_put (kept_put ‹_›)

theorem kept_dryEvent {m o : Bool} {s0 s : State} {l sv : _} (h : Kept m o s0 s) :
    Kept m o s0 (State.dryEvent s l sv) := by
  unfold State.dryEvent
  with_reducible exact kept_raise (kept_count (kept_put ‹_›))

theorem kept_readLayer {o : Bool} {s0 s : State} {l faults : _} (h : Kept false o s0 s) :
    Kept false o s0 (State.readLayer s l faults) := by
  unfold State.readLayer
  with_reducible exact kept_touch ‹_›

theorem kept_setLayer {o : Bool} {s0 s : State} {l r : _} (h : Kept false o s0 s) :
    Kept false o s0 (State.setLayer s l r) := by
  unfold State.setLayer
  with_reducible exact kept_writeRange ‹_›

theorem kept_dryLayer {o : Bool} {s0 s : State} {rec' a : _} (h : Kept false o s0 s) :
    Kept false o s0 (State.dryLayer s rec' a) := by
  unfold State.dryLayer
  dsimp only
  refine Kept.iteL ?_ (fun _ => ?_)
  · with_reducible exact kept_readLayer ‹_›
  · refine Kept.ite ?_ ?_
    · with_reducible exact kept_setLayer ‹_›
    · refine Kept.ite ?_ ?_
      · with_reducible exact kept_setLayer (kept_count ‹_›)
      · refine Kept.ite ?_ ?_
        · with_reducible exact kept_setLayer (kept_dryAlarm (kept_count ‹_›))
        · with_reducible refine kept_setLayer ?_
          refine Kept.iteR ?_ (fun _ => ?_)
          · refine Kept.iteR ?_ (fun _ => ?_)
            · with_reducible exact kept_count ‹_›
            · with_reducible exact kept_count ‹_›
          · with_reducible exact kept_dryEvent ‹_›

theorem kept_updateLayer {o : Bool} {s0 s : State} {a : _} (h : Kept false o s0 s) :
    Kept false o s0 (State.updateLayer s a) := by
  unfold State.updateLayer
  dsimp only
  refine Kept.iteR ?_ (fun _ => ?_)
  · with_reducible exact kept_readLayer ‹_›
  · with_reducible exact kept_setLayer ‹_›

theorem kept_commitStep {o : Bool} {s0 s : State} {f : _} (h : Kept false o s0 s) :
    Kept false o s0 (State.commitStep s f) := by
  unfold State.commitStep
  dsimp only
  refine Kept.foldl ?_ (fun _ _ _ => ?_)
  · refine Kept.foldl ?_ (fun _ _ _ => ?_)
    · refine Kept.iteR ?_ (fun _ => ?_)
      · with_reducible exact kept_commitGauges ‹_›
      · with_reducible exact kept_snapshot ‹_›
    · with_reducible exact kept_updateLayer ‹_›
  · with_reducible exact kept_dryLayer ‹_›

theorem kept_commitEnd {o : Bool} {s0 s : State} {f : _} (h : Kept false o s0 s) :
    Kept false o s0 (State.commitEnd s f) := by
  unfold State.commitEnd
  dsimp only
  refine Kept.iteL ?_ (fun _ => ?_)
  · with_reducible exact kept_sealAll ‹_›
  · with_reducible exact kept_commitStep (kept_mapJob ‹_›)

theorem kept_endRun {m o : Bool} {s0 s : State} (h : Kept m o s0 s) :
    Kept m o s0 (State.endRun s) := by
  unfold State.endRun
  dsimp only
  split
  · with_reducible exact kept_enterSafe (kept_setJobState (kept_mapRun ‹_›))
  · with_reducible exact kept_setJobState (kept_mapRun ‹_›)

theorem kept_goOn {o : Bool} {s0 s : State} (h : Kept false o s0 s) :
    Kept false o s0 (State.goOn s) := by
  unfold State.goOn
  dsimp only
  with_reducible refine kept_reportSteps ?_
  refine Kept.ite ?_ ?_
  · with_reducible exact kept_put (kept_endRun ‹_›)
  · with_reducible exact kept_beginStep ‹_›

theorem kept_startFails {m o : Bool} {s0 s : State} {st : _} (h : Kept m o s0 s) :
    Kept m o s0 (State.startFails s st) := by
  unfold State.startFails
  dsimp only
  split
  · with_reducible exact kept_enterSafe (kept_mapRun (kept_finishOp (kept_setJobState ‹_›)))
  · with_reducible exact kept_mapRun (kept_finishOp (kept_setJobState ‹_›))

theorem kept_tryStart {o : Bool} {s0 s : State} (h : Kept false o s0 s) :
    Kept false o s0 (State.tryStart s) := by
  unfold State.tryStart
  dsimp only
  split
  · refine Kept.iteL ?_ (fun _ => ?_)
    · with_reducible assumption
    · refine Kept.ite ?_ ?_
      · with_reducible exact kept_startFails (kept_mapSvl ‹_›)
      · refine Kept.iteR ?_ (fun _ => ?_)
        · with_reducible assumption
        · with_reducible exact kept_beginStep (kept_switchBank (kept_finishOp (kept_mapSvl ‹_›)))
  · with_reducible assumption

theorem kept_started {o : Bool} {s0 s : State} {f firstStep steps : _} (h : Kept false o s0 s) :
    Kept false o s0 (State.started s f firstStep steps) := by
  unfold State.started
  dsimp only
  with_reducible exact kept_sendPairs (kept_openSwitched (kept_setJobState (kept_mapRun (kept_put (kept_emptyRing
      (kept_put2 (kept_mapSvl (kept_resetSteps (kept_put (kept_put (kept_settle (kept_touch (kept_writeRange ‹_›)))))))))))))

theorem kept_startAct {o : Bool} {s0 s : State} {firstStep steps : _} (h : Kept false o s0 s) :
    ActKept false o s0 (State.startAct s firstStep steps) := by
  unfold State.startAct
  split
  · with_reducible exact kept_Act_no ‹_›
  · split
    · with_reducible exact kept_Act_did ‹_›
    · refine ActKept.begun ?_
      with_reducible exact kept_started ‹_›

theorem kept_stopAct {o : Bool} {s0 s : State} {mode : _} (h : Kept false o s0 s) :
    ActKept false o s0 (State.stopAct s mode) := by
  unfold State.stopAct
  dsimp only
  split
  · refine ActKept.reply ?_
    with_reducible assumption
  · split
    · refine ActKept.reply ?_
      with_reducible exact kept_startFails ‹_›
    · split
      · refine ActKept.reply ?_
        with_reducible exact kept_mapRun ‹_›
      · refine ActKept.reply ?_
        with_reducible exact kept_voidNow ‹_›

theorem kept_takeSize {m o : Bool} {s0 s : State} {tagStep value : _} (h : Kept m o s0 s) :
    Kept m o s0 (State.takeSize s tagStep value) := by
  unfold State.takeSize
  dsimp only
  refine Kept.iteR ?_ (fun _ => ?_)
  · with_reducible exact kept_notePending (kept_mapRun ‹_›)
  · with_reducible exact kept_latch ‹_›

theorem kept_execRouteArm {o : Bool} {s0 s : State} {a0 armStep : _} (h : Kept false o s0 s) :
    OutKept false o s0 (execRouteArm a0 armStep s) := by
  unfold execRouteArm
  refine OutKept.next ?_
  with_reducible refine kept_command ?_ ?_
  · with_reducible assumption
  · intro _ _
    split
    · with_reducible exact kept_Act_no ‹_›
    · with_reducible exact kept_Act_status (kept_writePair ‹_›)

theorem kept_execRouteWrite {m o : Bool} {s0 s : State} {a0 bank offset data : _} (h : Kept m o s0 s) :
    OutKept m o s0 (execRouteWrite a0 bank offset data s) := by
  unfold execRouteWrite
  refine OutKept.next ?_
  with_reducible refine kept_command ?_ ?_
  · with_reducible assumption
  · intro _ _
    split
    · with_reducible exact kept_Act_no ‹_›
    · with_reducible exact kept_Act_ok (kept_mapQuill ‹_›)

theorem kept_execSetSeed {o : Bool} {s0 s : State} {a0 seed : _} (h : Kept false o s0 s) :
    OutKept false o s0 (execSetSeed a0 seed s) := by
  unfold execSetSeed
  refine OutKept.next ?_
  with_reducible refine kept_command ?_ ?_
  · with_reducible assumption
  · intro _ _
    with_reducible exact kept_Act_ok (kept_settle (kept_writeRange ‹_›))

theorem kept_execSetStepSize {m o : Bool} {s0 s : State} {a0 tagStep value : _} (h : Kept m o s0 s) :
    OutKept m o s0 (execSetStepSize a0 tagStep value s) := by
  unfold execSetStepSize
  dsimp only
  refine OutKept.next ?_
  with_reducible refine kept_command ?_ ?_
  · with_reducible assumption
  · intro _ _
    split
    · with_reducible exact kept_Act_no (kept_count ‹_›)
    · split
      · with_reducible exact kept_Act_no ‹_›
      · with_reducible exact kept_Act_ok (kept_takeSize ‹_›)

theorem kept_execStart {o : Bool} {s0 s : State} {a0 firstStep steps : _} (h : Kept false o s0 s) :
    OutKept false o s0 (execStart a0 firstStep steps s) := by
  unfold execStart
  refine OutKept.next ?_
  with_reducible refine kept_tryStart ?_
  with_reducible refine kept_command ?_ ?_
  · with_reducible assumption
  · intro _ _
    with_reducible exact kept_startAct ‹_›

theorem kept_execStepEnd {o : Bool} {s0 s : State} (h : Kept false o s0 s) :
    OutKept false o s0 (execStepEnd s) := by
  unfold execStepEnd
  dsimp only
  refine OutKept.next ?_
  split
  · refine Kept.iteL ?_ (fun _ => ?_)
    · with_reducible assumption
    · split
      · with_reducible exact kept_voidNow (kept_commitEnd ‹_›)
      · with_reducible exact kept_goOn (kept_boundary (kept_commitEnd ‹_›))
  · with_reducible assumption

theorem kept_execStepSizeStale {m o : Bool} {s0 s : State} (h : Kept m o s0 s) :
    OutKept m o s0 (execStepSizeStale s) := by
  unfold execStepSizeStale
  refine OutKept.next ?_
  split
  · refine Kept.iteR ?_ (fun _ => ?_)
    · with_reducible assumption
    · with_reducible exact kept_latch ‹_›
  · with_reducible assumption

theorem kept_execStepTimeout {o : Bool} {s0 s : State} (h : Kept false o s0 s) :
    OutKept false o s0 (execStepTimeout s) := by
  unfold execStepTimeout
  refine OutKept.next ?_
  split
  · refine Kept.iteR ?_ (fun _ => ?_)
    · with_reducible assumption
    · with_reducible exact kept_voidNow (kept_count ‹_›)
  · with_reducible assumption

theorem kept_execStop {o : Bool} {s0 s : State} {a0 mode : _} (h : Kept false o s0 s) :
    OutKept false o s0 (execStop a0 mode s) := by
  unfold execStop
  refine OutKept.next ?_
  with_reducible refine kept_command ?_ ?_
  · with_reducible assumption
  · intro _ _
    with_reducible exact kept_stopAct ‹_›

end Sys2Proof.Laws
end

