-- ==== Sys2Proof/Laws/KeepsMm.lean ====
section
/-! SUPPORT. What each operation of Machine/Mm.lean keeps, by the relation of Laws/Kept.lean. -/
namespace Sys2Proof.Laws
open Sys2Proof.Machine

theorem kept_deskLeaves {m o : Bool} {s0 s : State} {desk f : _} (h : Kept m o s0 s) :
    Kept m o s0 (State.deskLeaves s desk f) := by
  unfold State.deskLeaves
  dsimp only
  with_reducible refine Kept.upd2 ?_ rfl rfl rfl rfl
  with_reducible assumption

theorem kept_loadPlanes {m o : Bool} {s0 s : State} {k ws : _} (h : Kept m o s0 s) :
    Kept m o s0 (State.loadPlanes s k ws) := by
  unfold State.loadPlanes
  dsimp only
  with_reducible exact kept_deskLeaves ‹_›

theorem kept_rowIf {o : Bool} {s0 s : State} {k use a3 row n : _} (h : Kept false o s0 s) :
    Kept false o s0 (State.rowIf s k use a3 row n).1 := by
  unfold State.rowIf
  dsimp only
  split
  · split
    · dsimp only
      with_reducible exact kept_strokeRows ‹_›
    · dsimp only
      with_reducible assumption
  · dsimp only
    with_reducible assumption

theorem kept_mmOut {o : Bool} {s0 s : State} {k e cols bias hit g p i : _} (h : Kept false o s0 s) :
    Kept false o s0 (State.mmOut s k e cols bias hit g p i).1 := by
  unfold State.mmOut
  dsimp only
  split
  · dsimp only
    with_reducible assumption
  · dsimp only
    with_reducible exact kept_rowIf (kept_rowIf (kept_rowIf ‹_›))

theorem kept_weightRows {o : Bool} {s0 s : State} {k w g : _} (h : Kept false o s0 s) :
    Kept false o s0 (State.weightRows s k w g).1 := by
  unfold State.weightRows
  dsimp only
  split
  · dsimp only
    with_reducible assumption
  · dsimp only
    with_reducible exact kept_strokeRows ‹_›

theorem kept_mmGroup {o : Bool} {s0 s : State} {k w e hit g : _} (h : Kept false o s0 s) :
    Kept false o s0 (State.mmGroup s k w e hit g).1 := by
  unfold State.mmGroup
  dsimp only
  split
  · dsimp only
    with_reducible assumption
  · dsimp only
    refine Kept.foldl1 ?_ (fun _ _ _ => ?_)
    · dsimp only
      with_reducible exact kept_rowIf (kept_weightRows ‹_›)
    · dsimp only
      with_reducible exact kept_mmOut ‹_›

theorem kept_noteArrayFault {m o : Bool} {s0 s : State} {desk leaf row col : _} (h : Kept m o s0 s) :
    Kept m o s0 (State.noteArrayFault s desk leaf row col) := by
  unfold State.noteArrayFault
  dsimp only
  with_reducible refine kept_countAt ?_
  with_reducible refine kept_bump ?_
  with_reducible refine kept_put ?_
  refine Kept.iteL ?_ (fun _ => ?_)
  · with_reducible assumption
  · with_reducible exact kept_put (kept_put (kept_put ‹_›))

theorem kept_putStats {o : Bool} {s0 s : State} {k rows bad : _} (h : Kept false o s0 s) :
    Kept false o s0 (State.putStats s k rows bad).1 := by
  unfold State.putStats
  dsimp only
  split
  · with_reducible exact kept_putRows ‹_›
  · dsimp only
    with_reducible assumption

theorem kept_rotate {m o : Bool} {s0 s : State} {desk : _} (h : Kept m o s0 s) :
    Kept m o s0 (State.rotate s desk) := by
  unfold State.rotate
  dsimp only
  refine Kept.iteL ?_ (fun _ => ?_)
  · with_reducible assumption
  · with_reducible exact kept_countAt (kept_bump (kept_put ‹_›))

theorem kept_setLeaves {m o : Bool} {s0 s : State} {k w : _} (h : Kept m o s0 s) :
    Kept m o s0 (State.setLeaves s k w) := by
  unfold State.setLeaves
  dsimp only
  with_reducible exact kept_deskLeaves ‹_›

theorem kept_parkRow {o : Bool} {s0 s : State} {k r : _} (h : Kept false o s0 s) :
    Kept false o s0 (State.parkRow s k r) := by
  unfold State.parkRow
  dsimp only
  refine Kept.foldl ?_ (fun _ _ _ => ?_)
  · with_reducible assumption
  · split
    · refine Kept.foldl ?_ (fun _ _ _ => ?_)
      · with_reducible assumption
      · with_reducible exact kept_storeCells ‹_›
    · with_reducible assumption

theorem kept_walked {o : Bool} {s0 s : State} {k w rows : _} (h : Kept false o s0 s) :
    Kept false o s0 (State.walked s k w rows) := by
  unfold State.walked
  dsimp only
  refine Kept.foldl ?_ (fun _ _ _ => ?_)
  · refine Kept.iteL ?_ (fun _ => ?_)
    · with_reducible assumption
    · refine Kept.foldl ?_ (fun _ _ _ => ?_)
      · with_reducible assumption
      · with_reducible exact kept_parkRow ‹_›
  · with_reducible exact kept_countAt (kept_countAt ‹_›)

theorem kept_mmWork {o : Bool} {s0 s : State} {x k : _} (h : Kept false o s0 s) :
    Kept false o s0 (State.mmWork x s k).1 := by
  unfold State.mmWork
  dsimp only
  split
  · dsimp only
    with_reducible refine kept_putRows ?_
    with_reducible refine kept_setStanding ?_
    with_reducible refine kept_walked ?_
    refine Kept.iteR ?_ (fun _ => ?_)
    · refine Kept.foldl1 ?_ (fun _ _ _ => ?_)
      · dsimp only
        refine Kept.iteR ?_ (fun _ => ?_)
        · split
          · with_reducible refine kept_noteArrayFault ?_
            with_reducible refine kept_setLeaves ?_
            refine Kept.ite ?_ ?_
            · with_reducible exact kept_countAt ‹_›
            · refine Kept.iteR ?_ (fun _ => ?_)
              · with_reducible assumption
              · with_reducible exact kept_rotate ‹_›
          · with_reducible refine kept_setLeaves ?_
            refine Kept.ite ?_ ?_
            · with_reducible exact kept_countAt ‹_›
            · refine Kept.iteR ?_ (fun _ => ?_)
              · with_reducible assumption
              · with_reducible exact kept_rotate ‹_›
        · with_reducible exact kept_readLayer ‹_›
      · dsimp only
        with_reducible exact kept_mmGroup ‹_›
    · with_reducible exact kept_loadPlanes ‹_›
  · with_reducible refine kept_putStats ?_
    with_reducible refine kept_putRows ?_
    with_reducible refine kept_setStanding ?_
    with_reducible refine kept_walked ?_
    refine Kept.iteR ?_ (fun _ => ?_)
    · refine Kept.foldl1 ?_ (fun _ _ _ => ?_)
      · dsimp only
        refine Kept.iteR ?_ (fun _ => ?_)
        · split
          · with_reducible refine kept_noteArrayFault ?_
            with_reducible refine kept_setLeaves ?_
            refine Kept.ite ?_ ?_
            · with_reducible exact kept_countAt ‹_›
            · refine Kept.iteR ?_ (fun _ => ?_)
              · with_reducible assumption
              · with_reducible exact kept_rotate ‹_›
          · with_reducible refine kept_setLeaves ?_
            refine Kept.ite ?_ ?_
            · with_reducible exact kept_countAt ‹_›
            · refine Kept.iteR ?_ (fun _ => ?_)
              · with_reducible assumption
              · with_reducible exact kept_rotate ‹_›
        · with_reducible exact kept_readLayer ‹_›
      · dsimp only
        with_reducible exact kept_mmGroup ‹_›
    · with_reducible exact kept_loadPlanes ‹_›

theorem kept_execMm {o : Bool} {s0 s : State} {desk fault : _} (h : Kept false o s0 s) :
    OutKept false o s0 (execMm desk fault s) := by
  unfold execMm
  refine OutKept.next ?_
  with_reducible refine kept_stroke ?_ ?_
  · with_reducible assumption
  · intro _ _ _
    with_reducible exact kept_mmWork ‹_›

end Sys2Proof.Laws
end

