-- ==== Sys2Proof/Laws/KeepsArrays.lean ====
section
/-! SUPPORT. What each operation of Machine/Arrays.lean keeps, by the relation of Laws/Kept.lean. -/
namespace Sys2Proof.Laws
open Sys2Proof.Machine

theorem kept_countIf {m o : Bool} {s0 s : State} {c code i : _} (h : Kept m o s0 s) :
    Kept m o s0 (State.countIf s c code i) := by
  unfold State.countIf
  refine Kept.iteR ?_ (fun _ => ?_)
  · with_reducible assumption
  · with_reducible exact kept_countAt ‹_›

theorem kept_countWave {m o : Bool} {s0 s : State} {i before after active valid here : _} (h : Kept m o s0 s) :
    Kept m o s0 (State.countWave s i before after active valid here) := by
  unfold State.countWave
  dsimp only
  refine Kept.foldl ?_ (fun _ _ _ => ?_)
  · with_reducible exact kept_countIf (kept_countIf (kept_countIf (kept_countIf (kept_countIf (kept_countIf (kept_countIf
      (kept_countIf (kept_countIf (kept_countIf (kept_countAt ‹_›))))))))))
  · with_reducible exact kept_countIf ‹_›

theorem kept_setLeaf {m o : Bool} {s0 s : State} {d l x : _} (h : Kept m o s0 s) :
    Kept m o s0 (State.setLeaf s d l x) := by
  unfold State.setLeaf
  dsimp only
  with_reducible refine kept_put ?_
  with_reducible refine Kept.upd2 ?_ rfl rfl rfl rfl
  with_reducible assumption

theorem kept_execBroadcastRow {m o : Bool} {s0 s : State} {desk lanes : _} (h : Kept m o s0 s) :
    OutKept m o s0 (execBroadcastRow desk lanes s) := by
  unfold execBroadcastRow
  dsimp only
  refine OutKept.next ?_
  refine Kept.iteL ?_ (fun _ => ?_)
  · with_reducible assumption
  · refine Kept.ite ?_ ?_
    · refine Kept.foldl ?_ (fun _ _ _ => ?_)
      · with_reducible assumption
      · with_reducible exact kept_setLeaf (kept_countIf ‹_›)
    · refine Kept.foldl ?_ (fun _ _ _ => ?_)
      · with_reducible assumption
      · with_reducible exact kept_setLeaf ‹_›

theorem kept_execLeafRateWindow {m o : Bool} {s0 s : State} {desk leaf rate tj : _} (h : Kept m o s0 s) :
    OutKept m o s0 (execLeafRateWindow desk leaf rate tj s) := by
  unfold execLeafRateWindow
  dsimp only
  refine OutKept.next ?_
  refine Kept.iteL ?_ (fun _ => ?_)
  · with_reducible assumption
  · with_reducible exact kept_put (kept_put (kept_put ‹_›))

theorem kept_execTie {m o : Bool} {s0 s : State} {element : _} (h : Kept m o s0 s) :
    OutKept m o s0 (execTie element s) := by
  unfold execTie
  refine OutKept.next ?_
  with_reducible exact kept_tie ‹_›

theorem kept_execTieForced {m o : Bool} {s0 s : State} {element : _} (h : Kept m o s0 s) :
    OutKept m o s0 (execTieForced element s) := by
  unfold execTieForced
  refine OutKept.next ?_
  refine Kept.ite ?_ ?_
  · with_reducible exact kept_setTurn ‹_›
  · with_reducible exact kept_countAt (kept_countAt (kept_setTurn ‹_›))

theorem kept_execWave {m o : Bool} {s0 s : State} {desk leaf slotFree parity : _} (h : Kept m o s0 s) :
    OutKept m o s0 (execWave desk leaf slotFree parity s) := by
  unfold execWave
  dsimp only
  refine OutKept.next ?_
  refine Kept.iteL ?_ (fun _ => ?_)
  · with_reducible assumption
  · split
    · refine Kept.iteR ?_ (fun _ => ?_)
      · refine Kept.iteR ?_ (fun _ => ?_)
        · with_reducible exact kept_setLeaf (kept_countWave ‹_›)
        · with_reducible exact kept_setLeaf ‹_›
      · with_reducible exact kept_noteArrayFault ‹_›
    · refine Kept.iteR ?_ (fun _ => ?_)
      · with_reducible exact kept_setLeaf (kept_countWave ‹_›)
      · with_reducible exact kept_setLeaf ‹_›

theorem kept_execWeightRowLoad {m o : Bool} {s0 s : State} {desk leaf codes : _} (h : Kept m o s0 s) :
    OutKept m o s0 (execWeightRowLoad desk leaf codes s) := by
  unfold execWeightRowLoad
  dsimp only
  refine OutKept.next ?_
  refine Kept.iteL ?_ (fun _ => ?_)
  · with_reducible assumption
  · with_reducible exact kept_countIf (kept_setLeaf ‹_›)

end Sys2Proof.Laws
end

