-- ==== Sys2Proof/Laws/KeepsCabinets.lean ====
section
/-! SUPPORT. What each operation of Machine/Cabinets.lean keeps, by the relation of Laws/Kept.lean. -/
namespace Sys2Proof.Laws
open Sys2Proof.Machine

theorem kept_cabinet {m o : Bool} {s0 s : State} {c work : _} (h : Kept m o s0 s) (h_work : ∀ t, Kept m o s0 t → Kept m o
    s0 (work t)) :
    Kept m o s0 (State.cabinet s c work) := by
  unfold State.cabinet
  refine Kept.iteL ?_ (fun _ => ?_)
  · with_reducible assumption
  · refine h_work _ ?_
    with_reducible assumption

theorem kept_eldest {m o : Bool} {s0 s : State} {c p ties : _} (h : Kept m o s0 s) :
    Kept m o s0 (State.eldest s c p ties).1 := by
  unfold State.eldest
  dsimp only
  refine Kept.foldl1 ?_ (fun _ _ _ => ?_)
  · dsimp only
    with_reducible assumption
  · split
    · split
      · dsimp only
        with_reducible assumption
      · split
        · dsimp only
          with_reducible exact kept_tie ‹_›
        · with_reducible assumption
    · dsimp only
      with_reducible assumption
    · with_reducible assumption

theorem kept_endPauseRetrain {m o : Bool} {s0 s : State} {c l margin : _} (h : Kept m o s0 s) :
    Kept m o s0 (State.endPauseRetrain s c l margin) := by
  unfold State.endPauseRetrain
  dsimp only
  with_reducible refine kept_nextEvac ?_
  refine Kept.ite ?_ ?_
  · with_reducible exact kept_setDstate (kept_setCab (kept_put (kept_setCab ‹_›)))
  · with_reducible exact kept_noteWorn (kept_noteFailures (kept_countAt (kept_setDstate (kept_setCab (kept_put (kept_setCab
      ‹_›))))))

theorem kept_granted {m o : Bool} {s0 s : State} {c k : _} (h : Kept m o s0 s) :
    Kept m o s0 (State.granted s c k) := by
  unfold State.granted
  refine Kept.foldl ?_ (fun _ _ _ => ?_)
  · with_reducible assumption
  · refine Kept.iteR ?_ (fun _ => ?_)
    · with_reducible assumption
    · with_reducible exact kept_setTurn ‹_›

theorem kept_serve {m o : Bool} {s0 s : State} {c k : _} (h : Kept m o s0 s) :
    Kept m o s0 (State.serve s c k) := by
  unfold State.serve
  dsimp only
  refine Kept.ite ?_ ?_
  · split
    · with_reducible refine Kept.upd2 ?_ rfl rfl rfl rfl
      with_reducible assumption
    · with_reducible assumption
  · with_reducible exact kept_setCab ‹_›

theorem kept_settleClasses {m o : Bool} {s0 s : State} {c : _} (h : Kept m o s0 s) :
    Kept m o s0 (State.settleClasses s c) := by
  unfold State.settleClasses
  dsimp only
  with_reducible exact kept_setCab ‹_›

theorem kept_grantClass {m o : Bool} {s0 s : State} {c k urgent : _} (h : Kept m o s0 s) :
    Kept m o s0 (State.grantClass s c k urgent) := by
  unfold State.grantClass
  dsimp only
  with_reducible exact kept_countAt (kept_setCab (kept_settleClasses (kept_granted (kept_serve ‹_›))))

theorem kept_grantOther {m o : Bool} {s0 s : State} {c : _} (h : Kept m o s0 s) :
    Kept m o s0 (State.grantOther s c) := by
  unfold State.grantOther
  with_reducible exact kept_setCab ‹_›

theorem kept_safeAtOnce {o : Bool} {s0 s : State} {c : _} (h : Kept false o s0 s) :
    Kept false o s0 (State.safeAtOnce s c) := by
  unfold State.safeAtOnce
  dsimp only
  with_reducible refine kept_enterSafe ?_
  refine Kept.ite ?_ ?_
  · with_reducible exact kept_voidNow ‹_›
  · refine Kept.iteR ?_ (fun _ => ?_)
    · with_reducible assumption
    · with_reducible exact kept_finishOp ‹_›

theorem kept_hardMapped {o : Bool} {s0 s : State} {c l p : _} (h : Kept false o s0 s) :
    Kept false o s0 (State.hardMapped s c l p) := by
  unfold State.hardMapped
  dsimp only
  split
  · with_reducible refine kept_safeAtOnce ?_
    with_reducible refine kept_reportLine ?_
    with_reducible refine Kept.upd3 ?_ ?_ ?_ ?_ ?_ ?_ ?_ ?_ ?_ ?_
    · with_reducible refine kept_failDrawer ?_
      refine Kept.iteR ?_ (fun _ => ?_)
      · split
        · refine Kept.iteR ?_ (fun _ => ?_)
          · with_reducible exact kept_loseLines ‹_›
          · with_reducible exact kept_put (kept_setCab ‹_›)
        · with_reducible exact kept_loseLines ‹_›
      · with_reducible exact kept_endEvac ‹_›
    · exact le_refl _
    · with_reducible exact fun h => h
    · with_reducible exact fun h => wf_dead h
    · exact fun h => absurd h Bool.false_ne_true
    · with_reducible exact fun h => h
    · with_reducible exact fun h => h
    · exact le_refl _
    · exact le_refl _
    · with_reducible exact fun _ => rfl
  · refine Kept.iteR ?_ (fun _ => ?_)
    · with_reducible refine kept_setCab ?_
      with_reducible refine kept_setDstate ?_
      with_reducible refine Kept.upd3 ?_ ?_ ?_ ?_ ?_ ?_ ?_ ?_ ?_ ?_
      · with_reducible refine kept_failDrawer ?_
        refine Kept.iteR ?_ (fun _ => ?_)
        · split
          · refine Kept.iteR ?_ (fun _ => ?_)
            · with_reducible exact kept_loseLines ‹_›
            · with_reducible exact kept_put (kept_setCab ‹_›)
          · with_reducible exact kept_loseLines ‹_›
        · with_reducible exact kept_endEvac ‹_›
      · exact le_refl _
      · with_reducible exact fun h => h
      · with_reducible exact fun h => wf_dead h
      · exact fun h => absurd h Bool.false_ne_true
      · with_reducible exact fun h => h
      · with_reducible exact fun h => h
      · exact le_refl _
      · exact le_refl _
      · with_reducible exact fun _ => rfl
    · with_reducible exact kept_safeAtOnce ‹_›

theorem kept_loseHard {o : Bool} {s0 s : State} {c p : _} (h : Kept false o s0 s) :
    Kept false o s0 (State.loseHard s c p) := by
  unfold State.loseHard
  dsimp only
  refine Kept.iteR ?_ (fun _ => ?_)
  · with_reducible exact kept_failDrawer ‹_›
  · with_reducible exact kept_safeAtOnce ‹_›

theorem kept_hardSpare {o : Bool} {s0 s : State} {c l p : _} (h : Kept false o s0 s) :
    Kept false o s0 (State.hardSpare s c l p) := by
  unfold State.hardSpare
  dsimp only
  split
  · with_reducible exact kept_safeAtOnce (kept_reportLine (kept_setCab (kept_loseHard ‹_›)))
  · with_reducible exact kept_setCab (kept_setDstate (kept_loseHard ‹_›))

theorem kept_migrateLine {o : Bool} {s0 s : State} {a : _} (h : Kept false o s0 s) :
    Kept false o s0 (State.migrateLine s a) := by
  unfold State.migrateLine
  dsimp only
  split
  · with_reducible exact kept_noteCE (kept_countAt (kept_bump (kept_cabWrite ‹_›)))
  · refine Kept.ite ?_ ?_
    · with_reducible exact kept_putRaw ‹_›
    · with_reducible exact kept_reportLine (kept_countAt (kept_bump (kept_cabWrite ‹_›)))
  · with_reducible exact kept_putRaw ‹_›

theorem kept_moveEye {m o : Bool} {s0 s : State} {c p : _} (h : Kept m o s0 s) :
    Kept m o s0 (State.moveEye s c p) := by
  unfold State.moveEye
  dsimp only
  with_reducible exact kept_setCab ‹_›

theorem kept_noteAge {m o : Bool} {s0 s : State} {c k age : _} (h : Kept m o s0 s) :
    Kept m o s0 (State.noteAge s c k age) := by
  unfold State.noteAge
  split
  · with_reducible assumption
  · with_reducible exact kept_setCab ‹_›

theorem kept_noteMemHot {m o : Bool} {s0 s : State} (h : Kept m o s0 s) :
    Kept m o s0 (State.noteMemHot s) := by
  unfold State.noteMemHot
  dsimp only
  refine Kept.iteR ?_ (fun _ => ?_)
  · with_reducible exact kept_put ‹_›
  · with_reducible exact kept_alert (kept_raisePower ‹_›)

theorem kept_noteCabTemp {o : Bool} {s0 s : State} {c temp : _} (h : Kept false o s0 s) :
    Kept false o s0 (State.noteCabTemp s c temp) := by
  unfold State.noteCabTemp
  dsimp only
  refine Kept.iteR ?_ (fun _ => ?_)
  · refine Kept.iteL ?_ (fun _ => ?_)
    · refine Kept.iteR ?_ (fun _ => ?_)
      · with_reducible refine kept_noteMemHot ?_
        with_reducible refine kept_put ?_
        refine Kept.iteR ?_ (fun _ => ?_)
        · with_reducible exact kept_put ‹_›
        · with_reducible exact kept_countAt ‹_›
      · with_reducible exact kept_countAt ‹_›
    · with_reducible refine Kept.upd3 ?_ ?_ ?_ ?_ ?_ ?_ ?_ ?_ ?_ ?_
      · with_reducible assumption
      · exact le_refl _
      · with_reducible exact fun h => h
      · with_reducible exact fun h => wf_flags h
      · exact fun h => absurd h Bool.false_ne_true
      · with_reducible exact fun h => h
      · with_reducible exact fun h => h
      · exact le_refl _
      · exact le_refl _
      · with_reducible exact fun _ => rfl
  · with_reducible exact kept_tripNow ‹_›

theorem kept_noteMargin {m o : Bool} {s0 s : State} {c a2 : _} (h : Kept m o s0 s) :
    Kept m o s0 (State.noteMargin s c a2) := by
  unfold State.noteMargin
  dsimp only
  refine Kept.ite ?_ ?_
  · split
    · refine Kept.iteR ?_ (fun _ => ?_)
      · with_reducible exact kept_countAt (kept_setCab ‹_›)
      · with_reducible exact kept_evacTrigger ‹_›
    · with_reducible exact kept_countAt (kept_setCab ‹_›)
  · with_reducible exact kept_setCab ‹_›

theorem kept_noteWaiting {m o : Bool} {s0 s : State} {c : _} (h : Kept m o s0 s) :
    Kept m o s0 (State.noteWaiting s c) := by
  unfold State.noteWaiting
  dsimp only
  with_reducible refine kept_noteAge ?_
  refine Kept.iteR ?_ (fun _ => ?_)
  · refine Kept.iteR ?_ (fun _ => ?_)
    · with_reducible assumption
    · with_reducible exact kept_noteAge ‹_›
  · with_reducible exact kept_noteAge ‹_›

theorem kept_scrubAt {o : Bool} {s0 s : State} {a : _} (h : Kept false o s0 s) :
    Kept false o s0 (State.scrubAt s a) := by
  unfold State.scrubAt
  dsimp only
  split
  · with_reducible exact kept_noteCE (kept_countAt (kept_bump (kept_cabWrite (kept_decodeAt ‹_›))))
  · refine Kept.ite ?_ ?_
    · with_reducible exact kept_countAt (kept_bump (kept_decodeAt ‹_›))
    · with_reducible exact kept_evacTrigger (kept_reportLine (kept_countAt (kept_bump (kept_cabWrite (kept_decodeAt ‹_›)))))
  · with_reducible exact kept_decodeAt ‹_›

theorem kept_spareFails {m o : Bool} {s0 s : State} {c p : _} (h : Kept m o s0 s) :
    Kept m o s0 (State.spareFails s c p) := by
  unfold State.spareFails
  with_reducible exact kept_countAt (kept_loseDrawer ‹_›)

theorem kept_stack {m o : Bool} {s0 s : State} {c work : _} (h : Kept m o s0 s) (h_work : ∀ t, Kept m o s0 t → Kept m o s0
    (work t)) :
    Kept m o s0 (State.stack s c work) := by
  unfold State.stack
  refine Kept.iteL ?_ (fun _ => ?_)
  · with_reducible assumption
  · refine h_work _ ?_
    with_reducible assumption

theorem kept_switchDrawer {o : Bool} {s0 s : State} {c : _} (h : Kept false o s0 s) :
    Kept false o s0 (State.switchDrawer s c) := by
  unfold State.switchDrawer
  dsimp only
  with_reducible exact kept_nextEvac (kept_countAt (kept_bump (kept_endEvac (kept_setDstate (kept_remap (kept_adoptDrawer
      ‹_›))))))

theorem kept_execBgOverdue {m o : Bool} {s0 s : State} {cab cls : _} (h : Kept m o s0 s) :
    OutKept m o s0 (execBgOverdue cab cls s) := by
  unfold execBgOverdue
  dsimp only
  refine OutKept.next ?_
  with_reducible refine kept_cabinet ?_ ?_
  · with_reducible assumption
  · intro _ _
    refine Kept.iteL ?_ (fun _ => ?_)
    · with_reducible exact kept_settleClasses ‹_›
    · with_reducible exact kept_countAt (kept_setCab (kept_noteAge ‹_›))

theorem kept_execBgUrgent {m o : Bool} {s0 s : State} {cab cls : _} (h : Kept m o s0 s) :
    OutKept m o s0 (execBgUrgent cab cls s) := by
  unfold execBgUrgent
  dsimp only
  refine OutKept.next ?_
  with_reducible refine kept_cabinet ?_ ?_
  · with_reducible assumption
  · intro _ _
    refine Kept.iteL ?_ (fun _ => ?_)
    · with_reducible exact kept_settleClasses ‹_›
    · with_reducible exact kept_countAt (kept_setCab (kept_noteAge ‹_›))

theorem kept_execEyeSample {m o : Bool} {s0 s : State} {cab margins : _} (h : Kept m o s0 s) :
    OutKept m o s0 (execEyeSample cab margins s) := by
  unfold execEyeSample
  dsimp only
  refine OutKept.next ?_
  with_reducible refine kept_cabinet ?_ ?_
  · with_reducible assumption
  · intro _ _
    refine Kept.iteL ?_ (fun _ => ?_)
    · with_reducible assumption
    · split
      · with_reducible exact kept_setCab ‹_›
      · refine Kept.foldl ?_ (fun _ _ _ => ?_)
        · with_reducible exact kept_setCab (kept_countAt (kept_put (kept_put (kept_setCab ‹_›))))
        · with_reducible exact kept_noteMargin (kept_moveEye ‹_›)

theorem kept_execGrantSlot {m o : Bool} {s0 s : State} {cab demand : _} (h : Kept m o s0 s) :
    OutKept m o s0 (execGrantSlot cab demand s) := by
  unfold execGrantSlot
  dsimp only
  refine OutKept.next ?_
  with_reducible refine kept_cabinet ?_ ?_
  · with_reducible assumption
  · intro _ _
    refine Kept.ite ?_ ?_
    · with_reducible exact kept_grantOther (kept_setCab (kept_settleClasses (kept_noteWaiting ‹_›)))
    · split
      · with_reducible refine kept_grantClass ?_
        refine Kept.fst (by with_reducible assumption) ?_
        with_reducible exact kept_eldest (kept_settleClasses (kept_noteWaiting ‹_›))
      · split
        · with_reducible refine kept_grantClass ?_
          refine Kept.fst (by with_reducible assumption) ?_
          with_reducible exact kept_eldest (kept_settleClasses (kept_noteWaiting ‹_›))
        · refine Kept.ite ?_ ?_
          · with_reducible refine kept_grantOther ?_
            refine Kept.fst (by with_reducible assumption) ?_
            with_reducible exact kept_eldest (kept_settleClasses (kept_noteWaiting ‹_›))
          · split
            · with_reducible refine kept_grantClass ?_
              refine Kept.fst (by with_reducible assumption) ?_
              with_reducible refine kept_eldest ?_
              refine Kept.fst (by with_reducible assumption) ?_
              with_reducible exact kept_eldest (kept_settleClasses (kept_noteWaiting ‹_›))
            · refine Kept.fst (by with_reducible assumption) ?_
              with_reducible refine kept_eldest ?_
              refine Kept.fst (by with_reducible assumption) ?_
              with_reducible exact kept_eldest (kept_settleClasses (kept_noteWaiting ‹_›))

theorem kept_execHardFail {o : Bool} {s0 s : State} {cab drawer : _} (h : Kept false o s0 s) :
    OutKept false o s0 (execHardFail cab drawer s) := by
  unfold execHardFail
  dsimp only
  refine OutKept.next ?_
  with_reducible refine kept_cabinet ?_ ?_
  · with_reducible assumption
  · intro _ _
    refine Kept.iteL ?_ (fun _ => ?_)
    · with_reducible assumption
    · split
      · with_reducible refine kept_hardMapped ?_
        refine Kept.iteR ?_ (fun _ => ?_)
        · with_reducible exact kept_countAt ‹_›
        · with_reducible exact kept_voidNow ‹_›
      · refine Kept.ite ?_ ?_
        · refine Kept.iteR ?_ (fun _ => ?_)
          · with_reducible exact kept_abortTarget (kept_countAt ‹_›)
          · with_reducible exact kept_safeAtOnce ‹_›
        · split
          · with_reducible refine kept_hardSpare ?_
            refine Kept.iteR ?_ (fun _ => ?_)
            · with_reducible exact kept_countAt ‹_›
            · with_reducible exact kept_voidNow ‹_›
          · with_reducible refine kept_loseHard ?_
            refine Kept.iteR ?_ (fun _ => ?_)
            · with_reducible exact kept_countAt ‹_›
            · with_reducible exact kept_voidNow ‹_›

theorem kept_execMigrate {o : Bool} {s0 s : State} {cab targetLost : _} (h : Kept false o s0 s) :
    OutKept false o s0 (execMigrate cab targetLost s) := by
  unfold execMigrate
  dsimp only
  refine OutKept.next ?_
  with_reducible refine kept_cabinet ?_ ?_
  · with_reducible assumption
  · intro _ _
    refine Kept.iteL ?_ (fun _ => ?_)
    · with_reducible assumption
    · refine Kept.ite ?_ ?_
      · with_reducible exact kept_abortTarget ‹_›
      · refine Kept.iteL ?_ (fun _ => ?_)
        · with_reducible exact kept_put (kept_migrateLine ‹_›)
        · with_reducible exact kept_switchDrawer ‹_›

theorem kept_execPauseSlice {m o : Bool} {s0 s : State} {cab last margin : _} (h : Kept m o s0 s) :
    OutKept m o s0 (execPauseSlice cab last margin s) := by
  unfold execPauseSlice
  dsimp only
  refine OutKept.next ?_
  with_reducible refine kept_cabinet ?_ ?_
  · with_reducible assumption
  · intro _ _
    split
    · with_reducible assumption
    · refine Kept.iteL ?_ (fun _ => ?_)
      · with_reducible assumption
      · refine Kept.iteR ?_ (fun _ => ?_)
        · with_reducible exact kept_countAt (kept_setCab ‹_›)
        · with_reducible exact kept_endPauseRetrain ‹_›

theorem kept_execPrepare {m o : Bool} {s0 s : State} {cab passed : _} (h : Kept m o s0 s) :
    OutKept m o s0 (execPrepare cab passed s) := by
  unfold execPrepare
  dsimp only
  refine OutKept.next ?_
  with_reducible refine kept_cabinet ?_ ?_
  · with_reducible assumption
  · intro _ _
    refine Kept.iteL ?_ (fun _ => ?_)
    · with_reducible assumption
    · refine Kept.ite ?_ ?_
      · with_reducible exact kept_countAt (kept_put (kept_put (kept_setDstate (kept_setDstate ‹_›))))
      · with_reducible exact kept_startEvac (kept_spareFails (kept_endEvac ‹_›))

theorem kept_execRebuild {o : Bool} {s0 s : State} {cab : _} (h : Kept false o s0 s) :
    OutKept false o s0 (execRebuild cab s) := by
  unfold execRebuild
  dsimp only
  refine OutKept.next ?_
  with_reducible refine kept_cabinet ?_ ?_
  · with_reducible assumption
  · intro _ _
    split
    · with_reducible assumption
    · with_reducible refine kept_nextEvac ?_
      with_reducible refine kept_reportLine ?_
      with_reducible refine kept_countAt ?_
      with_reducible refine kept_put ?_
      with_reducible refine Kept.upd3 ?_ ?_ ?_ ?_ ?_ ?_ ?_ ?_ ?_ ?_
      · with_reducible exact kept_remap (kept_setCab ‹_›)
      · exact le_refl _
      · with_reducible exact fun h => h
      · with_reducible exact fun h => wf_dead h
      · exact fun h => absurd h Bool.false_ne_true
      · with_reducible exact fun h => h
      · with_reducible exact fun h => h
      · exact le_refl _
      · exact le_refl _
      · with_reducible exact fun _ => rfl

theorem kept_execRefresh {m o : Bool} {s0 s : State} {cab _die : _} (h : Kept m o s0 s) :
    OutKept m o s0 (execRefresh cab _die s) := by
  unfold execRefresh
  dsimp only
  refine OutKept.next ?_
  with_reducible refine kept_stack ?_ ?_
  · with_reducible assumption
  · intro _ _
    refine Kept.iteL ?_ (fun _ => ?_)
    · with_reducible assumption
    · with_reducible refine kept_countAt ?_
      with_reducible refine kept_setCab ?_
      refine Kept.iteR ?_ (fun _ => ?_)
      · with_reducible assumption
      · with_reducible exact kept_countAt ‹_›

theorem kept_execRefreshRateRead {o : Bool} {s0 s : State} {cab rate temp : _} (h : Kept false o s0 s) :
    OutKept false o s0 (execRefreshRateRead cab rate temp s) := by
  unfold execRefreshRateRead
  dsimp only
  refine OutKept.next ?_
  with_reducible refine kept_stack ?_ ?_
  · with_reducible assumption
  · intro _ _
    with_reducible refine kept_noteCabTemp ?_
    with_reducible refine kept_put ?_
    refine Kept.iteR ?_ (fun _ => ?_)
    · with_reducible assumption
    · with_reducible exact kept_countAt ‹_›

theorem kept_execRetraining {m o : Bool} {s0 s : State} {cab drawer passed : _} (h : Kept m o s0 s) :
    OutKept m o s0 (execRetraining cab drawer passed s) := by
  unfold execRetraining
  refine OutKept.next ?_
  with_reducible refine kept_cabinet ?_ ?_
  · with_reducible assumption
  · intro _ _
    refine Kept.iteL ?_ (fun _ => ?_)
    · with_reducible assumption
    · refine Kept.ite ?_ ?_
      · with_reducible exact kept_setDstate (kept_setCab ‹_›)
      · with_reducible exact kept_loseDrawer ‹_›

theorem kept_execScrubLate {m o : Bool} {s0 s : State} {cab : _} (h : Kept m o s0 s) :
    OutKept m o s0 (execScrubLate cab s) := by
  unfold execScrubLate
  refine OutKept.next ?_
  with_reducible refine kept_cabinet ?_ ?_
  · with_reducible assumption
  · intro _ _
    refine Kept.iteR ?_ (fun _ => ?_)
    · with_reducible assumption
    · with_reducible exact kept_countAt (kept_put (kept_setCab ‹_›))

theorem kept_execScrubLine {o : Bool} {s0 s : State} {cab : _} (h : Kept false o s0 s) :
    OutKept false o s0 (execScrubLine cab s) := by
  unfold execScrubLine
  dsimp only
  refine OutKept.next ?_
  with_reducible refine kept_cabinet ?_ ?_
  · with_reducible assumption
  · intro _ _
    refine Kept.iteL ?_ (fun _ => ?_)
    · with_reducible assumption
    · refine Kept.ite ?_ ?_
      · with_reducible exact kept_setCab (kept_countAt (kept_scrubAt ‹_›))
      · refine Kept.iteL ?_ (fun _ => ?_)
        · with_reducible exact kept_put (kept_setCab (kept_countAt (kept_scrubAt ‹_›)))
        · with_reducible exact kept_put (kept_setCab ‹_›)

theorem kept_execScrubPass {m o : Bool} {s0 s : State} {cab badSpares : _} (h : Kept m o s0 s) :
    OutKept m o s0 (execScrubPass cab badSpares s) := by
  unfold execScrubPass
  dsimp only
  refine OutKept.next ?_
  with_reducible refine kept_cabinet ?_ ?_
  · with_reducible assumption
  · intro _ _
    refine Kept.iteL ?_ (fun _ => ?_)
    · with_reducible assumption
    · refine Kept.foldl ?_ (fun _ _ _ => ?_)
      · with_reducible exact kept_countAt (kept_put (kept_noteAge (kept_setCab ‹_›)))
      · refine Kept.iteR ?_ (fun _ => ?_)
        · with_reducible assumption
        · with_reducible exact kept_spareFails ‹_›

end Sys2Proof.Laws
end

