-- ==== Sys2Proof/Laws/KeepsDma.lean ====
section
/-! SUPPORT. What each operation of Machine/Dma.lean keeps, by the relation of Laws/Kept.lean. -/
namespace Sys2Proof.Laws
open Sys2Proof.Machine

theorem kept_dmaStore {o : Bool} {s0 s : State} {a1 rows : _} (h : Kept false o s0 s) :
    Kept false o s0 (State.dmaStore s a1 rows).1 := by
  unfold State.dmaStore
  dsimp only
  with_reducible refine kept_countAt ?_
  with_reducible refine kept_countAt ?_
  with_reducible refine kept_countAt ?_
  with_reducible refine kept_countAt ?_
  refine Kept.iteL ?_ (fun _ => ?_)
  · with_reducible exact kept_storeRows ‹_›
  · with_reducible exact kept_gauge ‹_›

theorem kept_takeUntil {o : Bool} {s0 s : State} {p as spill : _} (h : Kept false o s0 s) :
    Kept false o s0 (State.takeUntil s p as spill).1 := by
  unfold State.takeUntil
  dsimp only
  refine Kept.foldl1 ?_ (fun _ _ _ => ?_)
  · dsimp only
    with_reducible assumption
  · split
    · with_reducible assumption
    · dsimp only
      with_reducible exact kept_takeLine ‹_›

theorem kept_readTiles {o : Bool} {s0 s : State} {c a2 tiles spill : _} (h : Kept false o s0 s) :
    Kept false o s0 (State.readTiles s c a2 tiles spill).1 := by
  unfold State.readTiles
  dsimp only
  refine Kept.foldl1 ?_ (fun _ _ _ => ?_)
  · dsimp only
    with_reducible assumption
  · split
    · with_reducible assumption
    · dsimp only
      with_reducible exact kept_takeUntil ‹_›

theorem kept_replayFailed {m o : Bool} {s0 s : State} {f b spill : _} (h : Kept m o s0 s) :
    Kept m o s0 (State.replayFailed s f b spill) := by
  unfold State.replayFailed
  dsimp only
  refine Kept.iteR ?_ (fun _ => ?_)
  · with_reducible assumption
  · with_reducible exact kept_countAt (kept_put ‹_›)

theorem kept_copyWork {o : Bool} {s0 s : State} {c f d replay : _} (h : Kept false o s0 s) :
    Kept false o s0 (State.copyWork s c f d replay).1 := by
  unfold State.copyWork
  dsimp only
  split
  · split
    · dsimp only
      with_reducible assumption
    · split
      · dsimp only
        with_reducible assumption
      · split
        · split
          · split
            · dsimp only
              with_reducible exact kept_storeRows (kept_readTiles ‹_›)
            · dsimp only
              with_reducible refine kept_dmaStore ?_
              with_reducible refine kept_countAt ?_
              refine Kept.iteL ?_ (fun _ => ?_)
              · with_reducible exact kept_readTiles ‹_›
              · with_reducible exact kept_replayFailed ‹_›
          · split
            · dsimp only
              with_reducible exact kept_storeRows (kept_readTiles ‹_›)
            · dsimp only
              with_reducible refine kept_dmaStore ?_
              with_reducible refine kept_countAt ?_
              refine Kept.iteL ?_ (fun _ => ?_)
              · with_reducible exact kept_readTiles ‹_›
              · with_reducible exact kept_replayFailed ‹_›
        · split
          · split
            · dsimp only
              with_reducible exact kept_storeRows (kept_readTiles (kept_readLayer ‹_›))
            · dsimp only
              with_reducible refine kept_dmaStore ?_
              with_reducible refine kept_countAt ?_
              refine Kept.iteL ?_ (fun _ => ?_)
              · with_reducible exact kept_readTiles (kept_readLayer ‹_›)
              · with_reducible exact kept_replayFailed ‹_›
          · split
            · dsimp only
              with_reducible exact kept_storeRows (kept_readTiles (kept_readLayer ‹_›))
            · dsimp only
              with_reducible refine kept_dmaStore ?_
              with_reducible refine kept_countAt ?_
              refine Kept.iteL ?_ (fun _ => ?_)
              · with_reducible exact kept_readTiles (kept_readLayer ‹_›)
              · with_reducible exact kept_replayFailed ‹_›
  · dsimp only
    with_reducible assumption

theorem kept_dmaEnds {m o : Bool} {s0 s : State} {c e : _} (h : Kept m o s0 s) :
    Kept m o s0 (State.dmaEnds s c e) := by
  unfold State.dmaEnds
  split
  · with_reducible exact kept_setPhase ‹_›
  · with_reducible exact kept_mapJob (kept_countAt (kept_countAt (kept_setPhase ‹_›)))

theorem kept_fillWork {o : Bool} {s0 s : State} {f d : _} (h : Kept false o s0 s) :
    Kept false o s0 (State.fillWork s f d).1 := by
  unfold State.fillWork
  dsimp only
  split
  · split
    · dsimp only
      with_reducible assumption
    · dsimp only
      with_reducible exact kept_countAt (kept_dmaStore ‹_›)
  · dsimp only
    with_reducible assumption

theorem kept_dmaBytes {o : Bool} {s0 s : State} {c a2 n spill : _} (h : Kept false o s0 s) :
    Kept false o s0 (State.dmaBytes s c a2 n spill).1 := by
  unfold State.dmaBytes
  dsimp only
  with_reducible exact kept_takeLines ‹_›

theorem kept_slotWork {o : Bool} {s0 s : State} {c f d replay : _} (h : Kept false o s0 s) :
    Kept false o s0 (State.slotWork s c f d replay).1 := by
  unfold State.slotWork
  dsimp only
  split
  · split
    · dsimp only
      with_reducible exact kept_dmaBytes ‹_›
    · dsimp only
      with_reducible exact kept_countAt (kept_setShape (kept_dmaBytes ‹_›))
  · dsimp only
    with_reducible exact kept_count (kept_setShape ‹_›)

theorem kept_tableWork {o : Bool} {s0 s : State} {c f d replay : _} (h : Kept false o s0 s) :
    Kept false o s0 (State.tableWork s c f d replay).1 := by
  unfold State.tableWork
  dsimp only
  split
  · split
    · dsimp only
      with_reducible exact kept_dmaBytes ‹_›
    · dsimp only
      with_reducible exact kept_countAt (kept_mapJob (kept_dmaBytes ‹_›))
  · dsimp only
    with_reducible assumption

theorem kept_dmaWork {o : Bool} {s0 s : State} {c d replay : _} (h : Kept false o s0 s) :
    Kept false o s0 (State.dmaWork s c d replay).1 := by
  unfold State.dmaWork
  split
  · dsimp only
    with_reducible assumption
  · split
    · with_reducible exact kept_copyWork ‹_›
    · with_reducible exact kept_tableWork ‹_›
    · with_reducible exact kept_slotWork ‹_›
    · with_reducible exact kept_fillWork ‹_›

theorem kept_dmaBegin {o : Bool} {s0 s : State} {c d : _} (h : Kept false o s0 s) :
    Kept false o s0 (State.dmaBegin s c d) := by
  unfold State.dmaBegin
  dsimp only
  refine Kept.ite ?_ ?_
  · with_reducible exact kept_setPhase (kept_setEng (kept_acquire ‹_›))
  · refine Kept.ite ?_ ?_
    · with_reducible exact kept_countAt (kept_setPhase (kept_setEng (kept_acquire ‹_›)))
    · with_reducible exact kept_dmaEnds (kept_dmaWork (kept_setEng (kept_acquire ‹_›)))

theorem kept_noteDma {m o : Bool} {s0 s : State} (h : Kept m o s0 s) :
    Kept m o s0 (State.noteDma s) := by
  unfold State.noteDma
  dsimp only
  with_reducible refine kept_put ?_
  with_reducible refine kept_put ?_
  refine Kept.foldl ?_ (fun _ _ _ => ?_)
  · with_reducible assumption
  · with_reducible exact kept_countAt ‹_›

theorem kept_dma {o : Bool} {s0 s : State} {e kind : _} (h : Kept false o s0 s) :
    Kept false o s0 (State.dma s e kind) := by
  unfold State.dma
  dsimp only
  refine Kept.iteL ?_ (fun _ => ?_)
  · with_reducible assumption
  · with_reducible refine kept_settle ?_
    with_reducible refine kept_noteDma ?_
    split
    · refine Kept.iteR ?_ (fun _ => ?_)
      · with_reducible assumption
      · with_reducible refine kept_replayWork ?_ ?_
        · with_reducible assumption
        · intro _ _ _
          dsimp only
          with_reducible exact kept_dmaWork ‹_›
    · split
      · refine Kept.iteR ?_ (fun _ => ?_)
        · with_reducible assumption
        · with_reducible exact kept_dmaBegin ‹_›
      · split
        · refine Kept.iteR ?_ (fun _ => ?_)
          · with_reducible assumption
          · with_reducible exact kept_dmaEnds (kept_dmaWork ‹_›)
        · with_reducible assumption

theorem kept_logEnded {o : Bool} {s0 s : State} {c : _} (h : Kept false o s0 s) :
    Kept false o s0 (State.logEnded s c) := by
  unfold State.logEnded
  split
  · with_reducible exact kept_mapIntake (kept_logTake ‹_›)
  · with_reducible assumption

theorem kept_noteTakeWait {m o : Bool} {s0 s : State} (h : Kept m o s0 s) :
    Kept m o s0 (State.noteTakeWait s) := by
  unfold State.noteTakeWait
  dsimp only
  with_reducible refine kept_put ?_
  refine Kept.iteR ?_ (fun _ => ?_)
  · with_reducible assumption
  · with_reducible exact kept_count ‹_›

theorem kept_putSample {o : Bool} {s0 s : State} {a1 row rows bs : _} (h : Kept false o s0 s) :
    Kept false o s0 (State.putSample s a1 row rows bs).1 := by
  unfold State.putSample
  dsimp only
  with_reducible refine kept_countAt ?_
  refine Kept.foldl ?_ (fun _ _ _ => ?_)
  · with_reducible assumption
  · with_reducible exact kept_storeCells (kept_storeCells ‹_›)

theorem kept_queueReplay {m o : Bool} {s0 s : State} {c tid f : _} (h : Kept m o s0 s) :
    Kept m o s0 (State.queueReplay s c tid f) := by
  unfold State.queueReplay
  dsimp only
  split
  · with_reducible assumption
  · refine Kept.iteL ?_ (fun _ => ?_)
    · with_reducible assumption
    · with_reducible refine kept_countAt ?_
      with_reducible refine kept_bump ?_
      with_reducible refine kept_put ?_
      with_reducible refine kept_mapJob ?_
      refine Kept.foldl ?_ (fun _ _ _ => ?_)
      · with_reducible assumption
      · with_reducible exact kept_setSem ‹_›

theorem kept_queueFound {m o : Bool} {s0 s : State} {tid f : _} (h : Kept m o s0 s) :
    Kept m o s0 (State.queueFound s tid f) := by
  unfold State.queueFound
  dsimp only
  refine Kept.iteR ?_ (fun _ => ?_)
  · with_reducible assumption
  · with_reducible refine kept_mapJob ?_
    refine Kept.foldl ?_ (fun _ _ _ => ?_)
    · with_reducible assumption
    · with_reducible exact kept_queueReplay ‹_›

theorem kept_takeOne {o : Bool} {s0 s : State} {t : Tensor} {k x : _} (h : Kept false o s0 s) (e : State.takeOne s t k =
    some x) :
    Kept false o s0 x.1 := by
  unfold State.takeOne at e
  split at e
  · cases e; exact kept_setNext h
  · split at e
    · cases e
    · dsimp only at e
      split at e
      · cases e; exact kept_setNext (kept_releaseSamples h)
      · split at e
        · cases e; exact kept_setNext (kept_releaseSamples h)
        · cases e; exact kept_setNext (kept_releaseSamples (kept_putSample (kept_readSample h)))

theorem kept_takeAll {o : Bool} {s0 s : State} {t : Tensor} {n k : _} (h : Kept false o s0 s) :
    Kept false o s0 (State.takeAll t n s k).1 := by
  induction n generalizing s k with
  | zero => exact h
  | succ n ih =>
    unfold State.takeAll
    split
    · exact h
    · exact kept_takeOne h (by assumption)
    · exact ih (kept_takeOne h (by assumption))

theorem kept_takeOn {o : Bool} {s0 s : State} {c a2 d k : _} (h : Kept false o s0 s) :
    Kept false o s0 (State.takeOn s c a2 d k) := by
  unfold State.takeOn
  dsimp only
  refine Kept.ite ?_ ?_
  · with_reducible exact kept_mapIntake (kept_setPhase (kept_countAt (kept_setShape (kept_takeAll ‹_›))))
  · with_reducible exact kept_setPhase (kept_takeAll ‹_›)

theorem kept_takeBegin {o : Bool} {s0 s : State} {c : _} (h : Kept false o s0 s) :
    Kept false o s0 (State.takeBegin s c) := by
  unfold State.takeBegin
  dsimp only
  split
  · split
    · refine Kept.iteL ?_ (fun _ => ?_)
      · with_reducible assumption
      · refine Kept.ite ?_ ?_
        · with_reducible exact kept_setPhase (kept_setEng (kept_acquire ‹_›))
        · with_reducible exact kept_takeOn (kept_setEng (kept_acquire ‹_›))
    · with_reducible assumption
  · with_reducible assumption

theorem kept_unstop {m o : Bool} {s0 s : State} {tid : _} (h : Kept m o s0 s) :
    Kept m o s0 (State.unstop s tid) := by
  unfold State.unstop
  with_reducible exact kept_mapJob ‹_›

theorem kept_execActReplay {m o : Bool} {s0 s : State} {dma : _} (h : Kept m o s0 s) :
    OutKept m o s0 (execActReplay dma s) := by
  unfold execActReplay
  refine OutKept.next ?_
  split
  · refine Kept.iteR ?_ (fun _ => ?_)
    · with_reducible assumption
    · with_reducible exact kept_queueFound ‹_›
  · with_reducible assumption

theorem kept_execCopy {o : Bool} {s0 s : State} {dma : _} (h : Kept false o s0 s) :
    OutKept false o s0 (execCopy dma s) := by
  unfold execCopy
  refine OutKept.next ?_
  with_reducible exact kept_dma ‹_›

theorem kept_execDmaDone {o : Bool} {s0 s : State} {dma : _} (h : Kept false o s0 s) :
    OutKept false o s0 (execDmaDone dma s) := by
  unfold execDmaDone
  dsimp only
  refine OutKept.next ?_
  refine Kept.iteL ?_ (fun _ => ?_)
  · with_reducible assumption
  · with_reducible refine kept_settle ?_
    with_reducible refine kept_noteDma ?_
    refine Kept.ite ?_ ?_
    · with_reducible exact kept_countAt (kept_replayDone ‹_›)
    · split
      · with_reducible exact kept_countAt (kept_logEnded (kept_finishEng ‹_›))
      · with_reducible assumption

theorem kept_execFill {o : Bool} {s0 s : State} {dma : _} (h : Kept false o s0 s) :
    OutKept false o s0 (execFill dma s) := by
  unfold execFill
  refine OutKept.next ?_
  with_reducible exact kept_dma ‹_›

theorem kept_execIntakeTake {o : Bool} {s0 s : State} {dma : _} (h : Kept false o s0 s) :
    OutKept false o s0 (execIntakeTake dma s) := by
  unfold execIntakeTake
  refine OutKept.next ?_
  refine Kept.iteL ?_ (fun _ => ?_)
  · with_reducible assumption
  · with_reducible exact kept_settle (kept_noteDma (kept_noteTakeWait (kept_takeBegin ‹_›)))

theorem kept_execReplayRestart {o : Bool} {s0 s : State} {dma : _} (h : Kept false o s0 s) :
    OutKept false o s0 (execReplayRestart dma s) := by
  unfold execReplayRestart
  dsimp only
  refine OutKept.next ?_
  split
  · refine Kept.iteR ?_ (fun _ => ?_)
    · with_reducible assumption
    · split
      · refine Kept.ite ?_ ?_
        · with_reducible exact kept_settle (kept_noteDma (kept_countAt (kept_setPhase (kept_setEng (kept_unstop
            (kept_mapJob ‹_›))))))
        · with_reducible exact kept_settle (kept_noteDma (kept_dmaEnds (kept_dmaWork (kept_setEng (kept_unstop (kept_mapJob
            ‹_›))))))
      · with_reducible assumption
  · with_reducible assumption

theorem kept_execSlotSet {o : Bool} {s0 s : State} {dma : _} (h : Kept false o s0 s) :
    OutKept false o s0 (execSlotSet dma s) := by
  unfold execSlotSet
  refine OutKept.next ?_
  with_reducible exact kept_dma ‹_›

theorem kept_execTableLoad {o : Bool} {s0 s : State} {dma : _} (h : Kept false o s0 s) :
    OutKept false o s0 (execTableLoad dma s) := by
  unfold execTableLoad
  refine OutKept.next ?_
  with_reducible exact kept_dma ‹_›

theorem kept_execTakeWait {o : Bool} {s0 s : State} {dma : _} (h : Kept false o s0 s) :
    OutKept false o s0 (execTakeWait dma s) := by
  unfold execTakeWait
  dsimp only
  refine OutKept.next ?_
  refine Kept.iteL ?_ (fun _ => ?_)
  · with_reducible assumption
  · split
    · split
      · refine Kept.iteR ?_ (fun _ => ?_)
        · with_reducible assumption
        · with_reducible exact kept_settle (kept_noteDma (kept_noteTakeWait (kept_takeOn ‹_›)))
      · with_reducible assumption
    · with_reducible assumption

end Sys2Proof.Laws
end

