-- ==== Sys2Proof/Laws/KeepsHosts.lean ====
section
/-! SUPPORT. What each operation of Machine/Hosts.lean keeps, by the relation of Laws/Kept.lean. -/
namespace Sys2Proof.Laws
open Sys2Proof.Machine

theorem kept_hostDiscard {m o : Bool} {s0 s : State} {port : _} (h : Kept m o s0 s) :
    Kept m o s0 (State.hostDiscard s port) := by
  unfold State.hostDiscard
  with_reducible exact kept_bump ‹_›

theorem kept_hostAnswer {m o : Bool} {s0 s : State} {port kind own target peer data : _} (h : Kept m o s0 s) :
    Kept m o s0 (State.hostAnswer s port kind own target peer data) := by
  unfold State.hostAnswer
  refine Kept.ite ?_ ?_
  · with_reducible exact kept_countAt (kept_send ‹_›)
  · with_reducible exact kept_hostDiscard ‹_›

theorem kept_hostFrame {m o : Bool} {s0 s : State} {port work : _} (h : Kept m o s0 s) (h_work : ∀ t, Kept m o s0 t → Kept
    m o s0 (work t)) :
    Kept m o s0 (State.hostFrame s port work) := by
  unfold State.hostFrame
  refine Kept.iteL ?_ (fun _ => ?_)
  · with_reducible assumption
  · refine h_work _ ?_
    with_reducible exact kept_hostRx ‹_›

theorem kept_execArp {m o : Bool} {s0 s : State} {port targetIp senderIp _senderMac : _} (h : Kept m o s0 s) :
    OutKept m o s0 (execArp port targetIp senderIp _senderMac s) := by
  unfold execArp
  refine OutKept.next ?_
  with_reducible refine kept_hostFrame ?_ ?_
  · with_reducible assumption
  · intro _ _
    with_reducible exact kept_hostAnswer ‹_›

theorem kept_execDatagramDrop {m o : Bool} {s0 s : State} {packet : _} (h : Kept m o s0 s) :
    OutKept m o s0 (execDatagramDrop packet s) := by
  unfold execDatagramDrop
  refine OutKept.next ?_
  refine Kept.iteL ?_ (fun _ => ?_)
  · with_reducible assumption
  · with_reducible refine kept_hostFrame ?_ ?_
    · with_reducible assumption
    · intro _ _
      with_reducible exact kept_hostDiscard ‹_›

theorem kept_execEchoRequest {m o : Bool} {s0 s : State} {port v6 targetIp senderIp data : _} (h : Kept m o s0 s) :
    OutKept m o s0 (execEchoRequest port v6 targetIp senderIp data s) := by
  unfold execEchoRequest
  refine OutKept.next ?_
  with_reducible refine kept_hostFrame ?_ ?_
  · with_reducible assumption
  · intro _ _
    refine Kept.ite ?_ ?_
    · with_reducible exact kept_hostAnswer ‹_›
    · with_reducible exact kept_hostAnswer ‹_›

theorem kept_execHLinkDown {m o : Bool} {s0 s : State} {port : _} (h : Kept m o s0 s) :
    OutKept m o s0 (execHLinkDown port s) := by
  unfold execHLinkDown
  refine OutKept.next ?_
  refine Kept.iteL ?_ (fun _ => ?_)
  · with_reducible assumption
  · with_reducible exact kept_hostDown ‹_›

theorem kept_execHostPortTrain {m o : Bool} {s0 s : State} {port lanes : _} (h : Kept m o s0 s) :
    OutKept m o s0 (execHostPortTrain port lanes s) := by
  unfold execHostPortTrain
  dsimp only
  refine OutKept.next ?_
  refine Kept.iteL ?_ (fun _ => ?_)
  · with_reducible assumption
  · split
    · with_reducible assumption
    · with_reducible refine kept_pump ?_
      refine Kept.iteR ?_ (fun _ => ?_)
      · with_reducible exact kept_put (kept_put (kept_put ‹_›))
      · with_reducible exact kept_put ‹_›

theorem kept_execNeighborDiscovery {m o : Bool} {s0 s : State} {port targetIp senderIp _senderMac : _} (h : Kept m o s0 s) :
    OutKept m o s0 (execNeighborDiscovery port targetIp senderIp _senderMac s) := by
  unfold execNeighborDiscovery
  refine OutKept.next ?_
  with_reducible refine kept_hostFrame ?_ ?_
  · with_reducible assumption
  · intro _ _
    with_reducible exact kept_hostAnswer ‹_›

end Sys2Proof.Laws
end

