-- ==== Sys2Proof/Laws/KeepsNib.lean ====
section
/-! SUPPORT. What each operation of Machine/Nib.lean keeps, by the relation of Laws/Kept.lean. -/
namespace Sys2Proof.Laws
open Sys2Proof.Machine

theorem kept_sendInputs {m o : Bool} {s0 s : State} {layer p ls : _} (h : Kept m o s0 s) :
    Kept m o s0 (State.sendInputs s layer p ls) := by
  unfold State.sendInputs
  dsimp only
  refine Kept.iteR ?_ (fun _ => ?_)
  · with_reducible assumption
  · refine Kept.foldl ?_ (fun _ _ _ => ?_)
    · with_reducible assumption
    · refine Kept.iteR ?_ (fun _ => ?_)
      · with_reducible assumption
      · with_reducible exact kept_mapSvl (kept_ride ‹_›)

theorem kept_nibBuf {o : Bool} {s0 s : State} {j a2 rows c n : _} (h : Kept false o s0 s) :
    Kept false o s0 (State.nibBuf s j a2 rows c n).1 := by
  unfold State.nibBuf
  dsimp only
  with_reducible exact kept_sendInputs (kept_readRows ‹_›)

theorem kept_nibVals {o : Bool} {s0 s : State} {j a2 r c n : _} (h : Kept false o s0 s) :
    Kept false o s0 (State.nibVals s j a2 r c n).1 := by
  unfold State.nibVals
  dsimp only
  split
  · dsimp only
    with_reducible exact kept_nibBuf ‹_›
  · dsimp only
    with_reducible assumption

theorem kept_addSquares {o : Bool} {s0 s : State} {j : _} (h : Kept false o s0 s) :
    Kept false o s0 (State.addSquares s j) := by
  unfold State.addSquares
  dsimp only
  split
  · refine Kept.foldl ?_ (fun _ _ _ => ?_)
    · with_reducible assumption
    · refine Kept.foldl ?_ (fun _ _ _ => ?_)
      · with_reducible exact kept_nibVals ‹_›
      · with_reducible exact kept_exactAdd (kept_exactAdd ‹_›)
  · with_reducible assumption

theorem kept_factored {o : Bool} {s0 s : State} {j x : _} (h : Kept false o s0 s) :
    Kept false o s0 (State.factored s j x).1 := by
  unfold State.factored
  dsimp only
  split
  · dsimp only
    with_reducible exact kept_nibBuf (kept_nibBuf (kept_nibBuf ‹_›))
  · dsimp only
    with_reducible assumption

theorem kept_nibWrite {o : Bool} {s0 s : State} {nib a2 r c vs a : _} (h : Kept false o s0 s) :
    Kept false o s0 (State.nibWrite s nib a2 r c vs a).1 := by
  unfold State.nibWrite
  dsimp only
  split
  · dsimp only
    with_reducible exact kept_gauge (kept_countAt (kept_countAt (kept_storeRows ‹_›)))
  · dsimp only
    with_reducible assumption

theorem kept_rootAges {o : Bool} {s0 s : State} {j x : _} (h : Kept false o s0 s) :
    Kept false o s0 (State.rootAges s j x).1 := by
  unfold State.rootAges
  dsimp only
  split
  · dsimp only
    with_reducible exact kept_nibBuf (kept_nibBuf ‹_›)
  · dsimp only
    with_reducible assumption

theorem kept_applySpan {o : Bool} {s0 s : State} {j x arg a : _} (h : Kept false o s0 s) :
    Kept false o s0 (State.applySpan s j x arg a).1 := by
  unfold State.applySpan
  dsimp only
  with_reducible refine kept_nibWrite ?_
  with_reducible refine kept_nibWrite ?_
  with_reducible refine kept_nibWrite ?_
  with_reducible refine kept_nibWrite ?_
  split
  · with_reducible refine kept_rootAges ?_
    split
    · with_reducible exact kept_factored (kept_nibVals (kept_nibVals (kept_nibVals (kept_nibVals (kept_nibVals ‹_›)))))
    · dsimp only
      with_reducible exact kept_nibVals (kept_nibVals (kept_nibVals (kept_nibVals (kept_nibVals ‹_›))))
  · dsimp only
    split
    · with_reducible exact kept_factored (kept_nibVals (kept_nibVals (kept_nibVals (kept_nibVals ‹_›))))
    · dsimp only
      with_reducible exact kept_nibVals (kept_nibVals (kept_nibVals (kept_nibVals ‹_›)))

theorem kept_applyDense {o : Bool} {s0 s : State} {j a : _} (h : Kept false o s0 s) :
    Kept false o s0 (State.applyDense s j a).1 := by
  unfold State.applyDense
  refine Kept.foldl1 ?_ (fun _ _ _ => ?_)
  · dsimp only
    with_reducible assumption
  · with_reducible exact kept_applySpan ‹_›

theorem kept_rowRecord {o : Bool} {s0 s : State} {j r : _} (h : Kept false o s0 s) :
    Kept false o s0 (State.rowRecord s j r).1 := by
  unfold State.rowRecord
  dsimp only
  split
  · dsimp only
    with_reducible exact kept_nibBuf ‹_›
  · dsimp only
    with_reducible assumption

theorem kept_touchedList {o : Bool} {s0 s : State} {j : _} (h : Kept false o s0 s) :
    Kept false o s0 (State.touchedList s j).1 := by
  unfold State.touchedList
  dsimp only
  split
  · dsimp only
    with_reducible exact kept_nibBuf ‹_›
  · dsimp only
    with_reducible assumption

theorem kept_touchedRows {o : Bool} {s0 s : State} {j : _} (h : Kept false o s0 s) :
    Kept false o s0 (State.touchedRows s j).1 := by
  unfold State.touchedRows
  dsimp only
  split
  · dsimp only
    with_reducible exact kept_touchedList ‹_›
  · dsimp only
    with_reducible assumption

theorem kept_applySparse {o : Bool} {s0 s : State} {j a : _} (h : Kept false o s0 s) :
    Kept false o s0 (State.applySparse s j a).1 := by
  unfold State.applySparse
  dsimp only
  refine Kept.foldl1 ?_ (fun _ _ _ => ?_)
  · dsimp only
    with_reducible exact kept_countAt (kept_countAt (kept_touchedRows ‹_›))
  · refine Kept.foldl1 ?_ (fun _ _ _ => ?_)
    · dsimp only
      with_reducible exact kept_rowRecord ‹_›
    · with_reducible exact kept_applySpan ‹_›

theorem kept_clearSums {o : Bool} {s0 s : State} {j : _} (h : Kept false o s0 s) :
    Kept false o s0 (State.clearSums s j) := by
  unfold State.clearSums
  dsimp only
  refine Kept.foldl ?_ (fun _ _ _ => ?_)
  · with_reducible assumption
  · refine Kept.foldl ?_ (fun _ _ _ => ?_)
    · with_reducible assumption
    · with_reducible refine Kept.upd2 ?_ rfl rfl rfl rfl
      with_reducible exact kept_gauge (kept_lineWrite ‹_›)

theorem kept_statPass {o : Bool} {s0 s : State} {j a2 sums total a : _} (h : Kept false o s0 s) :
    Kept false o s0 (State.statPass s j a2 sums total a).1 := by
  unfold State.statPass
  dsimp only
  refine Kept.foldl1 ?_ (fun _ _ _ => ?_)
  · dsimp only
    with_reducible assumption
  · dsimp only
    split
    · refine Kept.foldl ?_ (fun _ _ _ => ?_)
      · with_reducible exact kept_nibWrite (kept_nibVals ‹_›)
      · with_reducible exact kept_exactAdd ‹_›
    · with_reducible exact kept_nibWrite (kept_nibVals ‹_›)

theorem kept_factorStats {o : Bool} {s0 s : State} {j bufs a : _} (h : Kept false o s0 s) :
    Kept false o s0 (State.factorStats s j bufs a).1 := by
  unfold State.factorStats
  dsimp only
  split
  · dsimp only
    with_reducible exact kept_statPass (kept_statPass ‹_›)
  · dsimp only
    with_reducible assumption

theorem kept_nibDone {o : Bool} {s0 s : State} {c r : _} (h : Kept false o s0 s) :
    Kept false o s0 (State.nibDone s c r) := by
  unfold State.nibDone
  dsimp only
  with_reducible refine kept_finishEng ?_
  with_reducible refine kept_countAt ?_
  refine Kept.iteR ?_ (fun _ => ?_)
  · refine Kept.iteR ?_ (fun _ => ?_)
    · refine Kept.iteR ?_ (fun _ => ?_)
      · refine Kept.iteR ?_ (fun _ => ?_)
        · refine Kept.iteR ?_ (fun _ => ?_)
          · refine Kept.iteR ?_ (fun _ => ?_)
            · with_reducible exact kept_put ‹_›
            · with_reducible exact kept_put ‹_›
          · with_reducible exact kept_put ‹_›
        · with_reducible exact kept_put ‹_›
      · with_reducible exact kept_put ‹_›
    · with_reducible exact kept_put ‹_›
  · with_reducible exact kept_countAt ‹_›

theorem kept_nibFrozen {o : Bool} {s0 s : State} {c : _} (h : Kept false o s0 s) :
    Kept false o s0 (State.nibFrozen s c) := by
  unfold State.nibFrozen
  dsimp only
  with_reducible exact kept_nibDone (kept_countAt (kept_bump ‹_›))

theorem kept_nibGate {m o : Bool} {s0 s : State} (h : Kept m o s0 s) :
    Kept m o s0 (State.nibGate s).1 := by
  unfold State.nibGate
  dsimp only
  split
  · dsimp only
    with_reducible assumption
  · split
    · dsimp only
      with_reducible exact kept_mapRun (kept_put ‹_›)
    · split
      · dsimp only
        with_reducible exact kept_latch (kept_mapRun (kept_put ‹_›))
      · split
        · dsimp only
          with_reducible exact kept_latch (kept_mapRun (kept_put ‹_›))
        · split
          · dsimp only
            with_reducible exact kept_mapRun (kept_put ‹_›)
          · dsimp only
            refine Kept.foldl ?_ (fun _ _ _ => ?_)
            · with_reducible exact kept_mapRun (kept_mapRun (kept_put ‹_›))
            · with_reducible exact kept_countAt ‹_›

theorem kept_noteLayer {m o : Bool} {s0 s : State} {l e z pnow : _} (h : Kept m o s0 s) :
    Kept m o s0 (State.noteLayer s l e z pnow) := by
  unfold State.noteLayer
  dsimp only
  with_reducible exact kept_mapJob ‹_›

theorem kept_scanPass {o : Bool} {s0 s : State} {j : _} (h : Kept false o s0 s) :
    Kept false o s0 (State.scanPass s j).1 := by
  unfold State.scanPass
  dsimp only
  refine Kept.foldl1 ?_ (fun _ _ _ => ?_)
  · dsimp only
    with_reducible assumption
  · dsimp only
    split
    · with_reducible exact kept_nibVals (kept_nibVals ‹_›)
    · dsimp only
      with_reducible exact kept_nibVals ‹_›

theorem kept_writeRows {o : Bool} {s0 s : State} {j : _} (h : Kept false o s0 s) :
    Kept false o s0 (State.writeRows s j) := by
  unfold State.writeRows
  dsimp only
  split
  · with_reducible exact kept_touchedRows ‹_›
  · refine Kept.foldl ?_ (fun _ _ _ => ?_)
    · with_reducible exact kept_touchedRows ‹_›
    · refine Kept.iteR ?_ (fun _ => ?_)
      · with_reducible assumption
      · with_reducible exact kept_storeCells (kept_rowRecord ‹_›)

theorem kept_nibPass {o : Bool} {s0 s : State} {j p bufs r : _} (h : Kept false o s0 s) :
    Kept false o s0 (State.nibPass s j p bufs r).1 := by
  unfold State.nibPass
  dsimp only
  split
  · dsimp only
    refine Kept.iteR ?_ (fun _ => ?_)
    · with_reducible exact kept_scanPass ‹_›
    · with_reducible exact kept_mapJob ‹_›
  · dsimp only
    with_reducible exact kept_clearSums ‹_›
  · dsimp only
    with_reducible exact kept_addSquares ‹_›
  · dsimp only
    with_reducible exact kept_factorStats ‹_›
  · dsimp only
    with_reducible refine kept_countAt ?_
    with_reducible refine kept_countAt ?_
    with_reducible refine kept_bump ?_
    with_reducible refine kept_noteLayer ?_
    split
    · with_reducible exact kept_applySparse ‹_›
    · with_reducible exact kept_applyDense ‹_›
  · dsimp only
    with_reducible exact kept_writeRows ‹_›

theorem kept_nibSkip {o : Bool} {s0 s : State} {c : _} (h : Kept false o s0 s) :
    Kept false o s0 (State.nibSkip s c) := by
  unfold State.nibSkip
  dsimp only
  with_reducible exact kept_nibDone (kept_countAt (kept_bump ‹_›))

theorem kept_runPass {o : Bool} {s0 s : State} {j i bufs r : _} (h : Kept false o s0 s) :
    Kept false o s0 (State.runPass s j i bufs r) := by
  unfold State.runPass
  dsimp only
  split
  · with_reducible exact kept_nibDone ‹_›
  · refine Kept.ite ?_ ?_
    · with_reducible exact kept_countAt (kept_setPhase (kept_nibPass ‹_›))
    · with_reducible exact kept_nibDone (kept_nibPass ‹_›)

theorem kept_nibStart {o : Bool} {s0 s : State} {c kind : _} (h : Kept false o s0 s) :
    Kept false o s0 (State.nibStart s c kind) := by
  unfold State.nibStart
  dsimp only
  refine Kept.iteL ?_ (fun _ => ?_)
  · with_reducible assumption
  · split
    · with_reducible assumption
    · refine Kept.iteL ?_ (fun _ => ?_)
      · with_reducible assumption
      · refine Kept.iteL ?_ (fun _ => ?_)
        · with_reducible exact kept_nibGate ‹_›
        · split
          · with_reducible exact kept_setEng (kept_acquire ‹_›)
          · refine Kept.ite ?_ ?_
            · with_reducible exact kept_nibFrozen (kept_setEng (kept_acquire ‹_›))
            · with_reducible exact kept_runPass (kept_countAt (kept_put (kept_readLayer (kept_setEng (kept_acquire ‹_›)))))

theorem kept_readSums {o : Bool} {s0 s : State} {j : _} (h : Kept false o s0 s) :
    Kept false o s0 (State.readSums s j).1 := by
  unfold State.readSums
  dsimp only
  split
  · dsimp only
    with_reducible exact kept_nibBuf (kept_nibBuf ‹_›)
  · dsimp only
    with_reducible assumption

theorem kept_passBarrier {o : Bool} {s0 s : State} {p : _} (h : Kept false o s0 s) :
    Kept false o s0 (State.passBarrier s p) := by
  unfold State.passBarrier
  dsimp only
  refine Kept.foldl ?_ (fun _ _ _ => ?_)
  · split
    · split
      · with_reducible exact kept_readSums ‹_›
      · dsimp only
        with_reducible assumption
    · dsimp only
      with_reducible assumption
  · split
    · refine Kept.ite ?_ ?_
      · with_reducible exact kept_nibSkip ‹_›
      · with_reducible exact kept_runPass ‹_›
    · with_reducible assumption

theorem kept_execConfirmHold {m o : Bool} {s0 s : State} (h : Kept m o s0 s) :
    OutKept m o s0 (execConfirmHold s) := by
  unfold execConfirmHold
  refine OutKept.next ?_
  refine Kept.iteR ?_ (fun _ => ?_)
  · with_reducible assumption
  · with_reducible exact kept_nibGate ‹_›

theorem kept_execNibBarrier {o : Bool} {s0 s : State} (h : Kept false o s0 s) :
    OutKept false o s0 (execNibBarrier s) := by
  unfold execNibBarrier
  refine OutKept.next ?_
  split
  · with_reducible exact kept_settle (kept_passBarrier ‹_›)
  · with_reducible assumption

theorem kept_execSparseUpdate {o : Bool} {s0 s : State} {nib : _} (h : Kept false o s0 s) :
    OutKept false o s0 (execSparseUpdate nib s) := by
  unfold execSparseUpdate
  refine OutKept.next ?_
  with_reducible exact kept_settle (kept_nibStart ‹_›)

theorem kept_execUpdate {o : Bool} {s0 s : State} {nib : _} (h : Kept false o s0 s) :
    OutKept false o s0 (execUpdate nib s) := by
  unfold execUpdate
  refine OutKept.next ?_
  with_reducible exact kept_settle (kept_nibStart ‹_›)

end Sys2Proof.Laws
end

