-- ==== Sys2Proof/Laws/KeepsWard.lean ====
section
/-! SUPPORT. What each operation of Machine/Ward.lean keeps, by the relation of Laws/Kept.lean. -/
namespace Sys2Proof.Laws
open Sys2Proof.Machine

theorem kept_tellLost {m o : Bool} {s0 s : State} (h : Kept m o s0 s) :
    Kept m o s0 (State.tellLost s) := by
  unfold State.tellLost
  split
  · with_reducible exact kept_rideTo ‹_›
  · with_reducible assumption

theorem kept_loseWard {m o : Bool} {s0 s : State} (h : Kept m o s0 s) :
    Kept m o s0 (State.loseWard s) := by
  unfold State.loseWard
  dsimp only
  with_reducible exact kept_tellLost (kept_mapSvl (kept_put (kept_put ‹_›)))

theorem kept_tellHost {m o : Bool} {s0 s : State} (h : Kept m o s0 s) :
    Kept m o s0 (State.tellHost s) := by
  unfold State.tellHost
  with_reducible refine kept_raise ?_
  with_reducible refine Kept.upd3 ?_ ?_ ?_ ?_ ?_ ?_ ?_ ?_ ?_ ?_
  · with_reducible assumption
  · exact Nat.le_add_right _ _
  · with_reducible exact fun h => h
  · with_reducible exact fun h => h
  · with_reducible exact fun _ => rfl
  · with_reducible exact fun h => h
  · with_reducible exact fun h => h
  · exact le_refl _
  · exact le_refl _
  · with_reducible exact fun _ => rfl

theorem kept_loseDigest {m o : Bool} {s0 s : State} (h : Kept m o s0 s) :
    Kept m o s0 (State.loseDigest s) := by
  unfold State.loseDigest
  with_reducible exact kept_tellHost (kept_loseWard (kept_count (kept_put ‹_›)))

theorem kept_sealWard {m o : Bool} {s0 s : State} {kind : _} (h : Kept m o s0 s) :
    Kept m o s0 (State.sealWard s kind) := by
  unfold State.sealWard
  dsimp only
  refine Kept.ite ?_ ?_
  · with_reducible exact kept_loseDigest ‹_›
  · with_reducible exact kept_count (kept_put (kept_put (kept_mapSvl ‹_›)))

theorem kept_stopWard {m o : Bool} {s0 s : State} (h : Kept m o s0 s) :
    Kept m o s0 (State.stopWard s) := by
  unfold State.stopWard
  refine Kept.iteR ?_ (fun _ => ?_)
  · with_reducible assumption
  · with_reducible exact kept_mapSvl (kept_put ‹_›)

theorem kept_sealNow {m o : Bool} {s0 s : State} (h : Kept m o s0 s) :
    Kept m o s0 (State.sealNow s) := by
  unfold State.sealNow
  dsimp only
  with_reducible exact kept_stopWard (kept_finishOp (kept_sealWard (kept_mapSvl ‹_›)))

theorem kept_afterApply {m o : Bool} {s0 s : State} {f u told : _} (h : Kept m o s0 s) :
    Kept m o s0 (State.afterApply s f u told) := by
  unfold State.afterApply
  refine Kept.ite ?_ ?_
  · with_reducible exact kept_loseDigest ‹_›
  · split
    · refine Kept.iteR ?_ (fun _ => ?_)
      · with_reducible assumption
      · with_reducible exact kept_sealNow ‹_›
    · with_reducible assumption

theorem kept_landWard {m o : Bool} {s0 s : State} {f u : _} (h : Kept m o s0 s) :
    Kept m o s0 (State.landWard s f u) := by
  unfold State.landWard
  dsimp only
  refine Kept.iteR ?_ (fun _ => ?_)
  · with_reducible exact kept_mapSvl ‹_›
  · with_reducible exact kept_put ‹_›

theorem kept_noteWardDigest {o : Bool} {s0 s : State} {f : _} (h : Kept false o s0 s) :
    Kept false o s0 (State.noteWardDigest s f) := by
  unfold State.noteWardDigest
  dsimp only
  with_reducible exact kept_setDigestRegs (kept_digestImage (kept_readRange ‹_›))

theorem kept_takeReplay {o : Bool} {s0 s : State} {v0 v a3 : _} (h : Kept false o s0 s) :
    Kept false o s0 (State.takeReplay s v0 v a3) := by
  unfold State.takeReplay
  dsimp only
  refine Kept.foldl ?_ (fun _ _ _ => ?_)
  · with_reducible assumption
  · split
    · refine Kept.iteL ?_ (fun _ => ?_)
      · with_reducible assumption
      · with_reducible exact kept_lineWrite ‹_›
    · with_reducible assumption

theorem kept_applyStage {o : Bool} {s0 s : State} {f u g e xs : _} (h : Kept false o s0 s) :
    Kept false o s0 (State.applyStage s f u g e xs) := by
  unfold State.applyStage
  dsimp only
  with_reducible refine kept_afterApply ?_
  with_reducible refine kept_landWard ?_
  with_reducible refine kept_mapSvl ?_
  with_reducible refine kept_noteWardDigest ?_
  with_reducible refine kept_put ?_
  refine Kept.foldl ?_ (fun _ _ _ => ?_)
  · with_reducible exact kept_takeReplay (kept_readRange ‹_›)
  · with_reducible exact kept_lineWrite ‹_›

theorem kept_unstage {o : Bool} {s0 s : State} {g : _} (h : Kept false o s0 s) :
    Kept false o s0 (State.unstage s g).1 := by
  unfold State.unstage
  dsimp only
  split
  · refine Kept.foldl1 ?_ (fun _ _ _ => ?_)
    · dsimp only
      with_reducible assumption
    · split
      · split
        · with_reducible assumption
        · dsimp only
          with_reducible exact kept_lineRead ‹_›
      · with_reducible assumption
  · dsimp only
    with_reducible assumption

theorem kept_applyWard {o : Bool} {s0 s : State} {u : _} (h : Kept false o s0 s) :
    Kept false o s0 (State.applyWard s u) := by
  unfold State.applyWard
  dsimp only
  refine Kept.iteL ?_ (fun _ => ?_)
  · with_reducible assumption
  · split
    · split
      · with_reducible exact kept_loseWard ‹_›
      · refine Kept.ite ?_ ?_
        · with_reducible exact kept_loseWard ‹_›
        · refine Kept.ite ?_ ?_
          · with_reducible exact kept_loseWard (kept_readImage (kept_unstage ‹_›))
          · with_reducible exact kept_applyStage (kept_readImage (kept_unstage ‹_›))
    · refine Kept.iteR ?_ (fun _ => ?_)
      · with_reducible assumption
      · with_reducible exact kept_loseWard ‹_›

theorem kept_confirmWard {o : Bool} {s0 s : State} {u : _} (h : Kept false o s0 s) :
    ActKept false o s0 (State.confirmWard s u) := by
  unfold State.confirmWard
  dsimp only
  split
  · with_reducible exact kept_Act_ok (kept_settle (kept_syncHead (kept_applyWard ‹_›)))
  · with_reducible exact kept_Act_no ‹_›

theorem kept_endSealFollow {m o : Bool} {s0 s : State} {u : _} (h : Kept m o s0 s) :
    Kept m o s0 (State.endSealFollow s u) := by
  unfold State.endSealFollow
  split
  · refine Kept.iteR ?_ (fun _ => ?_)
    · with_reducible assumption
    · refine Kept.ite ?_ ?_
      · with_reducible exact kept_put (kept_stopFollow ‹_›)
      · with_reducible exact kept_mapSvl ‹_›
  · with_reducible assumption

theorem kept_landOwn {m o : Bool} {s0 s : State} {u : _} (h : Kept m o s0 s) :
    Kept m o s0 (State.landOwn s u) := by
  unfold State.landOwn
  dsimp only
  with_reducible exact kept_countAt (kept_noteRanges (kept_mapSvl ‹_›))

theorem kept_confirmAct {o : Bool} {s0 s : State} {u : _} (h : Kept false o s0 s) :
    ActKept false o s0 (State.confirmAct s u) := by
  unfold State.confirmAct
  split
  · with_reducible exact kept_confirmWard ‹_›
  · split
    · with_reducible exact kept_Act_no ‹_›
    · split
      · with_reducible exact kept_Act_no ‹_›
      · with_reducible exact kept_Act_ok (kept_settle (kept_syncHead (kept_applyWard (kept_endSealFollow (kept_landOwn
          (kept_put ‹_›))))))

theorem kept_fromWard {o : Bool} {s0 s : State} {fr take : _} (h : Kept false o s0 s) (h_take : ∀ t, Kept false o s0 t →
    Kept false o s0 (take t)) :
    Kept false o s0 (State.fromWard s fr take).1 := by
  unfold State.fromWard
  split
  · dsimp only
    with_reducible assumption
  · split
    · dsimp only
      with_reducible exact kept_put ‹_›
    · split
      · dsimp only
        with_reducible assumption
      · dsimp only
        with_reducible refine kept_settle ?_
        with_reducible refine kept_syncHead ?_
        refine h_take _ ?_
        with_reducible assumption

theorem kept_onStage {m o : Bool} {s0 s : State} {u f : _} (h : Kept m o s0 s) :
    Kept m o s0 (State.onStage s u f) := by
  unfold State.onStage
  with_reducible exact kept_mapSvl ‹_›

theorem kept_ownLost {m o : Bool} {s0 s : State} (h : Kept m o s0 s) :
    Kept m o s0 (State.ownLost s) := by
  unfold State.ownLost
  refine Kept.iteR ?_ (fun _ => ?_)
  · with_reducible assumption
  · with_reducible exact kept_mapSvl (kept_put (kept_put ‹_›))

theorem kept_placeInput {o : Bool} {s0 s : State} {x : _} (h : Kept false o s0 s) :
    Kept false o s0 (State.placeInput s x) := by
  unfold State.placeInput
  dsimp only
  refine Kept.ite ?_ ?_
  · with_reducible refine Kept.upd2 ?_ rfl rfl rfl rfl
    with_reducible assumption
  · with_reducible exact kept_storeLine ‹_›

theorem kept_setRideTurn {m o : Bool} {s0 s : State} {role n : _} (h : Kept m o s0 s) :
    Kept m o s0 (State.setRideTurn s role n) := by
  unfold State.setRideTurn
  dsimp only
  with_reducible exact kept_mapSvl ‹_›

theorem kept_takeCopy {o : Bool} {s0 s : State} {fr : _} (h : Kept false o s0 s) :
    Kept false o s0 (State.takeCopy s fr) := by
  unfold State.takeCopy
  dsimp only
  split
  · refine Kept.iteL ?_ (fun _ => ?_)
    · with_reducible assumption
    · with_reducible refine kept_onStage ?_
      refine Kept.foldl ?_ (fun _ _ _ => ?_)
      · with_reducible exact kept_put ‹_›
      · with_reducible exact kept_lineWrite ‹_›
  · with_reducible assumption

theorem kept_stageFrame {o : Bool} {s0 s : State} {u kind arg data marked : _} (h : Kept false o s0 s) :
    Kept false o s0 (State.stageFrame s u kind arg data marked) := by
  unfold State.stageFrame
  dsimp only
  split
  · refine Kept.ite ?_ ?_
    · with_reducible exact kept_lineWrite (kept_onStage ‹_›)
    · with_reducible exact kept_loseWard (kept_onStage ‹_›)
  · refine Kept.ite ?_ ?_
    · with_reducible exact kept_onStage ‹_›
    · with_reducible exact kept_loseWard ‹_›

theorem kept_takeEcho {o : Bool} {s0 s : State} {fr : _} (h : Kept false o s0 s) :
    Kept false o s0 (State.takeEcho s fr) := by
  unfold State.takeEcho
  dsimp only
  split
  · refine Kept.iteL ?_ (fun _ => ?_)
    · with_reducible assumption
    · refine Kept.ite ?_ ?_
      · with_reducible exact kept_stageFrame ‹_›
      · with_reducible refine kept_onStage ?_
        refine Kept.foldl ?_ (fun _ _ _ => ?_)
        · with_reducible assumption
        · with_reducible exact kept_lineWrite ‹_›
  · with_reducible assumption

theorem kept_takeGasp {m o : Bool} {s0 s : State} (h : Kept m o s0 s) :
    Kept m o s0 (State.takeGasp s) := by
  unfold State.takeGasp
  with_reducible exact kept_mapSvl (kept_put (kept_put ‹_›))

theorem kept_takeInput {o : Bool} {s0 s : State} {fr : _} (h : Kept false o s0 s) :
    Kept false o s0 (State.takeInput s fr) := by
  unfold State.takeInput
  refine Kept.iteR ?_ (fun _ => ?_)
  · with_reducible assumption
  · with_reducible exact kept_stageFrame ‹_›

theorem kept_takeMap {m o : Bool} {s0 s : State} {fr : _} (h : Kept m o s0 s) :
    Kept m o s0 (State.takeMap s fr) := by
  unfold State.takeMap
  dsimp only
  refine Kept.iteR ?_ (fun _ => ?_)
  · refine Kept.iteR ?_ (fun _ => ?_)
    · with_reducible assumption
    · with_reducible exact kept_mapSvl (kept_put ‹_›)
  · with_reducible exact kept_mapSvl ‹_›

theorem kept_takeMark {o : Bool} {s0 s : State} {fr : _} (h : Kept false o s0 s) :
    Kept false o s0 (State.takeMark s fr) := by
  unfold State.takeMark
  dsimp only
  refine Kept.ite ?_ ?_
  · refine Kept.iteL ?_ (fun _ => ?_)
    · with_reducible assumption
    · with_reducible exact kept_stageFrame (kept_mapSvl ‹_›)
  · refine Kept.ite ?_ ?_
    · refine Kept.iteR ?_ (fun _ => ?_)
      · with_reducible assumption
      · with_reducible exact kept_stageFrame (kept_mapSvl ‹_›)
    · refine Kept.ite ?_ ?_
      · refine Kept.iteR ?_ (fun _ => ?_)
        · with_reducible assumption
        · with_reducible exact kept_stageFrame (kept_mapSvl ‹_›)
      · refine Kept.ite ?_ ?_
        · refine Kept.iteR ?_ (fun _ => ?_)
          · with_reducible exact kept_mapSvl ‹_›
          · with_reducible exact kept_stopWard (kept_sealWard ‹_›)
        · refine Kept.iteR ?_ (fun _ => ?_)
          · with_reducible assumption
          · with_reducible exact kept_mapSvl ‹_›

theorem kept_settleGasp {o : Bool} {s0 s : State} (h : Kept false o s0 s) :
    Kept false o s0 (State.settleGasp s) := by
  unfold State.settleGasp
  dsimp only
  with_reducible refine kept_syncHead ?_
  with_reducible refine kept_tellHost ?_
  refine Kept.iteR ?_ (fun _ => ?_)
  · with_reducible exact kept_mapSvl ‹_›
  · with_reducible exact kept_sealWard ‹_›

theorem kept_thaw {o : Bool} {s0 s : State} (h : Kept false o s0 s) :
    Kept false o s0 (State.thaw s) := by
  unfold State.thaw
  dsimp only
  refine Kept.iteR ?_ (fun _ => ?_)
  · with_reducible assumption
  · refine Kept.iteR ?_ (fun _ => ?_)
    · refine Kept.iteR ?_ (fun _ => ?_)
      · with_reducible assumption
      · with_reducible exact kept_settleGasp ‹_›
    · with_reducible exact kept_put ‹_›

theorem kept_takePair {o : Bool} {s0 s : State} {fr : _} (h : Kept false o s0 s) :
    Kept false o s0 (State.takePair s fr) := by
  unfold State.takePair
  dsimp only
  with_reducible refine kept_syncHead ?_
  with_reducible refine kept_tryStart ?_
  refine Kept.iteR ?_ (fun _ => ?_)
  · refine Kept.iteR ?_ (fun _ => ?_)
    · refine Kept.iteR ?_ (fun _ => ?_)
      · with_reducible exact kept_mapSvl ‹_›
      · with_reducible exact kept_mapSvl ‹_›
    · refine Kept.iteR ?_ (fun _ => ?_)
      · with_reducible exact kept_thaw (kept_mapSvl ‹_›)
      · with_reducible exact kept_tellLost ‹_›
  · with_reducible refine kept_mapSvl ?_
    refine Kept.iteR ?_ (fun _ => ?_)
    · with_reducible assumption
    · with_reducible exact kept_ownLost ‹_›

theorem kept_takeRide {o : Bool} {s0 s : State} {fr : _} (h : Kept false o s0 s) :
    Kept false o s0 (State.takeRide s fr) := by
  unfold State.takeRide
  split
  · refine Kept.ite ?_ ?_
    · with_reducible exact kept_put ‹_›
    · with_reducible exact kept_takePair ‹_›
  · with_reducible refine kept_fromWard ?_ ?_
    · with_reducible assumption
    · intro _ _
      with_reducible exact kept_takeMap ‹_›
  · with_reducible refine kept_fromWard ?_ ?_
    · with_reducible assumption
    · intro _ _
      with_reducible exact kept_takeCopy ‹_›
  · with_reducible refine kept_fromWard ?_ ?_
    · with_reducible assumption
    · intro _ _
      with_reducible exact kept_takeEcho ‹_›
  · with_reducible refine kept_fromWard ?_ ?_
    · with_reducible assumption
    · intro _ _
      with_reducible exact kept_takeInput ‹_›
  · refine Kept.ite ?_ ?_
    · with_reducible exact kept_ownLost ‹_›
    · with_reducible refine kept_fromWard ?_ ?_
      · with_reducible assumption
      · intro _ _
        with_reducible exact kept_takeMark ‹_›
  · with_reducible refine kept_fromWard ?_ ?_
    · with_reducible assumption
    · intro _ _
      with_reducible exact kept_takeGasp ‹_›

theorem kept_rideGoOn {o : Bool} {s0 s : State} {role n : Nat} (h : Kept false o s0 s) :
    Kept false o s0 (State.rideGoOn role n s) := by
  induction n generalizing s with
  | zero => exact h
  | succ n ih =>
    unfold State.rideGoOn
    split
    · exact ih (kept_takeRide (kept_setRideTurn h))
    · exact h

theorem kept_rideInOrder {o : Bool} {s0 s : State} {fr : _} (h : Kept false o s0 s) :
    Kept false o s0 (State.rideInOrder s fr) := by
  unfold State.rideInOrder
  dsimp only
  refine Kept.ite ?_ ?_
  · with_reducible exact kept_rideGoOn (kept_takeRide (kept_setRideTurn ‹_›))
  · refine Kept.iteR ?_ (fun _ => ?_)
    · with_reducible assumption
    · with_reducible exact kept_mapSvl ‹_›

theorem kept_rideRx {o : Bool} {s0 s : State} {frame kind : _} (h : Kept false o s0 s) :
    Kept false o s0 (State.rideRx s frame kind) := by
  unfold State.rideRx
  dsimp only
  with_reducible refine kept_receive ?_ ?_
  · with_reducible assumption
  · intro _ _
    with_reducible refine kept_toRole ?_ ?_
    · with_reducible assumption
    · intro _ _
      dsimp only
      with_reducible exact kept_rideInOrder ‹_›

theorem kept_sealAct {o : Bool} {s0 s : State} {step : _} (h : Kept false o s0 s) :
    ActKept false o s0 (State.sealAct s step) := by
  unfold State.sealAct
  dsimp only
  split
  · with_reducible exact kept_Act_no ‹_›
  · split
    · split
      · with_reducible exact kept_Act_did (kept_put (kept_mapSvl ‹_›))
      · split
        · with_reducible exact kept_Act_did (kept_syncHead (kept_stopWard (kept_sealWard (kept_put (kept_mapSvl ‹_›)))))
        · refine ActKept.begun ?_
          with_reducible exact kept_mapSvl (kept_put (kept_mapSvl ‹_›))
    · split
      · with_reducible exact kept_Act_did ‹_›
      · split
        · with_reducible exact kept_Act_did (kept_syncHead (kept_stopWard (kept_sealWard ‹_›)))
        · refine ActKept.begun ?_
          with_reducible exact kept_mapSvl ‹_›

theorem kept_execConfirm {o : Bool} {s0 s : State} {a0 step : _} (h : Kept false o s0 s) :
    OutKept false o s0 (execConfirm a0 step s) := by
  unfold execConfirm
  refine OutKept.next ?_
  with_reducible refine kept_command ?_ ?_
  · with_reducible assumption
  · intro _ _
    with_reducible exact kept_confirmAct ‹_›

theorem kept_execEcho {o : Bool} {s0 s : State} {frame : _} (h : Kept false o s0 s) :
    OutKept false o s0 (execEcho frame s) := by
  unfold execEcho
  refine OutKept.next ?_
  with_reducible exact kept_rideRx ‹_›

theorem kept_execGasp {o : Bool} {s0 s : State} {frame : _} (h : Kept false o s0 s) :
    OutKept false o s0 (execGasp frame s) := by
  unfold execGasp
  refine OutKept.next ?_
  with_reducible exact kept_rideRx ‹_›

theorem kept_execGaspTimeout {o : Bool} {s0 s : State} {ownerLost : _} (h : Kept false o s0 s) :
    OutKept false o s0 (execGaspTimeout ownerLost s) := by
  unfold execGaspTimeout
  refine OutKept.next ?_
  split
  · refine Kept.iteR ?_ (fun _ => ?_)
    · with_reducible assumption
    · with_reducible exact kept_settleGasp ‹_›
  · with_reducible assumption

theorem kept_execInput {o : Bool} {s0 s : State} {frame : _} (h : Kept false o s0 s) :
    OutKept false o s0 (execInput frame s) := by
  unfold execInput
  refine OutKept.next ?_
  with_reducible exact kept_rideRx ‹_›

theorem kept_execMap {o : Bool} {s0 s : State} {frame : _} (h : Kept false o s0 s) :
    OutKept false o s0 (execMap frame s) := by
  unfold execMap
  refine OutKept.next ?_
  with_reducible exact kept_rideRx ‹_›

theorem kept_execMark {o : Bool} {s0 s : State} {frame : _} (h : Kept false o s0 s) :
    OutKept false o s0 (execMark frame s) := by
  unfold execMark
  refine OutKept.next ?_
  with_reducible exact kept_rideRx ‹_›

theorem kept_execPair {o : Bool} {s0 s : State} {frame : _} (h : Kept false o s0 s) :
    OutKept false o s0 (execPair frame s) := by
  unfold execPair
  refine OutKept.next ?_
  with_reducible exact kept_rideRx ‹_›

theorem kept_execPartner2 {m o : Bool} {s0 s : State} {a0 role : _} (h : Kept m o s0 s) :
    OutKept m o s0 (execPartner2 a0 role s) := by
  unfold execPartner2
  dsimp only
  refine OutKept.next ?_
  with_reducible refine kept_command ?_ ?_
  · with_reducible assumption
  · intro _ _
    split
    · split
      · with_reducible exact kept_Act_did ‹_›
      · split
        · with_reducible exact kept_Act_did ‹_›
        · with_reducible exact kept_Act_did (kept_rideTo (kept_mapSvl (kept_stopFollow ‹_›)))
    · with_reducible exact kept_Act_no ‹_›

theorem kept_execRideCopy {o : Bool} {s0 s : State} {frame : _} (h : Kept false o s0 s) :
    OutKept false o s0 (execRideCopy frame s) := by
  unfold execRideCopy
  refine OutKept.next ?_
  with_reducible exact kept_rideRx ‹_›

theorem kept_execSeal {o : Bool} {s0 s : State} {a0 step : _} (h : Kept false o s0 s) :
    OutKept false o s0 (execSeal a0 step s) := by
  unfold execSeal
  refine OutKept.next ?_
  with_reducible refine kept_command ?_ ?_
  · with_reducible assumption
  · intro _ _
    with_reducible exact kept_sealAct ‹_›

end Sys2Proof.Laws
end

