-- ==== Sys2Proof/Laws/KeepsPrivileged.lean ====
section
/-! SUPPORT. What each operation of Machine/Privileged.lean keeps, by the relation of Laws/Kept.lean. -/
namespace Sys2Proof.Laws
open Sys2Proof.Machine

theorem kept_attestReport {m o : Bool} {s0 s : State} {seed pub nonce : _} (h : Kept m o s0 s) :
    Kept m o s0 (State.attestReport s seed pub nonce).1 := by
  unfold State.attestReport
  dsimp only
  split
  · split
    · dsimp only
      with_reducible assumption
    · dsimp only
      with_reducible exact kept_mapEsc ‹_›
  · dsimp only
    with_reducible exact kept_mapEsc ‹_›

theorem kept_attestPart {m o : Bool} {s0 s : State} {seed pub nonce part : _} (h : Kept m o s0 s) :
    Kept m o s0 (State.attestPart s seed pub nonce part).1 := by
  unfold State.attestPart
  split
  · with_reducible exact kept_attestReport ‹_›
  · split
    · dsimp only
      with_reducible assumption
    · split
      · dsimp only
        with_reducible assumption
      · split
        · dsimp only
          with_reducible assumption
        · dsimp only
          with_reducible assumption

theorem kept_dropStaged {m o : Bool} {s0 s : State} (h : Kept m o s0 s) :
    Kept m o s0 (State.dropStaged s) := by
  unfold State.dropStaged
  dsimp only
  with_reducible refine kept_put ?_
  with_reducible refine kept_put ?_
  with_reducible refine kept_mapEsc ?_
  refine kept_mapFlash ?_ (fun _ => ⟨le_refl _, le_refl _, fun _ => rfl⟩)
  with_reducible exact kept_setSlot ‹_›

theorem kept_eraseRest {s0 s : State} (h : Kept false false s0 s) :
    Kept false false s0 (State.eraseRest s) := by
  unfold State.eraseRest
  dsimp only
  with_reducible refine kept_setJobState ?_
  with_reducible refine kept_put ?_
  with_reducible refine kept_endOwnership ?_
  refine kept_mapFlash ?_ (fun _ => ⟨le_refl _, le_refl _, fun _ => rfl⟩)
  with_reducible refine kept_setEvq ?_
  with_reducible refine kept_setEvq ?_
  with_reducible refine kept_put ?_
  with_reducible refine kept_put ?_
  with_reducible refine kept_put ?_
  with_reducible refine kept_put ?_
  with_reducible refine kept_notePending ?_
  with_reducible refine Kept.upd2 ?_ rfl rfl rfl rfl
  with_reducible refine kept_emptyRing ?_
  refine Kept.foldl ?_ (fun _ _ _ => ?_)
  · with_reducible refine Kept.upd3 ?_ ?_ ?_ ?_ ?_ ?_ ?_ ?_ ?_ ?_
    · with_reducible exact kept_dropWaiting (kept_dropHeld ‹_›)
    · exact le_refl _
    · with_reducible exact fun h => h
    · with_reducible exact fun h => wf_onlyFlags h
    · exact fun h => absurd h Bool.false_ne_true
    · exact fun _ => rfl
    · with_reducible exact fun h => h
    · exact le_refl _
    · exact le_refl _
    · with_reducible exact fun _ => rfl
  · with_reducible exact kept_noteSlots ‹_›

theorem kept_eraseAll {s0 s : State} (h : Kept false false s0 s) :
    Kept false false s0 (State.eraseAll s).1 := by
  exact Kept.ofPair rfl (kept_eraseRest (kept_readRange (kept_zeroRange (kept_abortJob h))))

theorem kept_finalStage {m o : Bool} {s0 s : State} (h : Kept m o s0 s) :
    Kept m o s0 (State.finalStage s).1 := by
  unfold State.finalStage
  dsimp only
  split
  · dsimp only
    with_reducible exact kept_put (kept_put (kept_mapEsc (kept_mapEsc ‹_›)))
  · dsimp only
    with_reducible exact kept_dropStaged (kept_mapEsc ‹_›)

theorem kept_rotateId {m o : Bool} {s0 s : State} {seed pub : _} (h : Kept m o s0 s) :
    Kept m o s0 (State.rotateId s seed pub).1 := by
  unfold State.rotateId
  dsimp only
  refine kept_mapFlash ?_ (fun _ => ⟨le_refl _, le_refl _, fun _ => rfl⟩)
  with_reducible exact kept_newIdentity ‹_›

theorem kept_sealAck {m o : Bool} {s0 s : State} {ohms : _} (h : Kept m o s0 s) :
    Kept m o s0 (State.sealAck s ohms) := by
  unfold State.sealAck
  dsimp only
  with_reducible refine kept_mapEsc ?_
  with_reducible refine kept_put ?_
  with_reducible refine kept_sealRecord ?_
  refine kept_mapFlash ?_ (fun _ => ⟨le_refl _, le_refl _, fun _ => rfl⟩)
  with_reducible assumption

theorem kept_stageBytes {m o : Bool} {s0 s : State} {a1 offset dt : _} (h : Kept m o s0 s) :
    Kept m o s0 (State.stageBytes s a1 offset dt) := by
  unfold State.stageBytes
  dsimp only
  with_reducible refine kept_mapEsc ?_
  with_reducible refine kept_setSlot ?_
  refine Kept.iteR ?_ (fun _ => ?_)
  · with_reducible assumption
  · with_reducible exact kept_mapEsc (kept_dropStaged ‹_›)

theorem kept_execAttest {m o : Bool} {s0 s : State} {a0 nonce part offset : _} (h : Kept m o s0 s) :
    OutKept m o s0 (execAttest a0 nonce part offset s) := by
  unfold execAttest
  dsimp only
  refine OutKept.next ?_
  with_reducible refine kept_command ?_ ?_
  · with_reducible assumption
  · intro _ _
    split
    · with_reducible exact kept_Act_no ‹_›
    · split
      · with_reducible exact kept_Act_no ‹_›
      · split
        · with_reducible exact kept_Act_no ‹_›
        · with_reducible exact kept_Act_did (kept_attestPart ‹_›)

theorem kept_execDebugUnlock {m o : Bool} {s0 s : State} {a0 arm : _} (h : Kept m o s0 s) :
    OutKept m o s0 (execDebugUnlock a0 arm s) := by
  unfold execDebugUnlock
  refine OutKept.next ?_
  with_reducible refine kept_command ?_ ?_
  · with_reducible assumption
  · intro _ _
    with_reducible refine kept_Act_ok ?_
    refine kept_mapFlash ?_ (fun _ => ⟨le_refl _, le_refl _, fun _ => rfl⟩)
    with_reducible assumption

theorem kept_execEraseAll {s0 s : State} {a0 confirm : _} (h : Kept false false s0 s) :
    OutKept false false s0 (execEraseAll a0 confirm s) := by
  unfold execEraseAll
  dsimp only
  refine OutKept.next ?_
  with_reducible refine kept_command ?_ ?_
  · with_reducible assumption
  · intro _ _
    split
    · with_reducible exact kept_Act_no ‹_›
    · with_reducible exact kept_Act_did (kept_eraseAll ‹_›)

theorem kept_execFwCommit {m o : Bool} {s0 s : State} {a0 version : _} (h : Kept m o s0 s) :
    OutKept m o s0 (execFwCommit a0 version s) := by
  unfold execFwCommit
  refine OutKept.next ?_
  with_reducible refine kept_command ?_ ?_
  · with_reducible assumption
  · intro _ _
    split
    · with_reducible exact kept_Act_no ‹_›
    · split
      · with_reducible exact kept_Act_no ‹_›
      · split
        · with_reducible exact kept_Act_no ‹_›
        · with_reducible refine kept_Act_did ?_
          refine kept_mapFlash ?_ (fun _ => ⟨le_refl _, le_refl _, fun _ => rfl⟩)
          with_reducible assumption

theorem kept_execFwStage {m o : Bool} {s0 s : State} {a0 offset final data : _} (h : Kept m o s0 s) :
    OutKept m o s0 (execFwStage a0 offset final data s) := by
  unfold execFwStage
  dsimp only
  refine OutKept.next ?_
  with_reducible refine kept_command ?_ ?_
  · with_reducible assumption
  · intro _ _
    split
    · with_reducible exact kept_Act_no ‹_›
    · split
      · with_reducible exact kept_Act_ok (kept_stageBytes ‹_›)
      · with_reducible exact kept_Act_did (kept_finalStage (kept_stageBytes ‹_›))

theorem kept_execFwStageTimeout {m o : Bool} {s0 s : State} (h : Kept m o s0 s) :
    OutKept m o s0 (execFwStageTimeout s) := by
  unfold execFwStageTimeout
  refine OutKept.next ?_
  split
  · refine Kept.iteR ?_ (fun _ => ?_)
    · with_reducible assumption
    · with_reducible exact kept_mapEsc ‹_›
  · with_reducible assumption

theorem kept_execIdRotate {m o : Bool} {s0 s : State} {a0 : _} (h : Kept m o s0 s) :
    OutKept m o s0 (execIdRotate a0 s) := by
  unfold execIdRotate
  dsimp only
  refine OutKept.next ?_
  with_reducible refine kept_command ?_ ?_
  · with_reducible assumption
  · intro _ _
    split
    · with_reducible exact kept_Act_no ‹_›
    · split
      · with_reducible exact kept_Act_no ‹_›
      · split
        · with_reducible exact kept_Act_did (kept_rotateId ‹_›)
        · with_reducible exact kept_Act_no ‹_›

theorem kept_execPresence {m o : Bool} {s0 s : State} {lowNs : _} (h : Kept m o s0 s) :
    OutKept m o s0 (execPresence lowNs s) := by
  unfold execPresence
  dsimp only
  refine OutKept.next ?_
  refine Kept.iteL ?_ (fun _ => ?_)
  · with_reducible assumption
  · refine Kept.iteL ?_ (fun _ => ?_)
    · with_reducible assumption
    · refine Kept.ite ?_ ?_
      · with_reducible exact kept_closeWindow ‹_›
      · refine Kept.ite ?_ ?_
        · with_reducible exact kept_notePresence (kept_mapEsc ‹_›)
        · with_reducible exact kept_raisePresence (kept_mapEsc ‹_›)

theorem kept_execPresenceStrapped {m o : Bool} {s0 s : State} (h : Kept m o s0 s) :
    OutKept m o s0 (execPresenceStrapped s) := by
  unfold execPresenceStrapped
  refine OutKept.next ?_
  refine Kept.iteR ?_ (fun _ => ?_)
  · with_reducible assumption
  · with_reducible exact kept_raisePresence (kept_mapEsc ‹_›)

theorem kept_execPresenceWindowExpiry {m o : Bool} {s0 s : State} (h : Kept m o s0 s) :
    OutKept m o s0 (execPresenceWindowExpiry s) := by
  unfold execPresenceWindowExpiry
  refine OutKept.next ?_
  split
  · refine Kept.iteR ?_ (fun _ => ?_)
    · with_reducible assumption
    · with_reducible exact kept_closeWindow ‹_›
  · with_reducible assumption

theorem kept_execSealAck {m o : Bool} {s0 s : State} {a0 : _} (h : Kept m o s0 s) :
    OutKept m o s0 (execSealAck a0 s) := by
  unfold execSealAck
  refine OutKept.next ?_
  with_reducible refine kept_command ?_ ?_
  · with_reducible assumption
  · intro _ _
    split
    · split
      · with_reducible exact kept_Act_no ‹_›
      · refine ActKept.reply ?_
        with_reducible exact kept_sealAck ‹_›
    · with_reducible exact kept_Act_no ‹_›

theorem kept_execSealSample {m o : Bool} {s0 s : State} {ohms : _} (h : Kept m o s0 s) :
    OutKept m o s0 (execSealSample ohms s) := by
  unfold execSealSample
  dsimp only
  refine OutKept.next ?_
  refine Kept.iteL ?_ (fun _ => ?_)
  · with_reducible assumption
  · refine Kept.ite ?_ ?_
    · with_reducible exact kept_mapEsc ‹_›
    · refine Kept.iteR ?_ (fun _ => ?_)
      · with_reducible exact kept_mapEsc (kept_noteLoop ‹_›)
      · with_reducible exact kept_sealBreakNow ‹_›

theorem kept_execTestMode {m o : Bool} {s0 s : State} {a0 arm : _} (h : Kept m o s0 s) :
    OutKept m o s0 (execTestMode a0 arm s) := by
  unfold execTestMode
  refine OutKept.next ?_
  with_reducible refine kept_command ?_ ?_
  · with_reducible assumption
  · intro _ _
    with_reducible refine kept_Act_ok ?_
    refine kept_mapFlash ?_ (fun _ => ⟨le_refl _, le_refl _, fun _ => rfl⟩)
    with_reducible assumption

end Sys2Proof.Laws
end

