-- ==== Sys2Proof/Laws/KeepsQuillTx.lean ====
section
/-! SUPPORT. What each operation of Machine/QuillTx.lean keeps, by the relation of Laws/Kept.lean. -/
namespace Sys2Proof.Laws
open Sys2Proof.Machine

theorem kept_dropFar {m o : Bool} {s0 s : State} {d : _} (h : Kept m o s0 s) :
    Kept m o s0 (State.dropFar s d) := by
  unfold State.dropFar
  dsimp only
  refine Kept.foldl ?_ (fun _ _ _ => ?_)
  · with_reducible refine Kept.upd2 ?_ rfl rfl rfl rfl
    with_reducible assumption
  · with_reducible exact kept_countAt ‹_›

theorem kept_sendMsg {m o : Bool} {s0 s : State} {d a2 a3 pl : _} (h : Kept m o s0 s) :
    Kept m o s0 (State.sendMsg s d a2 a3 pl) := by
  unfold State.sendMsg
  refine Kept.ite ?_ ?_
  · with_reducible exact kept_routeGroup ‹_›
  · with_reducible exact kept_routeRole ‹_›

theorem kept_sendMessage {o : Bool} {s0 s : State} {list d a3 : _} (h : Kept false o s0 s) :
    Kept false o s0 (State.sendMessage s list d a3).1 := by
  unfold State.sendMessage
  dsimp only
  with_reducible refine kept_sendMsg ?_
  refine Kept.foldl ?_ (fun _ _ _ => ?_)
  · with_reducible exact kept_dropFar (kept_takeMseq (kept_takeLines ‹_›))
  · with_reducible exact kept_sendMsg ‹_›

theorem kept_quillSent {o : Bool} {s0 s : State} {list d a3 : _} (h : Kept false o s0 s) :
    Kept false o s0 (State.quillSent s list d a3) := by
  unfold State.quillSent
  dsimp only
  with_reducible exact kept_rideMore (kept_quillCheck (kept_setPhase (kept_mapQuill (kept_sendMessage ‹_›))))

theorem kept_quillStart {o : Bool} {s0 s : State} {list kind : _} (h : Kept false o s0 s) :
    Kept false o s0 (State.quillStart s list kind) := by
  unfold State.quillStart
  dsimp only
  refine Kept.iteL ?_ (fun _ => ?_)
  · with_reducible assumption
  · split
    · split
      · refine Kept.iteL ?_ (fun _ => ?_)
        · with_reducible assumption
        · with_reducible exact kept_quillSent (kept_setEng (kept_acquire ‹_›))
      · with_reducible assumption
    · with_reducible assumption

theorem kept_execQadd {o : Bool} {s0 s : State} {list : _} (h : Kept false o s0 s) :
    OutKept false o s0 (execQadd list s) := by
  unfold execQadd
  refine OutKept.next ?_
  with_reducible exact kept_quillStart ‹_›

theorem kept_execQmcast {o : Bool} {s0 s : State} {list : _} (h : Kept false o s0 s) :
    OutKept false o s0 (execQmcast list s) := by
  unfold execQmcast
  refine OutKept.next ?_
  with_reducible exact kept_quillStart ‹_›

theorem kept_execQwrite {o : Bool} {s0 s : State} {list : _} (h : Kept false o s0 s) :
    OutKept false o s0 (execQwrite list s) := by
  unfold execQwrite
  refine OutKept.next ?_
  with_reducible exact kept_quillStart ‹_›

end Sys2Proof.Laws
end

