-- ==== Sys2Proof/Laws/KeepsSideband.lean ====
section
/-! SUPPORT. What each operation of Machine/Sideband.lean keeps, by the relation of Laws/Kept.lean. -/
namespace Sys2Proof.Laws
open Sys2Proof.Machine

theorem kept_cccRead {m o : Bool} {s0 s : State} {ccc data : _} (h : Kept m o s0 s) :
    Kept m o s0 (State.cccRead s ccc data) := by
  unfold State.cccRead
  refine Kept.iteR ?_ (fun _ => ?_)
  · with_reducible assumption
  · with_reducible exact kept_send ‹_›

theorem kept_mctpAnswer {m o : Bool} {s0 s : State} {command completion data : _} (h : Kept m o s0 s) :
    Kept m o s0 (State.mctpAnswer s command completion data) := by
  unfold State.mctpAnswer
  refine Kept.iteR ?_ (fun _ => ?_)
  · with_reducible assumption
  · with_reducible exact kept_send (kept_ibi ‹_›)

theorem kept_pldmAnswer {m o : Bool} {s0 s : State} {type command completion data : _} (h : Kept m o s0 s) :
    Kept m o s0 (State.pldmAnswer s type command completion data) := by
  unfold State.pldmAnswer
  with_reducible exact kept_send (kept_ibi ‹_›)

theorem kept_noteSensor {m o : Bool} {s0 s : State} {n side v : _} (h : Kept m o s0 s) :
    Kept m o s0 (State.noteSensor s n side v) := by
  unfold State.noteSensor
  dsimp only
  refine Kept.iteL ?_ (fun _ => ?_)
  · with_reducible assumption
  · split
    · refine Kept.iteL ?_ (fun _ => ?_)
      · with_reducible exact kept_mapEsc ‹_›
      · with_reducible exact kept_pldmAnswer ‹_›
    · with_reducible exact kept_mapEsc ‹_›

theorem kept_takeReading {m o : Bool} {s0 s : State} {n reading : _} (h : Kept m o s0 s) :
    Kept m o s0 (State.takeReading s n reading).1 := by
  unfold State.takeReading
  dsimp only
  split
  · dsimp only
    with_reducible exact kept_noteVin ‹_›
  · split
    · dsimp only
      with_reducible exact kept_noteDraw ‹_›
    · split
      · dsimp only
        with_reducible assumption
      · split
        · dsimp only
          refine Kept.iteR ?_ (fun _ => ?_)
          · with_reducible exact kept_mapPower (kept_put ‹_›)
          · with_reducible exact kept_raisePower ‹_›
        · split
          · dsimp only
            with_reducible assumption
          · dsimp only
            with_reducible assumption

theorem kept_execEntdaa {m o : Bool} {s0 s : State} {address : _} (h : Kept m o s0 s) :
    OutKept m o s0 (execEntdaa address s) := by
  unfold execEntdaa
  refine OutKept.next ?_
  refine Kept.iteL ?_ (fun _ => ?_)
  · with_reducible assumption
  · with_reducible exact kept_pump (kept_mapEsc (kept_send ‹_›))

theorem kept_execGetEndpointId {m o : Bool} {s0 s : State} (h : Kept m o s0 s) :
    OutKept m o s0 (execGetEndpointId s) := by
  unfold execGetEndpointId
  refine OutKept.next ?_
  with_reducible exact kept_mctpAnswer ‹_›

theorem kept_execGetEndpointUuid {m o : Bool} {s0 s : State} (h : Kept m o s0 s) :
    OutKept m o s0 (execGetEndpointUuid s) := by
  unfold execGetEndpointUuid
  refine OutKept.next ?_
  with_reducible exact kept_mctpAnswer ‹_›

theorem kept_execGetMctpVersionSupport {m o : Bool} {s0 s : State} {msgType : _} (h : Kept m o s0 s) :
    OutKept m o s0 (execGetMctpVersionSupport msgType s) := by
  unfold execGetMctpVersionSupport
  refine OutKept.next ?_
  refine Kept.ite ?_ ?_
  · with_reducible exact kept_mctpAnswer ‹_›
  · with_reducible exact kept_mctpAnswer ‹_›

theorem kept_execGetMessageTypeSupport {m o : Bool} {s0 s : State} (h : Kept m o s0 s) :
    OutKept m o s0 (execGetMessageTypeSupport s) := by
  unfold execGetMessageTypeSupport
  refine OutKept.next ?_
  with_reducible exact kept_mctpAnswer ‹_›

theorem kept_execGetPdr {m o : Bool} {s0 s : State} {handle : _} (h : Kept m o s0 s) :
    OutKept m o s0 (execGetPdr handle s) := by
  unfold execGetPdr
  dsimp only
  refine OutKept.next ?_
  refine Kept.iteL ?_ (fun _ => ?_)
  · with_reducible assumption
  · refine Kept.ite ?_ ?_
    · with_reducible exact kept_pldmAnswer ‹_›
    · refine Kept.ite ?_ ?_
      · with_reducible exact kept_pldmAnswer ‹_›
      · with_reducible exact kept_pldmAnswer ‹_›

theorem kept_execGetPdrRepositoryInfo {m o : Bool} {s0 s : State} (h : Kept m o s0 s) :
    OutKept m o s0 (execGetPdrRepositoryInfo s) := by
  unfold execGetPdrRepositoryInfo
  refine OutKept.next ?_
  refine Kept.iteL ?_ (fun _ => ?_)
  · with_reducible assumption
  · with_reducible exact kept_pldmAnswer ‹_›

theorem kept_execGetSensorReading {m o : Bool} {s0 s : State} {sensor reading : _} (h : Kept m o s0 s) :
    OutKept m o s0 (execGetSensorReading sensor reading s) := by
  unfold execGetSensorReading
  dsimp only
  refine OutKept.next ?_
  refine Kept.iteL ?_ (fun _ => ?_)
  · with_reducible assumption
  · refine Kept.ite ?_ ?_
    · with_reducible exact kept_pldmAnswer ‹_›
    · refine Kept.ite ?_ ?_
      · with_reducible exact kept_pldmAnswer ‹_›
      · with_reducible exact kept_pldmAnswer (kept_takeReading ‹_›)

theorem kept_execGetStateSensorReadings {m o : Bool} {s0 s : State} {sensor : _} (h : Kept m o s0 s) :
    OutKept m o s0 (execGetStateSensorReadings sensor s) := by
  unfold execGetStateSensorReadings
  refine OutKept.next ?_
  refine Kept.iteL ?_ (fun _ => ?_)
  · with_reducible assumption
  · refine Kept.ite ?_ ?_
    · with_reducible exact kept_pldmAnswer ‹_›
    · refine Kept.ite ?_ ?_
      · with_reducible exact kept_pldmAnswer ‹_›
      · with_reducible exact kept_pldmAnswer ‹_›

theorem kept_execGetVendorDefinedMsgSupport {m o : Bool} {s0 s : State} {selector : _} (h : Kept m o s0 s) :
    OutKept m o s0 (execGetVendorDefinedMsgSupport selector s) := by
  unfold execGetVendorDefinedMsgSupport
  refine OutKept.next ?_
  refine Kept.ite ?_ ?_
  · with_reducible exact kept_mctpAnswer ‹_›
  · with_reducible exact kept_mctpAnswer ‹_›

theorem kept_execGetbcr {m o : Bool} {s0 s : State} (h : Kept m o s0 s) :
    OutKept m o s0 (execGetbcr s) := by
  unfold execGetbcr
  refine OutKept.next ?_
  with_reducible exact kept_cccRead ‹_›

theorem kept_execGetdcr {m o : Bool} {s0 s : State} (h : Kept m o s0 s) :
    OutKept m o s0 (execGetdcr s) := by
  unfold execGetdcr
  refine OutKept.next ?_
  with_reducible exact kept_cccRead ‹_›

theorem kept_execGetmrl {m o : Bool} {s0 s : State} (h : Kept m o s0 s) :
    OutKept m o s0 (execGetmrl s) := by
  unfold execGetmrl
  refine OutKept.next ?_
  with_reducible exact kept_cccRead ‹_›

theorem kept_execGetmwl {m o : Bool} {s0 s : State} (h : Kept m o s0 s) :
    OutKept m o s0 (execGetmwl s) := by
  unfold execGetmwl
  refine OutKept.next ?_
  with_reducible exact kept_cccRead ‹_›

theorem kept_execGetpid {m o : Bool} {s0 s : State} (h : Kept m o s0 s) :
    OutKept m o s0 (execGetpid s) := by
  unfold execGetpid
  refine OutKept.next ?_
  with_reducible exact kept_cccRead ‹_›

theorem kept_execGetstatus {m o : Bool} {s0 s : State} (h : Kept m o s0 s) :
    OutKept m o s0 (execGetstatus s) := by
  unfold execGetstatus
  refine OutKept.next ?_
  with_reducible refine kept_cccRead ?_
  with_reducible refine Kept.upd3 ?_ ?_ ?_ ?_ ?_ ?_ ?_ ?_ ?_ ?_
  · with_reducible assumption
  · exact Nat.le_add_right _ _
  · with_reducible exact fun h => h
  · with_reducible exact fun h => h
  · with_reducible exact fun _ => rfl
  · with_reducible exact fun h => h
  · with_reducible exact fun h => h
  · exact le_refl _
  · exact le_refl _
  · with_reducible exact fun _ => rfl

theorem kept_execMessagingControlAndDiscovery {m o : Bool} {s0 s : State} {command : _} (h : Kept m o s0 s) :
    OutKept m o s0 (execMessagingControlAndDiscovery command s) := by
  unfold execMessagingControlAndDiscovery
  refine OutKept.next ?_
  refine Kept.iteL ?_ (fun _ => ?_)
  · with_reducible assumption
  · refine Kept.ite ?_ ?_
    · with_reducible exact kept_pldmAnswer ‹_›
    · refine Kept.ite ?_ ?_
      · with_reducible exact kept_pldmAnswer ‹_›
      · refine Kept.ite ?_ ?_
        · with_reducible exact kept_pldmAnswer ‹_›
        · with_reducible exact kept_pldmAnswer ‹_›

theorem kept_execPlatformEventMessage {m o : Bool} {s0 s : State} {sensor reading : _} (h : Kept m o s0 s) :
    OutKept m o s0 (execPlatformEventMessage sensor reading s) := by
  unfold execPlatformEventMessage
  dsimp only
  refine OutKept.next ?_
  refine Kept.iteL ?_ (fun _ => ?_)
  · with_reducible assumption
  · refine Kept.ite ?_ ?_
    · with_reducible exact kept_noteSensor (kept_takeReading ‹_›)
    · refine Kept.iteR ?_ (fun _ => ?_)
      · with_reducible assumption
      · with_reducible exact kept_noteSensor ‹_›

theorem kept_execRstdaa {m o : Bool} {s0 s : State} (h : Kept m o s0 s) :
    OutKept m o s0 (execRstdaa s) := by
  unfold execRstdaa
  refine OutKept.next ?_
  refine Kept.iteR ?_ (fun _ => ?_)
  · with_reducible assumption
  · with_reducible exact kept_mapEsc ‹_›

theorem kept_execSetEndpointId {m o : Bool} {s0 s : State} {op eid : _} (h : Kept m o s0 s) :
    OutKept m o s0 (execSetEndpointId op eid s) := by
  unfold execSetEndpointId
  refine OutKept.next ?_
  refine Kept.iteL ?_ (fun _ => ?_)
  · with_reducible assumption
  · refine Kept.ite ?_ ?_
    · with_reducible exact kept_pump (kept_mctpAnswer (kept_mapEsc ‹_›))
    · with_reducible exact kept_mctpAnswer ‹_›

theorem kept_execSetEventReceiver {m o : Bool} {s0 s : State} {eid : _} (h : Kept m o s0 s) :
    OutKept m o s0 (execSetEventReceiver eid s) := by
  unfold execSetEventReceiver
  dsimp only
  refine OutKept.next ?_
  refine Kept.iteL ?_ (fun _ => ?_)
  · with_reducible assumption
  · with_reducible refine kept_pldmAnswer ?_
    split
    · with_reducible assumption
    · with_reducible exact kept_setReceiver ‹_›

theorem kept_execSetnewda {m o : Bool} {s0 s : State} {address : _} (h : Kept m o s0 s) :
    OutKept m o s0 (execSetnewda address s) := by
  unfold execSetnewda
  refine OutKept.next ?_
  refine Kept.iteR ?_ (fun _ => ?_)
  · with_reducible assumption
  · with_reducible exact kept_mapEsc ‹_›

end Sys2Proof.Laws
end

