-- ==== Sys2Proof/Laws/KeepsSideboard.lean ====
section
/-! SUPPORT. What each operation of Machine/Sideboard.lean keeps, by the relation of Laws/Kept.lean. -/
namespace Sys2Proof.Laws
open Sys2Proof.Machine

theorem kept_resProceed {o : Bool} {s0 s : State} {c : _} (h : Kept false o s0 s) :
    Kept false o s0 (State.resProceed s c) := by
  unfold State.resProceed
  dsimp only
  split
  · split
    · refine Kept.iteL ?_ (fun _ => ?_)
      · with_reducible exact kept_resWait ‹_›
      · with_reducible exact kept_freeSlots ‹_›
    · with_reducible exact kept_resWait ‹_›
  · with_reducible exact kept_resWait ‹_›

theorem kept_slice {m o : Bool} {s0 s : State} {addr work : _} (h : Kept m o s0 s) (h_work : ∀ t, Kept m o s0 t → Kept m o
    s0 (work t)) :
    OutKept m o s0 (State.slice s addr work) := by
  unfold State.slice
  split
  · exact OutKept.fault
  · split
    · refine OutKept.next ?_
      with_reducible assumption
    · refine OutKept.next ?_
      refine h_work _ ?_
      with_reducible assumption

theorem kept_sliceAnswer {m o : Bool} {s0 s : State} {addr a2 data : _} (h : Kept m o s0 s) :
    Kept m o s0 (State.sliceAnswer s addr a2 data) := by
  unfold State.sliceAnswer
  dsimp only
  with_reducible refine Kept.upd2 ?_ rfl rfl rfl rfl
  with_reducible assumption

theorem kept_sliceWord {o : Bool} {s0 s : State} {op addr operand comparand : _} (h : Kept false o s0 s) :
    OutKept false o s0 (State.sliceWord s op addr operand comparand) := by
  unfold State.sliceWord
  dsimp only
  with_reducible refine kept_slice ?_ ?_
  · with_reducible assumption
  · intro _ _
    with_reducible exact kept_sliceAnswer (kept_wordOp ‹_›)

theorem kept_execCmpSwap {o : Bool} {s0 s : State} {addr operand comparand : _} (h : Kept false o s0 s) :
    OutKept false o s0 (execCmpSwap addr operand comparand s) := by
  unfold execCmpSwap
  with_reducible exact kept_sliceWord ‹_›

theorem kept_execExactAdd {o : Bool} {s0 s : State} {addr fmt code poison : _} (h : Kept false o s0 s) :
    OutKept false o s0 (execExactAdd addr fmt code poison s) := by
  unfold execExactAdd
  with_reducible refine kept_slice ?_ ?_
  · with_reducible assumption
  · intro _ _
    refine Kept.iteR ?_ (fun _ => ?_)
    · with_reducible assumption
    · with_reducible exact kept_exactAdd ‹_›

theorem kept_execFetchAdd {o : Bool} {s0 s : State} {addr operand : _} (h : Kept false o s0 s) :
    OutKept false o s0 (execFetchAdd addr operand s) := by
  unfold execFetchAdd
  with_reducible exact kept_sliceWord ‹_›

theorem kept_execLineRead {o : Bool} {s0 s : State} {reader addr : _} (h : Kept false o s0 s) :
    OutKept false o s0 (execLineRead reader addr s) := by
  unfold execLineRead
  dsimp only
  with_reducible refine kept_slice ?_ ?_
  · with_reducible assumption
  · intro _ _
    with_reducible exact kept_sliceAnswer (kept_lineRead ‹_›)

theorem kept_execLineWrite {o : Bool} {s0 s : State} {addr data poison : _} (h : Kept false o s0 s) :
    OutKept false o s0 (execLineWrite addr data poison s) := by
  unfold execLineWrite
  with_reducible refine kept_slice ?_ ?_
  · with_reducible assumption
  · intro _ _
    with_reducible exact kept_lineWrite ‹_›

theorem kept_execMaxU {o : Bool} {s0 s : State} {addr operand : _} (h : Kept false o s0 s) :
    OutKept false o s0 (execMaxU addr operand s) := by
  unfold execMaxU
  with_reducible exact kept_sliceWord ‹_›

theorem kept_execMergeWrite {o : Bool} {s0 s : State} {addr bytes : _} (h : Kept false o s0 s) :
    OutKept false o s0 (execMergeWrite addr bytes s) := by
  unfold execMergeWrite
  with_reducible refine kept_slice ?_ ?_
  · with_reducible assumption
  · intro _ _
    with_reducible exact kept_mergeMask ‹_›

theorem kept_execMinU {o : Bool} {s0 s : State} {addr operand : _} (h : Kept false o s0 s) :
    OutKept false o s0 (execMinU addr operand s) := by
  unfold execMinU
  with_reducible exact kept_sliceWord ‹_›

theorem kept_execResWait {o : Bool} {s0 s : State} {slice : _} (h : Kept false o s0 s) :
    OutKept false o s0 (execResWait slice s) := by
  unfold execResWait
  refine OutKept.next ?_
  refine Kept.iteR ?_ (fun _ => ?_)
  · with_reducible assumption
  · with_reducible exact kept_resProceed ‹_›

theorem kept_execSbdWriteback {o : Bool} {s0 s : State} {addr : _} (h : Kept false o s0 s) :
    OutKept false o s0 (execSbdWriteback addr s) := by
  unfold execSbdWriteback
  with_reducible refine kept_slice ?_ ?_
  · with_reducible assumption
  · intro _ _
    with_reducible exact kept_writeback ‹_›

theorem kept_execSwap {o : Bool} {s0 s : State} {addr operand : _} (h : Kept false o s0 s) :
    OutKept false o s0 (execSwap addr operand s) := by
  unfold execSwap
  with_reducible exact kept_sliceWord ‹_›

end Sys2Proof.Laws
end

