-- ==== Sys2Proof/Laws/KeepsStrokes.lean ====
section
/-! SUPPORT. What each operation of Machine/Strokes.lean keeps, by the relation of Laws/Kept.lean. -/
namespace Sys2Proof.Laws
open Sys2Proof.Machine

theorem kept_buildRows {m o : Bool} {s0 s : State} {rows one : _} (h : Kept m o s0 s) (h_one : ∀ t, Kept m o s0 t → ∀ x,
    Kept m o s0 (one t x).1) :
    Kept m o s0 (State.buildRows s rows one).1 := by
  unfold State.buildRows
  dsimp only
  refine Kept.foldl1 ?_ (fun _ _ _ => ?_)
  · dsimp only
    with_reducible assumption
  · dsimp only
    refine h_one _ ?_ _
    with_reducible assumption

theorem kept_ewRow {o : Bool} {s0 s : State} {k verbatimCopy a3 : _} (h : Kept false o s0 s) :
    Kept false o s0 (State.ewRow s k verbatimCopy a3).1 := by
  unfold State.ewRow
  dsimp only
  split
  · dsimp only
    with_reducible exact kept_strokeRows ‹_›
  · dsimp only
    split
    · split
      · dsimp only
        with_reducible exact kept_strokeRows ‹_›
      · dsimp only
        with_reducible exact kept_strokeRows (kept_strokeRows ‹_›)
    · dsimp only
      with_reducible exact kept_strokeRows ‹_›

theorem kept_putBuilt {o : Bool} {s0 s : State} {k b status flags kind : _} (h : Kept false o s0 s) :
    Kept false o s0 (State.putBuilt s k b status flags kind).1 := by
  unfold State.putBuilt
  dsimp only
  with_reducible exact kept_putRows ‹_›

theorem kept_ewWork {o : Bool} {s0 s : State} {k : _} (h : Kept false o s0 s) :
    Kept false o s0 (State.ewWork s k).1 := by
  unfold State.ewWork
  dsimp only
  with_reducible refine kept_putBuilt ?_
  with_reducible refine kept_buildRows ?_ ?_
  · with_reducible assumption
  · intro _ _ _
    with_reducible exact kept_ewRow ‹_›

theorem kept_gatherRow {o : Bool} {s0 s : State} {k x : _} (h : Kept false o s0 s) :
    Kept false o s0 (State.gatherRow s k x).1 := by
  unfold State.gatherRow
  dsimp only
  split
  · dsimp only
    with_reducible assumption
  · split
    · dsimp only
      with_reducible assumption
    · split
      · dsimp only
        with_reducible assumption
      · split
        · dsimp only
          with_reducible exact kept_strokeRows ‹_›
        · dsimp only
          with_reducible exact kept_strokeRows ‹_›

theorem kept_indices {o : Bool} {s0 s : State} {k rows : _} (h : Kept false o s0 s) :
    Kept false o s0 (State.indices s k rows).1 := by
  unfold State.indices
  dsimp only
  with_reducible exact kept_strokeRows ‹_›

theorem kept_gatherWork {o : Bool} {s0 s : State} {k : _} (h : Kept false o s0 s) :
    Kept false o s0 (State.gatherWork s k).1 := by
  unfold State.gatherWork
  dsimp only
  with_reducible refine kept_putBuilt ?_
  with_reducible refine kept_countAt ?_
  refine Kept.foldl1 ?_ (fun _ _ _ => ?_)
  · dsimp only
    with_reducible exact kept_indices ‹_›
  · dsimp only
    with_reducible exact kept_gatherRow ‹_›

theorem kept_normRow {o : Bool} {s0 s : State} {k gamma beta a4 : _} (h : Kept false o s0 s) :
    Kept false o s0 (State.normRow s k gamma beta a4).1 := by
  unfold State.normRow
  dsimp only
  split
  · dsimp only
    with_reducible exact kept_readRows (kept_strokeRows ‹_›)
  · dsimp only
    with_reducible exact kept_strokeRows ‹_›

theorem kept_normVec {o : Bool} {s0 s : State} {k a2 : _} (h : Kept false o s0 s) :
    Kept false o s0 (State.normVec s k a2).1 := by
  unfold State.normVec
  dsimp only
  split
  · dsimp only
    with_reducible exact kept_strokeRows ‹_›
  · dsimp only
    with_reducible assumption

theorem kept_putStatus {o : Bool} {s0 s : State} {a1 g v : _} (h : Kept false o s0 s) :
    Kept false o s0 (State.putStatus s a1 g v) := by
  unfold State.putStatus
  refine Kept.foldl ?_ (fun _ _ _ => ?_)
  · with_reducible assumption
  · with_reducible exact kept_storeCells ‹_›

theorem kept_putTouched {o : Bool} {s0 s : State} {k touched : _} (h : Kept false o s0 s) :
    Kept false o s0 (State.putTouched s k touched).1 := by
  unfold State.putTouched
  dsimp only
  split
  · dsimp only
    refine Kept.foldl ?_ (fun _ _ _ => ?_)
    · with_reducible assumption
    · with_reducible exact kept_storeCells ‹_›
  · dsimp only
    with_reducible assumption

theorem kept_rootLeaves {m o : Bool} {s0 s : State} {k : _} (h : Kept m o s0 s) :
    Kept m o s0 (State.rootLeaves s k) := by
  unfold State.rootLeaves
  dsimp only
  with_reducible exact kept_deskLeaves ‹_›

theorem kept_rootOne {o : Bool} {s0 s : State} {k hit g : _} (h : Kept false o s0 s) :
    Kept false o s0 (State.rootOne s k hit g).1 := by
  unfold State.rootOne
  dsimp only
  split
  · split
    · dsimp only
      with_reducible exact kept_putStatus (kept_countAt (kept_countAt (kept_strokeRows ‹_›)))
    · dsimp only
      with_reducible exact kept_takeLines (kept_countAt (kept_countAt (kept_bump (kept_bump (kept_countAt (kept_countAt
          (kept_strokeRows ‹_›)))))))
  · split
    · dsimp only
      with_reducible exact kept_putStatus (kept_countAt (kept_countAt (kept_strokeRows ‹_›)))
    · dsimp only
      with_reducible exact kept_takeLines (kept_countAt (kept_countAt (kept_bump (kept_bump (kept_countAt (kept_countAt
          (kept_strokeRows ‹_›)))))))

theorem kept_rootWork {o : Bool} {s0 s : State} {x k : _} (h : Kept false o s0 s) :
    Kept false o s0 (State.rootWork x s k).1 := by
  unfold State.rootWork
  dsimp only
  split
  · dsimp only
    with_reducible exact kept_setStanding ‹_›
  · dsimp only
    with_reducible refine kept_putBuilt ?_
    refine Kept.foldl1 ?_ (fun _ _ _ => ?_)
    · dsimp only
      split
      · with_reducible refine kept_noteArrayFault ?_
        with_reducible refine kept_setStanding ?_
        refine Kept.iteL ?_ (fun _ => ?_)
        · with_reducible assumption
        · with_reducible exact kept_rootLeaves (kept_rotate ‹_›)
      · with_reducible refine kept_setStanding ?_
        refine Kept.iteL ?_ (fun _ => ?_)
        · with_reducible assumption
        · with_reducible exact kept_rootLeaves (kept_rotate ‹_›)
    · dsimp only
      with_reducible exact kept_rootOne ‹_›

theorem kept_rowWork {o : Bool} {s0 s : State} {k : _} (h : Kept false o s0 s) :
    Kept false o s0 (State.rowWork s k).1 := by
  unfold State.rowWork
  dsimp only
  with_reducible refine kept_putBuilt ?_
  with_reducible refine kept_buildRows ?_ ?_
  · with_reducible exact kept_normVec (kept_normVec ‹_›)
  · intro _ _ _
    with_reducible exact kept_normRow ‹_›

theorem kept_scatterAdd {o : Bool} {s0 s : State} {k p acc : _} (h : Kept false o s0 s) :
    Kept false o s0 (State.scatterAdd s k p acc).1 := by
  unfold State.scatterAdd
  dsimp only
  refine Kept.foldl1 ?_ (fun _ _ _ => ?_)
  · dsimp only
    with_reducible exact kept_strokeRows ‹_›
  · split
    · dsimp only
      with_reducible exact kept_exactAdd ‹_›
    · split
      · dsimp only
        with_reducible exact kept_exactAdd ‹_›
      · dsimp only
        with_reducible exact kept_exactAdd ‹_›

theorem kept_scatterAdds {o : Bool} {s0 s : State} {k src : _} (h : Kept false o s0 s) :
    Kept false o s0 (State.scatterAdds s k src).1 := by
  unfold State.scatterAdds
  dsimp only
  with_reducible refine kept_gauge ?_
  refine Kept.foldl1 ?_ (fun _ _ _ => ?_)
  · dsimp only
    with_reducible assumption
  · with_reducible exact kept_scatterAdd ‹_›

theorem kept_scatterRow {o : Bool} {s0 s : State} {k src r : _} (h : Kept false o s0 s) :
    Kept false o s0 (State.scatterRow s k src r).1 := by
  unfold State.scatterRow
  dsimp only
  split
  · dsimp only
    with_reducible exact kept_strokeRows ‹_›
  · dsimp only
    with_reducible exact kept_strokeRows (kept_rowIf ‹_›)

theorem kept_scatterWork {o : Bool} {s0 s : State} {k : _} (h : Kept false o s0 s) :
    Kept false o s0 (State.scatterWork s k).1 := by
  unfold State.scatterWork
  dsimp only
  with_reducible refine kept_putBuilt ?_
  with_reducible refine kept_countAt ?_
  with_reducible refine kept_putTouched ?_
  split
  · dsimp only
    split
    · with_reducible exact kept_scatterAdds (kept_indices ‹_›)
    · dsimp only
      with_reducible exact kept_indices ‹_›
  · with_reducible refine kept_buildRows ?_ ?_
    · split
      · with_reducible exact kept_scatterAdds (kept_indices ‹_›)
      · dsimp only
        with_reducible exact kept_indices ‹_›
    · intro _ _ _
      with_reducible exact kept_scatterRow ‹_›

theorem kept_execEw {o : Bool} {s0 s : State} {desk : _} (h : Kept false o s0 s) :
    OutKept false o s0 (execEw desk s) := by
  unfold execEw
  refine OutKept.next ?_
  with_reducible refine kept_stroke ?_ ?_
  · with_reducible assumption
  · intro _ _ _
    with_reducible exact kept_ewWork ‹_›

theorem kept_execGather {o : Bool} {s0 s : State} {desk : _} (h : Kept false o s0 s) :
    OutKept false o s0 (execGather desk s) := by
  unfold execGather
  refine OutKept.next ?_
  with_reducible refine kept_stroke ?_ ?_
  · with_reducible assumption
  · intro _ _ _
    with_reducible exact kept_gatherWork ‹_›

theorem kept_execRoot {o : Bool} {s0 s : State} {run : _} (h : Kept false o s0 s) :
    OutKept false o s0 (execRoot run s) := by
  unfold execRoot
  refine OutKept.next ?_
  with_reducible refine kept_stroke ?_ ?_
  · with_reducible assumption
  · intro _ _ _
    with_reducible exact kept_rootWork ‹_›

theorem kept_execRow {o : Bool} {s0 s : State} {desk : _} (h : Kept false o s0 s) :
    OutKept false o s0 (execRow desk s) := by
  unfold execRow
  refine OutKept.next ?_
  with_reducible refine kept_stroke ?_ ?_
  · with_reducible assumption
  · intro _ _ _
    with_reducible exact kept_rowWork ‹_›

theorem kept_execScatter {o : Bool} {s0 s : State} {desk : _} (h : Kept false o s0 s) :
    OutKept false o s0 (execScatter desk s) := by
  unfold execScatter
  refine OutKept.next ?_
  with_reducible refine kept_stroke ?_ ?_
  · with_reducible assumption
  · intro _ _ _
    with_reducible exact kept_scatterWork ‹_›

theorem kept_execTableWait {o : Bool} {s0 s : State} {run : Struck} (h : Kept false o s0 s) :
    OutKept false o s0 (execTableWait run s) := by
  have hw : ∀ n e w, tableKind run.fault n = some (e, w) → ∀ t, Kept false o s0 t → ∀ x, Kept false o s0 (w t x).1 := by
    intro n e w he t ht x
    unfold tableKind at he
    split at he
    · cases he; exact kept_mmWork ht
    · cases he; exact kept_ewWork ht
    · cases he; exact kept_rowWork ht
    · cases he
  unfold execTableWait
  refine OutKept.next ?_
  split
  · refine Kept.iteL h (fun _ => ?_)
    split
    · exact kept_settle (kept_setPhase (kept_strokeRun (kept_bound h) (hw _ _ _ (by assumption))))
    · exact h
  · exact h

end Sys2Proof.Laws
end

