-- ==== Sys2Proof/Laws/KeepsDispatch.lean ====
section
/-! SUPPORT. What each operation of Machine/Dispatch.lean keeps, by the relation of Laws/Kept.lean. -/
namespace Sys2Proof.Laws
open Sys2Proof.Machine

theorem kept_exec {s0 s : State} {i : _} (h : Kept false false s0 s) :
    OutKept false false s0 (exec i s) := by
  unfold exec
  split
  · with_reducible exact kept_execHello ‹_›
  · with_reducible exact kept_execClaim ‹_›
  · with_reducible exact kept_execRelease ‹_›
  · with_reducible exact kept_execPing ‹_›
  · with_reducible exact kept_execRegRead ‹_›
  · with_reducible exact kept_execRegWrite ‹_›
  · with_reducible exact kept_execRegWritePair ‹_›
  · with_reducible exact kept_execLock ‹_›
  · with_reducible exact kept_execUnlock ‹_›
  · with_reducible exact kept_execMemRead ‹_›
  · with_reducible exact kept_execMemWrite ‹_›
  · with_reducible exact kept_execMemAtomic ‹_›
  · with_reducible exact kept_execScrub ‹_›
  · with_reducible exact kept_execDigest ‹_›
  · with_reducible exact kept_execStateRead ‹_›
  · with_reducible exact kept_execStateWrite ‹_›
  · with_reducible exact kept_execFolioData ‹_›
  · with_reducible exact kept_execLoadFolio ‹_›
  · with_reducible exact kept_execStart ‹_›
  · with_reducible exact kept_execStop ‹_›
  · with_reducible exact kept_execSetStepSize ‹_›
  · with_reducible exact kept_execSetSeed ‹_›
  · with_reducible exact kept_execJobStatus ‹_›
  · with_reducible exact kept_execRouteWrite ‹_›
  · with_reducible exact kept_execRouteArm ‹_›
  · with_reducible exact kept_execSeal ‹_›
  · with_reducible exact kept_execRestore ‹_›
  · with_reducible exact kept_execAdopt ‹_›
  · with_reducible exact kept_execConfirm ‹_›
  · with_reducible exact kept_execPartner2 ‹_›
  · with_reducible exact kept_execEventAck ‹_›
  · with_reducible exact kept_execEventMask ‹_›
  · with_reducible exact kept_execStepReport ‹_›
  · with_reducible exact kept_execPowerStatus ‹_›
  · with_reducible exact kept_execPowerSet ‹_›
  · with_reducible exact kept_execMainPower ‹_›
  · with_reducible exact kept_execFwStage ‹_›
  · with_reducible exact kept_execFwCommit ‹_›
  · with_reducible exact kept_execIdRotate ‹_›
  · with_reducible exact kept_execEraseAll ‹_›
  · with_reducible exact kept_execDebugUnlock ‹_›
  · with_reducible exact kept_execTestMode ‹_›
  · with_reducible exact kept_execSealAck ‹_›
  · with_reducible exact kept_execAttest ‹_›
  · with_reducible exact kept_execOpcodeUnknown ‹_›
  · with_reducible exact kept_execChembeRefused ‹_›
  · with_reducible exact kept_execArp ‹_›
  · with_reducible exact kept_execNeighborDiscovery ‹_›
  · with_reducible exact kept_execEchoRequest ‹_›
  · with_reducible exact kept_execSessionTimeout ‹_›
  · with_reducible exact kept_execCommandDone ‹_›
  · with_reducible exact kept_execEventResend ‹_›
  · with_reducible exact kept_execHLinkDown ‹_›
  · with_reducible exact kept_execHostPortTrain ‹_›
  · with_reducible exact kept_execLockTimeout ‹_›
  · with_reducible exact kept_execGuardTimeout ‹_›
  · with_reducible exact kept_execWarmReset ‹_›
  · with_reducible exact kept_execBlockReset ‹_›
  · with_reducible exact kept_execEvacReq ‹_›
  · with_reducible exact kept_execSnap ‹_›
  · with_reducible exact kept_execClear ‹_›
  · with_reducible exact kept_execColdStart ‹_›
  · with_reducible exact kept_execEscritoireReady ‹_›
  · with_reducible exact kept_execMainOnStart ‹_›
  · with_reducible exact kept_execReady ‹_›
  · with_reducible exact kept_execStandbyLoss ‹_›
  · with_reducible exact kept_execPwrEnRise ‹_›
  · with_reducible exact kept_execPwrEnFall ‹_›
  · with_reducible exact kept_execResetN ‹_›
  · with_reducible exact kept_execResetNRelease ‹_›
  · with_reducible exact kept_execUndervolt ‹_›
  · with_reducible exact kept_execOvervolt ‹_›
  · with_reducible exact kept_execPowerFail ‹_›
  · with_reducible exact kept_execGaspRailsOff ‹_›
  · with_reducible exact kept_execThermTrip ‹_›
  · with_reducible exact kept_execFeedWarn ‹_›
  · with_reducible exact kept_execHeartbeat ‹_›
  · with_reducible exact kept_execMainLost ‹_›
  · with_reducible exact kept_execVloopStep ‹_›
  · with_reducible exact kept_execGateUpdate ‹_›
  · with_reducible exact kept_execPresence ‹_›
  · with_reducible exact kept_execPresenceStrapped ‹_›
  · with_reducible exact kept_execPresenceWindowExpiry ‹_›
  · with_reducible exact kept_execSealSample ‹_›
  · with_reducible exact kept_execFwStageTimeout ‹_›
  · with_reducible exact kept_execEntdaa ‹_›
  · with_reducible exact kept_execSetnewda ‹_›
  · with_reducible exact kept_execGetpid ‹_›
  · with_reducible exact kept_execGetbcr ‹_›
  · with_reducible exact kept_execGetdcr ‹_›
  · with_reducible exact kept_execGetstatus ‹_›
  · with_reducible exact kept_execGetmwl ‹_›
  · with_reducible exact kept_execGetmrl ‹_›
  · with_reducible exact kept_execRstdaa ‹_›
  · with_reducible exact kept_execSetEndpointId ‹_›
  · with_reducible exact kept_execGetEndpointId ‹_›
  · with_reducible exact kept_execGetEndpointUuid ‹_›
  · with_reducible exact kept_execGetMctpVersionSupport ‹_›
  · with_reducible exact kept_execGetMessageTypeSupport ‹_›
  · with_reducible exact kept_execGetVendorDefinedMsgSupport ‹_›
  · with_reducible exact kept_execGetPdrRepositoryInfo ‹_›
  · with_reducible exact kept_execGetPdr ‹_›
  · with_reducible exact kept_execGetSensorReading ‹_›
  · with_reducible exact kept_execGetStateSensorReadings ‹_›
  · with_reducible exact kept_execSetEventReceiver ‹_›
  · with_reducible exact kept_execPlatformEventMessage ‹_›
  · with_reducible exact kept_execWave ‹_›
  · with_reducible exact kept_execWeightRowLoad ‹_›
  · with_reducible exact kept_execBroadcastRow ‹_›
  · with_reducible exact kept_execTie ‹_›
  · with_reducible exact kept_execTieForced ‹_›
  · with_reducible exact kept_execLeafRateWindow ‹_›
  · with_reducible exact kept_execNop ‹_›
  · with_reducible exact kept_execMm ‹_›
  · with_reducible exact kept_execEw ‹_›
  · with_reducible exact kept_execRow ‹_›
  · with_reducible exact kept_execGather ‹_›
  · with_reducible exact kept_execScatter ‹_›
  · with_reducible exact kept_execRoot ‹_›
  · with_reducible exact kept_execStrokeDone ‹_›
  · with_reducible exact kept_execTableWait ‹_›
  · with_reducible exact kept_execCopy ‹_›
  · with_reducible exact kept_execFill ‹_›
  · with_reducible exact kept_execTableLoad ‹_›
  · with_reducible exact kept_execSlotSet ‹_›
  · with_reducible exact kept_execIntakeTake ‹_›
  · with_reducible exact kept_execTakeWait ‹_›
  · with_reducible exact kept_execDmaDone ‹_›
  · with_reducible exact kept_execActReplay ‹_›
  · with_reducible exact kept_execReplayRestart ‹_›
  · with_reducible exact kept_execQwrite ‹_›
  · with_reducible exact kept_execQadd ‹_›
  · with_reducible exact kept_execQmcast ‹_›
  · with_reducible exact kept_execUpdate ‹_›
  · with_reducible exact kept_execSparseUpdate ‹_›
  · with_reducible exact kept_execStepSizeStale ‹_›
  · with_reducible exact kept_execNibBarrier ‹_›
  · with_reducible exact kept_execStepEnd ‹_›
  · with_reducible exact kept_execStepTimeout ‹_›
  · with_reducible exact kept_execConfirmHold ‹_›
  · with_reducible exact kept_execLineRead ‹_›
  · with_reducible exact kept_execLineWrite ‹_›
  · with_reducible exact kept_execMergeWrite ‹_›
  · with_reducible exact kept_execExactAdd ‹_›
  · with_reducible exact kept_execResWait ‹_›
  · with_reducible exact kept_execFetchAdd ‹_›
  · with_reducible exact kept_execSwap ‹_›
  · with_reducible exact kept_execCmpSwap ‹_›
  · with_reducible exact kept_execMaxU ‹_›
  · with_reducible exact kept_execMinU ‹_›
  · with_reducible exact kept_execSbdWriteback ‹_›
  · with_reducible exact kept_execGrantSlot ‹_›
  · with_reducible exact kept_execBgUrgent ‹_›
  · with_reducible exact kept_execBgOverdue ‹_›
  · with_reducible exact kept_execRefresh ‹_›
  · with_reducible exact kept_execRefreshRateRead ‹_›
  · with_reducible exact kept_execScrubPass ‹_›
  · with_reducible exact kept_execScrubLine ‹_›
  · with_reducible exact kept_execScrubLate ‹_›
  · with_reducible exact kept_execEyeSample ‹_›
  · with_reducible exact kept_execPrepare ‹_›
  · with_reducible exact kept_execMigrate ‹_›
  · with_reducible exact kept_execRetraining ‹_›
  · with_reducible exact kept_execPauseSlice ‹_›
  · with_reducible exact kept_execHardFail ‹_›
  · with_reducible exact kept_execRebuild ‹_›
  · with_reducible exact kept_execPortTrain ‹_›
  · with_reducible exact kept_execQHello ‹_›
  · with_reducible exact kept_execQEqAdapt ‹_›
  · with_reducible exact kept_execQRetrain ‹_›
  · with_reducible exact kept_execQLinkDown ‹_›
  · with_reducible exact kept_execHandover ‹_›
  · with_reducible exact kept_execAckTimeout ‹_›
  · with_reducible exact kept_execAckSend ‹_›
  · with_reducible exact kept_execAck ‹_›
  · with_reducible exact kept_execQFrameWrite ‹_›
  · with_reducible exact kept_execQFrameAdd ‹_›
  · with_reducible exact kept_execQFrameMcast ‹_›
  · with_reducible exact kept_execQFrameClose ‹_›
  · with_reducible exact kept_execDelivery ‹_›
  · with_reducible exact kept_execReport ‹_›
  · with_reducible exact kept_execReadReq ‹_›
  · with_reducible exact kept_execReadResp ‹_›
  · with_reducible exact kept_execPair ‹_›
  · with_reducible exact kept_execMap ‹_›
  · with_reducible exact kept_execRideCopy ‹_›
  · with_reducible exact kept_execEcho ‹_›
  · with_reducible exact kept_execInput ‹_›
  · with_reducible exact kept_execMark ‹_›
  · with_reducible exact kept_execGasp ‹_›
  · with_reducible exact kept_execGaspTimeout ‹_›
  · with_reducible exact kept_execRiskSample ‹_›
  · with_reducible exact kept_execFragment ‹_›
  · with_reducible exact kept_execGap ‹_›
  · with_reducible exact kept_execIntakePause ‹_›
  · with_reducible exact kept_execIntakeRttSample ‹_›
  · with_reducible exact kept_execIntakeThreshMove ‹_›
  · with_reducible exact kept_execDatagramDrop ‹_›
  · with_reducible exact kept_execBadFrame ‹_›
  · with_reducible exact kept_execPfcFrame ‹_›
  · with_reducible exact kept_execMessagingControlAndDiscovery ‹_›
  · with_reducible exact kept_execMainRailFault ‹_›

end Sys2Proof.Laws
end

