-- ==== Sys2Proof/Laws/KeepsTick.lean ====
section
/-! SUPPORT. What each operation of Machine/Tick.lean keeps, by the relation of Laws/Kept.lean. -/
namespace Sys2Proof.Laws
open Sys2Proof.Machine

theorem kept_durations {m o : Bool} {s0 s : State} (h : Kept m o s0 s) :
    Kept m o s0 (State.durations s) := by
  unfold State.durations
  dsimp only
  refine Kept.iteR ?_ (fun _ => ?_)
  · with_reducible assumption
  · refine Kept.foldl ?_ (fun _ _ _ => ?_)
    · with_reducible assumption
    · refine Kept.iteL ?_ (fun _ => ?_)
      · with_reducible assumption
      · with_reducible exact kept_addCounter ‹_›

theorem kept_endPauses {m o : Bool} {s0 s : State} (h : Kept m o s0 s) :
    Kept m o s0 (State.endPauses s) := by
  unfold State.endPauses
  refine Kept.foldl ?_ (fun _ _ _ => ?_)
  · with_reducible assumption
  · refine Kept.iteR ?_ (fun _ => ?_)
    · with_reducible assumption
    · with_reducible exact kept_releasePort ‹_›

end Sys2Proof.Laws
end

