-- ==== Sys2Proof/Laws/Packet.lean ====
section
/-! SUPPORT. The packets of commands, replies and events: their length, and what R407 makes of them. -/
namespace Sys2Proof.Machine

@[simp] theorem le_length (n v : Nat) : (le n v).length = n := by
  induction n generalizing v with
  | zero => rfl
  | succ n ih => simp [le, ih]

@[simp] theorem zeros_length (n : Nat) : (zeros n).length = n := by simp [zeros]

/-- The number that the low bytes hold (R13). -/
theorem leNat_le (n v : Nat) : leNat (le n v) = v % 256 ^ n := by
  induction n generalizing v with
  | zero => simp [le, leNat, Nat.mod_one]
  | succ n ih =>
    have h8 : (BitVec.ofNat 8 v).toNat = v % 256 := by simp
    rw [le, leNat, ih, h8, Nat.pow_succ, Nat.mul_comm (256 ^ n) 256, Nat.mod_mul]

/-- A packet is 32 bytes longer than its parameters (R406). -/
theorem chembePacket_length (v f o t q st se : Nat) (ps : List Byte) :
    (chembePacket v f o t q st se ps).length = 32 + ps.length := by
  simp [chembePacket]; omega

/-- A field of a packet that starts with the bytes before it. -/
theorem fld_append (a b c : List Byte) : fld (a ++ (b ++ c)) a.length b.length = leNat b := by simp [fld]

/-- The packet of a command is one that R407 does not discard for its form. -/
theorem commandPacket_wellformed (h : Hdr) (op : Nat) (ps : List Byte) (hp : ps.length < 2 ^ 32) :
    malformed (commandPacket h op ps) = false := by
  have hm : fld (commandPacket h op ps) 0 4 = chembeMagic := by
    simp [commandPacket, chembePacket, fld, le, leNat, chembeMagic]
  have hf : fld (commandPacket h op ps) 5 1 = 0 := by
    simp [commandPacket, chembePacket, fld, le, leNat]
  have hl : fld (commandPacket h op ps) 0x10 4 = ps.length := by
    have e : commandPacket h op ps = (le 4 chembeMagic ++ le 1 h.version ++ le 1 0 ++ le 2 op ++ le 4 h.tag ++ le 4 h.seq)
        ++ (le 4 ps.length ++ (le 2 h.status ++ le 2 h.session ++ zeros 8 ++ ps)) := by
      simp [commandPacket, chembePacket]
    rw [e]
    have := fld_append (le 4 chembeMagic ++ le 1 h.version ++ le 1 0 ++ le 2 op ++ le 4 h.tag ++ le 4 h.seq) (le 4 ps.length)
      (le 2 h.status ++ le 2 h.session ++ zeros 8 ++ ps)
    simp only [List.length_append, le_length] at this
    rw [this, leNat_le]
    exact Nat.mod_eq_of_lt (by simpa using hp)
  have hn := chembePacket_length h.version 0 op h.tag h.seq h.status h.session ps
  unfold malformed
  rw [hm, hf, hl]
  simp [commandPacket, hn, bit]

end Sys2Proof.Machine
end

