-- ==== Sys2Proof/WellFormed.lean ====
section
/-! DEFINITION. Which commands can reach the module: every operand within the field, the number of units or the list length
that the spec gives it. A command outside these ranges stands for nothing that a sender could send or a unit could do. -/
namespace Sys2Proof

/-- Does a number fit a field of `n` bits? -/
def fits (n v : Nat) : Bool := decide (v < 2 ^ n)

/-- A source (R409, R469): a host port, an address of 128 bits, a UDP port; or an endpoint of 8 bits. -/
def Src.ok : Src → Bool
  | .host p a u => decide (p < 2) && fits 128 a && fits 16 u
  | .side e => fits 8 e

/-- The MCTP fields of a message: a tag of 3 bits, an enterprise number of 32. -/
def Mctp.ok (m : Mctp) : Bool := fits 3 m.tag && fits 32 m.iana

/-- A Chembe header (Table 12.2). -/
def Hdr.ok (h : Hdr) : Bool :=
  h.src.ok && fits 8 h.version && fits 32 h.seq && fits 32 h.tag && fits 16 h.session && fits 16 h.status && h.mctp.ok

/-- A packet of which R407 may discard: no longer than a frame (R404), or a message's. -/
def RawPacket.ok (p : RawPacket) : Bool := p.src.ok && decide (p.bytes.length ≤ 9216)

/-- A packet on a host port. -/
def Stray.ok (d : Stray) : Bool :=
  decide (d.port < 2) && fits 12 d.vlan && fits (if d.v6 then 128 else 32) d.dst
    && (match d.udp with | some p => fits 16 p | none => true)

/-- A Quill header (Table 10.4). -/
def QHdr.ok (h : QHdr) : Bool :=
  fits 4 h.qver && fits 11 h.srcRole && fits 3 h.srcList && fits 11 h.dst && fits 8 h.lines && fits 8 h.fmt && fits 32 h.lseq
    && fits 32 h.lack && fits 32 h.step && fits 32 h.mseq && fits 16 h.dstTid && fits 48 h.arg

/-- A frame on one of the 24 Quill ports (R336), of a peer's role, with at most 4,096 bytes of payload (R341). -/
def QFrame.ok (f : QFrame) : Bool := decide (f.port < 24) && fits 20 f.peer && fits 16 f.corrected && f.h.ok && decide (f.payload.length ≤ 4096)

/-- An intake header (Table 12.7). -/
def IntakeHdr.ok (h : IntakeHdr) : Bool :=
  fits 32 h.magic && fits 8 h.version && fits 8 h.kind && fits 16 h.frag && fits 64 h.sampleSeq && fits 32 h.sampleBytes
    && fits 16 h.fragCount && fits 16 h.sflags && fits 32 h.rows && fits 32 h.rsv

/-- Data of a Chembe packet (Table 12.2). -/
def dataOk (data : List Byte) : Bool := decide (data.length ≤ 8160)

/-- A host port. -/
def hostOk (p : Nat) : Bool := decide (p < 2)

/-- A Desk. -/
def deskOk (d : Nat) : Bool := decide (d < 2)

/-- A Cabinet, a Sideboard slice or a Nib. -/
def cabOk (c : Nat) : Bool := decide (c < 16)

/-- A DMA engine. -/
def dmaOk (d : Nat) : Bool := decide (d < 32)

/-- A Leaf of a Desk. -/
def leafOk (l : Nat) : Bool := decide (l < 4)

/-- A physical Drawer. -/
def drawerOk (d : Nat) : Bool := decide (d < 68)

/-- A code of an engine that runs a list (Table 5.4). -/
def engineOk (e : Nat) : Bool :=
  decide (e < 2) || decide (0x10 ≤ e ∧ e < 0x38) || decide (0x40 ≤ e ∧ e < 0x50)

/-- A decoded local address (R211). -/
def addrOk (a : Nat) : Bool := decide (a < 0x17400000000)

/-- A part of an activation row: element codes of at most 32 bits, scale bytes, A40 sums. -/
def LaneRow.ok (r : LaneRow) : Bool :=
  decide (r.codes.length ≤ 512) && r.codes.all (fits 32) && r.scales.all (fits 8) && r.entry.all (fits 40)

/-- An activation row of at most four problems. -/
def FeedRow.ok (r : FeedRow) : Bool := decide (r.lanes.length ≤ 4) && r.lanes.all fun x => x.all LaneRow.ok

/-- A parity mismatch at a Leaf and Plank that exist. -/
def ArrayFault.ok (x : ArrayFault) : Bool := leafOk x.leaf && decide (x.row < 8 ∧ x.col < 9)

/-- A failed Plank (R17): Desk, Leaf, Plank row and Plank column. -/
def plankOk (p : Nat × Nat × Nat × Nat) : Bool :=
  deskOk p.1 && leafOk p.2.1 && decide (p.2.2.1 < 8) && decide (p.2.2.2 < 9)

/-- Is every operand of a command within its range? -/
def wellFormed : Instr → Bool
  | .hello h v f => h.ok && fits 16 v && fits 32 f
  | .claim h alt => h.ok && fits 128 alt
  | .release h | .jobStatus h | .powerStatus h | .idRotate h | .sealAck h | .warmReset h | .snap h | .clear h => h.ok
  | .ping h d => h.ok && dataOk d
  | .regRead h a n => h.ok && fits 32 a && fits 32 n
  | .regWrite h a _ | .regWritePair h a _ => h.ok && fits 32 a
  | .lock h c | .unlock h c => h.ok && fits 32 c
  | .memRead h a n f => h.ok && fits 64 a && fits 32 n && fits 32 f
  | .memWrite h a f d => h.ok && fits 64 a && fits 32 f && dataOk d
  | .memAtomic h a op x y => h.ok && fits 64 a && fits 32 op && fits 64 x && fits 64 y
  | .scrub h b n f => h.ok && fits 64 b && fits 64 n && fits 32 f
  | .digest h b n => h.ok && fits 64 b && fits 64 n
  | .stateRead h o n => h.ok && fits 32 o && fits 32 n
  | .stateWrite h o d => h.ok && fits 32 o && dataOk d
  | .folioData h o d => h.ok && fits 64 o && dataOk d
  | .loadFolio h n d => h.ok && fits 64 n && decide (d.length = 32)
  | .start h t n => h.ok && fits 32 t && fits 32 n
  | .stop h m => h.ok && fits 32 m
  | .setStepSize h t v => h.ok && fits 32 t && fits 32 v
  | .setSeed h v => h.ok && fits 64 v
  | .routeWrite h b o d => h.ok && fits 32 b && fits 32 o && dataOk d
  | .routeArm h t => h.ok && fits 32 t
  | .seal h t | .restore h t | .confirm h t => h.ok && fits 32 t
  | .adopt h r t => h.ok && fits 16 r && fits 32 t
  | .partner2 h r => h.ok && fits 16 r
  | .eventAck h q => h.ok && fits 32 q
  | .eventMask h m => h.ok && fits 64 m
  | .stepReport h t f => h.ok && fits 32 t && fits 32 f
  | .powerSet h m t => h.ok && fits 32 m && fits 32 t
  | .mainPower h o => h.ok && fits 32 o
  | .fwStage h o f d => h.ok && fits 32 o && fits 32 f && dataOk d
  | .fwCommit h v => h.ok && fits 32 v
  | .eraseAll h c => h.ok && fits 32 c
  | .debugUnlock h a | .testMode h a => h.ok && fits 32 a
  | .attest h n p o => h.ok && decide (n.length = 32) && fits 32 p && fits 32 o
  | .opcodeUnknown h op => h.ok && fits 16 op
  | .chembeRefused p => p.ok
  | .arp p t x m => hostOk p && fits 32 t && fits 32 x && fits 48 m
  | .neighborDiscovery p t x m => hostOk p && fits 128 t && fits 128 x && fits 48 m
  | .echoRequest p v6 t x _ => hostOk p && fits (if v6 then 128 else 32) t && fits (if v6 then 128 else 32) x
  | .sessionTimeout _ n => fits 16 n
  | .commandDone i => decide (i < 512)
  | .eventResend _ | .lockTimeout _ | .gaspTimeout _ => true
  | .hLinkDown p => hostOk p
  | .datagramDrop d => d.ok
  | .hostPortTrain p l => hostOk p && fits 4 l
  | .guardTimeout b => fits 32 b
  | .blockReset h b => h.ok && fits 32 b
  | .evacReq h c l => h.ok && cabOk c && fits 6 l
  | .coldStart v f i => fits 32 v && fits 4 f && fits 6 i
  | .resetNRelease f i => fits 4 f && fits 6 i
  | .escritoireReady o | .sealSample o => match o with | some r => fits 32 r | none => true
  | .ready ps ds => ps.all plankOk && ds.all fun d => cabOk d.1 && drawerOk d.2
  | .standbyLoss v | .undervolt v | .vloopStep v | .gateUpdate v => fits 32 v
  | .overvolt v n | .powerFail v n => fits 32 v && fits 64 n
  | .resetN n | .presence n => fits 64 n
  | .feedWarn _ n => fits 64 n
  | .mainOnStart | .pwrEnRise | .pwrEnFall | .gaspRailsOff | .mainLost | .presenceStrapped | .presenceWindowExpiry
  | .fwStageTimeout | .getpid | .getbcr | .getdcr | .getstatus | .getmwl | .getmrl | .rstdaa | .getEndpointId
  | .getEndpointUuid | .getMessageTypeSupport | .getPdrRepositoryInfo | .stepSizeStale | .nibBarrier | .stepEnd
  | .stepTimeout | .confirmHold | .riskSample | .intakePause | .intakeThreshMove | .mainRailFault => true
  | .thermTrip c => decide (1 ≤ c ∧ c ≤ 4)
  | .heartbeat n => decide (n < 4)
  | .entdaa a | .setnewda a => fits 7 a
  | .setEndpointId o e => fits 2 o && fits 8 e
  | .getMctpVersionSupport t | .getVendorDefinedMsgSupport t | .setEventReceiver t | .messagingControlAndDiscovery t => fits 8 t
  | .getPdr n => fits 32 n
  | .getStateSensorReadings n => fits 16 n
  | .getSensorReading n r | .platformEventMessage n r =>
    fits 16 n && decide (-2147483648 ≤ r ∧ r < 2147483648)
  | .wave d l _ p => deskOk d && leafOk l && match p with | some x => decide (x.1 < 8 ∧ x.2 < 9) | none => true
  | .weightRowLoad d l cs => deskOk d && leafOk l && decide (cs.length ≤ 1024) && cs.all (fits 32)
  | .broadcastRow d rs => deskOk d && decide (rs.length ≤ 4) && rs.all FeedRow.ok
  | .tie e | .tieForced e => fits 16 e
  | .leafRateWindow d l r t => deskOk d && leafOk l && fits 16 r && fits 16 t
  | .nop e => engineOk e
  | .mm d f => deskOk d && f.all ArrayFault.ok
  | .root r | .tableWait r => deskOk r.desk && r.fault.all ArrayFault.ok
  | .ew d | .row d | .gather d | .scatter d | .strokeDone d => deskOk d
  | .copy d | .fill d | .tableLoad d | .slotSet d | .intakeTake d | .takeWait d | .dmaDone d | .actReplay d
  | .replayRestart d => dmaOk d
  | .qwrite q | .qadd q | .qmcast q => fits 3 q
  | .update c | .sparseUpdate c => cabOk c
  | .lineRead r a => addrOk a && match r with | .engine e => engineOk e | .management => true
  | .lineWrite a d _ => addrOk a && decide (d.length = 128)
  | .mergeWrite a b => addrOk a && fits 128 b.mask && decide (b.data.length = 128)
  | .exactAdd a f c _ => addrOk a && decide (f = 1 ∨ f = 3) && fits 32 c
  | .resWait c => cabOk c
  | .fetchAdd a x | .swap a x | .maxU a x | .minU a x => addrOk a && decide (a % 8 = 0) && fits 64 x
  | .cmpSwap a x y => addrOk a && decide (a % 8 = 0) && fits 64 x && fits 64 y
  | .sbdWriteback a => addrOk a
  | .grantSlot c _ | .scrubLine c | .scrubLate c | .prepare c _ | .migrate c _ | .rebuild c => cabOk c
  | .bgUrgent c k | .bgOverdue c k => cabOk c && decide (k < 4)
  | .refresh c _ => cabOk c
  | .refreshRateRead c r t => cabOk c && fits 4 r && fits 16 t
  | .scrubPass c l => cabOk c && l.all drawerOk
  | .eyeSample c l => cabOk c && l.all fun m => drawerOk m.1 && fits 8 m.2
  | .retraining c d _ | .hardFail c d => cabOk c && drawerOk d
  | .pauseSlice c _ m => cabOk c && fits 8 m
  | .portTrain p l | .qLinkDown p l => decide (p < 24) && fits 8 l
  | .qRetrain p l _ => decide (p < 24) && fits 8 l
  | .qHello p r q m x y => decide (p < 24) && fits 11 r && fits 8 q && fits 48 m && fits 16 x && fits 16 y
  | .qEqAdapt p m l => decide (p < 24) && fits 8 m && decide (l < 8)
  | .handover c q => decide (c.port < 24) && fits 20 c.peer && fits 32 q
  | .ackTimeout p r | .ackSend p r => decide (p < 24) && fits 20 r
  | .ack f | .qFrameWrite f | .qFrameAdd f | .qFrameMcast f | .qFrameClose f | .report f | .readReq f | .readResp f | .pair f
  | .map f | .rideCopy f | .echo f | .input f | .mark f | .gasp f => f.ok
  | .badFrame f _ t => f.ok && fits 4 t
  | .delivery r l d _ m => fits 11 r && fits 4 l && fits 11 d && fits 32 m
  | .fragment p q h d | .gap p q h d => hostOk p && fits 3 q && h.ok && decide (d.length ≤ 8192)
  | .intakeRttSample p n => hostOk p && fits 64 n
  | .pfcFrame p q n => decide (p < 24) && fits 3 q && fits 16 n

end Sys2Proof
end

