-- ==== Sys2Proof/Laws/PerInstr.lean ====
section
/-! SUPPORT. Statements made per command: a well-formed command names no line past the decoded range (R211), one lemma per
constructor. -/
namespace Sys2Proof.Laws
open Sys2Proof Sys2Proof.Machine

/-- A well-formed command that names a line of the Sideboard names one of the decoded range. -/
def NamesALine.Statement (i : Instr) : Prop := wellFormed i = true → ∀ a, lineAddress i = some a → a < decodedEnd

/-- A command that names no line. -/
theorem NamesALine.none_named {i : Instr} (h : lineAddress i = none) : NamesALine.Statement i := by
  intro _ a ha
  rw [h] at ha
  cases ha

theorem NamesALine.hello : ∀ x0 x1 x2, NamesALine.Statement (.hello x0 x1 x2) := fun _ _ _ => NamesALine.none_named rfl
theorem NamesALine.claim : ∀ x0 x1, NamesALine.Statement (.claim x0 x1) := fun _ _ => NamesALine.none_named rfl
theorem NamesALine.release : ∀ x0, NamesALine.Statement (.release x0) := fun _ => NamesALine.none_named rfl
theorem NamesALine.ping : ∀ x0 x1, NamesALine.Statement (.ping x0 x1) := fun _ _ => NamesALine.none_named rfl
theorem NamesALine.regRead : ∀ x0 x1 x2, NamesALine.Statement (.regRead x0 x1 x2) := fun _ _ _ => NamesALine.none_named rfl
theorem NamesALine.regWrite : ∀ x0 x1 x2, NamesALine.Statement (.regWrite x0 x1 x2) := fun _ _ _ => NamesALine.none_named rfl
theorem NamesALine.regWritePair : ∀ x0 x1 x2, NamesALine.Statement (.regWritePair x0 x1 x2) := fun _ _ _ => NamesALine.none_named rfl
theorem NamesALine.lock : ∀ x0 x1, NamesALine.Statement (.lock x0 x1) := fun _ _ => NamesALine.none_named rfl
theorem NamesALine.unlock : ∀ x0 x1, NamesALine.Statement (.unlock x0 x1) := fun _ _ => NamesALine.none_named rfl
theorem NamesALine.memRead : ∀ x0 x1 x2 x3, NamesALine.Statement (.memRead x0 x1 x2 x3) := fun _ _ _ _ => NamesALine.none_named rfl
theorem NamesALine.memWrite : ∀ x0 x1 x2 x3, NamesALine.Statement (.memWrite x0 x1 x2 x3) := fun _ _ _ _ => NamesALine.none_named rfl
theorem NamesALine.memAtomic : ∀ x0 x1 x2 x3 x4, NamesALine.Statement (.memAtomic x0 x1 x2 x3 x4) := fun _ _ _ _ _ => NamesALine.none_named rfl
theorem NamesALine.scrub : ∀ x0 x1 x2 x3, NamesALine.Statement (.scrub x0 x1 x2 x3) := fun _ _ _ _ => NamesALine.none_named rfl
theorem NamesALine.digest : ∀ x0 x1 x2, NamesALine.Statement (.digest x0 x1 x2) := fun _ _ _ => NamesALine.none_named rfl
theorem NamesALine.stateRead : ∀ x0 x1 x2, NamesALine.Statement (.stateRead x0 x1 x2) := fun _ _ _ => NamesALine.none_named rfl
theorem NamesALine.stateWrite : ∀ x0 x1 x2, NamesALine.Statement (.stateWrite x0 x1 x2) := fun _ _ _ => NamesALine.none_named rfl
theorem NamesALine.folioData : ∀ x0 x1 x2, NamesALine.Statement (.folioData x0 x1 x2) := fun _ _ _ => NamesALine.none_named rfl
theorem NamesALine.loadFolio : ∀ x0 x1 x2, NamesALine.Statement (.loadFolio x0 x1 x2) := fun _ _ _ => NamesALine.none_named rfl
theorem NamesALine.start : ∀ x0 x1 x2, NamesALine.Statement (.start x0 x1 x2) := fun _ _ _ => NamesALine.none_named rfl
theorem NamesALine.stop : ∀ x0 x1, NamesALine.Statement (.stop x0 x1) := fun _ _ => NamesALine.none_named rfl
theorem NamesALine.setStepSize : ∀ x0 x1 x2, NamesALine.Statement (.setStepSize x0 x1 x2) := fun _ _ _ => NamesALine.none_named rfl
theorem NamesALine.setSeed : ∀ x0 x1, NamesALine.Statement (.setSeed x0 x1) := fun _ _ => NamesALine.none_named rfl
theorem NamesALine.jobStatus : ∀ x0, NamesALine.Statement (.jobStatus x0) := fun _ => NamesALine.none_named rfl
theorem NamesALine.routeWrite : ∀ x0 x1 x2 x3, NamesALine.Statement (.routeWrite x0 x1 x2 x3) := fun _ _ _ _ => NamesALine.none_named rfl
theorem NamesALine.routeArm : ∀ x0 x1, NamesALine.Statement (.routeArm x0 x1) := fun _ _ => NamesALine.none_named rfl
theorem NamesALine.seal : ∀ x0 x1, NamesALine.Statement (.seal x0 x1) := fun _ _ => NamesALine.none_named rfl
theorem NamesALine.restore : ∀ x0 x1, NamesALine.Statement (.restore x0 x1) := fun _ _ => NamesALine.none_named rfl
theorem NamesALine.adopt : ∀ x0 x1 x2, NamesALine.Statement (.adopt x0 x1 x2) := fun _ _ _ => NamesALine.none_named rfl
theorem NamesALine.confirm : ∀ x0 x1, NamesALine.Statement (.confirm x0 x1) := fun _ _ => NamesALine.none_named rfl
theorem NamesALine.partner2 : ∀ x0 x1, NamesALine.Statement (.partner2 x0 x1) := fun _ _ => NamesALine.none_named rfl
theorem NamesALine.eventAck : ∀ x0 x1, NamesALine.Statement (.eventAck x0 x1) := fun _ _ => NamesALine.none_named rfl
theorem NamesALine.eventMask : ∀ x0 x1, NamesALine.Statement (.eventMask x0 x1) := fun _ _ => NamesALine.none_named rfl
theorem NamesALine.stepReport : ∀ x0 x1 x2, NamesALine.Statement (.stepReport x0 x1 x2) := fun _ _ _ => NamesALine.none_named rfl
theorem NamesALine.powerStatus : ∀ x0, NamesALine.Statement (.powerStatus x0) := fun _ => NamesALine.none_named rfl
theorem NamesALine.powerSet : ∀ x0 x1 x2, NamesALine.Statement (.powerSet x0 x1 x2) := fun _ _ _ => NamesALine.none_named rfl
theorem NamesALine.mainPower : ∀ x0 x1, NamesALine.Statement (.mainPower x0 x1) := fun _ _ => NamesALine.none_named rfl
theorem NamesALine.fwStage : ∀ x0 x1 x2 x3, NamesALine.Statement (.fwStage x0 x1 x2 x3) := fun _ _ _ _ => NamesALine.none_named rfl
theorem NamesALine.fwCommit : ∀ x0 x1, NamesALine.Statement (.fwCommit x0 x1) := fun _ _ => NamesALine.none_named rfl
theorem NamesALine.idRotate : ∀ x0, NamesALine.Statement (.idRotate x0) := fun _ => NamesALine.none_named rfl
theorem NamesALine.eraseAll : ∀ x0 x1, NamesALine.Statement (.eraseAll x0 x1) := fun _ _ => NamesALine.none_named rfl
theorem NamesALine.debugUnlock : ∀ x0 x1, NamesALine.Statement (.debugUnlock x0 x1) := fun _ _ => NamesALine.none_named rfl
theorem NamesALine.testMode : ∀ x0 x1, NamesALine.Statement (.testMode x0 x1) := fun _ _ => NamesALine.none_named rfl
theorem NamesALine.sealAck : ∀ x0, NamesALine.Statement (.sealAck x0) := fun _ => NamesALine.none_named rfl
theorem NamesALine.attest : ∀ x0 x1 x2 x3, NamesALine.Statement (.attest x0 x1 x2 x3) := fun _ _ _ _ => NamesALine.none_named rfl
theorem NamesALine.opcodeUnknown : ∀ x0 x1, NamesALine.Statement (.opcodeUnknown x0 x1) := fun _ _ => NamesALine.none_named rfl
theorem NamesALine.chembeRefused : ∀ x0, NamesALine.Statement (.chembeRefused x0) := fun _ => NamesALine.none_named rfl
theorem NamesALine.arp : ∀ x0 x1 x2 x3, NamesALine.Statement (.arp x0 x1 x2 x3) := fun _ _ _ _ => NamesALine.none_named rfl
theorem NamesALine.neighborDiscovery : ∀ x0 x1 x2 x3, NamesALine.Statement (.neighborDiscovery x0 x1 x2 x3) := fun _ _ _ _ => NamesALine.none_named rfl
theorem NamesALine.echoRequest : ∀ x0 x1 x2 x3 x4, NamesALine.Statement (.echoRequest x0 x1 x2 x3 x4) := fun _ _ _ _ _ => NamesALine.none_named rfl
theorem NamesALine.sessionTimeout : ∀ x0 x1, NamesALine.Statement (.sessionTimeout x0 x1) := fun _ _ => NamesALine.none_named rfl
theorem NamesALine.commandDone : ∀ x0, NamesALine.Statement (.commandDone x0) := fun _ => NamesALine.none_named rfl
theorem NamesALine.eventResend : ∀ x0, NamesALine.Statement (.eventResend x0) := fun _ => NamesALine.none_named rfl
theorem NamesALine.hLinkDown : ∀ x0, NamesALine.Statement (.hLinkDown x0) := fun _ => NamesALine.none_named rfl
theorem NamesALine.hostPortTrain : ∀ x0 x1, NamesALine.Statement (.hostPortTrain x0 x1) := fun _ _ => NamesALine.none_named rfl
theorem NamesALine.lockTimeout : ∀ x0, NamesALine.Statement (.lockTimeout x0) := fun _ => NamesALine.none_named rfl
theorem NamesALine.guardTimeout : ∀ x0, NamesALine.Statement (.guardTimeout x0) := fun _ => NamesALine.none_named rfl
theorem NamesALine.warmReset : ∀ x0, NamesALine.Statement (.warmReset x0) := fun _ => NamesALine.none_named rfl
theorem NamesALine.blockReset : ∀ x0 x1, NamesALine.Statement (.blockReset x0 x1) := fun _ _ => NamesALine.none_named rfl
theorem NamesALine.evacReq : ∀ x0 x1 x2, NamesALine.Statement (.evacReq x0 x1 x2) := fun _ _ _ => NamesALine.none_named rfl
theorem NamesALine.snap : ∀ x0, NamesALine.Statement (.snap x0) := fun _ => NamesALine.none_named rfl
theorem NamesALine.clear : ∀ x0, NamesALine.Statement (.clear x0) := fun _ => NamesALine.none_named rfl
theorem NamesALine.coldStart : ∀ x0 x1 x2, NamesALine.Statement (.coldStart x0 x1 x2) := fun _ _ _ => NamesALine.none_named rfl
theorem NamesALine.escritoireReady : ∀ x0, NamesALine.Statement (.escritoireReady x0) := fun _ => NamesALine.none_named rfl
theorem NamesALine.mainOnStart : NamesALine.Statement .mainOnStart := NamesALine.none_named rfl
theorem NamesALine.ready : ∀ x0 x1, NamesALine.Statement (.ready x0 x1) := fun _ _ => NamesALine.none_named rfl
theorem NamesALine.standbyLoss : ∀ x0, NamesALine.Statement (.standbyLoss x0) := fun _ => NamesALine.none_named rfl
theorem NamesALine.pwrEnRise : NamesALine.Statement .pwrEnRise := NamesALine.none_named rfl
theorem NamesALine.pwrEnFall : NamesALine.Statement .pwrEnFall := NamesALine.none_named rfl
theorem NamesALine.resetN : ∀ x0, NamesALine.Statement (.resetN x0) := fun _ => NamesALine.none_named rfl
theorem NamesALine.resetNRelease : ∀ x0 x1, NamesALine.Statement (.resetNRelease x0 x1) := fun _ _ => NamesALine.none_named rfl
theorem NamesALine.undervolt : ∀ x0, NamesALine.Statement (.undervolt x0) := fun _ => NamesALine.none_named rfl
theorem NamesALine.overvolt : ∀ x0 x1, NamesALine.Statement (.overvolt x0 x1) := fun _ _ => NamesALine.none_named rfl
theorem NamesALine.powerFail : ∀ x0 x1, NamesALine.Statement (.powerFail x0 x1) := fun _ _ => NamesALine.none_named rfl
theorem NamesALine.gaspRailsOff : NamesALine.Statement .gaspRailsOff := NamesALine.none_named rfl
theorem NamesALine.thermTrip : ∀ x0, NamesALine.Statement (.thermTrip x0) := fun _ => NamesALine.none_named rfl
theorem NamesALine.feedWarn : ∀ x0 x1, NamesALine.Statement (.feedWarn x0 x1) := fun _ _ => NamesALine.none_named rfl
theorem NamesALine.heartbeat : ∀ x0, NamesALine.Statement (.heartbeat x0) := fun _ => NamesALine.none_named rfl
theorem NamesALine.mainLost : NamesALine.Statement .mainLost := NamesALine.none_named rfl
theorem NamesALine.vloopStep : ∀ x0, NamesALine.Statement (.vloopStep x0) := fun _ => NamesALine.none_named rfl
theorem NamesALine.gateUpdate : ∀ x0, NamesALine.Statement (.gateUpdate x0) := fun _ => NamesALine.none_named rfl
theorem NamesALine.presence : ∀ x0, NamesALine.Statement (.presence x0) := fun _ => NamesALine.none_named rfl
theorem NamesALine.presenceStrapped : NamesALine.Statement .presenceStrapped := NamesALine.none_named rfl
theorem NamesALine.presenceWindowExpiry : NamesALine.Statement .presenceWindowExpiry := NamesALine.none_named rfl
theorem NamesALine.sealSample : ∀ x0, NamesALine.Statement (.sealSample x0) := fun _ => NamesALine.none_named rfl
theorem NamesALine.fwStageTimeout : NamesALine.Statement .fwStageTimeout := NamesALine.none_named rfl
theorem NamesALine.entdaa : ∀ x0, NamesALine.Statement (.entdaa x0) := fun _ => NamesALine.none_named rfl
theorem NamesALine.setnewda : ∀ x0, NamesALine.Statement (.setnewda x0) := fun _ => NamesALine.none_named rfl
theorem NamesALine.getpid : NamesALine.Statement .getpid := NamesALine.none_named rfl
theorem NamesALine.getbcr : NamesALine.Statement .getbcr := NamesALine.none_named rfl
theorem NamesALine.getdcr : NamesALine.Statement .getdcr := NamesALine.none_named rfl
theorem NamesALine.getstatus : NamesALine.Statement .getstatus := NamesALine.none_named rfl
theorem NamesALine.getmwl : NamesALine.Statement .getmwl := NamesALine.none_named rfl
theorem NamesALine.getmrl : NamesALine.Statement .getmrl := NamesALine.none_named rfl
theorem NamesALine.rstdaa : NamesALine.Statement .rstdaa := NamesALine.none_named rfl
theorem NamesALine.setEndpointId : ∀ x0 x1, NamesALine.Statement (.setEndpointId x0 x1) := fun _ _ => NamesALine.none_named rfl
theorem NamesALine.getEndpointId : NamesALine.Statement .getEndpointId := NamesALine.none_named rfl
theorem NamesALine.getEndpointUuid : NamesALine.Statement .getEndpointUuid := NamesALine.none_named rfl
theorem NamesALine.getMctpVersionSupport : ∀ x0, NamesALine.Statement (.getMctpVersionSupport x0) := fun _ => NamesALine.none_named rfl
theorem NamesALine.getMessageTypeSupport : NamesALine.Statement .getMessageTypeSupport := NamesALine.none_named rfl
theorem NamesALine.getVendorDefinedMsgSupport : ∀ x0, NamesALine.Statement (.getVendorDefinedMsgSupport x0) := fun _ => NamesALine.none_named rfl
theorem NamesALine.getPdrRepositoryInfo : NamesALine.Statement .getPdrRepositoryInfo := NamesALine.none_named rfl
theorem NamesALine.getPdr : ∀ x0, NamesALine.Statement (.getPdr x0) := fun _ => NamesALine.none_named rfl
theorem NamesALine.getSensorReading : ∀ x0 x1, NamesALine.Statement (.getSensorReading x0 x1) := fun _ _ => NamesALine.none_named rfl
theorem NamesALine.getStateSensorReadings : ∀ x0, NamesALine.Statement (.getStateSensorReadings x0) := fun _ => NamesALine.none_named rfl
theorem NamesALine.setEventReceiver : ∀ x0, NamesALine.Statement (.setEventReceiver x0) := fun _ => NamesALine.none_named rfl
theorem NamesALine.platformEventMessage : ∀ x0 x1, NamesALine.Statement (.platformEventMessage x0 x1) := fun _ _ => NamesALine.none_named rfl
theorem NamesALine.wave : ∀ x0 x1 x2 x3, NamesALine.Statement (.wave x0 x1 x2 x3) := fun _ _ _ _ => NamesALine.none_named rfl
theorem NamesALine.weightRowLoad : ∀ x0 x1 x2, NamesALine.Statement (.weightRowLoad x0 x1 x2) := fun _ _ _ => NamesALine.none_named rfl
theorem NamesALine.broadcastRow : ∀ x0 x1, NamesALine.Statement (.broadcastRow x0 x1) := fun _ _ => NamesALine.none_named rfl
theorem NamesALine.tie : ∀ x0, NamesALine.Statement (.tie x0) := fun _ => NamesALine.none_named rfl
theorem NamesALine.tieForced : ∀ x0, NamesALine.Statement (.tieForced x0) := fun _ => NamesALine.none_named rfl
theorem NamesALine.leafRateWindow : ∀ x0 x1 x2 x3, NamesALine.Statement (.leafRateWindow x0 x1 x2 x3) := fun _ _ _ _ => NamesALine.none_named rfl
theorem NamesALine.nop : ∀ x0, NamesALine.Statement (.nop x0) := fun _ => NamesALine.none_named rfl
theorem NamesALine.mm : ∀ x0 x1, NamesALine.Statement (.mm x0 x1) := fun _ _ => NamesALine.none_named rfl
theorem NamesALine.ew : ∀ x0, NamesALine.Statement (.ew x0) := fun _ => NamesALine.none_named rfl
theorem NamesALine.row : ∀ x0, NamesALine.Statement (.row x0) := fun _ => NamesALine.none_named rfl
theorem NamesALine.gather : ∀ x0, NamesALine.Statement (.gather x0) := fun _ => NamesALine.none_named rfl
theorem NamesALine.scatter : ∀ x0, NamesALine.Statement (.scatter x0) := fun _ => NamesALine.none_named rfl
theorem NamesALine.root : ∀ x0, NamesALine.Statement (.root x0) := fun _ => NamesALine.none_named rfl
theorem NamesALine.strokeDone : ∀ x0, NamesALine.Statement (.strokeDone x0) := fun _ => NamesALine.none_named rfl
theorem NamesALine.tableWait : ∀ x0, NamesALine.Statement (.tableWait x0) := fun _ => NamesALine.none_named rfl
theorem NamesALine.copy : ∀ x0, NamesALine.Statement (.copy x0) := fun _ => NamesALine.none_named rfl
theorem NamesALine.fill : ∀ x0, NamesALine.Statement (.fill x0) := fun _ => NamesALine.none_named rfl
theorem NamesALine.tableLoad : ∀ x0, NamesALine.Statement (.tableLoad x0) := fun _ => NamesALine.none_named rfl
theorem NamesALine.slotSet : ∀ x0, NamesALine.Statement (.slotSet x0) := fun _ => NamesALine.none_named rfl
theorem NamesALine.intakeTake : ∀ x0, NamesALine.Statement (.intakeTake x0) := fun _ => NamesALine.none_named rfl
theorem NamesALine.takeWait : ∀ x0, NamesALine.Statement (.takeWait x0) := fun _ => NamesALine.none_named rfl
theorem NamesALine.dmaDone : ∀ x0, NamesALine.Statement (.dmaDone x0) := fun _ => NamesALine.none_named rfl
theorem NamesALine.actReplay : ∀ x0, NamesALine.Statement (.actReplay x0) := fun _ => NamesALine.none_named rfl
theorem NamesALine.replayRestart : ∀ x0, NamesALine.Statement (.replayRestart x0) := fun _ => NamesALine.none_named rfl
theorem NamesALine.qwrite : ∀ x0, NamesALine.Statement (.qwrite x0) := fun _ => NamesALine.none_named rfl
theorem NamesALine.qadd : ∀ x0, NamesALine.Statement (.qadd x0) := fun _ => NamesALine.none_named rfl
theorem NamesALine.qmcast : ∀ x0, NamesALine.Statement (.qmcast x0) := fun _ => NamesALine.none_named rfl
theorem NamesALine.update : ∀ x0, NamesALine.Statement (.update x0) := fun _ => NamesALine.none_named rfl
theorem NamesALine.sparseUpdate : ∀ x0, NamesALine.Statement (.sparseUpdate x0) := fun _ => NamesALine.none_named rfl
theorem NamesALine.stepSizeStale : NamesALine.Statement .stepSizeStale := NamesALine.none_named rfl
theorem NamesALine.nibBarrier : NamesALine.Statement .nibBarrier := NamesALine.none_named rfl
theorem NamesALine.stepEnd : NamesALine.Statement .stepEnd := NamesALine.none_named rfl
theorem NamesALine.stepTimeout : NamesALine.Statement .stepTimeout := NamesALine.none_named rfl
theorem NamesALine.confirmHold : NamesALine.Statement .confirmHold := NamesALine.none_named rfl
theorem NamesALine.lineRead : ∀ x0 x1, NamesALine.Statement (.lineRead x0 x1) := by
  intro x0 x1 hw a ha
  simp [wellFormed, addrOk, lineAddress, decodedEnd] at hw ha ⊢
  omega
theorem NamesALine.lineWrite : ∀ x0 x1 x2, NamesALine.Statement (.lineWrite x0 x1 x2) := by
  intro x0 x1 x2 hw a ha
  simp [wellFormed, addrOk, lineAddress, decodedEnd] at hw ha ⊢
  omega
theorem NamesALine.mergeWrite : ∀ x0 x1, NamesALine.Statement (.mergeWrite x0 x1) := by
  intro x0 x1 hw a ha
  simp [wellFormed, addrOk, lineAddress, decodedEnd] at hw ha ⊢
  omega
theorem NamesALine.exactAdd : ∀ x0 x1 x2 x3, NamesALine.Statement (.exactAdd x0 x1 x2 x3) := by
  intro x0 x1 x2 x3 hw a ha
  simp [wellFormed, addrOk, lineAddress, decodedEnd] at hw ha ⊢
  omega
theorem NamesALine.resWait : ∀ x0, NamesALine.Statement (.resWait x0) := fun _ => NamesALine.none_named rfl
theorem NamesALine.fetchAdd : ∀ x0 x1, NamesALine.Statement (.fetchAdd x0 x1) := by
  intro x0 x1 hw a ha
  simp [wellFormed, addrOk, lineAddress, decodedEnd] at hw ha ⊢
  omega
theorem NamesALine.swap : ∀ x0 x1, NamesALine.Statement (.swap x0 x1) := by
  intro x0 x1 hw a ha
  simp [wellFormed, addrOk, lineAddress, decodedEnd] at hw ha ⊢
  omega
theorem NamesALine.cmpSwap : ∀ x0 x1 x2, NamesALine.Statement (.cmpSwap x0 x1 x2) := by
  intro x0 x1 x2 hw a ha
  simp [wellFormed, addrOk, lineAddress, decodedEnd] at hw ha ⊢
  omega
theorem NamesALine.maxU : ∀ x0 x1, NamesALine.Statement (.maxU x0 x1) := by
  intro x0 x1 hw a ha
  simp [wellFormed, addrOk, lineAddress, decodedEnd] at hw ha ⊢
  omega
theorem NamesALine.minU : ∀ x0 x1, NamesALine.Statement (.minU x0 x1) := by
  intro x0 x1 hw a ha
  simp [wellFormed, addrOk, lineAddress, decodedEnd] at hw ha ⊢
  omega
theorem NamesALine.sbdWriteback : ∀ x0, NamesALine.Statement (.sbdWriteback x0) := by
  intro x0 hw a ha
  simp [wellFormed, addrOk, lineAddress, decodedEnd] at hw ha ⊢
  omega
theorem NamesALine.grantSlot : ∀ x0 x1, NamesALine.Statement (.grantSlot x0 x1) := fun _ _ => NamesALine.none_named rfl
theorem NamesALine.bgUrgent : ∀ x0 x1, NamesALine.Statement (.bgUrgent x0 x1) := fun _ _ => NamesALine.none_named rfl
theorem NamesALine.bgOverdue : ∀ x0 x1, NamesALine.Statement (.bgOverdue x0 x1) := fun _ _ => NamesALine.none_named rfl
theorem NamesALine.refresh : ∀ x0 x1, NamesALine.Statement (.refresh x0 x1) := fun _ _ => NamesALine.none_named rfl
theorem NamesALine.refreshRateRead : ∀ x0 x1 x2, NamesALine.Statement (.refreshRateRead x0 x1 x2) := fun _ _ _ => NamesALine.none_named rfl
theorem NamesALine.scrubPass : ∀ x0 x1, NamesALine.Statement (.scrubPass x0 x1) := fun _ _ => NamesALine.none_named rfl
theorem NamesALine.scrubLine : ∀ x0, NamesALine.Statement (.scrubLine x0) := fun _ => NamesALine.none_named rfl
theorem NamesALine.scrubLate : ∀ x0, NamesALine.Statement (.scrubLate x0) := fun _ => NamesALine.none_named rfl
theorem NamesALine.eyeSample : ∀ x0 x1, NamesALine.Statement (.eyeSample x0 x1) := fun _ _ => NamesALine.none_named rfl
theorem NamesALine.prepare : ∀ x0 x1, NamesALine.Statement (.prepare x0 x1) := fun _ _ => NamesALine.none_named rfl
theorem NamesALine.migrate : ∀ x0 x1, NamesALine.Statement (.migrate x0 x1) := fun _ _ => NamesALine.none_named rfl
theorem NamesALine.retraining : ∀ x0 x1 x2, NamesALine.Statement (.retraining x0 x1 x2) := fun _ _ _ => NamesALine.none_named rfl
theorem NamesALine.pauseSlice : ∀ x0 x1 x2, NamesALine.Statement (.pauseSlice x0 x1 x2) := fun _ _ _ => NamesALine.none_named rfl
theorem NamesALine.hardFail : ∀ x0 x1, NamesALine.Statement (.hardFail x0 x1) := fun _ _ => NamesALine.none_named rfl
theorem NamesALine.rebuild : ∀ x0, NamesALine.Statement (.rebuild x0) := fun _ => NamesALine.none_named rfl
theorem NamesALine.portTrain : ∀ x0 x1, NamesALine.Statement (.portTrain x0 x1) := fun _ _ => NamesALine.none_named rfl
theorem NamesALine.qHello : ∀ x0 x1 x2 x3 x4 x5, NamesALine.Statement (.qHello x0 x1 x2 x3 x4 x5) := fun _ _ _ _ _ _ => NamesALine.none_named rfl
theorem NamesALine.qEqAdapt : ∀ x0 x1 x2, NamesALine.Statement (.qEqAdapt x0 x1 x2) := fun _ _ _ => NamesALine.none_named rfl
theorem NamesALine.qRetrain : ∀ x0 x1 x2, NamesALine.Statement (.qRetrain x0 x1 x2) := fun _ _ _ => NamesALine.none_named rfl
theorem NamesALine.qLinkDown : ∀ x0 x1, NamesALine.Statement (.qLinkDown x0 x1) := fun _ _ => NamesALine.none_named rfl
theorem NamesALine.handover : ∀ x0 x1, NamesALine.Statement (.handover x0 x1) := fun _ _ => NamesALine.none_named rfl
theorem NamesALine.ackTimeout : ∀ x0 x1, NamesALine.Statement (.ackTimeout x0 x1) := fun _ _ => NamesALine.none_named rfl
theorem NamesALine.ackSend : ∀ x0 x1, NamesALine.Statement (.ackSend x0 x1) := fun _ _ => NamesALine.none_named rfl
theorem NamesALine.ack : ∀ x0, NamesALine.Statement (.ack x0) := fun _ => NamesALine.none_named rfl
theorem NamesALine.qFrameWrite : ∀ x0, NamesALine.Statement (.qFrameWrite x0) := fun _ => NamesALine.none_named rfl
theorem NamesALine.qFrameAdd : ∀ x0, NamesALine.Statement (.qFrameAdd x0) := fun _ => NamesALine.none_named rfl
theorem NamesALine.qFrameMcast : ∀ x0, NamesALine.Statement (.qFrameMcast x0) := fun _ => NamesALine.none_named rfl
theorem NamesALine.qFrameClose : ∀ x0, NamesALine.Statement (.qFrameClose x0) := fun _ => NamesALine.none_named rfl
theorem NamesALine.delivery : ∀ x0 x1 x2 x3 x4, NamesALine.Statement (.delivery x0 x1 x2 x3 x4) := fun _ _ _ _ _ => NamesALine.none_named rfl
theorem NamesALine.report : ∀ x0, NamesALine.Statement (.report x0) := fun _ => NamesALine.none_named rfl
theorem NamesALine.readReq : ∀ x0, NamesALine.Statement (.readReq x0) := fun _ => NamesALine.none_named rfl
theorem NamesALine.readResp : ∀ x0, NamesALine.Statement (.readResp x0) := fun _ => NamesALine.none_named rfl
theorem NamesALine.pair : ∀ x0, NamesALine.Statement (.pair x0) := fun _ => NamesALine.none_named rfl
theorem NamesALine.map : ∀ x0, NamesALine.Statement (.map x0) := fun _ => NamesALine.none_named rfl
theorem NamesALine.rideCopy : ∀ x0, NamesALine.Statement (.rideCopy x0) := fun _ => NamesALine.none_named rfl
theorem NamesALine.echo : ∀ x0, NamesALine.Statement (.echo x0) := fun _ => NamesALine.none_named rfl
theorem NamesALine.input : ∀ x0, NamesALine.Statement (.input x0) := fun _ => NamesALine.none_named rfl
theorem NamesALine.mark : ∀ x0, NamesALine.Statement (.mark x0) := fun _ => NamesALine.none_named rfl
theorem NamesALine.gasp : ∀ x0, NamesALine.Statement (.gasp x0) := fun _ => NamesALine.none_named rfl
theorem NamesALine.gaspTimeout : ∀ x0, NamesALine.Statement (.gaspTimeout x0) := fun _ => NamesALine.none_named rfl
theorem NamesALine.riskSample : NamesALine.Statement .riskSample := NamesALine.none_named rfl
theorem NamesALine.fragment : ∀ x0 x1 x2 x3, NamesALine.Statement (.fragment x0 x1 x2 x3) := fun _ _ _ _ => NamesALine.none_named rfl
theorem NamesALine.gap : ∀ x0 x1 x2 x3, NamesALine.Statement (.gap x0 x1 x2 x3) := fun _ _ _ _ => NamesALine.none_named rfl
theorem NamesALine.intakePause : NamesALine.Statement .intakePause := NamesALine.none_named rfl
theorem NamesALine.intakeRttSample : ∀ x0 x1, NamesALine.Statement (.intakeRttSample x0 x1) := fun _ _ => NamesALine.none_named rfl
theorem NamesALine.intakeThreshMove : NamesALine.Statement .intakeThreshMove := NamesALine.none_named rfl
theorem NamesALine.datagramDrop : ∀ x0, NamesALine.Statement (.datagramDrop x0) := fun _ => NamesALine.none_named rfl
theorem NamesALine.badFrame : ∀ x0 x1 x2, NamesALine.Statement (.badFrame x0 x1 x2) := fun _ _ _ => NamesALine.none_named rfl
theorem NamesALine.pfcFrame : ∀ x0 x1 x2, NamesALine.Statement (.pfcFrame x0 x1 x2) := fun _ _ _ => NamesALine.none_named rfl
theorem NamesALine.messagingControlAndDiscovery : ∀ x0, NamesALine.Statement (.messagingControlAndDiscovery x0) := fun _ => NamesALine.none_named rfl
theorem NamesALine.mainRailFault : NamesALine.Statement .mainRailFault := NamesALine.none_named rfl

end Sys2Proof.Laws
end

