-- ==== Sys2Proof/Laws/Regs.lean ====
section
/-! SUPPORT. Registers and fields: what a write of one leaves in it and in the others. The laws ask that the register window be
in its canonical form. -/
namespace Sys2Proof.Machine

/-! ## Bit fields -/

/-- A field read back after a write of it. -/
theorem bits_setBits {v hi lo f : Nat} (h : lo ≤ hi) : bits (setBits v hi lo f) hi lo = f % 2 ^ (hi + 1 - lo) := by
  unfold bits setBits
  have hp : 2 ^ (hi + 1) = 2 ^ lo * 2 ^ (hi + 1 - lo) := by rw [← pow_add]; congr 1; omega
  have hlt : v % 2 ^ lo < 2 ^ lo := Nat.mod_lt _ (by positivity)
  have hpos : 0 < 2 ^ lo := by positivity
  rw [hp]
  have : v / (2 ^ lo * 2 ^ (hi + 1 - lo)) * (2 ^ lo * 2 ^ (hi + 1 - lo)) + f % 2 ^ (hi + 1 - lo) * 2 ^ lo + v % 2 ^ lo
      = v % 2 ^ lo + 2 ^ lo * (f % 2 ^ (hi + 1 - lo) + 2 ^ (hi + 1 - lo) * (v / (2 ^ lo * 2 ^ (hi + 1 - lo)))) := by ring
  rw [this, Nat.add_mul_div_left _ _ hpos, Nat.div_eq_of_lt hlt, Nat.zero_add, Nat.add_mul_mod_self_left, Nat.mod_mod]

/-- A field is a stretch of bits. -/
theorem testBit_bits (v hi lo i : Nat) : (bits v hi lo).testBit i = (decide (i < hi + 1 - lo) && v.testBit (lo + i)) := by
  unfold bits
  rw [Nat.testBit_mod_two_pow, Nat.testBit_div_two_pow, Nat.add_comm i lo]

/-- What `setBits` leaves in each bit. -/
theorem testBit_setBits {v hi lo f i : Nat} (h : lo ≤ hi) :
    (setBits v hi lo f).testBit i = if lo ≤ i ∧ i ≤ hi then f.testBit (i - lo) else v.testBit i := by
  have hx : setBits v hi lo f = 2 ^ (hi + 1) * (v / 2 ^ (hi + 1)) + (2 ^ lo * (f % 2 ^ (hi + 1 - lo)) + v % 2 ^ lo) := by
    unfold setBits; ring
  have hlt : v % 2 ^ lo < 2 ^ lo := Nat.mod_lt _ (by positivity)
  have hf : f % 2 ^ (hi + 1 - lo) < 2 ^ (hi + 1 - lo) := Nat.mod_lt _ (by positivity)
  have hp : 2 ^ (hi + 1) = 2 ^ lo * 2 ^ (hi + 1 - lo) := by rw [← pow_add]; congr 1; omega
  have hb : 2 ^ lo * (f % 2 ^ (hi + 1 - lo)) + v % 2 ^ lo < 2 ^ (hi + 1) := by
    rw [hp]
    calc 2 ^ lo * (f % 2 ^ (hi + 1 - lo)) + v % 2 ^ lo < 2 ^ lo * (f % 2 ^ (hi + 1 - lo)) + 2 ^ lo * 1 := by omega
      _ = 2 ^ lo * (f % 2 ^ (hi + 1 - lo) + 1) := by ring
      _ ≤ 2 ^ lo * 2 ^ (hi + 1 - lo) := Nat.mul_le_mul_left _ hf
  rw [hx, Nat.testBit_two_pow_mul_add _ hb, Nat.testBit_two_pow_mul_add _ hlt, Nat.testBit_mod_two_pow, Nat.testBit_mod_two_pow,
    Nat.testBit_div_two_pow]
  by_cases h1 : i < hi + 1
  · by_cases h2 : i < lo
    · have : ¬ (lo ≤ i ∧ i ≤ hi) := by omega
      simp [h1, h2, this]
    · have : lo ≤ i ∧ i ≤ hi := by omega
      have h3 : i - lo < hi + 1 - lo := by omega
      simp [h1, h2, this, h3]
  · have h2 : ¬ i < lo := by omega
    have : ¬ (lo ≤ i ∧ i ≤ hi) := by omega
    have h3 : i - (hi + 1) + (hi + 1) = i := by omega
    simp [h1, this, h3]

/-- A field untouched by a write of another one. -/
theorem bits_setBits_other {v hi lo f a b : Nat} (h : lo ≤ hi) (hd : a < lo ∨ hi < b) :
    bits (setBits v hi lo f) a b = bits v a b := by
  apply Nat.eq_of_testBit_eq
  intro i
  rw [testBit_bits, testBit_bits, testBit_setBits h]
  by_cases hi' : i < a + 1 - b
  · have : ¬ (lo ≤ b + i ∧ b + i ≤ hi) := by omega
    simp [this]
  · simp [hi']

/-! ## Registers -/

/-- Every write of a register keeps the window canonical. -/
theorem setReg_ok {s : State} {a v : Nat} (h : s.RegsCanonical) : (s.setReg a v).RegsCanonical := spWf_spSet h

/-- Every write of a field keeps the window canonical. -/
theorem put_ok {s : State} {f : Fld} {v : Nat} (h : s.RegsCanonical) : (s.put f v).RegsCanonical := spWf_spSet h

/-- A register read back after a write of one. -/
theorem reg_setReg {s : State} {a b v : Nat} (h : s.RegsCanonical) : (s.setReg a v).reg b = if b = a then v % 2 ^ 32 else s.reg b := by
  unfold State.reg State.setReg
  simp only [spGet_spSet (spWf_iff.1 h).1]
  split <;> simp

/-- A field read back after a write of it. -/
theorem get_put_same {s : State} {f : Fld} {v : Nat} (h : s.RegsCanonical) (hl : f.lo ≤ f.hi) (hh : f.hi < 32) :
    (s.put f v).get f = v % 2 ^ (f.hi + 1 - f.lo) := by
  unfold State.get State.put
  rw [reg_setReg h, if_pos rfl, ← bits_setBits (v := s.reg f.addr) (f := v) hl]
  apply Nat.eq_of_testBit_eq
  intro i
  rw [testBit_bits, testBit_bits, Nat.testBit_mod_two_pow]
  by_cases hi : i < f.hi + 1 - f.lo
  · have : f.lo + i < 32 := by omega
    simp [this]
  · simp [hi]

/-- A field of another register, or of other bits, after a write of one. -/
theorem get_put_other {s : State} {f g : Fld} {v : Nat} (h : s.RegsCanonical) (hl : f.lo ≤ f.hi) (hg : g.hi < 32)
    (hd : f.addr ≠ g.addr ∨ g.hi < f.lo ∨ f.hi < g.lo) : (s.put f v).get g = s.get g := by
  unfold State.get State.put
  rw [reg_setReg h]
  split
  · next ha =>
    have hd' : g.hi < f.lo ∨ f.hi < g.lo := by rcases hd with hd | hd; exact absurd ha.symm hd; exact hd
    rw [← ha, ← bits_setBits_other (v := s.reg g.addr) (f := v) hl hd']
    apply Nat.eq_of_testBit_eq
    intro i
    rw [testBit_bits, testBit_bits, Nat.testBit_mod_two_pow]
    by_cases hi : i < g.hi + 1 - g.lo
    · have : g.lo + i < 32 := by omega
      simp [this]
    · simp [hi]
  · rfl

/-- A register of another address after a write of a field. -/
theorem reg_put_other {s : State} {f : Fld} {v a : Nat} (h : s.RegsCanonical) (ha : a ≠ f.addr) : (s.put f v).reg a = s.reg a := by
  unfold State.put; rw [reg_setReg h, if_neg ha]

/-! ## Counters touch their own block alone -/

/-- A register outside the CNT block. -/
def outsideCnt (a : Nat) : Prop := a < 0x40000 ∨ 0x50000 ≤ a

/-- A counter's addition keeps the window canonical. -/
theorem addCounter_ok {s : State} {k n : Nat} (h : s.RegsCanonical) : (s.addCounter k n).RegsCanonical := by
  unfold State.addCounter State.put2
  dsimp only
  (repeat' split) <;> first | exact put_ok (put_ok h) | exact setReg_ok (put_ok (put_ok h))

/-- A counter's addition leaves the registers of other blocks alone. -/
theorem addCounter_reg {s : State} {k n a : Nat} (h : s.RegsCanonical) (hk : k < 64) (ha : outsideCnt a) :
    (s.addCounter k n).reg a = s.reg a := by
  have h1 : a ≠ (CNT_VAL_LO_VALUE_LO k).addr := by unfold outsideCnt at ha; simp only [CNT_VAL_LO_VALUE_LO]; omega
  have h2 : a ≠ (CNT_VAL_HI_VALUE_HI k).addr := by unfold outsideCnt at ha; simp only [CNT_VAL_HI_VALUE_HI]; omega
  have h3 : a ≠ 0x40008 := by unfold outsideCnt at ha; omega
  have h4 : a ≠ 0x4000C := by unfold outsideCnt at ha; omega
  unfold State.addCounter State.put2
  dsimp only
  (repeat' split) <;> simp only [reg_setReg (put_ok (put_ok h)), reg_put_other (put_ok h) h2, reg_put_other h h1, h3, h4, if_false]

/-- Counting an event keeps the window canonical and leaves the registers of other blocks alone. -/
theorem countAt_ok_reg {s : State} {c n : Nat} {i : Inst} (h : s.RegsCanonical) :
    (s.countAt c i n).RegsCanonical ∧ ∀ a, outsideCnt a → (s.countAt c i n).reg a = s.reg a := by
  have hs : ∀ k ∈ s.countersOf c i false, k < 64 := by
    intro k hk
    unfold State.countersOf at hk
    split at hk
    · exact List.mem_range.1 (List.mem_filter.1 hk).1
    · simp at hk
  have hr : (s.riskNote c n).regs = s.regs := riskNote_regs s c n
  unfold State.countAt
  generalize s.countersOf c i false = l at hs
  have key : ∀ (l : List Nat) (t : State), (∀ k ∈ l, k < 64) → t.RegsCanonical →
      (l.foldl (fun s k => s.addCounter k n) t).RegsCanonical ∧
        ∀ a, outsideCnt a → (l.foldl (fun s k => s.addCounter k n) t).reg a = t.reg a := by
    intro l
    induction l with
    | nil => intro t _ ht; exact ⟨ht, fun _ _ => rfl⟩
    | cons k l ih =>
      intro t hl ht
      obtain ⟨h1, h2⟩ := ih (t.addCounter k n) (fun j hj => hl j (by simp [hj])) (addCounter_ok ht)
      exact ⟨h1, fun a ha => (h2 a ha).trans (addCounter_reg ht (hl k (by simp)) ha)⟩
  obtain ⟨h1, h2⟩ := key l (s.riskNote c n) hs (by unfold State.RegsCanonical; rw [hr]; exact h)
  exact ⟨h1, fun a ha => (h2 a ha).trans (by unfold State.reg; rw [hr])⟩

end Sys2Proof.Machine
end

