-- ==== Sys2Proof/Tests/Slice0.lean ====
section
/-! SUPPORT. Own tests: ill-formed terms that the check refuses, worked values of the spec, and for each statement with
hypotheses a theorem that shows states and operands which meet all of them together. -/
namespace Sys2Proof.Tests
set_option Elab.async false
open Sys2Proof Sys2Proof.Machine

/-! ## States for the tests -/

/-- Fields set. -/
def lit (fs : List (Fld × Nat)) (s : State) : State := fs.foldl (fun s x => s.put x.1 x.2) s

/-- The module in service: main side on, both host ports up, an owner and a side-band endpoint with a session each,
presence open, every unit that START needs (R426) and the risk estimator enabled. -/
def up : State :=
    { State.reset with
      regs := [(0xC, 8), (0x50000, 0x3C07), (0x80000, 1), (0x90000, 1), (0xA0000, 1), (0xB0000, 1), (0xC0000, 5)]
        ++ (List.range 16).map (fun c => (0x100000 + 0x10000 * c, (0x100407 : Word)))
        ++ (List.range 16).map (fun c => (0x200000 + 0x10000 * c, (1 : Word)))
        ++ [(0x480000, 0x88b50001), (0x490004, 1), (0x4A0004, 1), (0x4B0000, 0xb8e10009), (0x4C0000, 7)]
      time := 10 ^ 15
      pins := { pwrEn := true, resetN := true }
      power := { State.reset.power with standby := true, main := .on, mainOk := true, vinMv := 48000 }
      flash := { State.reset.flash with owner := some (1, 0) }
      esc := { State.reset.esc with ready := true, i3cAddr := some 8, eid := some 9, windowEnd := some (10 ^ 15 + 1) }
      chembe := { State.reset.chembe with sessions := [⟨.host 0 1 2, 5, 0, [], [], 0⟩, ⟨.side 9, 6, 0, [], [], 0⟩] } }

/-- A command of the owner, and one of the side-band endpoint. -/
def hh : Hdr := ⟨.host 0 1 2, 1, 1, 7, 5, 0, true, true, {}⟩
def sh : Hdr := ⟨.side 9, 1, 1, 7, 6, 0, true, true, {}⟩

/-- A job state. -/
def job (v : Nat) (s : State) : State := s.setJobState v

/-- A folio of given sections. -/
def fol (secs : List Section) : Folio := ⟨zeros 128, secs, zeros 32, []⟩

/-- A descriptor of a kind, with bytes at an offset. -/
def dsc (kind o : Nat) (bs : List Byte) : Desc := patch (patch (zeros 64) 0 (le 1 kind)) o bs

/-- The list of an engine. -/
def lst (eng : Nat) (ds : List Desc) : Section := ⟨6, eng, ds.length, ds.flatten⟩

/-- Tensor 1: eight lines of local DRAM at 0. -/
def ten : List Byte := patch (patch (zeros 64) 0 (le 2 1)) 0x30 (le 8 1024)
def tens : Section := ⟨1, 0, 1, ten⟩

/-- A running step of a folio. -/
def running (secs : List Section) : State :=
  { job jsRunning up with folio := some (fol secs), run := { Run.empty with stepOn := true, stepStart := 10 ^ 15 } }

/-- A module with a folio loaded. -/
def loaded (secs : List Section) : State := { job jsLoaded up with folio := some (fol secs) }

/-- An engine's phase. -/
def at' (c : Nat) (p : Phase) (s : State) : State := s.setPhase c p

/-- Quill port 0 up with its channel, role 0 held here. -/
def chan : Chan := { freshChan 0 0 0 40 40 with credit0 := 10, credit1 := 10 }
def linked (s : State) : State :=
  let s := lit [(QPT_STATUS_LINK_UP 0, 1)] s
  { s with quill := { s.quill with chans := [chan], bank0 := le 8 (2 ^ 31) } }

/-- A Quill header to role 0 and a frame on port 0. -/
def qh : QHdr := ⟨1, false, false, false, false, false, true, 1, 0, 0, 0, 0, 0, 0, 0, 0, 1, 0⟩
def ctl : QFrame := ⟨0, 0, false, true, true, 0, qh, []⟩
def one : QFrame := { ctl with h := { qh with lines := 1 }, payload := zeros 128 }
def add : QFrame := { one with h := { qh with lines := 1, fmt := 1 } }

/-- A region that peers may write, at 0. -/
def remote : Section := ⟨2, 0, 1, patch (zeros 16) 8 (le 4 1 ++ [0, 1])⟩

/-- The partner record: partner 2, ward 1, shadow region at 2^40. -/
def partner : Section := ⟨10, 0, 1, le 2 2 ++ le 2 1 ++ zeros 4 ++ le 8 (2 ^ 40) ++ le 8 (2 ^ 30)⟩

/-- A partner that follows its ward. -/
def following : State := lit [(SVL_CTRL_WARD_EN, 1), (SVL_STATUS_WARD_FOLLOW, 1)] (linked (running [partner]))

/-- Line 0 held in its slice with an outcome. -/
def held (o : LineOutcome) (dirty : Bool) : State :=
  { up with sbd := { up.sbd with lines := [⟨0, zeros 128, o, dirty⟩] } }
def line (o : LineOutcome) : SLine := ⟨0, zeros 128, o, false⟩

/-- Cabinet 0 changed. -/
def cab (f : Cab → Cab) (s : State) : State := s.setCab 0 f

/-- A Leaf that waves. -/
def busyLeaf : Leaf := { Leaf.parked with level := 8 }
def waving (l : Leaf) : State := { up with leaves := l :: up.leaves.drop 1 }
def laneRow : LaneRow := ⟨[], [], []⟩
def row : FeedRow := ⟨[some laneRow], false⟩

/-- A Leaf whose first lane has `n` rows in its Feed. -/
def fedLeaf (n : Nat) : Leaf :=
  { Leaf.parked with level := 8, lanes := ⟨List.replicate n ⟨false, some laneRow⟩, 0, []⟩ :: List.replicate 3 ⟨[], 0, []⟩ }

/-- An intake header of one fragment. -/
def ih : IntakeHdr := ⟨0x4B544E49, 1, 0, 0, 0, 16, 1, 0, 1, 0⟩
def gh : IntakeHdr := ⟨0x4B544E49, 1, 1, 0, 0, 0, 0, 0, 1, 0⟩

/-- A gasp under way, and a frame to acknowledge. -/
def gasp : GaspRun := ⟨0, 0, 0⟩
def txf : TxFrame := ⟨1, qh, [], 0⟩
def rec0 : Rec := Rec.zero

/-- A folio that the loader accepts: one Inkwell tensor and a NOP. -/
def image : List Byte :=
  [0x46, 0x4F, 0x4C, 0x49, 0, 2, 0, 0, 2] ++ zeros 7 ++ [0xC0] ++ zeros 15 ++
  [1, 0, 0, 0, 1, 0, 0, 0, 0x40, 0, 0, 0, 0, 0, 0, 0, 6, 0x10, 0, 0, 1, 0, 0, 0, 0x80, 0, 0, 0, 0, 0, 0, 0] ++
  [1, 0, 1, 1, 1, 0, 0xFF, 0xFF] ++ zeros 16 ++ [1, 0, 0, 0, 1, 0, 0, 0, 1, 0, 0, 0, 1, 0, 0, 0, 1, 0, 0, 0, 0, 0, 0, 0, 4] ++ zeros 79

/-! ## States for single statements -/

/-- The image in the staging area. -/
def staged : State :=
  { up with sbd := { up.sbd with lines := [⟨stagingBase, image.take 128, .good, false⟩, ⟨stagingBase + 128, fit 128 (image.drop 128), .good, false⟩] } }
def stagedRead : State × List Byte × Nat := (staged.admitted hh).readRange stagingBase 192 false
theorem stagedRead_eq : (staged.admitted hh).readRange stagingBase 192 false = (stagedRead.1, stagedRead.2.1, stagedRead.2.2) := by
  unfold stagedRead; simp only [Prod.mk.eta]
theorem staged_closed : (staged.admitted hh).sbd.openLines = [] := by decide +kernel

/-- The image is accepted. -/
theorem staged_right : (loadImage stagedRead.2.1 192 (stagedRead.1.setJobState jsLoading).switched
    (stagedRead.1.setJobState jsLoading).flash.config.quillPorts
    ((stagedRead.1.setJobState jsLoading).get PWR_STRAPS_FEED_ID)).isRight = true := by decide +kernel

/-- A Leaf that takes its sums from the chain of Leaf 3, with one row in that link. -/
def chained : Leaf := { fedLeaf 1 with chainIn := true }
def linking : Leaf := { Leaf.parked with chainOut := true, link := [[[1]]] }
def chainOfTwo : State := { up with leaves := chained :: Leaf.parked :: Leaf.parked :: linking :: up.leaves.drop 4 }

/-- A queue with one sent event. -/
def queued (t : Nat) : State :=
  { up with chembe := { up.chembe with host := ⟨[⟨1, 0, 0, [], some 3, none⟩], 4, 2 ^ 64 - 1, t⟩ } }

/-- A deferred command. -/
def deferredUp (op : Nat) (r : Option (Nat × List Byte)) : State :=
  { up with chembe := { up.chembe with deferred := [⟨.host 0 1 2, 5, 1, 7, op, r, 0, 0, 0⟩] } }

/-- A Bench in the directory as role 3, in feed 2. -/
def benched : State :=
  let s := (loaded [partner]).put RSK_STATUS_LEVEL 3
  { s with quill := { s.quill with bank0 := patch (zeros 0x4860) 0x4830 [3, 2] } }

/-- A module with an identity. -/
def wrapped : Identity := ⟨[], zeros 32, shake256 (0x07 :: Config.pufKey [] ++ [] ++ zeros 32) 16, []⟩
def named : State := { up with flash := { up.flash with identity := some wrapped, powerLog := [[1]] } }
def named_seed : List Byte := xorBytes (zeros 32) (shake256 (0x06 :: Config.pufKey [] ++ []) 32)

/-- A list whose only descriptor the loader elided. -/
def elidedFolio (c kind : Nat) : Folio := { fol [lst c [dsc kind 8 []]] with elided := [(c, 0)] }
def elided (c kind : Nat) : State := { running [] with folio := some (elidedFolio c kind) }

/-- A replay whose descriptor's work is done. -/
def replaying (c : Nat) : State :=
  let d := dsc 0x10 8 []
  let save : Section := ⟨8, 0, 1, patch (zeros 16) 0 (le 2 1 ++ zeros 2 ++ [0, 0, 1, 0, 0, 0, 1, 0, 0, 0, 1, 0])⟩
  { running [⟨7, 0, 1, d⟩, ⟨7, 1, 1, d⟩, ⟨7, 0x80, 1, d⟩, save] with
    job := { Job.empty with replays := [⟨1, 0, 0, 0, c, some rec0, some rec0, some rec0⟩] } }

/-- A message still unreported. -/
def sentBefore (secs : List Section) : State :=
  { running secs with quill := { Quill.reset with sent := [⟨7, 0, false, 0, 0, 0, 128, 1⟩] } }

/-- Open lines of Cabinet 0. -/
def opened (n : Nat) : State :=
  { up with sbd := { up.sbd with openLines := (List.range n).map fun i => ⟨lineAt 0 0 i, if n = 1 then 3 else 1, [], false, false⟩ } }

/-- A member of group 0 in a torus. -/
def grouped : State :=
  let s := linked (running [tens, remote])
  { s with quill := { s.quill with bank0 := patch (zeros 0x4008) 0x4000 (le 8 (2 ^ 63 + 2 ^ 31)) } }
def grouped_ : State := ((grouped.linked one).countAt 0xB0 (portInst one.port) 1).notePass qMcast one.h

/-- A partner that holds the ward's map. -/
def mapped : State :=
  { following with svl := { following.svl with wardMap := [(0, zeros 128)] },
                   sbd := { following.sbd with lines := [⟨2 ^ 40 + 0x200000, zeros 128, .good, false⟩] } }

/-- The accepted folio. -/
theorem staged_some : ∃ f, loadImage stagedRead.2.1 192 (stagedRead.1.setJobState jsLoading).switched
    (stagedRead.1.setJobState jsLoading).flash.config.quillPorts
    ((stagedRead.1.setJobState jsLoading).get PWR_STRAPS_FEED_ID) = .inr f := by
  have h := staged_right
  revert h
  generalize loadImage _ _ _ _ _ = r
  cases r with
  | inl e => intro h; cases h
  | inr f => intro _; exact ⟨f, rfl⟩

/-- A triple is made of its parts. -/
theorem triple_eta {α β γ : Type} (x : α × β × γ) : x = (x.1, x.2.1, x.2.2) := rfl

/-- The live identity: the wrapped seed opens, since its tag is the one that R486 gives it. -/
theorem named_live : (named.admitted hh).liveId = some (named_seed, []) := by
  have h : (named.admitted hh).flash.identity = some wrapped := rfl
  unfold State.liveId
  rw [h]
  have hk : (named.admitted hh).pufKey = Config.pufKey [] := rfl
  simp [Identity.seed, wrapped, named_seed, hk]

/-- No engine of a fresh job has ended its work. -/
theorem idle_eng (c : Nat) (r : Rec) : ((running []).eng c).phase ≠ .done r := by
  have h : ∀ e ∈ freshEngines, e.phase = .idle := by decide
  unfold State.eng
  split
  · next e he =>
    have := h e (List.mem_of_find?_eq_some he)
    rw [this]; simp
  · simp

/-- The state after reset is sound. -/
theorem reset_sound : State.reset.Sound := by unfold State.Sound; decide +kernel

theorem met_SessionCommandsAnswer :
    (∃ (s : State) (h : Hdr) (data : List Byte), (s.runs h (opNow 0x0003 false .always) = true) ∧ (data.length ≤ 64)) ∧
    (∃ (s : State) (h : Hdr), (s.runs h (opNow 0x0306 false .always) = true)) ∧
    (∃ (s : State) (h : Hdr) (cls : Nat), (s.runs h (opNow 0x0103 true .always) = true) ∧ (cls < 64)) ∧
    (∃ (s : State) (h : Hdr) (cls : Nat), (s.runs h (opNow 0x0104 true .always) = true) ∧ (cls < 64)) ∧
    (∃ (s : State) (h : Hdr) (step : Nat) (r : Report), (s.runs h (opNow 0x0603 false .always) = true) ∧ (((s.admitted h).run.reports.find? fun x => x.step == step) = some r)) ∧
    (∃ (s : State) (h : Hdr) (opcode : Nat), (opcode ∉ opcodes) ∧ (s.runs h (opNow opcode false .always) = true)) ∧
    (∃ (opcode : Nat), (opcode ∈ opcodes)) :=
  ⟨⟨up, hh, List.replicate 64 1, by decide +kernel⟩,
   ⟨up, sh, by decide +kernel⟩,
   ⟨up, hh, 63, by decide +kernel⟩,
   ⟨up, hh, 63, by decide +kernel⟩,
   ⟨{ up with run := { Run.empty with reports := [⟨4, 0, 0, 0, 0, 0, [], []⟩] } }, hh, 4, ⟨4, 0, 0, 0, 0, 0, [], []⟩, by decide +kernel⟩,
   ⟨up, hh, 0xFFFF, by decide +kernel⟩,
   ⟨0x0101, by decide +kernel⟩⟩

theorem met_SessionsAndOwnership :
    (∃ (s : State) (h : Hdr), (s.reaches h = true) ∧ ((h.session = 0 ∨ (s.sessionFor h).isSome = true)) ∧ (h.version = 1) ∧ (h.rsvClear = true) ∧ (h.status = 0) ∧ (h.lenOk = true)) ∧
    (∃ (s : State) (h : Hdr) (port addr udp : Nat), (h.src = .host port addr udp) ∧ (s.runs h ⟨0x0001, false, true, false, none, .always, false⟩ = true)) ∧
    (∃ (s : State) (h : Hdr), (s.runs h (opNow 0x0002 true .always) = true)) :=
  ⟨⟨up, { hh with session := 0 }, by decide +kernel⟩,
   ⟨up, { hh with src := .host 0 1 2 }, 0, 1, 2, by decide +kernel⟩,
   ⟨up, hh, by decide +kernel⟩⟩

theorem met_SilenceEndsSessionsLocksAndHalves :
    (∃ (s : State) (mgmt : Bool), ((if mgmt then s.win.lastMgmt else s.win.lastHost) + s.lockTimeoutNs ≤ s.time)) ∧
    (∃ (s : State) (mgmt : Bool), (s.time < (if mgmt then s.win.lastMgmt else s.win.lastHost) + s.lockTimeoutNs)) ∧
    (∃ (s : State) (block off : Nat) (w : Word) (mgmt : Bool) (since : Nat), (s.pendingHalf (block * 0x10000) = some (block * 0x10000, off, w, mgmt, since)) ∧ (since + 10000000 ≤ s.time)) :=
  ⟨⟨{ up with win := { up.win with lastHost := 940 * 10 ^ 12 } }, false, by decide +kernel⟩,
   ⟨{ up with win := { up.win with lastHost := 10 ^ 15 - 59999999999 } }, false, by decide +kernel⟩,
   ⟨{ up with win := { up.win with guard := [(0x100000, 8, 0x101, true, 10 ^ 15 - 10000000)] } }, 0x10, 8, 0x101, true, 10 ^ 15 - 10000000, by decide +kernel⟩⟩

theorem met_RegisterCommandsAct :
    (∃ (s : State) (h : Hdr) (addr count : Nat), (s.runs h (opNow 0x0100 false .always) = true) ∧ (addr % 4 = 0) ∧ ((blockOf addr).isSome = true) ∧ (1 ≤ count) ∧ (count ≤ 64) ∧ (addr / 0x10000 = (addr + 4 * (count - 1)) / 0x10000)) ∧
    (∃ (s : State) (h : Hdr) (addr : Nat), (s.runs h (opReg 0x0101) = true) ∧ (addr % 4 = 0) ∧ ((blockOf addr).isSome = true)) ∧
    (∃ (s : State) (h : Hdr) (addr : Nat), (s.runs h (opReg 0x0102) = true) ∧ (addr % 4 = 0) ∧ ((blockOf addr).isSome = true) ∧ (guarded (regAddr addr) = true)) ∧
    (∃ (s : State) (h : Hdr), (s.runs h (opReg 0x0102) = true) ∧ ((s.admitted h).pendingHalf 0 = none)) ∧
    (∃ (s : State) (h : Hdr) (block : Nat), (s.runs h (opReg 0x0102) = true) ∧ ((s.admitted h).pendingHalf 0 = none) ∧ (block < 256)) ∧
    (∃ (s : State) (h : Hdr) (cab lchan : Nat), (s.runs h (opReg 0x0102) = true) ∧ (cab < 16) ∧ (lchan < 64) ∧ ((s.admitted h).pendingHalf (0x100000 + 0x10000 * cab) = none) ∧ ((s.admitted h).power.mainOk = true)) ∧
    (∃ (s : State) (h : Hdr), (s.runs h (opReg 0x0101) = true) ∧ ((s.admitted h).pendingHalf 0x40000 = none) ∧ ((s.admitted h).power.mainOk = true)) ∧
    (∃ (s : State) (h : Hdr), (s.runs h (opReg 0x0101) = true) ∧ ((s.admitted h).pendingHalf 0x40000 = none) ∧ ((s.admitted h).power.mainOk = true)) :=
  ⟨⟨up, hh, 0x40000, 64, by decide +kernel⟩,
   ⟨up, hh, 0x4, by decide +kernel⟩,
   ⟨up, hh, 0x480014, by decide +kernel⟩,
   ⟨up, hh, by decide +kernel⟩,
   ⟨up, hh, 255, by decide +kernel⟩,
   ⟨up, hh, 15, 63, by decide +kernel⟩,
   ⟨up, hh, by decide +kernel⟩,
   ⟨up, hh, by decide +kernel⟩⟩

theorem met_MemoryCommandsAct :
    (∃ (s : State) (h : Hdr) (addr n : Nat), (s.runs h ⟨0x0200, true, false, false, none, .always, true⟩ = true) ∧ (1 ≤ n) ∧ (n ≤ dataCap h 4032) ∧ (outside addr n = false) ∧ ((s.admitted h).memWaits addr n = false)) ∧
    (∃ (s : State) (h : Hdr) (addr : Nat) (data : List Byte), (s.runs h ⟨0x0201, true, false, false, (some 1), .memory, true⟩ = true) ∧ (1 ≤ data.length) ∧ (data.length ≤ dataCap h 4048) ∧ (outside addr data.length = false) ∧ ((s.admitted h).memWaits addr data.length = false)) ∧
    (∃ (s : State) (h : Hdr) (addr op : Nat), (s.runs h ⟨0x0202, true, false, false, (some 1), .memory, true⟩ = true) ∧ (1 ≤ op) ∧ (op ≤ 5) ∧ (addr % 8 = 0) ∧ (outside addr 8 = false) ∧ ((s.admitted h).memWaits addr 8 = false)) ∧
    (∃ (s : State) (h : Hdr) (base n fl : Nat), (s.runs h ⟨0x0203, true, false, true, (some 1), .scrub, true⟩ = true) ∧ (base % 2097152 = 0) ∧ (n % 2097152 = 0) ∧ (n ≠ 0) ∧ (fl < 4) ∧ (outside base n = false) ∧ ((s.admitted h).memWaits base n = false) ∧ ((s.admitted h).memBefore (s.admitted h).chembe.held base n = false)) ∧
    (∃ (s : State) (h : Hdr) (base n : Nat), (s.runs h ⟨0x0204, true, false, true, none, .digest, true⟩ = true) ∧ (1 ≤ n) ∧ (outside base n = false) ∧ ((s.admitted h).memWaits base n = false) ∧ ((s.admitted h).memBefore (s.admitted h).chembe.held base n = false)) ∧
    (∃ (s : State) (h : Hdr) (o n : Nat), (s.runs h ⟨0x0205, true, false, false, none, .always, true⟩ = true) ∧ (1 ≤ n) ∧ (n ≤ dataCap h 4032) ∧ (o + n ≤ stateBlockBytes) ∧ ((s.admitted h).memWaits (stateBlock + o) n = false)) ∧
    (∃ (s : State) (h : Hdr) (o : Nat) (data : List Byte), (s.runs h ⟨0x0206, true, false, false, (some 1), .loaded, true⟩ = true) ∧ (data.length ≤ restCap h 4048) ∧ (o + data.length ≤ stateBlockBytes) ∧ ((s.admitted h).memWaits (stateBlock + o) data.length = false) ∧ (((s.admitted h).touch stateBlock 6 false).badBlock o data = false)) ∧
    (∃ (s : State) (h : Hdr) (base n : Nat), (s.runs h ⟨0x0204, true, false, true, none, .digest, true⟩ = true) ∧ (1 ≤ n) ∧ (outside base n = false) ∧ (((s.admitted h).memWaits base n = true ∨ (s.admitted h).memBefore (s.admitted h).chembe.held base n = true))) :=
  ⟨⟨up, hh, 0x173FFFFE080, 8064, by decide +kernel⟩,
   ⟨up, hh, 0, [1], by decide +kernel⟩,
   ⟨up, hh, 8, 5, by decide +kernel⟩,
   ⟨up, hh, 2097152, 2097152, 3, by decide +kernel⟩,
   ⟨up, hh, 0x173FFFFFFFF, 1, by decide +kernel⟩,
   ⟨up, hh, 0x3FFFFF, 1, by decide +kernel⟩,
   ⟨loaded [], hh, 8, [1], by decide +kernel⟩,
   ⟨{ up with chembe := { up.chembe with held := [.memWrite hh 0 0 [1]] } }, hh, 0, 1, by decide +kernel, by decide +kernel, by decide +kernel, .inr (by decide +kernel)⟩⟩

theorem met_JobCommandsAct :
    (∃ (s : State) (h : Hdr) (o : Nat) (data : List Byte), (s.runs h ⟨0x0300, true, false, false, (some 2), .folioData, true⟩ = true) ∧ (1 ≤ data.length) ∧ (data.length ≤ dataCap h 4048) ∧ (o + data.length ≤ 0x80000000)) ∧
    (∃ (s t : State) (h : Hdr) (n bad : Nat) (image digest : List Byte) (f : Folio), (s.runs h ⟨0x0301, true, false, true, (some 2), .loadFolio, true⟩ = true) ∧ (1 ≤ n) ∧ (n ≤ 0x80000000) ∧ ((s.admitted h).sbd.openLines = []) ∧ ((s.admitted h).readRange stagingBase n false = (t, image, bad)) ∧ (shake256 image 32 = digest) ∧ (loadImage image n (t.setJobState jsLoading).switched (t.setJobState jsLoading).flash.config.quillPorts ((t.setJobState jsLoading).get PWR_STRAPS_FEED_ID) = .inr f)) ∧
    (∃ (s t : State) (h : Hdr) (n bad : Nat) (image digest : List Byte), (s.runs h ⟨0x0301, true, false, true, (some 2), .loadFolio, true⟩ = true) ∧ (1 ≤ n) ∧ (n ≤ 0x80000000) ∧ ((s.admitted h).sbd.openLines = []) ∧ ((s.admitted h).readRange stagingBase n false = (t, image, bad)) ∧ (shake256 image 32 ≠ digest)) ∧
    (∃ (s : State) (h : Hdr) (f : Folio), (s.runs h ⟨0x0302, true, false, true, (some 2), .loaded, true⟩ = true) ∧ ((s.admitted h).folio = some f) ∧ ((∀ x ∈ startEnables, (s.admitted h).on x = true))) ∧
    (∃ (s : State) (h : Hdr) (mode : Nat), (s.runs h ⟨0x0303, true, false, false, (some 2), .active, true⟩ = true) ∧ (mode ≤ 1) ∧ ((s.admitted h).jobState = jsRunning) ∧ ((s.admitted h).run.stepOn = true)) ∧
    (∃ (s : State) (h : Hdr) (mode : Nat), (s.runs h ⟨0x0303, true, false, false, (some 2), .active, true⟩ = true) ∧ (mode ≤ 1) ∧ ((s.admitted h).jobState = jsLoaded)) ∧
    (∃ (s : State) (h : Hdr) (t : Nat), (s.runs h ⟨0x0304, true, false, false, (some 2), .active, true⟩ = true) ∧ ((s.admitted h).step ≤ t) ∧ ((t = (s.admitted h).get NIB0_STEP_INDEX_STEP → (s.admitted h).get NIB0_STEP_INDEX_STEP = 0xFFFFFFFF)) ∧ ((s.admitted h).run.pendingSteps.length < 8)) ∧
    (∃ (s : State) (h : Hdr) (t : Nat), (s.runs h ⟨0x0304, true, false, false, (some 2), .active, true⟩ = true) ∧ (t < (s.admitted h).step)) ∧
    (∃ (s : State) (h : Hdr), (s.runs h ⟨0x0305, true, false, false, (some 2), .loaded, true⟩ = true)) :=
  ⟨⟨up, hh, 0x7FFFFFFF, [1], by decide +kernel⟩,
   ⟨staged, stagedRead.1, hh, 192, stagedRead.2.2, stagedRead.2.1, shake256 stagedRead.2.1 32, staged_some.choose, by decide +kernel, by decide +kernel, by decide +kernel, staged_closed, stagedRead_eq, rfl, staged_some.choose_spec⟩,
   ⟨up, ((up.admitted hh).readRange stagingBase 1 false).1, hh, 1, ((up.admitted hh).readRange stagingBase 1 false).2.2, ((up.admitted hh).readRange stagingBase 1 false).2.1, [], by decide +kernel, by decide +kernel, by decide +kernel, by decide +kernel, triple_eta _, by decide +kernel⟩,
   ⟨loaded [], hh, fol [], by decide +kernel⟩,
   ⟨running [], hh, 1, by decide +kernel⟩,
   ⟨loaded [], hh, 1, by decide +kernel⟩,
   ⟨running [], hh, 0, by decide +kernel, by decide +kernel, fun h => by revert h; decide +kernel, by decide +kernel⟩,
   ⟨(running []).put GLB_STEP_STEP 5, hh, 4, by decide +kernel⟩,
   ⟨loaded [], hh, by decide +kernel⟩⟩

theorem met_RouteCommandsAct :
    (∃ (s : State) (h : Hdr) (bank o : Nat) (data : List Byte), (s.runs h ⟨0x0400, true, false, false, (some 3), .active, true⟩ = true) ∧ (bank ≤ 1) ∧ (data.length ≤ restCap h 4056) ∧ (o + data.length ≤ 51200) ∧ ((s.admitted h).bankFree bank = true)) ∧
    (∃ (s : State) (h : Hdr) (bank o : Nat) (data : List Byte), (s.runs h ⟨0x0400, true, false, false, (some 3), .active, true⟩ = true) ∧ (bank ≤ 1) ∧ (data.length ≤ restCap h 4056) ∧ (o + data.length ≤ 51200) ∧ ((s.admitted h).bankFree bank = false)) ∧
    (∃ (s : State) (h : Hdr) (t : Nat), (s.runs h ⟨0x0401, true, false, false, (some 3), .active, true⟩ = true) ∧ ((s.admitted h).armOk t = true) ∧ (t < 2 ^ 32) ∧ ((s.admitted h).pendingHalf 0x480000 = none)) ∧
    (∃ (s : State) (h : Hdr) (t : Nat), (s.runs h ⟨0x0401, true, false, false, (some 3), .active, true⟩ = true) ∧ ((s.admitted h).armOk t = false)) :=
  ⟨⟨(loaded []).put GLB_STEP_STEP 1, hh, 1, 51199, [1], by decide +kernel⟩,
   ⟨loaded [], hh, 0, 0, [1], by decide +kernel⟩,
   ⟨loaded [], hh, 1, by decide +kernel⟩,
   ⟨(loaded []).put GLB_STEP_STEP 5, hh, 4, by decide +kernel⟩⟩

theorem met_SurvivalCommandsAct :
    (∃ (s : State) (h : Hdr) (u : Nat), (s.benching = false) ∧ (s.runs h ⟨0x0503, true, false, false, (some 4), .active, true⟩ = true) ∧ (u = ((s.admitted h).get SVL_CONFIRMED_STEP + 1) % 2 ^ 32) ∧ ((s.admitted h).holdsImage u = true)) ∧
    (∃ (s : State) (h : Hdr) (u : Nat), (s.benching = false) ∧ (s.runs h ⟨0x0503, true, false, false, (some 4), .active, true⟩ = true) ∧ (u ≠ ((s.admitted h).get SVL_CONFIRMED_STEP + 1) % 2 ^ 32)) ∧
    (∃ (s : State) (h : Hdr) (t : Nat), (s.runs h ⟨0x0500, true, false, true, (some 4), .active, true⟩ = true) ∧ ((s.admitted h).svl.sealWait = none) ∧ (((s.admitted h).partnerRole.isSome && (s.admitted h).get RSK_STATUS_LEVEL == 0 && (s.admitted h).get SVL_STATUS_OWN_FOLLOW == 0) = false) ∧ ((s.admitted h).wardRole.isSome = true) ∧ ((s.admitted h).get SVL_STATUS_WARD_FOLLOW = 2) ∧ ((s.admitted h).get SVL_WARD_STEP_STEP = t)) ∧
    (∃ (s : State) (h : Hdr) (t : Nat), (s.runs h ⟨0x0500, true, false, true, (some 4), .active, true⟩ = true) ∧ ((s.admitted h).svl.sealWait = none) ∧ (((s.admitted h).partnerRole.isSome && (s.admitted h).get RSK_STATUS_LEVEL == 0 && (s.admitted h).get SVL_STATUS_OWN_FOLLOW == 0) = false) ∧ ((s.admitted h).wardRole.isSome = true) ∧ ((s.admitted h).get SVL_WARD_STEP_STEP ≠ t)) ∧
    (∃ (s : State) (h : Hdr) (p : Nat), (s.runs h ⟨0x0501, true, false, true, (some 4), .loaded, true⟩ = true) ∧ ((s.admitted h).svl.recover = none) ∧ ((s.admitted h).partnerRole = some p)) ∧
    (∃ (s : State) (h : Hdr) (p role : Nat) (f : Folio), (s.runs h ⟨0x0502, true, false, true, (some 4), .loaded, true⟩ = true) ∧ ((s.admitted h).svl.recover = none) ∧ ((s.admitted h).folio = some f) ∧ ((s.admitted h).partnerRole = some p) ∧ (f.role = role) ∧ ((s.admitted h).svl.wardOf ≠ some role)) ∧
    (∃ (s : State) (h : Hdr) (role : Nat) (f : Folio), (s.runs h ⟨0x0502, true, false, true, (some 4), .loaded, true⟩ = true) ∧ ((s.admitted h).svl.recover = none) ∧ ((s.admitted h).folio = some f) ∧ (f.role ≠ role)) ∧
    (∃ (s : State) (h : Hdr) (role : Nat) (f : Folio), (s.runs h ⟨0x0504, true, false, true, (some 4), .loaded, true⟩ = true) ∧ (role < 2048) ∧ ((s.admitted h).folio = some f) ∧ ((s.admitted h).get RSK_STATUS_LEVEL = 3) ∧ ((s.admitted h).benchOk f role = true)) ∧
    (∃ (s : State) (h : Hdr) (u : Nat), (s.benching = true) ∧ (s.runs h ⟨0x0503, true, false, false, (some 4), .always, true⟩ = true) ∧ ((s.svl.stages.map Stage.step).contains u = true) ∧ (((s.svl.stages.map Stage.step).all fun v => decide (u ≤ v)) = true)) :=
  ⟨⟨{ running [partner] with svl := { Survival.reset with done := [(0, [])] } }, hh, 0, by decide +kernel⟩,
   ⟨running [partner], hh, 1, by decide +kernel⟩,
   ⟨lit [(SVL_STATUS_OWN_FOLLOW, 1), (SVL_STATUS_WARD_FOLLOW, 2), (SVL_WARD_STEP_STEP, 4)] (loaded [partner]), hh, 4, by decide +kernel⟩,
   ⟨lit [(SVL_STATUS_OWN_FOLLOW, 1)] (loaded [partner]), hh, 4, by decide +kernel⟩,
   ⟨loaded [partner], hh, 2, by decide +kernel⟩,
   ⟨loaded [partner], hh, 2, 0, fol [partner], by decide +kernel⟩,
   ⟨loaded [partner], hh, 1, fol [partner], by decide +kernel⟩,
   ⟨benched, hh, 3, fol [partner], by decide +kernel⟩,
   ⟨{ up with svl := { Survival.reset with wardOf := some 2, stages := [⟨7, none, 0, [], 0, 0⟩] } }, hh, 7, by decide +kernel⟩⟩

theorem met_EventCommandsAct :
    (∃ (s : State) (h : Hdr) (port addr udp : Nat), (s.runs h (opNow 0x0601 true .always) = true) ∧ (h.src = .host port addr udp)) ∧
    (∃ (s : State) (h : Hdr) (port addr udp : Nat), (s.runs h (opNow 0x0602 true .always) = true) ∧ (h.src = .host port addr udp)) ∧
    (∃ (s : State) (h : Hdr) (eid : Nat), (s.runs h (opNow 0x0602 true .always) = true) ∧ (h.src = .side eid)) ∧
    (∃ (s : State) (side : Bool) (e : QEvent) (rest : List QEvent) (n : Nat), ((s.evq side).items = e :: rest) ∧ (e.seq = some n) ∧ ((s.evq side).lastSend + 2000000 ≤ s.time) ∧ (s.canSend side = true)) ∧
    (∃ (s : State) (side : Bool) (e : QEvent) (rest : List QEvent) (n : Nat), ((s.evq side).items = e :: rest) ∧ (e.seq = some n) ∧ (s.time < (s.evq side).lastSend + 2000000)) ∧
    (∃ (s : State) (i st : Nat) (d : Deferred) (ps : List Byte), (s.chembe.deferred[i]? = some d) ∧ (d.result = some (st, ps)) ∧ (d.op ≠ 0x0301)) ∧
    (∃ (s : State) (i st : Nat) (d : Deferred) (ps : List Byte), (s.chembe.deferred[i]? = some d) ∧ (d.result = some (st, ps)) ∧ (d.op = 0x0301) ∧ (s.jobState = jsLoading)) ∧
    (∃ (s : State) (i : Nat) (d : Deferred), (s.chembe.deferred[i]? = some d) ∧ (d.result = none)) :=
  ⟨⟨up, hh, 0, 1, 2, by decide +kernel⟩,
   ⟨up, hh, 0, 1, 2, by decide +kernel⟩,
   ⟨up, sh, 9, by decide +kernel⟩,
   ⟨queued (10 ^ 15 - 2000000), false, ⟨1, 0, 0, [], some 3, none⟩, [], 3, by decide +kernel⟩,
   ⟨queued (10 ^ 15 - 1999999), false, ⟨1, 0, 0, [], some 3, none⟩, [], 3, by decide +kernel⟩,
   ⟨deferredUp 0x0203 (some (0, [])), 0, 0, ⟨.host 0 1 2, 5, 1, 7, 0x0203, some (0, []), 0, 0, 0⟩, [], by decide +kernel⟩,
   ⟨job jsLoading (deferredUp 0x0301 (some (0, []))), 0, 0, ⟨.host 0 1 2, 5, 1, 7, 0x0301, some (0, []), 0, 0, 0⟩, [], by decide +kernel⟩,
   ⟨deferredUp 0x0302 none, 0, ⟨.host 0 1 2, 5, 1, 7, 0x0302, none, 0, 0, 0⟩, by decide +kernel⟩⟩

theorem met_PowerCommandsAct :
    (∃ (s : State) (h : Hdr), (s.runs h (opNow 0x0700 false .always) = true)) ∧
    (∃ (s : State) (h : Hdr), (s.runs h ⟨0x0701, true, false, false, some 5, .always, false⟩ = true)) ∧
    (∃ (s : State) (h : Hdr), (s.runs h ⟨0x0701, true, false, false, some 5, .always, false⟩ = true)) ∧
    (∃ (s : State) (h : Hdr) (mode : Nat), (s.runs h ⟨0x0701, true, false, false, some 5, .always, false⟩ = true) ∧ (2 ≤ mode)) ∧
    (∃ (s : State) (h : Hdr), (s.runs h ⟨0x0702, true, false, true, some 5, .always, false⟩ = true) ∧ (s.pins.pwrEn = true) ∧ (s.power.main = .on)) ∧
    (∃ (s : State) (h : Hdr), (s.runs h ⟨0x0702, true, false, true, some 5, .always, false⟩ = true) ∧ (s.pins.pwrEn = true) ∧ (s.power.main = .off)) ∧
    (∃ (s : State) (h : Hdr), (s.runs h ⟨0x0702, true, false, true, some 5, .always, false⟩ = true) ∧ (s.pins.pwrEn = true) ∧ (s.power.main = .on)) ∧
    (∃ (s : State) (h : Hdr), (s.runs h ⟨0x0702, true, false, true, some 5, .always, false⟩ = true) ∧ (s.pins.pwrEn = true) ∧ (s.power.main = .off)) ∧
    (∃ (s : State) (h : Hdr) (on : Nat), (s.runs h ⟨0x0702, true, false, true, some 5, .always, false⟩ = true) ∧ (s.pins.pwrEn = false) ∧ (on ≤ 2)) :=
  ⟨⟨up, hh, by decide +kernel⟩,
   ⟨up, hh, by decide +kernel⟩,
   ⟨up, hh, by decide +kernel⟩,
   ⟨up, hh, 2, by decide +kernel⟩,
   ⟨up, hh, by decide +kernel⟩,
   ⟨{ up with power := { up.power with main := .off, mainOk := false } }, sh, by decide +kernel⟩,
   ⟨up, hh, by decide +kernel⟩,
   ⟨{ up with power := { up.power with main := .off, mainOk := false } }, sh, by decide +kernel⟩,
   ⟨{ up with pins := { up.pins with pwrEn := false } }, hh, 2, by decide +kernel⟩⟩

theorem met_PrivilegedCommandsAct :
    (∃ (s : State) (h : Hdr) (o : Nat) (data : List Byte), (s.runs h (privOp 0x0F00 false) = true) ∧ (1 ≤ data.length) ∧ (data.length ≤ dataCap h 4048) ∧ (o + data.length ≤ slotBytes) ∧ ((s.admitted h).stagingTaken h = false)) ∧
    (∃ (s : State) (h : Hdr) (o : Nat) (data : List Byte), (s.runs h (privOp 0x0F00 true) = true) ∧ (1 ≤ data.length) ∧ (data.length ≤ dataCap h 4048) ∧ (o + data.length ≤ slotBytes) ∧ ((s.admitted h).stagingTaken h = false) ∧ ((s.admitted h).privBusy = false)) ∧
    (∃ (s : State) (h : Hdr) (v : Nat), (s.runs h (privOp 0x0F01 true) = true) ∧ ((s.admitted h).privBusy = false) ∧ ((s.admitted h).esc.verified = true) ∧ (v = (s.admitted h).get SEC_FW_STAGED_VERSION)) ∧
    (∃ (s : State) (h : Hdr) (seed pub : List Byte), (s.runs h (privOp 0x0F02 true) = true) ∧ ((s.admitted h).privBusy = false) ∧ ((s.admitted h).flash.rotations.length < 255) ∧ ((s.admitted h).liveId = some (seed, pub))) ∧
    (∃ (s : State) (h : Hdr), (s.runs h ⟨0x0F03, true, true, true, none, .always, true⟩ = true) ∧ ((s.admitted h).privBusy = false)) ∧
    (∃ (s : State) (h : Hdr) (arm : Nat), (s.runs h (privOp 0x0F04 false) = true) ∧ (arm ≤ 1)) ∧
    (∃ (s : State) (h : Hdr) (arm : Nat), (s.runs h (privOp 0x0F05 false) = true) ∧ (arm ≤ 1)) ∧
    (∃ (s : State) (h : Hdr) (r : Nat), (s.runs h (privOp 0x0F06 false) = true) ∧ ((s.admitted h).esc.sealOhms = some r) ∧ (loopOpen (some r) = false)) ∧
    (∃ (s : State) (h : Hdr), (s.runs h (privOp 0x0F06 false) = true) ∧ (loopOpen (s.admitted h).esc.sealOhms = true)) ∧
    (∃ (s : State) (h : Hdr) (nonce seed pub : List Byte) (part o : Nat), (s.runs h ⟨0x0F07, false, false, true, none, .always, false⟩ = true) ∧ (nonce.length = 32) ∧ (part ≤ 4) ∧ ((s.admitted h).privBusy = false) ∧ ((s.admitted h).liveId = some (seed, pub)) ∧ (o < ((s.admitted h).attestPart seed pub nonce part).2.length)) :=
  ⟨⟨up, hh, 0, [1], by decide +kernel⟩,
   ⟨up, hh, 0, [1], by decide +kernel⟩,
   ⟨{ up with esc := { up.esc with verified := true } }, hh, 0, by decide +kernel⟩,
   ⟨named, hh, named_seed, [], by decide +kernel, by decide +kernel, by decide +kernel, named_live⟩,
   ⟨up, hh, by decide +kernel⟩,
   ⟨up, hh, 1, by decide +kernel⟩,
   ⟨up, hh, 1, by decide +kernel⟩,
   ⟨{ up with esc := { up.esc with sealOhms := some 100000 } }, hh, 100000, by decide +kernel⟩,
   ⟨up, hh, by decide +kernel⟩,
   ⟨named, hh, zeros 32, named_seed, [], 4, 0, by decide +kernel, by decide +kernel, by decide +kernel, by decide +kernel, named_live, by decide +kernel⟩⟩

theorem met_HostPortsAnswerAndGoDown :
    (∃ (s : State) (p : Nat), (p < 2) ∧ (s.hostUp p = true)) ∧
    (∃ (s : State) (p tip : Nat), (p < 2) ∧ (s.hostUp p = true) ∧ (tip ≠ s.flash.config.ipv4 p)) ∧
    (∃ (s : State) (p : Nat), (p < 2) ∧ (s.hostUp p = true)) ∧
    (∃ (s : State) (p : Nat), (p < 2) ∧ (s.hostUp p = true)) ∧
    (∃ (s : State) (p : Nat), (p < 2) ∧ (s.hostUp p = true)) ∧
    (∃ (s : State) (d : Stray), (d.port < 2) ∧ (s.hostUp d.port = true) ∧ (s.takesDatagram d = false)) ∧
    (∃ (s : State) (d : Stray), (s.takesDatagram d = true)) ∧
    (∃ (s : State) (p a u : Nat) (bytes : List Byte), (p < 2) ∧ (s.hostUp p = true) ∧ (malformed bytes = true ∨ s.noSession ⟨.host p a u, bytes⟩ = true)) ∧
    (∃ (s : State) (p : Nat), (p < 2) ∧ (s.hostUp p = true)) ∧
    (∃ (s : State) (p lanes : Nat), (p < 2) ∧ (s.power.mainOk = true) ∧ (s.on (HPT_CTRL_ENABLE p) = true) ∧ (s.hostUp p = false) ∧ (s.on (HPT_CTRL_ALLOW_400 p) = true) ∧ (lanes % 16 = 15)) ∧
    (∃ (s : State) (p lanes : Nat), (p < 2) ∧ (s.power.mainOk = true) ∧ (s.on (HPT_CTRL_ENABLE p) = true) ∧ (s.hostUp p = false) ∧ (s.hostTrained p lanes = none)) ∧
    (∃ (s : State) (p : Nat), (s.RegsCanonical) ∧ (p < 2) ∧ (s.hostUp p = true)) :=
  ⟨⟨up, 1, by decide +kernel⟩,
   ⟨up, 1, 9, by decide +kernel⟩,
   ⟨up, 1, by decide +kernel⟩,
   ⟨up, 1, by decide +kernel⟩,
   ⟨up, 1, by decide +kernel⟩,
   ⟨up, ⟨1, 0, false, 5, none⟩, by decide +kernel⟩,
   ⟨up, ⟨1, 0, false, 0, some 47328⟩, by decide +kernel⟩,
   ⟨up, 1, 3, 4, [1], by decide +kernel, by decide +kernel, .inl (by decide)⟩,
   ⟨up, 1, by decide +kernel⟩,
   ⟨lit [(HPT_STATUS_LINK_UP 1, 0), (HPT_CTRL_ENABLE 1, 1), (HPT_CTRL_ALLOW_400 1, 1)] up, 1, 15, by decide +kernel⟩,
   ⟨lit [(HPT_STATUS_LINK_UP 1, 0), (HPT_CTRL_ENABLE 1, 1)] up, 1, 0, by decide +kernel⟩,
   ⟨up, 1, by unfold State.RegsCanonical; decide +kernel, by decide +kernel, by decide +kernel⟩⟩

theorem met_I3cAndMctpControlAnswered :
    (∃ (s : State), (s.esc.ready = true) ∧ (s.esc.i3cAddr = none)) ∧
    (∃ (s : State) (b : Nat), (s.esc.ready = true) ∧ (s.esc.i3cAddr = some b)) ∧
    (∃ (s : State), (s.esc.ready = true)) ∧
    (∃ (s : State) (b : Nat), (s.esc.ready = true) ∧ (s.esc.i3cAddr = some b)) ∧
    (∃ (s : State) (b : Nat), (s.esc.ready = true) ∧ (s.esc.i3cAddr = some b)) :=
  ⟨⟨{ up with esc := { up.esc with i3cAddr := none } }, by decide +kernel⟩,
   ⟨up, 8, by decide +kernel⟩,
   ⟨up, by decide +kernel⟩,
   ⟨up, 8, by decide +kernel⟩,
   ⟨up, 8, by decide +kernel⟩⟩

theorem met_StandbyAndResetEvents :
    (∃ (s : State) (v : Nat), (s.power.standby = false) ∧ (30000 ≤ v)) ∧
    (∃ (s : State) (v : Nat), (s.power.standby = true ∨ v < 30000)) ∧
    (∃ (s : State), (s.power.standby = true) ∧ (s.pins.resetN = true) ∧ (s.esc.ready = false)) ∧
    (∃ (s : State) (v : Nat), (s.power.standby = true) ∧ (v < 28000)) ∧
    (∃ (s : State) (n : Nat), (10000 ≤ n) ∧ (s.pins.resetN = true)) ∧
    (∃ (s : State) (n : Nat), (n < 10000 ∨ s.pins.resetN = false)) ∧
    (∃ (s : State), (s.pins.resetN = false) ∧ (s.power.standby = true)) ∧
    (∃ (s : State), (s.pins.resetN = false) ∧ (s.power.standby = false)) :=
  ⟨⟨State.reset, 30000, by decide +kernel⟩,
   ⟨State.reset, 29999, .inr (by decide)⟩,
   ⟨{ up with esc := { up.esc with ready := false } }, by decide +kernel⟩,
   ⟨up, 27999, by decide +kernel⟩,
   ⟨up, 10000, by decide +kernel⟩,
   ⟨up, 9999, .inl (by decide)⟩,
   ⟨{ up with pins := { up.pins with resetN := false } }, by decide +kernel⟩,
   ⟨{ State.reset with pins := ⟨false, false⟩ }, by decide +kernel⟩⟩

theorem met_MainSideEvents :
    (∃ (s : State), (s.requested = true) ∧ (s.allowed = true) ∧ (s.power.main = .off ∨ s.power.main = .hold)) ∧
    (∃ (s : State), (s.requested = false ∨ s.allowed = false)) ∧
    (∃ (s : State) (k : StartKind), (s.power.main = .starting k)) ∧
    (∃ (s : State), (s.power.mainOk = true) ∧ (s.esc.ready = true)) ∧
    (∃ (s : State), (s.power.main = .on) ∧ (s.on GLB_STATE_MAIN_ON = true) ∧ (s.esc.heartbeatAt + 400000 ≤ s.time)) ∧
    (∃ (s : State), (s.time < s.esc.heartbeatAt + 400000)) ∧
    (∃ (s : State), (s.mainOn = true)) :=
  ⟨⟨{ up with power := { up.power with main := .off } }, by decide +kernel⟩,
   ⟨State.reset, .inl (by decide +kernel)⟩,
   ⟨{ up with power := { up.power with main := .starting .cold } }, .cold, by decide +kernel⟩,
   ⟨up, by decide +kernel⟩,
   ⟨{ up with esc := { up.esc with heartbeatAt := 10 ^ 15 - 400000 } }, by decide +kernel⟩,
   ⟨{ up with esc := { up.esc with heartbeatAt := 10 ^ 15 - 399999 } }, by decide +kernel⟩,
   ⟨up, by decide +kernel⟩⟩

theorem met_InputVoltageEvents :
    (∃ (s : State) (v : Nat), (s.power.standby = true) ∧ (33000 ≤ v) ∧ (v < 36000) ∧ ((s.noteVin v).on PWR_STATUS_UNDERVOLT = false)) ∧
    (∃ (s : State) (v : Nat), (s.power.standby = true) ∧ (36000 ≤ v) ∧ ((s.noteVin v).on PWR_STATUS_UNDERVOLT = true)) ∧
    (∃ (s : State) (v n : Nat), (s.power.standby = true) ∧ (50000 < v) ∧ (10000 ≤ n) ∧ (s.power.overvolt = false)) ∧
    (∃ (v n : Nat), (v ≤ 50000 ∨ n < 10000)) ∧
    (∃ (s : State) (v n : Nat), (s.power.standby = true) ∧ (v < 33000) ∧ (5000 ≤ n) ∧ (s.power.main = .on) ∧ (s.power.gasp = none)) ∧
    (∃ (v n : Nat), (33000 ≤ v ∨ n < 5000)) ∧
    (∃ (s : State) (g : GaspRun), (s.power.gasp = some g) ∧ (g.since + 900000 ≤ s.time)) ∧
    (∃ (s : State) (g : GaspRun), (s.power.gasp = some g) ∧ (s.time < g.since + 900000)) ∧
    (∃ (s : State) (c : Nat), (s.power.standby = true) ∧ (1 ≤ c) ∧ (c ≤ 4)) ∧
    (∃ (s : State) (n : Nat), (s.power.standby = true) ∧ (1000000 ≤ n) ∧ (s.on PWR_STATUS_FEED_WARN = false)) ∧
    (∃ (n : Nat), (n < 1000000)) :=
  ⟨⟨up, 35999, by decide +kernel⟩,
   ⟨up.put PWR_STATUS_UNDERVOLT 1, 36000, by decide +kernel⟩,
   ⟨up, 50001, 10000, by decide +kernel⟩,
   ⟨50000, 10000, .inl (by decide)⟩,
   ⟨up, 32999, 5000, by decide +kernel⟩,
   ⟨32999, 4999, .inr (by decide)⟩,
   ⟨{ up with time := 900000, power := { up.power with gasp := some gasp } }, gasp, by decide +kernel⟩,
   ⟨{ up with time := 899999, power := { up.power with gasp := some gasp } }, gasp, by decide +kernel⟩,
   ⟨up, 4, by decide +kernel⟩,
   ⟨up, 1000000, by decide +kernel⟩,
   ⟨999999, by decide +kernel⟩⟩

theorem met_VoltageLoopEvaluates :
    (∃ (s : State), (s.power.mainOk = true)) ∧
    (∃ (s : State), (s.power.mainOk = false)) ∧
    (∃ (s : State) (w : Nat), (s.power.mainOk = true) ∧ (s.get PWR_VDD_DESK0_MV = 600) ∧ (s.get PWR_VDD_DESK1_MV = 600) ∧ (s.powerLimit < w)) ∧
    (∃ (s : State) (w : Nat), (s.power.mainOk = true) ∧ (100 * w < 98 * s.powerLimit)) ∧
    (∃ (s : State) (w : Nat), (s.power.mainOk = true) ∧ (w ≤ s.powerLimit) ∧ (98 * s.powerLimit ≤ 100 * w)) :=
  ⟨⟨up, by decide +kernel⟩,
   ⟨State.reset, by decide +kernel⟩,
   ⟨lit [(PWR_VDD_DESK0_MV, 600), (PWR_VDD_DESK1_MV, 600)] up, 1851, by decide +kernel⟩,
   ⟨up, 1812, by decide +kernel⟩,
   ⟨up, 1813, by decide +kernel⟩⟩

theorem met_PresenceAndSealEvents :
    (∃ (s : State) (n : Nat), (s.esc.ready = false ∨ n < 2000000000)) ∧
    (∃ (s : State) (n : Nat), (s.esc.ready = true) ∧ (2000000000 ≤ n) ∧ (n ≤ 5000000000) ∧ (s.esc.strapped = false) ∧ (s.presenceOpen = false)) ∧
    (∃ (s : State) (n : Nat), (s.esc.ready = true) ∧ (s.esc.strapped = false) ∧ (5000000000 < n)) ∧
    (∃ (s : State) (n : Nat), (s.esc.ready = true) ∧ (s.esc.strapped = true) ∧ (n < 10000000000)) ∧
    (∃ (s : State) (n : Nat), (s.esc.ready = true) ∧ (s.esc.strapped = true) ∧ (10000000000 ≤ n)) ∧
    (∃ (s : State), (s.esc.ready = true) ∧ (s.esc.strapped = false)) ∧
    (∃ (s : State) (t : Nat), (s.esc.windowEnd = some t) ∧ (t ≤ s.time) ∧ (s.esc.strapped = false)) ∧
    (∃ (s : State) (t : Nat), (s.esc.windowEnd = some t) ∧ (s.time < t)) ∧
    (∃ (s : State) (o : Option Nat), (s.power.standby = true) ∧ (s.esc.ready = true) ∧ (sealKind o s.flash.baseline = 0)) ∧
    (∃ (s : State) (o : Option Nat) (k : Nat), (s.power.standby = true) ∧ (s.esc.ready = true) ∧ (k ≠ 0) ∧ (sealKind o (s.noteLoop o).flash.baseline = k) ∧ ((s.noteLoop o).esc.sealBadKind = k) ∧ (2 ≤ (s.noteLoop o).esc.sealBad)) ∧
    (∃ (s : State), (s.power.standby = true) ∧ (s.esc.ready = false)) ∧
    (∃ (s : State) (g : Staging), (s.esc.staging = some g) ∧ (g.last + 60000000000 ≤ s.time)) ∧
    (∃ (s : State) (g : Staging), (s.esc.staging = some g) ∧ (s.time < g.last + 60000000000)) :=
  ⟨⟨up, 1999999999, .inr (by decide)⟩,
   ⟨{ up with esc := { up.esc with windowEnd := none } }, 2000000000, by decide +kernel⟩,
   ⟨up, 5000000001, by decide +kernel⟩,
   ⟨{ up with esc := { up.esc with strapped := true } }, 9999999999, by decide +kernel⟩,
   ⟨{ up with esc := { up.esc with strapped := true } }, 10000000000, by decide +kernel⟩,
   ⟨up, by decide +kernel⟩,
   ⟨{ up with time := 10 ^ 15 + 1 }, 10 ^ 15 + 1, by decide +kernel⟩,
   ⟨up, 10 ^ 15 + 1, by decide +kernel⟩,
   ⟨{ up with flash := { up.flash with baseline := 1000 }, esc := { up.esc with sealBad := 2, sealBadKind := 3 } }, some 1200, by decide +kernel⟩,
   ⟨{ up with flash := { up.flash with baseline := 1000 }, esc := { up.esc with sealBad := 2, sealBadKind := 3 } }, some 1201, 3, by decide +kernel⟩,
   ⟨{ up with esc := { up.esc with ready := false } }, by decide +kernel⟩,
   ⟨{ up with time := 60000000000, esc := { up.esc with staging := some ⟨.side 9, 6, 0⟩ } }, ⟨.side 9, 6, 0⟩, by decide +kernel⟩,
   ⟨{ up with time := 59999999999, esc := { up.esc with staging := some ⟨.side 9, 6, 0⟩ } }, ⟨.side 9, 6, 0⟩, by decide +kernel⟩⟩

theorem met_StrokesRunOnTheirDesk :
    (∃ (s : State) (f : Folio) (desk : Nat) (d : Desc) (bank : Option Nat), (desk < 2) ∧ (s.folio = some f) ∧ (s.starts desk 0x10 d = true) ∧ ((s.strokeHead desk d).bindTable d = some bank)) ∧
    (∃ (s : State) (f : Folio) (desk : Nat) (d : Desc) (bank : Option Nat), (desk < 2) ∧ (s.folio = some f) ∧ (s.starts desk 0x11 d = true) ∧ ((s.strokeHead desk d).bindTable d = some bank)) ∧
    (∃ (s : State) (f : Folio) (desk : Nat) (d : Desc) (bank : Option Nat), (desk < 2) ∧ (s.folio = some f) ∧ (s.starts desk 0x12 d = true) ∧ ((s.strokeHead desk d).bindTable d = some bank)) ∧
    (∃ (s : State) (f : Folio) (desk : Nat) (d : Desc) (bank : Option Nat), (desk < 2) ∧ (s.folio = some f) ∧ (s.starts desk 0x13 d = true) ∧ ((s.strokeHead desk d).bindTable d = some bank)) ∧
    (∃ (s : State) (f : Folio) (desk : Nat) (d : Desc) (bank : Option Nat), (desk < 2) ∧ (s.folio = some f) ∧ (s.starts desk 0x14 d = true) ∧ ((s.strokeHead desk d).bindTable d = some bank)) ∧
    (∃ (s : State) (f : Folio) (desk : Nat) (d : Desc) (bank : Option Nat), (desk < 2) ∧ (s.folio = some f) ∧ (s.starts desk 0x15 d = true) ∧ ((s.strokeHead desk d).bindTable d = some bank)) :=
  ⟨⟨running [lst 1 [dsc 0x10 8 []]], fol [lst 1 [dsc 0x10 8 []]], 1, dsc 0x10 8 [], none, by decide +kernel⟩,
   ⟨running [lst 1 [dsc 0x11 8 []]], fol [lst 1 [dsc 0x11 8 []]], 1, dsc 0x11 8 [], none, by decide +kernel⟩,
   ⟨running [lst 1 [dsc 0x12 48 [1]]], fol [lst 1 [dsc 0x12 48 [1]]], 1, dsc 0x12 48 [1], none, by decide +kernel⟩,
   ⟨running [lst 1 [dsc 0x13 8 []]], fol [lst 1 [dsc 0x13 8 []]], 1, dsc 0x13 8 [], none, by decide +kernel⟩,
   ⟨running [lst 1 [dsc 0x14 8 []]], fol [lst 1 [dsc 0x14 8 []]], 1, dsc 0x14 8 [], none, by decide +kernel⟩,
   ⟨running [lst 1 [dsc 0x15 8 []]], fol [lst 1 [dsc 0x15 8 []]], 1, dsc 0x15 8 [], none, by decide +kernel⟩⟩

theorem met_DescriptorsHoldElideAndComplete :
    (∃ (s : State) (f : Folio) (desk : Nat) (d : Desc), (desk < 2) ∧ (s.folio = some f) ∧ (s.starts desk 0x11 d = true) ∧ ((s.strokeHead desk d).bindTable d = none)) ∧
    (∃ (s : State) (f : Folio) (desk : Nat) (d : Desc) (bank : Option Nat) (fault : Option ArrayFault) (empty : Stroke → Bool) (work : StrokeWork), (desk < 2) ∧ (s.folio = some f) ∧ ((s.eng desk).phase = .heldTable) ∧ (s.head desk = some d) ∧ (s.mayRun = true) ∧ (s.bindTable d = some bank) ∧ (tableKind fault d.kind = some (empty, work))) ∧
    (∃ (s : State) (f : Folio) (desk : Nat) (d : Desc), (desk < 2) ∧ (s.folio = some f) ∧ ((s.eng desk).phase = .heldTable) ∧ (s.head desk = some d) ∧ (s.bindTable d = none)) ∧
    (∃ (s : State) (f : Folio) (desk : Nat) (d : Desc), (desk < 2) ∧ (s.folio = some f) ∧ (s.replayReady desk = none) ∧ (s.ready desk = some d) ∧ (d.kind = 0x13) ∧ ((s.openHead desk d).headElided desk = true)) ∧
    (∃ (s : State) (f : Folio) (e : Nat) (d : Desc), (e < 32) ∧ (s.folio = some f) ∧ (s.replayReady (0x10 + e) = none) ∧ (s.ready (0x10 + e) = some d) ∧ (d.kind = 0x20) ∧ ((s.openHead (0x10 + e) d).headElided (0x10 + e) = true)) ∧
    (∃ (s : State) (desk : Nat) (r : Rec), (desk < 2) ∧ (s.addsWait (.engine desk) = false) ∧ (s.replayPending desk = false) ∧ ((s.eng desk).phase = .done r)) ∧
    (∃ (s : State) (desk : Nat), (desk < 2) ∧ (s.addsWait (.engine desk) = false) ∧ (s.replayPending desk = true)) ∧
    (∃ (s : State) (desk : Nat), (desk < 2) ∧ (s.replayPending desk = false) ∧ ((∀ r, (s.eng desk).phase ≠ .done r))) ∧
    (∃ (s : State) (desk : Nat), (s.addsWait (.engine desk) = true)) ∧
    (∃ (s : State) (c : Nat) (d : Desc), (s.replayReady c = none) ∧ (s.ready c = some d) ∧ (d.kind = 0)) ∧
    (∃ (s : State) (c : Nat), (s.replayReady c = none) ∧ (s.ready c = none)) :=
  ⟨⟨running [lst 1 [dsc 0x11 52 [2]]], fol [lst 1 [dsc 0x11 52 [2]]], 1, dsc 0x11 52 [2], by decide +kernel⟩,
   ⟨at' 1 .heldTable (running [lst 1 [dsc 0x11 8 []]]), fol [lst 1 [dsc 0x11 8 []]], 1, dsc 0x11 8 [], none, none, mnEmpty, State.ewWork, by decide +kernel, by decide +kernel, by decide +kernel, by decide +kernel, by decide +kernel, by decide +kernel, rfl⟩,
   ⟨at' 1 .heldTable (running [lst 1 [dsc 0x11 52 [2]]]), fol [lst 1 [dsc 0x11 52 [2]]], 1, dsc 0x11 52 [2], by decide +kernel⟩,
   ⟨elided 1 0x13, elidedFolio 1 0x13, 1, dsc 0x13 8 [], by decide +kernel⟩,
   ⟨elided 0x2F 0x20, elidedFolio 0x2F 0x20, 31, dsc 0x20 8 [], by decide +kernel⟩,
   ⟨at' 1 (.done rec0) (running []), 1, rec0, by decide +kernel⟩,
   ⟨replaying 1, 1, by decide +kernel⟩,
   ⟨running [], 1, by decide +kernel, by decide +kernel, idle_eng 1⟩,
   ⟨{ up with sbd := { up.sbd with waiting := [⟨0, 1, 1, false, .engine 1⟩] } }, 1, by decide +kernel⟩,
   ⟨running [lst 0x4F [dsc 0 8 []]], 0x4F, dsc 0 8 [], by decide +kernel⟩,
   ⟨running [], 0, by decide +kernel⟩⟩

theorem met_DmaDescriptorsRun :
    (∃ (s : State) (e : Nat) (d : Desc), (e < 32) ∧ (s.starts (0x10 + e) 0x20 d = true) ∧ ((s.openHead (0x10 + e) d).loadWaits d = false)) ∧
    (∃ (s : State) (e : Nat) (d : Desc), (e < 32) ∧ (s.starts (0x10 + e) 0x23 d = true) ∧ ((s.openHead (0x10 + e) d).loadWaits d = false)) ∧
    (∃ (s : State) (e : Nat) (d : Desc), (e < 32) ∧ (s.starts (0x10 + e) 0x21 d = true) ∧ ((s.openHead (0x10 + e) d).loadWaits d = false)) ∧
    (∃ (s : State) (e : Nat) (d : Desc), (e < 32) ∧ (s.starts (0x10 + e) 0x22 d = true) ∧ ((s.openHead (0x10 + e) d).loadWaits d = false)) ∧
    (∃ (s : State) (e : Nat) (d : Desc), (e < 32) ∧ (s.starts (0x10 + e) 0x21 d = true) ∧ ((s.openHead (0x10 + e) d).loadWaits d = true)) :=
  ⟨⟨running [lst 0x2F [dsc 0x20 8 []]], 31, dsc 0x20 8 [], by decide +kernel⟩,
   ⟨running [lst 0x2F [dsc 0x23 8 []]], 31, dsc 0x23 8 [], by decide +kernel⟩,
   ⟨running [lst 0x2F [dsc 0x21 8 []]], 31, dsc 0x21 8 [], by decide +kernel⟩,
   ⟨running [lst 0x2F [dsc 0x22 8 []]], 31, dsc 0x22 8 [], by decide +kernel⟩,
   ⟨{ running [lst 0x2F [dsc 0x21 8 []]] with job := { (running [lst 0x2F [dsc 0x21 8 []]]).job with bound := [(0, 0)] } }, 31, dsc 0x21 8 [], by decide +kernel⟩⟩

theorem met_TakesAndDmaCompletions :
    (∃ (s : State) (e : Nat) (d : Desc) (t : Tensor), (e < 32) ∧ (s.ready (0x10 + e) = some d) ∧ (d.kind = 0x24) ∧ (s.takeTensor d = some t) ∧ ((s.openHead (0x10 + e) d).headElided (0x10 + e) = false)) ∧
    (∃ (s : State) (e : Nat) (d : Desc) (t : Tensor) (k : Take), (e < 32) ∧ ((s.eng (0x10 + e)).phase = .heldSample k) ∧ (s.head (0x10 + e) = some d) ∧ (s.takeTensor d = some t) ∧ (s.mayRun = true)) ∧
    (∃ (s : State) (e : Nat) (r : Rec), (e < 32) ∧ (s.replayPending (0x10 + e) = false) ∧ ((s.eng (0x10 + e)).phase = .done r)) ∧
    (∃ (s : State) (e : Nat), (e < 32) ∧ (s.replayPending (0x10 + e) = true)) ∧
    (∃ (s : State) (e tid : Nat) (f : Folio), (e < 32) ∧ ((s.eng (0x10 + e)).phase = .stopped tid) ∧ (s.folio = some f)) ∧
    (∃ (s : State) (e : Nat) (f : Folio) (r : Replay) (rest : List Replay) (d : Desc), (e < 32) ∧ (s.folio = some f) ∧ (s.job.replays = r :: rest) ∧ (r.dma = 0x10 + e) ∧ (segDone f r = true) ∧ (s.mayRun = true) ∧ (s.head (0x10 + e) = some d)) :=
  ⟨⟨running [tens, lst 0x2F [dsc 0x24 0x0A (le 2 1)]], 31, dsc 0x24 0x0A (le 2 1), parseTensor ten, by decide +kernel⟩,
   ⟨at' 0x2F (.heldSample ⟨0, 0, 0, 0, 0, 0, false⟩) (running [tens, lst 0x2F [dsc 0x24 0x0A (le 2 1)]]), 31, dsc 0x24 0x0A (le 2 1), parseTensor ten, ⟨0, 0, 0, 0, 0, 0, false⟩, by decide +kernel⟩,
   ⟨at' 0x2F (.done rec0) (running []), 31, rec0, by decide +kernel⟩,
   ⟨replaying 0x2F, 31, by decide +kernel⟩,
   ⟨at' 0x2F (.stopped 1) (running []), 31, 1, fol [], by decide +kernel⟩,
   ⟨{ running [lst 0x2F [dsc 0x20 8 []]] with job := { Job.empty with replays := [⟨1, 0, 0, 0, 0x2F, none, none, none⟩] } }, 31, fol [lst 0x2F [dsc 0x20 8 []]], ⟨1, 0, 0, 0, 0x2F, none, none, none⟩, [], dsc 0x20 8 [], by decide +kernel⟩⟩

theorem met_QuillDescriptorsSend :
    (∃ (s : State) (f : Folio) (list : Nat) (d : Desc) (t : Tensor), (list < 8) ∧ (s.ready (0x30 + list) = some d) ∧ (s.folio = some f) ∧ (f.tensor d.qSrc = some t) ∧ (d.kind = 0x30) ∧ (s.overlapsSent list d = false)) ∧
    (∃ (s : State) (f : Folio) (list : Nat) (d : Desc) (t : Tensor), (list < 8) ∧ (s.ready (0x30 + list) = some d) ∧ (s.folio = some f) ∧ (f.tensor d.qSrc = some t) ∧ (d.kind = 0x31) ∧ (s.overlapsSent list d = false)) ∧
    (∃ (s : State) (f : Folio) (list : Nat) (d : Desc) (t : Tensor), (list < 8) ∧ (s.ready (0x30 + list) = some d) ∧ (s.folio = some f) ∧ (f.tensor d.qSrc = some t) ∧ (d.kind = 0x32) ∧ (s.overlapsSent list d = false)) ∧
    (∃ (s : State) (f : Folio) (list : Nat) (d : Desc) (t : Tensor), (list < 8) ∧ (s.ready (0x30 + list) = some d) ∧ (s.folio = some f) ∧ (f.tensor d.qSrc = some t) ∧ (d.kind = 0x30) ∧ (s.overlapsSent list d = true)) :=
  ⟨⟨running [tens, lst 0x37 [dsc 0x30 8 (le 2 1)]], fol [tens, lst 0x37 [dsc 0x30 8 (le 2 1)]], 7, dsc 0x30 8 (le 2 1), parseTensor ten, by decide +kernel⟩,
   ⟨running [tens, lst 0x37 [dsc 0x31 8 (le 2 1)]], fol [tens, lst 0x37 [dsc 0x31 8 (le 2 1)]], 7, dsc 0x31 8 (le 2 1), parseTensor ten, by decide +kernel⟩,
   ⟨running [tens, lst 0x37 [dsc 0x32 8 (le 2 1)]], fol [tens, lst 0x37 [dsc 0x32 8 (le 2 1)]], 7, dsc 0x32 8 (le 2 1), parseTensor ten, by decide +kernel⟩,
   ⟨sentBefore [tens, lst 0x37 [dsc 0x30 8 (le 2 1 ++ zeros 14 ++ le 8 128)]], fol [tens, lst 0x37 [dsc 0x30 8 (le 2 1 ++ zeros 14 ++ le 8 128)]], 7, dsc 0x30 8 (le 2 1 ++ zeros 14 ++ le 8 128), parseTensor ten, by decide +kernel⟩⟩

theorem met_NibDescriptorsRun :
    (∃ (s : State) (c : Nat) (d : Desc) (j : NibJob), (c < 16) ∧ (s.ready (0x40 + c) = some d) ∧ (d.kind = 0x40) ∧ (s.nibGate.2 = true) ∧ ((s.nibGate.1.openHead (0x40 + c) d).nibJob c = some j)) ∧
    (∃ (s : State) (c : Nat) (d : Desc) (j : NibJob), (c < 16) ∧ (s.ready (0x40 + c) = some d) ∧ (d.kind = 0x41) ∧ (s.nibGate.2 = true) ∧ ((s.nibGate.1.openHead (0x40 + c) d).nibJob c = some j)) ∧
    (∃ (s : State) (c : Nat) (d : Desc), (c < 16) ∧ (s.ready (0x40 + c) = some d) ∧ (d.kind = 0x40) ∧ (s.nibGate.2 = false)) ∧
    (∃ (s : State) (p : Nat), (s.barrierPass = some p)) ∧
    (∃ (s : State), (s.barrierPass = none)) ∧
    (∃ (s : State), (s.run.confirmWait = true) ∧ (s.confirmedFor s.step = true)) ∧
    (∃ (s : State) (t : Nat), (s.run.holdSince = some t) ∧ (s.run.stepOn = true) ∧ (t + 1000 * s.get NIB0_STEP_CTRL_WAIT_US ≤ s.time)) ∧
    (∃ (s : State) (t : Nat), (s.run.holdSince = some t) ∧ (s.time < t + 1000 * s.get NIB0_STEP_CTRL_WAIT_US)) :=
  ⟨⟨running [lst 0x4F [dsc 0x40 8 []]], 15, dsc 0x40 8 [], (((running [lst 0x4F [dsc 0x40 8 []]]).nibGate.1.openHead 0x4F (dsc 0x40 8 [])).nibJob 15).get (by decide +kernel), by decide +kernel, by decide +kernel, by decide +kernel, by decide +kernel, (Option.some_get _).symm⟩,
   ⟨running [lst 0x4F [dsc 0x41 8 []]], 15, dsc 0x41 8 [], (((running [lst 0x4F [dsc 0x41 8 []]]).nibGate.1.openHead 0x4F (dsc 0x41 8 [])).nibJob 15).get (by decide +kernel), by decide +kernel, by decide +kernel, by decide +kernel, by decide +kernel, (Option.some_get _).symm⟩,
   ⟨(running [lst 0x4F [dsc 0x40 8 []]]).put NIB0_STEP_CTRL_WAIT_US 1, 15, dsc 0x40 8 [], by decide +kernel⟩,
   ⟨{ running [] with job := { Job.empty with engines := freshEngines.map fun e => { e with phase := .atBarrier 0 rec0 } } }, 0, by decide +kernel⟩,
   ⟨running [], by decide +kernel⟩,
   ⟨{ running [] with run := { (running []).run with confirmWait := true } }, by decide +kernel⟩,
   ⟨{ (running []).put NIB0_STEP_CTRL_WAIT_US 5 with time := 5000, run := { (running []).run with holdSince := some 0 } }, 0, by decide +kernel⟩,
   ⟨{ (running []).put NIB0_STEP_CTRL_WAIT_US 5 with time := 4999, run := { (running []).run with holdSince := some 0 } }, 0, by decide +kernel⟩⟩

theorem met_StepBoundary :
    (∃ (s : State) (f : Folio), (s.folio = some f) ∧ (s.stepOver = true) ∧ ((s.commitEnd f).run.fault = none)) ∧
    (∃ (s : State) (f : Folio) (st unit addr : Nat), (s.folio = some f) ∧ (s.stepOver = true) ∧ ((s.commitEnd f).run.fault = some (st, unit, addr))) ∧
    (∃ (s : State), (s.stepOver = false)) ∧
    (∃ (s : State) (f : Folio), (s.folio = some f) ∧ (s.run.stepOn = true) ∧ (s.run.stepStart + f.stepLimitMs * 1000000 ≤ s.time)) ∧
    (∃ (s : State) (f : Folio), (s.folio = some f) ∧ (s.time < s.run.stepStart + f.stepLimitMs * 1000000)) :=
  ⟨⟨running [], fol [], by decide +kernel⟩,
   ⟨{ running [] with run := { (running []).run with fault := some (0x0204, 0, 0) } }, fol [], 0x0204, 0, 0, by decide +kernel⟩,
   ⟨up, by decide +kernel⟩,
   ⟨{ running [] with time := 10 ^ 15 + 10 ^ 10 }, fol [], by decide +kernel⟩,
   ⟨running [], fol [], by decide +kernel⟩⟩

theorem met_WavesMoveALeaf :
    (∃ (s : State) (desk leaf : Nat) (slotFree active valid : Bool) (l l' : Leaf), (desk < 2) ∧ (leaf < 4) ∧ (s.answers 0x80000 = true) ∧ (s.on (DSK_CTRL_ENABLE desk) = true) ∧ (s.power.gasp = none) ∧ (s.leaf desk leaf = l) ∧ (l.chainIn = false) ∧ (0 < l.level ∨ l.target (l.slot slotFree) true = 8) ∧ (l.wave (l.target (l.slot slotFree) true) (l.slot slotFree) none = (l', active, valid))) ∧
    (∃ (s : State) (desk leaf row col : Nat) (slotFree active valid : Bool) (l l' : Leaf), (desk < 2) ∧ (leaf < 4) ∧ (s.answers 0x80000 = true) ∧ (s.on (DSK_CTRL_ENABLE desk) = true) ∧ (s.power.gasp = none) ∧ (s.leaf desk leaf = l) ∧ (l.chainIn = false) ∧ (0 < l.level ∨ l.target (l.slot slotFree) true = 8) ∧ (l.wave (l.target (l.slot slotFree) true) (l.slot slotFree) none = (l', active, valid)) ∧ (((l.slot slotFree || l.elastic) && (l.flying || valid) && ((s.countWave { desk := some desk, leaf := some leaf } l l' active valid true).setLeaf desk leaf l'.park).plankMoves desk leaf row col l.plankCols) = true)) ∧
    (∃ (s : State) (desk leaf : Nat) (slotFree active valid : Bool) (l l' up : Leaf) (x : List (List Nat)) (rest : List (List (List Nat))), (desk < 2) ∧ (leaf < 4) ∧ (s.answers 0x80000 = true) ∧ (s.on (DSK_CTRL_ENABLE desk) = true) ∧ (s.power.gasp = none) ∧ (s.leaf desk leaf = l) ∧ (l.chainIn = true) ∧ (s.leaf desk ((leaf + 3) % 4) = up) ∧ (up.link = x :: rest) ∧ (0 < l.level ∨ l.target (l.slot slotFree) true = 8) ∧ (l.wave (l.target (l.slot slotFree) true) (l.slot slotFree) (some x) = (l', active, valid))) ∧
    (∃ (s : State) (desk leaf : Nat) (slotFree : Bool), (desk < 2) ∧ (leaf < 4) ∧ (s.on (DSK_CTRL_ENABLE desk) = true) ∧ ((s.leaf desk leaf).level = 0) ∧ ((∀ b, (s.leaf desk leaf).target ((s.leaf desk leaf).slot slotFree) b = 0))) ∧
    (∃ (l : Leaf), (l.level ≤ 8)) ∧
    (∃ (l : Leaf) (t : Nat), (l.level ≤ 8) ∧ (l.acc < 8) ∧ ((l.nextWave t).1.level ≤ 8)) ∧
    (∃ (l : Leaf), (l.elastic = false)) :=
  ⟨⟨waving busyLeaf, 0, 0, false, ((busyLeaf).wave ((busyLeaf).target ((busyLeaf).slot false) true) ((busyLeaf).slot false) none).2.1, ((busyLeaf).wave ((busyLeaf).target ((busyLeaf).slot false) true) ((busyLeaf).slot false) none).2.2, busyLeaf, ((busyLeaf).wave ((busyLeaf).target ((busyLeaf).slot false) true) ((busyLeaf).slot false) none).1, by decide +kernel, by decide +kernel, by decide +kernel, by decide +kernel, by decide +kernel, rfl, by decide +kernel, .inl (by decide +kernel), rfl⟩,
   ⟨waving (fedLeaf 1), 0, 0, 0, 0, true, ((fedLeaf 1).wave ((fedLeaf 1).target ((fedLeaf 1).slot true) true) ((fedLeaf 1).slot true) none).2.1, ((fedLeaf 1).wave ((fedLeaf 1).target ((fedLeaf 1).slot true) true) ((fedLeaf 1).slot true) none).2.2, fedLeaf 1, ((fedLeaf 1).wave ((fedLeaf 1).target ((fedLeaf 1).slot true) true) ((fedLeaf 1).slot true) none).1, by decide +kernel, by decide +kernel, by decide +kernel, by decide +kernel, by decide +kernel, rfl, by decide +kernel, .inl (by decide +kernel), rfl, by decide +kernel⟩,
   ⟨chainOfTwo, 0, 0, true, ((chained).wave ((chained).target ((chained).slot true) true) ((chained).slot true) (some [[1]])).2.1, ((chained).wave ((chained).target ((chained).slot true) true) ((chained).slot true) (some [[1]])).2.2, chained, ((chained).wave ((chained).target ((chained).slot true) true) ((chained).slot true) (some [[1]])).1, linking, [[1]], [], by decide +kernel, by decide +kernel, by decide +kernel, by decide +kernel, by decide +kernel, rfl, by decide +kernel, rfl, by decide +kernel, .inl (by decide +kernel), rfl⟩,
   ⟨up, 0, 0, false, by decide +kernel⟩,
   ⟨busyLeaf, by decide +kernel⟩,
   ⟨busyLeaf, 8, by decide +kernel⟩,
   ⟨busyLeaf, by decide +kernel⟩⟩

theorem met_RowsReachTheLeaves :
    (∃ (s : State) (desk leaf : Nat), (desk < 2) ∧ (leaf < 4) ∧ (s.on (DSK_CTRL_ENABLE desk) = true) ∧ ((s.leaf desk leaf).backFull = false)) ∧
    (∃ (s : State) (desk leaf : Nat), ((s.leaf desk leaf).backFull = true)) ∧
    (∃ (s : State) (desk : Nat) (lanes : List FeedRow), (desk < 2) ∧ (s.on (DSK_CTRL_ENABLE desk) = true) ∧ ((∃ q, q < min 4 lanes.length ∧ (s.leaf desk ((q + s.get (DSK_ROT_STATUS_OFFSET desk)) % 4)).feedFull = true))) ∧
    (∃ (s : State) (desk : Nat), (desk < 2) ∧ (s.on (DSK_CTRL_ENABLE desk) = true) ∧ (s.leaves.length = 8) ∧ ((s.leaf desk (s.get (DSK_ROT_STATUS_OFFSET desk) % 4)).feedFull = false)) ∧
    (∃ (l : Leaf) (p : Nat) (n : Lane), (l.lanes[p]? = some n)) ∧
    (∃ (s : State) (desk : Nat), (desk < 2) ∧ (s.on (DSK_CTRL_ENABLE desk) = true)) :=
  ⟨⟨waving { Leaf.parked with back := List.replicate 511 [] }, 0, 0, by decide +kernel⟩,
   ⟨waving { Leaf.parked with backFull := true }, 0, 0, by decide +kernel⟩,
   ⟨waving (fedLeaf 64), 0, [row], by decide +kernel, by decide +kernel, ⟨0, by decide +kernel⟩⟩,
   ⟨waving (fedLeaf 63), 0, by decide +kernel⟩,
   ⟨busyLeaf, 0, ⟨[], 0, []⟩, by decide +kernel⟩,
   ⟨up, 1, by decide +kernel⟩⟩

theorem met_TiesAndRates :
    (∃ (s : State) (e : Nat), (s.turn e = 0) ∧ (spWf (fun _ => 0) s.turns = true)) ∧
    (∃ (s : State) (e : Nat), (s.turn e = 0) ∧ (spWf (fun _ => 0) s.turns = true)) ∧
    (∃ (s : State) (e : Nat), (s.turn e ≠ 0)) ∧
    (∃ (s : State) (desk leaf : Nat), (s.RegsCanonical) ∧ (desk < 2) ∧ (leaf < 4) ∧ (s.answers 0x80000 = true)) :=
  ⟨⟨up, 0, by decide +kernel⟩,
   ⟨up, 0, by decide +kernel⟩,
   ⟨{ up with turns := [(3, 2)] }, 3, by decide +kernel⟩,
   ⟨up, 1, 3, by unfold State.RegsCanonical; decide +kernel, by decide +kernel, by decide +kernel, by decide +kernel⟩⟩

theorem met_WordOperationsOnAHeldLine :
    (∃ (s : State) (addr : Nat) (l : SLine), (addr < decodedEnd) ∧ (s.power.mainOk = true) ∧ (s.on SBD_CTRL_ENABLE = true) ∧ (s.openAt (lineOf (addr / 8 * 8)) = none) ∧ (s.lineErr (lineOf (addr / 8 * 8)) = 0) ∧ (s.held (lineOf (addr / 8 * 8)) = some l) ∧ (l.outcome = .good)) ∧
    (∃ (s : State) (addr : Nat) (l : SLine), (addr < decodedEnd) ∧ (s.power.mainOk = true) ∧ (s.on SBD_CTRL_ENABLE = true) ∧ (s.openAt (lineOf (addr / 8 * 8)) = none) ∧ (s.lineErr (lineOf (addr / 8 * 8)) = 0) ∧ (s.held (lineOf (addr / 8 * 8)) = some l) ∧ (l.outcome = .good)) ∧
    (∃ (s : State) (addr : Nat) (l : SLine), (addr < decodedEnd) ∧ (s.power.mainOk = true) ∧ (s.on SBD_CTRL_ENABLE = true) ∧ (s.openAt (lineOf (addr / 8 * 8)) = none) ∧ (s.lineErr (lineOf (addr / 8 * 8)) = 0) ∧ (s.held (lineOf (addr / 8 * 8)) = some l) ∧ (l.outcome = .good)) ∧
    (∃ (s : State) (addr : Nat) (l : SLine), (addr < decodedEnd) ∧ (s.power.mainOk = true) ∧ (s.on SBD_CTRL_ENABLE = true) ∧ (s.openAt (lineOf (addr / 8 * 8)) = none) ∧ (s.lineErr (lineOf (addr / 8 * 8)) = 0) ∧ (s.held (lineOf (addr / 8 * 8)) = some l) ∧ (l.outcome = .good)) ∧
    (∃ (s : State) (addr : Nat) (l : SLine), (addr < decodedEnd) ∧ (s.power.mainOk = true) ∧ (s.on SBD_CTRL_ENABLE = true) ∧ (s.openAt (lineOf (addr / 8 * 8)) = none) ∧ (s.lineErr (lineOf (addr / 8 * 8)) = 0) ∧ (s.held (lineOf (addr / 8 * 8)) = some l) ∧ (l.outcome = .good)) ∧
    (∃ (s : State) (addr : Nat) (l : SLine), (addr < decodedEnd) ∧ (s.power.mainOk = true) ∧ (s.on SBD_CTRL_ENABLE = true) ∧ (s.openAt (lineOf (addr / 8 * 8)) = none) ∧ (s.lineErr (lineOf (addr / 8 * 8)) = 0) ∧ (s.held (lineOf (addr / 8 * 8)) = some l) ∧ (l.outcome = .poison)) ∧
    (∃ (s : State) (addr : Nat) (l : SLine), (addr < decodedEnd) ∧ (s.power.mainOk = true) ∧ (s.on SBD_CTRL_ENABLE = true) ∧ (s.openAt (lineOf (addr / 8 * 8)) = none) ∧ (s.lineErr (lineOf (addr / 8 * 8)) = 0) ∧ (s.held (lineOf (addr / 8 * 8)) = some l) ∧ (l.outcome = .poison)) ∧
    (∃ (s : State) (addr : Nat) (l : SLine), (addr < decodedEnd) ∧ (s.power.mainOk = true) ∧ (s.on SBD_CTRL_ENABLE = true) ∧ (s.openAt (lineOf (addr / 8 * 8)) = none) ∧ (s.lineErr (lineOf (addr / 8 * 8)) = 0) ∧ (s.held (lineOf (addr / 8 * 8)) = some l) ∧ (l.outcome = .poison)) ∧
    (∃ (s : State) (addr : Nat) (l : SLine), (addr < decodedEnd) ∧ (s.power.mainOk = true) ∧ (s.on SBD_CTRL_ENABLE = true) ∧ (s.openAt (lineOf (addr / 8 * 8)) = none) ∧ (s.lineErr (lineOf (addr / 8 * 8)) = 0) ∧ (s.held (lineOf (addr / 8 * 8)) = some l) ∧ (l.outcome = .poison)) ∧
    (∃ (s : State) (addr : Nat) (l : SLine), (addr < decodedEnd) ∧ (s.power.mainOk = true) ∧ (s.on SBD_CTRL_ENABLE = true) ∧ (s.openAt (lineOf (addr / 8 * 8)) = none) ∧ (s.lineErr (lineOf (addr / 8 * 8)) = 0) ∧ (s.held (lineOf (addr / 8 * 8)) = some l) ∧ (l.outcome = .poison)) ∧
    (∃ (s : State) (addr : Nat) (l : SLine), (addr < decodedEnd) ∧ (s.power.mainOk = true) ∧ (s.on SBD_CTRL_ENABLE = true) ∧ (s.openAt (lineOf addr) = none) ∧ (s.lineErr (lineOf addr) = 0) ∧ (s.held (lineOf addr) = some l) ∧ (l.outcome = .poison ∨ l.outcome = .lost)) :=
  ⟨⟨held .good false, 127, line .good, by decide +kernel⟩,
   ⟨held .good false, 127, line .good, by decide +kernel⟩,
   ⟨held .good false, 127, line .good, by decide +kernel⟩,
   ⟨held .good false, 127, line .good, by decide +kernel⟩,
   ⟨held .good false, 127, line .good, by decide +kernel⟩,
   ⟨held .poison false, 8, line .poison, by decide +kernel⟩,
   ⟨held .poison false, 8, line .poison, by decide +kernel⟩,
   ⟨held .poison false, 8, line .poison, by decide +kernel⟩,
   ⟨held .poison false, 8, line .poison, by decide +kernel⟩,
   ⟨held .poison false, 8, line .poison, by decide +kernel⟩,
   ⟨held .lost false, 0, line .lost, by decide +kernel, by decide +kernel, by decide +kernel, by decide +kernel, by decide +kernel, by decide +kernel, .inr (by decide)⟩⟩

theorem met_LineOperationsAct :
    (∃ (s : State) (addr : Nat) (l : SLine), (addr < decodedEnd) ∧ (s.power.mainOk = true) ∧ (s.on SBD_CTRL_ENABLE = true) ∧ (s.openAt (lineOf addr) = none) ∧ (s.lineErr (lineOf addr) = 0) ∧ (s.held (lineOf addr) = some l) ∧ (l.outcome = .good)) ∧
    (∃ (s : State) (addr : Nat), (addr < decodedEnd) ∧ (s.power.mainOk = true) ∧ (s.on SBD_CTRL_ENABLE = true)) ∧
    (∃ (s : State) (addr : Nat), (addr < decodedEnd) ∧ (s.power.mainOk = true) ∧ (s.on SBD_CTRL_ENABLE = true)) ∧
    (∃ (s : State) (addr : Nat) (l : SLine), (addr < decodedEnd) ∧ (s.power.mainOk = true) ∧ (s.on SBD_CTRL_ENABLE = true) ∧ (s.openAt (lineOf addr) = none) ∧ (s.lineErr (lineOf addr) = 0) ∧ (s.held (lineOf addr) = some l) ∧ (l.outcome = .good)) ∧
    (∃ (s : State) (addr fmt : Nat) (o : OpenLine), (addr < decodedEnd) ∧ (s.power.mainOk = true) ∧ (s.on SBD_CTRL_ENABLE = true) ∧ (fmt = 1 ∨ fmt = 3) ∧ (s.openAt (lineOf addr) = some o) ∧ (o.fmt = fmt)) ∧
    (∃ (s : State) (addr fmt : Nat), (s.RegsCanonical) ∧ (addr < decodedEnd) ∧ (s.power.mainOk = true) ∧ (s.on SBD_CTRL_ENABLE = true) ∧ (fmt = 1 ∨ fmt = 3) ∧ (s.openAt (lineOf addr) = none) ∧ (s.roomFor (lineOf addr) fmt = false)) ∧
    (∃ (s : State) (c : Nat) (w : WaitAdd), (s.power.mainOk = true) ∧ (s.on SBD_CTRL_ENABLE = true) ∧ ((s.sbd.waiting.find? fun w => cabOf w.addr == c) = some w) ∧ ((s.openAt (lineOf w.addr)).isSome ∨ s.roomFor w.addr w.fmt = true) ∧ ((∀ p peer vc n k, w.src ≠ .frame p peer vc n k))) ∧
    (∃ (s t : State) (c p peer n k : Nat) (vc : Bool) (w : WaitAdd), (s.power.mainOk = true) ∧ (s.on SBD_CTRL_ENABLE = true) ∧ ((s.sbd.waiting.find? fun w => cabOf w.addr == c) = some w) ∧ ((s.openAt (lineOf w.addr)).isSome ∨ s.roomFor w.addr w.fmt = true) ∧ (w.src = .frame p peer vc n k) ∧ (t = ({ s with sbd := { s.sbd with waiting := s.sbd.waiting.erase w } } : State).exactAdd w.addr w.fmt w.code w.poison w.src)) ∧
    (∃ (s : State) (addr : Nat) (l : SLine), (addr < decodedEnd) ∧ (s.power.mainOk = true) ∧ (s.on SBD_CTRL_ENABLE = true) ∧ (s.lineErr (lineOf addr) = 0) ∧ (s.held (lineOf addr) = some l) ∧ (l.dirty = true)) ∧
    (∃ (s : State) (addr : Nat) (l : SLine), (addr < decodedEnd) ∧ (s.lineErr (lineOf addr) = 0) ∧ (s.held (lineOf addr) = some l) ∧ (l.dirty = false)) :=
  ⟨⟨held .good false, 127, line .good, by decide +kernel⟩,
   ⟨up, decodedEnd - 1, by decide +kernel⟩,
   ⟨up, 0, by decide +kernel⟩,
   ⟨held .good false, 127, line .good, by decide +kernel⟩,
   ⟨opened 1, 124, 3, ⟨0, 3, [], false, false⟩, by decide +kernel, by decide +kernel, by decide +kernel, .inr (by decide), by decide +kernel, by decide +kernel⟩,
   ⟨opened 819, lineAt 0 0 1000, 1, by unfold State.RegsCanonical; decide +kernel, by decide +kernel, by decide +kernel, by decide +kernel, .inl (by decide), by decide +kernel, by decide +kernel⟩,
   ⟨{ up with sbd := { up.sbd with waiting := [⟨0, 1, 1, false, .command⟩] } }, 0, ⟨0, 1, 1, false, .command⟩, by decide +kernel, by decide +kernel, by decide +kernel, .inr (by decide +kernel), fun _ _ _ _ _ h => by cases h⟩,
   ⟨{ up with sbd := { up.sbd with waiting := [⟨0, 1, 1, false, .frame 0 0 true 5 1⟩] } }, _, 0, 0, 0, 5, 1, true, ⟨0, 1, 1, false, .frame 0 0 true 5 1⟩, by decide +kernel, by decide +kernel, by decide +kernel, .inr (by decide +kernel), by decide +kernel, rfl⟩,
   ⟨held .good true, 0, ⟨0, zeros 128, .good, true⟩, by decide +kernel⟩,
   ⟨held .good false, 0, line .good, by decide +kernel⟩⟩

theorem met_BackgroundAndRefresh :
    (∃ (s r : State) (c k : Nat), (c < 16) ∧ (s.power.mainOk = true) ∧ (s.on (CAB_CTRL_ENABLE c) = true) ∧ (k < 4) ∧ (s.settleClasses c = r) ∧ (bit (r.cab c).urgent k = false) ∧ (r.aged c k (r.patience c k * 3 / 4) = true)) ∧
    (∃ (s r : State) (c k : Nat), (c < 16) ∧ (s.power.mainOk = true) ∧ (s.on (CAB_CTRL_ENABLE c) = true) ∧ (k < 4) ∧ (s.settleClasses c = r) ∧ (bit (r.cab c).overdue k = false) ∧ (r.aged c k (r.patience c k) = true)) ∧
    (∃ (s r : State) (c : Nat), (c < 16) ∧ (s.power.mainOk = true) ∧ (s.on (CAB_CTRL_ENABLE c) = true) ∧ ((s.noteWaiting c).settleClasses c = r) ∧ ((r.cab c).refreshDue = true)) ∧
    (∃ (s r t : State) (c i : Nat), (c < 16) ∧ (s.power.mainOk = true) ∧ (s.on (CAB_CTRL_ENABLE c) = true) ∧ ((s.noteWaiting c).settleClasses c = r) ∧ ((r.cab c).refreshDue = false) ∧ (r.eldest c (fun j => bit (r.cab c).overdue j) true = (t, some i))) ∧
    (∃ (s r t : State) (c i : Nat), (c < 16) ∧ (s.power.mainOk = true) ∧ (s.on (CAB_CTRL_ENABLE c) = true) ∧ ((s.noteWaiting c).settleClasses c = r) ∧ ((r.cab c).refreshDue = false) ∧ (r.eldest c (fun j => bit (r.cab c).overdue j) true = (t, none)) ∧ ((List.range 4).find? (fun j => bit (r.cab c).urgent j) = some i) ∧ ((r.cab c).grants.contains true = false)) ∧
    (∃ (s r t : State) (c : Nat), (c < 16) ∧ (s.power.mainOk = true) ∧ (s.on (CAB_CTRL_ENABLE c) = true) ∧ ((s.noteWaiting c).settleClasses c = r) ∧ ((r.cab c).refreshDue = false) ∧ (r.eldest c (fun j => bit (r.cab c).overdue j) true = (t, none)) ∧ (((List.range 4).find? (fun j => bit (r.cab c).urgent j) = none ∨ (r.cab c).grants.contains true = true))) ∧
    (∃ (s r t u : State) (c i : Nat), (c < 16) ∧ (s.power.mainOk = true) ∧ (s.on (CAB_CTRL_ENABLE c) = true) ∧ ((s.noteWaiting c).settleClasses c = r) ∧ ((r.cab c).refreshDue = false) ∧ (r.eldest c (fun j => bit (r.cab c).overdue j) true = (t, none)) ∧ (((List.range 4).find? (fun j => bit (r.cab c).urgent j) = none ∨ (r.cab c).grants.contains true = true)) ∧ (t.eldest c (fun _ => true) false = (u, some i))) ∧
    (∃ (s : State) (c : Nat), (c < 16) ∧ (s.power.mainOk = true) ∧ (s.selfRefreshing c = false) ∧ ((s.cab c).refreshDue = false)) ∧
    (∃ (s : State) (c : Nat), (c < 16) ∧ (s.power.mainOk = true) ∧ (s.selfRefreshing c = false) ∧ ((s.cab c).refreshDue = true)) ∧
    (∃ (s : State) (c : Nat), (s.selfRefreshing c = true)) ∧
    (∃ (s : State) (c rate : Nat), (c < 16) ∧ (s.power.mainOk = true) ∧ (rate % 16 ≤ s.get (CAB_TEMP_REFRESH_RATE c))) ∧
    (∃ (s : State) (c rate : Nat), (c < 16) ∧ (s.power.mainOk = true) ∧ (s.get (CAB_TEMP_REFRESH_RATE c) < rate % 16)) :=
  ⟨⟨up, ((up).settleClasses 15), 15, 3, by decide +kernel, by decide +kernel, by decide +kernel, by decide +kernel, rfl, by decide +kernel, by decide +kernel⟩,
   ⟨up, ((up).settleClasses 15), 15, 3, by decide +kernel, by decide +kernel, by decide +kernel, by decide +kernel, rfl, by decide +kernel, by decide +kernel⟩,
   ⟨cab (fun x => { x with refreshDue := true }) up, (((cab (fun x => { x with refreshDue := true }) up).noteWaiting 0).settleClasses 0), 0, by decide +kernel, by decide +kernel, by decide +kernel, rfl, by decide +kernel⟩,
   ⟨cab (fun x => { x with overdue := 8, asks := [[], [], [], [0]] }) up, (((cab (fun x => { x with overdue := 8, asks := [[], [], [], [0]] }) up).noteWaiting 0).settleClasses 0), ((((cab (fun x => { x with overdue := 8, asks := [[], [], [], [0]] }) up).noteWaiting 0).settleClasses 0).eldest 0 (fun j => bit ((((cab (fun x => { x with overdue := 8, asks := [[], [], [], [0]] }) up).noteWaiting 0).settleClasses 0).cab 0).overdue j) true).1, 0, 3, by decide +kernel, by decide +kernel, by decide +kernel, rfl, by decide +kernel, Prod.ext rfl (by decide +kernel)⟩,
   ⟨cab (fun x => { x with urgent := 8, asks := [[], [], [], [0]] }) up, (((cab (fun x => { x with urgent := 8, asks := [[], [], [], [0]] }) up).noteWaiting 0).settleClasses 0), ((((cab (fun x => { x with urgent := 8, asks := [[], [], [], [0]] }) up).noteWaiting 0).settleClasses 0).eldest 0 (fun j => bit ((((cab (fun x => { x with urgent := 8, asks := [[], [], [], [0]] }) up).noteWaiting 0).settleClasses 0).cab 0).overdue j) true).1, 0, 3, by decide +kernel, by decide +kernel, by decide +kernel, rfl, by decide +kernel, Prod.ext rfl (by decide +kernel), by decide +kernel, by decide +kernel⟩,
   ⟨cab (fun x => { x with urgent := 8, grants := [true], asks := [[], [], [], [0]] }) up, (((cab (fun x => { x with urgent := 8, grants := [true], asks := [[], [], [], [0]] }) up).noteWaiting 0).settleClasses 0), ((((cab (fun x => { x with urgent := 8, grants := [true], asks := [[], [], [], [0]] }) up).noteWaiting 0).settleClasses 0).eldest 0 (fun j => bit ((((cab (fun x => { x with urgent := 8, grants := [true], asks := [[], [], [], [0]] }) up).noteWaiting 0).settleClasses 0).cab 0).overdue j) true).1, 0, by decide +kernel, by decide +kernel, by decide +kernel, rfl, by decide +kernel, Prod.ext rfl (by decide +kernel), .inr (by decide +kernel)⟩,
   ⟨up, (((up).noteWaiting 15).settleClasses 15), ((((up).noteWaiting 15).settleClasses 15).eldest 15 (fun j => bit ((((up).noteWaiting 15).settleClasses 15).cab 15).overdue j) true).1, (((((up).noteWaiting 15).settleClasses 15).eldest 15 (fun j => bit ((((up).noteWaiting 15).settleClasses 15).cab 15).overdue j) true).1.eldest 15 (fun _ => true) false).1, 15, 3, by decide +kernel, by decide +kernel, by decide +kernel, rfl, by decide +kernel, Prod.ext rfl (by decide +kernel), .inl (by decide +kernel), Prod.ext rfl (by decide +kernel)⟩,
   ⟨up, 15, by decide +kernel⟩,
   ⟨cab (fun x => { x with refreshDue := true }) up, 0, by decide +kernel⟩,
   ⟨{ up with mem := { up.mem with selfRefresh := true } }, 15, by decide +kernel⟩,
   ⟨up, 15, 16, by decide +kernel⟩,
   ⟨up, 15, 15, by decide +kernel⟩⟩

theorem met_ScrubAndEye :
    (∃ (s : State) (c : Nat), (c < 16) ∧ (s.power.mainOk = true) ∧ (s.on (CAB_CTRL_ENABLE c) = true) ∧ (s.on (CAB_CTRL_SCRUB_EN c) = true) ∧ ((s.cab c).passOn = false) ∧ ((s.cab c).passStart + s.scrubPeriod c ≤ s.time)) ∧
    (∃ (s : State) (c : Nat), (s.time < (s.cab c).passStart + s.scrubPeriod c)) ∧
    (∃ (s : State) (c : Nat), (c < 16) ∧ (s.power.mainOk = true) ∧ (s.on (CAB_CTRL_ENABLE c) = true) ∧ (s.on (CAB_CTRL_SCRUB_EN c) = true) ∧ ((s.cab c).passOn = true) ∧ ((s.cab c).passChan < 63)) ∧
    (∃ (s : State) (c : Nat), ((s.cab c).passOn = false)) ∧
    (∃ (s : State) (c : Nat), (c < 16) ∧ (s.power.mainOk = true) ∧ (s.on (CAB_CTRL_ENABLE c) = true) ∧ ((s.cab c).passOn = true) ∧ ((s.cab c).passLate = false) ∧ ((s.cab c).passStart + 86400000000000 ≤ s.time)) ∧
    (∃ (s : State) (c : Nat), ((s.cab c).passLate = true)) ∧
    (∃ (s : State) (c : Nat), (s.time < (s.cab c).passStart + 86400000000000)) ∧
    (∃ (s t : State) (c p : Nat), (c < 16) ∧ (s.power.mainOk = true) ∧ (s.on (CAB_CTRL_ENABLE c) = true) ∧ ((s.cab c).eyeAt + s.samplePeriod c ≤ s.time) ∧ (s.eyed c p = true) ∧ (t = s.setCab c (fun x => { x with eyeAt := s.time }))) ∧
    (∃ (s : State) (c : Nat), (s.time < (s.cab c).eyeAt + s.samplePeriod c)) :=
  ⟨⟨lit [(CAB_CTRL_SCRUB_EN 0, 1), (CAB_CTRL_SCRUB_HOURS 0, 1)] (cab (fun x => { x with passStart := 10 ^ 15 - 3600000000000 }) up), 0, by decide +kernel⟩,
   ⟨lit [(CAB_CTRL_SCRUB_HOURS 0, 1)] (cab (fun x => { x with passStart := 10 ^ 15 - 3599999999999 }) up), 0, by decide +kernel⟩,
   ⟨lit [(CAB_CTRL_SCRUB_EN 0, 1)] (cab (fun x => { x with passOn := true, passChan := 62 }) up), 0, by decide +kernel⟩,
   ⟨up, 0, by decide +kernel⟩,
   ⟨cab (fun x => { x with passOn := true, passStart := 10 ^ 15 - 86400000000000 }) up, 0, by decide +kernel⟩,
   ⟨cab (fun x => { x with passLate := true }) up, 0, by decide +kernel⟩,
   ⟨cab (fun x => { x with passOn := true, passStart := 10 ^ 15 - 86399999999999 }) up, 0, by decide +kernel⟩,
   ⟨up, up.setCab 0 (fun x => { x with eyeAt := up.time }), 0, 0, by decide +kernel, by decide +kernel, by decide +kernel, by decide +kernel, by decide +kernel, rfl⟩,
   ⟨cab (fun x => { x with eyeAt := 10 ^ 15 - 999999 }) up, 0, by decide +kernel⟩⟩

theorem met_EvacuationMoves :
    (∃ (s : State) (c : Nat), (c < 16) ∧ (s.power.mainOk = true) ∧ (s.on (CAB_CTRL_ENABLE c) = true) ∧ (s.get (CAB_EVAC_STATUS_PHASE c) = 1)) ∧
    (∃ (s : State) (c : Nat), (s.get (CAB_EVAC_STATUS_PHASE c) ≠ 1)) ∧
    (∃ (s : State) (c : Nat), (c < 16) ∧ (s.power.mainOk = true) ∧ (s.on (CAB_CTRL_ENABLE c) = true) ∧ (s.get (CAB_EVAC_STATUS_PHASE c) = 2)) ∧
    (∃ (s : State) (c : Nat), (s.get (CAB_EVAC_STATUS_PHASE c) ≠ 2)) ∧
    (∃ (s : State) (c p : Nat), (c < 16) ∧ (s.power.mainOk = true) ∧ (s.on (CAB_CTRL_ENABLE c) = true) ∧ (p < 68) ∧ (s.dstate c p = 5)) ∧
    (∃ (s : State) (c l n t : Nat), (c < 16) ∧ (s.power.mainOk = true) ∧ (s.on (CAB_CTRL_ENABLE c) = true) ∧ ((s.cab c).pause = some (l, n, t)) ∧ ((s.cab c).refreshDue = false) ∧ (n = 0 ∨ t + 100000 ≤ s.time)) ∧
    (∃ (s : State) (c p l : Nat), (c < 16) ∧ (s.power.mainOk = true) ∧ (s.on (CAB_CTRL_ENABLE c) = true) ∧ (p < 68) ∧ (s.dstate c p ≠ 8) ∧ (s.run.stepOn = false) ∧ (((List.range 64).find? fun l => (s.countAt 0x52 (cabInst c) 1).physOf c l == p) = some l)) ∧
    (∃ (s : State) (c p l : Nat), (c < 16) ∧ (s.power.mainOk = true) ∧ (s.on (CAB_CTRL_ENABLE c) = true) ∧ (p < 68) ∧ (s.dstate c p ≠ 8) ∧ ((s.countAt 0x52 (cabInst c) 1).run.stepOn = true) ∧ (((List.range 64).find? fun l => (s.countAt 0x52 (cabInst c) 1).physOf c l == p) = some l)) ∧
    (∃ (s : State) (c p : Nat), (s.dstate c p = 8)) ∧
    (∃ (s u : State) (c l t wm : Nat) (rest : List (Nat × Nat × Nat)), (c < 16) ∧ (s.power.mainOk = true) ∧ (s.on (CAB_CTRL_ENABLE c) = true) ∧ ((s.cab c).rebuild = (l, t, wm) :: rest) ∧ (u = (s.setCab c fun x => { x with rebuild := rest }).remap c l t)) ∧
    (∃ (s : State) (c : Nat), ((s.cab c).rebuild = [])) :=
  ⟨⟨up.put (CAB_EVAC_STATUS_PHASE 15) 1, 15, by decide +kernel⟩,
   ⟨up, 0, by decide +kernel⟩,
   ⟨lit [(CAB_EVAC_STATUS_PHASE 15, 2)] up, 15, by decide +kernel⟩,
   ⟨up, 0, by decide +kernel⟩,
   ⟨up.setDstate 0 67 5, 0, 67, by decide +kernel⟩,
   ⟨cab (fun x => { x with pause := some (3, 1, 10 ^ 15 - 100000) }) up, 0, 3, 1, 10 ^ 15 - 100000, by decide +kernel, by decide +kernel, by decide +kernel, by decide +kernel, by decide +kernel, .inr (by decide +kernel)⟩,
   ⟨up.setPhys 0 5 67, 0, 67, 5, by decide +kernel⟩,
   ⟨(running []).setPhys 0 5 67, 0, 67, 5, by decide +kernel⟩,
   ⟨up.setDstate 0 67 8, 0, 67, by decide +kernel⟩,
   ⟨cab (fun x => { x with rebuild := [(3, 64, 0)] }) up, ((cab (fun x => { x with rebuild := [(3, 64, 0)] }) up).setCab 0 fun x => { x with rebuild := [] }).remap 0 3 64, 0, 3, 64, 0, [], by decide +kernel, by decide +kernel, by decide +kernel, by decide +kernel, rfl⟩,
   ⟨up, 0, by decide +kernel⟩⟩

theorem met_PortsTrainAndAdapt :
    (∃ (s u : State) (p lanes speed high : Nat), (p < 24) ∧ (s.power.mainOk = true) ∧ (s.on (QPT_CTRL_ENABLE p) = true) ∧ (s.portAlive p = false) ∧ (s.on (QPT_STATUS_MISCABLED p) = false) ∧ (s.trained p lanes 2 = some (speed, high)) ∧ (speed ≠ 1) ∧ (u = ((s.linkUp p speed high).onPort p fun x => { x with helloSince := some s.time, lowMargin := 0 }))) ∧
    (∃ (s : State) (p lanes : Nat), (s.trained p lanes 2 = none ∨ s.power.mainOk = false ∨ s.portAlive p = true ∨ s.on (QPT_STATUS_MISCABLED p) = true)) ∧
    (∃ (s : State) (p : Nat), (s.portUp p = true)) ∧
    (∃ (s u : State) (p role peerPort mac : Nat), (s.portUp p = true) ∧ (s.switched = false) ∧ (s.quill.chans = []) ∧ (s.miscabled p peerPort mac = false) ∧ (u = ((((s.onPort p fun x => { x with helloSince := none, partner := some (helloModule peerPort mac) }).put (QPT_PARTNER_ROLE p) role).put (QPT_PARTNER_PORT p) peerPort).put (QPT_PARTNER_VALID p) 1).put (QPT_STATUS_MISCABLED p) 0) ∧ (u.switched = false)) ∧
    (∃ (s : State) (p peerPort mac : Nat), (s.RegsCanonical) ∧ (s.portUp p = true) ∧ (s.miscabled p peerPort mac = true)) ∧
    (∃ (s u : State) (p margin lane : Nat), (s.portUp p = true) ∧ (u = ((s.put (QPT_EQ_MARGIN p) margin).put (QPT_EQ_WORST_LANE p) lane).countAt 0xB4 (portInst p) 1) ∧ ((u.sendCtrl p 2 (u.get (QPT_PARTNER_ROLE p)) (u.ctrlMac p) []).get (QPT_EQ_RETRAIN_MARGIN p) ≤ margin)) ∧
    (∃ (s : State) (p lanes was : Nat), ((s.qport p).retrain = some was) ∧ (s.trained p lanes was = none)) ∧
    (∃ (s u : State) (p lanes was speed high : Nat), ((s.qport p).retrain = some was) ∧ (s.trained p lanes was = some (speed, high)) ∧ (speed ≠ 1 ∨ was = 1) ∧ (laneFailed was (s.get (QPT_STATUS_LANES_HIGH p)) lanes = false) ∧ (u = ((s.linkUp p speed high).onPort p fun x => { x with retrain := none }).releasePort p)) ∧
    (∃ (s u : State) (p lanes was speed high : Nat), ((s.qport p).retrain = some was) ∧ (s.trained p lanes was = some (speed, high)) ∧ ((speed = 1 ∧ was ≠ 1) ∨ laneFailed was (s.get (QPT_STATUS_LANES_HIGH p)) lanes = true) ∧ (u = (((((s.linkUp p speed high).onPort p fun x => { x with retrain := none }).put (QPT_STATUS_DEGRADED p) 1).countAt 0xAA (portInst p) 1).countAt 0xB6 (portInst p) 1).releasePort p)) ∧
    (∃ (s : State) (p : Nat), ((s.qport p).retrain = none)) :=
  ⟨⟨lit [(QPT_CTRL_ENABLE 23, 1), (QPT_CTRL_ALLOW_800 23, 1)] up, ((((lit [(QPT_CTRL_ENABLE 23, 1), (QPT_CTRL_ALLOW_800 23, 1)] up).linkUp 23 2 0).onPort 23 fun x => { x with helloSince := some (lit [(QPT_CTRL_ENABLE 23, 1), (QPT_CTRL_ALLOW_800 23, 1)] up).time, lowMargin := 0 })), 23, 255, 2, 0, by decide +kernel, by decide +kernel, by decide +kernel, by decide +kernel, by decide +kernel, by decide +kernel, by decide +kernel, rfl⟩,
   ⟨up, 0, 0, .inl (by decide +kernel)⟩,
   ⟨linked up, 0, by decide +kernel⟩,
   ⟨lit [(QPT_STATUS_LINK_UP 23, 1)] up, (((((lit [(QPT_STATUS_LINK_UP 23, 1)] up).onPort 23 fun x => { x with helloSince := none, partner := some (helloModule 0 0) }).put (QPT_PARTNER_ROLE 23) 2047).put (QPT_PARTNER_PORT 23) 0).put (QPT_PARTNER_VALID 23) 1).put (QPT_STATUS_MISCABLED 23) 0, 23, 2047, 0, 0, by decide +kernel, by decide +kernel, by decide +kernel, by decide +kernel, rfl, by decide +kernel⟩,
   ⟨{ (linked up).put (QPT_PARTNER_VALID 1) 1 with quill := { ((linked up).put (QPT_PARTNER_VALID 1) 1).quill with ports := QPort.reset :: { QPort.reset with partner := some 7 } :: up.quill.ports.drop 2 } }, 0, 0, 9, by unfold State.RegsCanonical; decide +kernel, by decide +kernel, by decide +kernel⟩,
   ⟨(linked up).put (QPT_EQ_RETRAIN_MARGIN 0) 9, (((((linked up).put (QPT_EQ_RETRAIN_MARGIN 0) 9).put (QPT_EQ_MARGIN 0) 9).put (QPT_EQ_WORST_LANE 0) 0).countAt 0xB4 (portInst 0) 1), 0, 9, 0, by decide +kernel, rfl, by decide +kernel⟩,
   ⟨{ (linked up).put (QPT_STATUS_LINK_UP 0) 0 with quill := { ((linked up).put (QPT_STATUS_LINK_UP 0) 0).quill with ports := [{ QPort.reset with retrain := some 2 }] ++ up.quill.ports.drop 1 } }, 0, 0, 2, by decide +kernel⟩,
   ⟨{ ((linked up).put (QPT_STATUS_LINK_UP 0) 0).put (QPT_CTRL_ALLOW_800 0) 1 with quill := { (((linked up).put (QPT_STATUS_LINK_UP 0) 0).put (QPT_CTRL_ALLOW_800 0) 1).quill with ports := [{ QPort.reset with retrain := some 2 }] ++ up.quill.ports.drop 1 } }, ((({ ((linked up).put (QPT_STATUS_LINK_UP 0) 0).put (QPT_CTRL_ALLOW_800 0) 1 with quill := { (((linked up).put (QPT_STATUS_LINK_UP 0) 0).put (QPT_CTRL_ALLOW_800 0) 1).quill with ports := [{ QPort.reset with retrain := some 2 }] ++ up.quill.ports.drop 1 } }).linkUp 0 2 0).onPort 0 fun x => { x with retrain := none }).releasePort 0, 0, 255, 2, 2, 0, by decide +kernel, by decide +kernel, .inl (by decide), by decide +kernel, rfl⟩,
   ⟨{ ((linked up).put (QPT_STATUS_LINK_UP 0) 0).put (QPT_CTRL_ALLOW_800 0) 1 with quill := { (((linked up).put (QPT_STATUS_LINK_UP 0) 0).put (QPT_CTRL_ALLOW_800 0) 1).quill with ports := [{ QPort.reset with retrain := some 2 }] ++ up.quill.ports.drop 1 } }, (((((({ ((linked up).put (QPT_STATUS_LINK_UP 0) 0).put (QPT_CTRL_ALLOW_800 0) 1 with quill := { (((linked up).put (QPT_STATUS_LINK_UP 0) 0).put (QPT_CTRL_ALLOW_800 0) 1).quill with ports := [{ QPort.reset with retrain := some 2 }] ++ up.quill.ports.drop 1 } }).linkUp 0 1 1).onPort 0 fun x => { x with retrain := none }).put (QPT_STATUS_DEGRADED 0) 1).countAt 0xAA (portInst 0) 1).countAt 0xB6 (portInst 0) 1).releasePort 0, 0, 0xF0, 2, 1, 1, by decide +kernel, by decide +kernel, .inl (by decide), rfl⟩,
   ⟨up, 0, by decide +kernel⟩⟩

theorem met_LinkTimersAcksAndBadFrames :
    (∃ (s : State) (p t : Nat), ((s.qport p).helloSince = some t) ∧ (t + 500000000 ≤ s.time)) ∧
    (∃ (s : State) (p lanes : Nat), ((s.qport p).helloSince = none) ∧ ((s.trained p lanes 2).isSome = true)) ∧
    (∃ (s : State) (p peer : Nat) (c : Chan) (f : TxFrame) (rest : List TxFrame), (s.chan p peer = some c) ∧ (c.unacked = f :: rest) ∧ (s.portUp p = true) ∧ (s.get (QPT_RETRY_CTRL_ACK_TIMEOUT p) ≠ 0) ∧ (f.sentAt + 100 * s.get (QPT_RETRY_CTRL_ACK_TIMEOUT p) ≤ s.time)) ∧
    (∃ (s : State) (p peer : Nat) (c : Chan) (f : TxFrame) (rest : List TxFrame), (s.chan p peer = some c) ∧ (c.unacked = f :: rest) ∧ (s.portUp p = true) ∧ (s.get (QPT_RETRY_CTRL_ACK_TIMEOUT p) = 0) ∧ (f.sentAt + 8000 ≤ s.time)) ∧
    (∃ (s : State) (p peer : Nat) (c : Chan) (f : TxFrame) (rest : List TxFrame), (s.chan p peer = some c) ∧ (c.unacked = f :: rest) ∧ (s.get (QPT_RETRY_CTRL_ACK_TIMEOUT p) ≠ 0) ∧ (s.time < f.sentAt + 100 * s.get (QPT_RETRY_CTRL_ACK_TIMEOUT p))) ∧
    (∃ (s : State) (p peer t : Nat) (c : Chan), (s.chan p peer = some c) ∧ (c.ackDue = some t) ∧ (s.portUp p = true) ∧ (t + 1000 ≤ s.time ∨ 16 ≤ c.sinceAck)) ∧
    (∃ (s : State) (p peer t : Nat) (c : Chan), (s.chan p peer = some c) ∧ (c.ackDue = some t) ∧ (s.time < t + 1000) ∧ (c.sinceAck < 16)) ∧
    (∃ (s : State) (fr : QFrame) (c : Chan), (s.portUp fr.port = true) ∧ (s.on QFB_CTRL_ENABLE = true) ∧ (fr.fcs = true) ∧ (fr.fec = true) ∧ (frameOk qAck fr = true) ∧ ((s.noteCode fr).chan fr.port fr.peer = some c) ∧ (c.toGroup = false) ∧ (fr.h.nak = false)) ∧
    (∃ (s : State) (fr : QFrame), (s.portUp fr.port = true)) ∧
    (∃ (s : State) (fr : QFrame) (t : Nat), (s.portUp fr.port = true) ∧ (frameOk t fr = false) ∧ (t ≠ qAck) ∧ (t ≠ 10) ∧ ((s.linkRx fr).2 = true)) ∧
    (∃ (s : State) (fr : QFrame) (t : Nat), (s.portUp fr.port = true) ∧ (frameOk t fr = false) ∧ (t = qAck ∨ t = 10) ∧ (fr.fcs = true) ∧ (fr.fec = true)) ∧
    (∃ (s : State) (fr : QFrame), (s.portUp fr.port = false)) ∧
    (∃ (s : State) (p prio quanta : Nat), (s.portUp p = true) ∧ (s.switched = true) ∧ (prio = s.get QFB_SWITCHED_PFC_PRIO) ∧ (quanta ≠ 0) ∧ (s.get (QPT_STATUS_SPEED p) ≠ 1)) ∧
    (∃ (s : State) (p : Nat), (s.portUp p = true) ∧ (s.switched = false)) ∧
    (∃ (s : State) (p prio : Nat), (s.portUp p = true) ∧ (s.switched = true) ∧ (prio ≠ s.get QFB_SWITCHED_PFC_PRIO)) :=
  ⟨⟨{ up with time := 500000000, quill := { up.quill with ports := { QPort.reset with helloSince := some 0 } :: up.quill.ports.drop 1 } }, 0, 0, by decide +kernel⟩,
   ⟨lit [(QPT_CTRL_ENABLE 23, 1), (QPT_CTRL_ALLOW_800 23, 1)] up, 23, 255, by decide +kernel⟩,
   ⟨{ (linked up).put (QPT_RETRY_CTRL_ACK_TIMEOUT 0) 80 with time := 8000, quill := { up.quill with chans := [{ chan with unacked := [txf] }] } }, 0, 0, { chan with unacked := [txf] }, txf, [], by decide +kernel⟩,
   ⟨{ (linked up).put (QPT_RETRY_CTRL_ACK_TIMEOUT 0) 0 with time := 8000, quill := { up.quill with chans := [{ chan with unacked := [txf] }] } }, 0, 0, { chan with unacked := [txf] }, txf, [], by decide +kernel⟩,
   ⟨{ (linked up).put (QPT_RETRY_CTRL_ACK_TIMEOUT 0) 80 with time := 7999, quill := { up.quill with chans := [{ chan with unacked := [txf] }] } }, 0, 0, { chan with unacked := [txf] }, txf, [], by decide +kernel⟩,
   ⟨{ (linked up).put (QPT_RETRY_CTRL_ACK_TIMEOUT 0) 80 with time := 1000, quill := { up.quill with chans := [{ chan with ackDue := some 0 }] } }, 0, 0, 0, { chan with ackDue := some 0 }, by decide +kernel, by decide +kernel, by decide +kernel, .inl (by decide)⟩,
   ⟨{ (linked up).put (QPT_RETRY_CTRL_ACK_TIMEOUT 0) 80 with time := 999, quill := { up.quill with chans := [{ chan with ackDue := some 0 }] } }, 0, 0, 0, { chan with ackDue := some 0 }, by decide +kernel⟩,
   ⟨linked up, ctl, chan, by decide +kernel⟩,
   ⟨linked up, ctl, by decide +kernel⟩,
   ⟨linked up, { ctl with h := { qh with qver := 2 } }, 1, by decide +kernel⟩,
   ⟨linked up, { ctl with h := { qh with qver := 2 } }, 10, by decide +kernel, by decide +kernel, .inr rfl, by decide +kernel, by decide +kernel⟩,
   ⟨up, ctl, by decide +kernel⟩,
   ⟨(linked up).put QFB_CTRL_TOPOLOGY 1, 0, ((linked up).put QFB_CTRL_TOPOLOGY 1).get QFB_SWITCHED_PFC_PRIO, 0xFFFF, by decide +kernel⟩,
   ⟨linked up, 0, by decide +kernel⟩,
   ⟨(linked up).put QFB_CTRL_TOPOLOGY 1, 0, 8, by decide +kernel⟩⟩

theorem met_HandoverAndGaspTimeoutComplete :
    (∃ (s r : State) (p peer : Nat), ((if s.portUp p then s.farDown p peer else s) = r)) ∧
    (∃ (s r : State) (p peer : Nat), ((if s.portUp p then s.farDown p peer else s) = r) ∧ (r.quill.handover.any (r.handed p peer) = false)) ∧
    (∃ (s t : State) (p peer m : Nat) (c : Chan) (ms : List Nat), (s.chan p peer = some c) ∧ (s.heirs p = m :: ms) ∧ ((s.mapQuill fun q => { q with chans := q.chans.filter fun x => !(x.port == c.port && x.peer == c.peer) }).noteChans p = t)) ∧
    (∃ (s : State) (p peer q : Nat) (sent waiting : List TxFrame), (s.portUp p = false) ∧ (s.quill.handover = [(p, q, sent, waiting)]) ∧ (s.switched = false ∨ q = peer) ∧ ((s.mapQuill fun q => { q with handover := [] }).heirs p = [])) ∧
    (∃ (s u : State) (p peer m last : Nat) (a b : TxFrame), (u = (s.mapQuill fun q => { q with handover := [] })) ∧ (s.portUp p = false) ∧ (s.quill.handover = [(p, peer, [a, b], [])]) ∧ (u.heirs p = [m]) ∧ ((u.chan m peer).isSome = true) ∧ (last < 2 ^ 30) ∧ (a.h.lseq = last) ∧ (b.h.lseq = last + 1)) ∧
    (∃ (s : State) (t : Nat) (b : Bool), (s.svl.wardGasp = some t) ∧ (b = true ∨ t + 10000000000 ≤ s.time)) ∧
    (∃ (s : State) (t : Nat), (s.svl.wardGasp = some t) ∧ (s.time < t + 10000000000)) ∧
    (∃ (s : State), (s.svl.wardGasp = none)) :=
  ⟨⟨up, up, 0, 0, rfl⟩,
   ⟨up, up, 0, 0, rfl, by decide +kernel⟩,
   ⟨({ lit [(QPT_STATUS_LINK_UP 1, 1)] (linked up) with quill := { (linked up).quill with chans := [chan, { chan with port := 1 }] } } : State), ((({ lit [(QPT_STATUS_LINK_UP 1, 1)] (linked up) with quill := { (linked up).quill with chans := [chan, { chan with port := 1 }] } } : State).mapQuill fun q => { q with chans := q.chans.filter fun x => !(x.port == 0 && x.peer == 0) }).noteChans 0), 0, 0, 1, chan, [], rfl, by decide +kernel, rfl⟩,
   ⟨{ up with quill := { up.quill with handover := [(0, 0, [txf], [])] } }, 0, 0, 0, [txf], [], by decide +kernel, by decide +kernel, .inr rfl, by decide +kernel⟩,
   ⟨{ linked up with quill := { (linked up).quill with handover := [(1, 0, [txf, { txf with h := { qh with lseq := 1 } }], [])] } }, ({ linked up with quill := { (linked up).quill with handover := [(1, 0, [txf, { txf with h := { qh with lseq := 1 } }], [])] } }).mapQuill fun q => { q with handover := [] }, 1, 0, 0, 0, txf, { txf with h := { qh with lseq := 1 } }, rfl, by decide +kernel, by decide +kernel, by decide +kernel, by decide +kernel, by decide +kernel, by decide +kernel, by decide +kernel⟩,
   ⟨{ up with svl := { Survival.reset with wardGasp := some (10 ^ 15 - 10000000000) } }, 10 ^ 15 - 10000000000, false, by decide +kernel, .inr (by decide)⟩,
   ⟨{ up with svl := { Survival.reset with wardGasp := some (10 ^ 15 - 9999999999) } }, 10 ^ 15 - 9999999999, by decide +kernel⟩,
   ⟨up, by decide +kernel⟩⟩

theorem met_DataFramesAreTaken :
    (∃ (s : State) (fr : QFrame) (x : Tensor), (s.frameIn qWrite fr = true) ∧ ((s.linked fr).localRole fr.h = true) ∧ ((s.linked fr).inStep fr.h false = true) ∧ ((s.linked fr).target fr.h = some x)) ∧
    (∃ (s : State) (fr : QFrame) (x : Tensor), (s.frameIn qAdd fr = true) ∧ ((s.linked fr).localRole fr.h = true) ∧ ((s.linked fr).inStep fr.h false = true) ∧ ((s.linked fr).target fr.h = some x)) ∧
    (∃ (s g : State) (fr : QFrame) (x : Tensor), (s.frameIn qMcast fr = true) ∧ (g = ((s.linked fr).countAt 0xB0 (portInst fr.port) 1).notePass qMcast fr.h) ∧ (bit (g.groupOf fr.h) 63 = true) ∧ (bit (g.groupOf fr.h) 31 = true) ∧ (g.switched = true) ∧ (g.inStep fr.h true = true) ∧ (g.target fr.h = some x)) ∧
    (∃ (s g u : State) (fr : QFrame) (x : Tensor), (s.frameIn qMcast fr = true) ∧ (g = ((s.linked fr).countAt 0xB0 (portInst fr.port) 1).notePass qMcast fr.h) ∧ (bit (g.groupOf fr.h) 63 = true) ∧ (bit (g.groupOf fr.h) 31 = true) ∧ (g.switched = false) ∧ (u = g.routeGroup (some fr.port) qMcast fr.h fr.payload) ∧ (u.inStep fr.h true = true) ∧ (u.target fr.h = some x)) ∧
    (∃ (s : State) (fr : QFrame), (s.frameIn qClose fr = true) ∧ ((s.linked fr).groupClose fr = false) ∧ ((s.linked fr).localRole fr.h = true) ∧ ((s.linked fr).inStep fr.h false = true)) ∧
    (∃ (s : State) (fr : QFrame), (s.frameIn qWrite fr = true) ∧ ((s.linked fr).localRole fr.h = false)) ∧
    (∃ (s : State) (fr : QFrame), ((s.linkRx fr).2 = false)) :=
  ⟨⟨linked (running [tens, remote]), one, parseTensor ten, by decide +kernel⟩,
   ⟨linked (running [tens, remote]), add, parseTensor ten, by decide +kernel⟩,
   ⟨grouped.put QFB_CTRL_TOPOLOGY 1, (((grouped.put QFB_CTRL_TOPOLOGY 1).linked ({ one with group := true })).countAt 0xB0 (portInst 0) 1).notePass qMcast one.h, { one with group := true }, parseTensor ten, by decide +kernel, rfl, by decide +kernel, by decide +kernel, by decide +kernel, by decide +kernel, by decide +kernel⟩,
   ⟨grouped, grouped_, grouped_.routeGroup (some 0) qMcast one.h one.payload, one, parseTensor ten, by decide +kernel, rfl, by decide +kernel, by decide +kernel, by decide +kernel, rfl, by decide +kernel, by decide +kernel⟩,
   ⟨linked (running [tens, remote]), ctl, by decide +kernel⟩,
   ⟨linked (running [tens, remote]), { one with h := { one.h with dst := 7 } }, by decide +kernel⟩,
   ⟨up, one, by decide +kernel⟩⟩

theorem met_FramesOfOtherStepsAreHeldOrRefused :
    (∃ (s : State) (fr : QFrame), (s.frameIn qWrite fr = true) ∧ ((s.linked fr).localRole fr.h = true) ∧ ((s.linked fr).jobState = jsRunning) ∧ ((s.linked fr).step < fr.h.step)) ∧
    (∃ (s : State) (fr : QFrame), (s.frameIn qWrite fr = true) ∧ ((s.linked fr).localRole fr.h = true) ∧ ((s.linked fr).jobState = jsRunning) ∧ (fr.h.step < (s.linked fr).step)) ∧
    (∃ (s : State) (fr : QFrame), (s.frameIn qWrite fr = true) ∧ ((s.linked fr).localRole fr.h = true) ∧ ((s.linked fr).jobState ≠ jsRunning)) ∧
    (∃ (s : State) (fr : QFrame), (s.frameIn qAdd fr = true) ∧ ((s.linked fr).localRole fr.h = true) ∧ ((s.linked fr).inStep fr.h false = true) ∧ ((s.linked fr).target fr.h = none)) :=
  ⟨⟨linked (running [tens, remote]), { one with h := { one.h with step := 1 } }, by decide +kernel⟩,
   ⟨(linked (running [tens, remote])).put GLB_STEP_STEP 1, one, by decide +kernel⟩,
   ⟨linked (loaded [tens, remote]), one, by decide +kernel⟩,
   ⟨linked (running [tens, remote]), { add with h := { add.h with arg := 8 } }, by decide +kernel⟩⟩

theorem met_DeliveryReportsAndReads :
    (∃ (s : State) (role list dst mseq lines sem : Nat) (g : Bool) (m : RxMsg), (s.rxMsg role list dst g mseq = some m) ∧ (m.close = some (lines, sem, true)) ∧ (m.lines = lines) ∧ (m.fabric = false) ∧ (s.nextDelivery role list dst g = mseq) ∧ (s.run.stepOn = true)) ∧
    (∃ (s : State) (role list dst mseq : Nat) (g : Bool), (s.nextDelivery role list dst g ≠ mseq ∨ s.run.stepOn = false ∨ s.rxMsg role list dst g mseq = none)) ∧
    (∃ (s : State) (fr : QFrame), (s.frameIn qReport fr = true) ∧ ((s.linked fr).localRole fr.h = true)) ∧
    (∃ (s : State) (h : QHdr), (s.run.stepOn = true) ∧ (s.quill.sent.any (reported s h) = true) ∧ (bits h.arg 7 0 = 3)) ∧
    (∃ (s : State) (fr : QFrame), (s.frameIn qReadReq fr = true) ∧ ((s.linked fr).localRole fr.h = true)) ∧
    (∃ (s : State) (fr : QFrame), (s.frameIn qReadResp fr = true) ∧ ((s.linked fr).localRole fr.h = true)) :=
  ⟨⟨{ running [] with quill := { Quill.reset with rx := [⟨0, 1, 0, 0, false, 0, 8, some (8, 3, true), false⟩] } }, 1, 0, 0, 0, 8, 3, false, ⟨0, 1, 0, 0, false, 0, 8, some (8, 3, true), false⟩, by decide +kernel⟩,
   ⟨up, 1, 0, 0, 0, false, .inr (.inl (by decide +kernel))⟩,
   ⟨linked (running [tens, remote]), ctl, by decide +kernel⟩,
   ⟨{ running [] with quill := { Quill.reset with sent := [⟨0, 1, false, 0, 1, 0, 128, 1⟩] } }, { qh with arg := 3 }, by decide +kernel⟩,
   ⟨linked (running [tens, remote]), ctl, by decide +kernel⟩,
   ⟨linked (running [tens, remote]), one, by decide +kernel⟩⟩

theorem met_StepRunsTheFrontCommand :
    (∃ (s : State) (c : Instr) (rest : List Instr), (s.pending = c :: rest)) ∧
    (∃ (s : State), (s.pending = [])) :=
  ⟨⟨{ up with pending := [.pwrEnRise] }, .pwrEnRise, [], by decide +kernel⟩,
   ⟨up, by decide +kernel⟩⟩

theorem met_SoundnessIsKept : (∃ (s t : State), (s.Sound) ∧ (step s = .next t)) :=
  ⟨State.reset, State.reset.tick, reset_sound, rfl⟩

theorem met_CommandsKeepTheQueueTheClockAndWhatWasSent : (∃ (c : Instr) (s t : State), (exec c s = .next t)) :=
  ⟨.pwrEnRise, State.reset, { State.reset with pins := { State.reset.pins with pwrEn := true } }, rfl⟩

theorem met_FloorsNeverFallAndOnlyThreeRowsChangeTheOwner : (∃ (s t : State), (step s = .next t)) :=
  ⟨State.reset, State.reset.tick, rfl⟩

theorem met_QuietCommandsLeaveMemoryAlone :
    (∃ (c : Instr) (s t : State), (memoryQuiet c = true) ∧ (exec c s = .next t)) ∧
    (∃ (c : Instr) (s t : State), (memoryQuiet c = true) ∧ (exec c s = .next t)) :=
  ⟨⟨.pwrEnRise, State.reset, { State.reset with pins := { State.reset.pins with pwrEn := true } }, by decide +kernel, rfl⟩,
   ⟨.pwrEnRise, State.reset, { State.reset with pins := { State.reset.pins with pwrEn := true } }, by decide +kernel, rfl⟩⟩

theorem met_OnlyAnUndecodedLineFaults :
    (∃ (c : Instr) (a : Nat), (lineAddress c = some a) ∧ (decodedEnd ≤ a)) ∧
    (∃ (c : Instr), ((∀ a, lineAddress c = some a → a < decodedEnd))) ∧
    (∃ (s : State), (s.pending = [])) ∧
    (∃ (c : Instr) (s : State) (a : Nat), (lineAddress c = some a) ∧ (a < decodedEnd) ∧ (s.power.mainOk = false ∨ s.on SBD_CTRL_ENABLE = false)) :=
  ⟨⟨.minU decodedEnd 1, decodedEnd, by decide +kernel⟩,
   ⟨.minU (decodedEnd - 1) 1, fun a h => by cases h; decide⟩,
   ⟨up, by decide +kernel⟩,
   ⟨.minU 0 1, State.reset, 0, by decide +kernel, by decide +kernel, .inl (by decide)⟩⟩

theorem met_LowWordsLatchHighWords : (∃ (s : State) (m : Bool) (a : Nat), (regAddr a = a) ∧ (regAddr (a + 4) = a + 4) ∧ (isLo a = true) ∧ (s.answers a = true) ∧ (s.answers (a + 4) = true) ∧ ((s.win.latched.find? fun l => l.1 == m && l.2.1 == a) = none) ∧ (s.shown (a + 4) < 2 ^ 32)) :=
  ⟨up, true, 0x40010, by decide +kernel⟩

theorem met_ElementsReadUnderTheirScale :
    (∃ (f blk b : Nat), (4 ≤ f) ∧ (f ≤ 7) ∧ (blk ≠ 0) ∧ (b = 0xFF)) ∧
    (∃ (f blk code b : Nat) (neg : Bool) (m : Nat) (e : Int), (4 ≤ f) ∧ (f ≤ 7) ∧ (blk ≠ 0) ∧ (b ≤ 0xFE) ∧ (decode f code = .fin neg m e)) ∧
    (∃ (blk b : Nat), (blk ≠ 0) ∧ (b ≤ 0xFE)) ∧
    (∃ (blk code b : Nat), (blk ≠ 0) ∧ (b ≤ 0xFE) ∧ (code < 256)) ∧
    (∃ (f code : Nat), (4 ≤ f) ∧ (f ≤ 7) ∧ (code < 2 ^ fmtWidth f)) :=
  ⟨⟨7, 1, 255, by decide +kernel⟩,
   ⟨4, 1, 1, 254, false, 1, -16, by decide +kernel⟩,
   ⟨1, 254, by decide +kernel⟩,
   ⟨1, 255, 254, by decide +kernel⟩,
   ⟨4, 255, by decide +kernel⟩⟩

theorem met_ZerosKeepTheirSign :
    (∃ (f : Nat), (f = fE5M2 ∨ f = fE4M3 ∨ f = fE2M1)) ∧
    (∃ (f : Nat) (xs : List (XV × Rnd)), (4 ≤ f) ∧ (f ≤ 7) ∧ ((∀ x ∈ xs, ∃ neg e, x.1 = .fin neg 0 e))) :=
  ⟨⟨fE2M1, by decide⟩,
   ⟨7, [(.fin true 0 0, .rne)], by decide +kernel, by decide +kernel, fun x h => by simp only [List.mem_singleton] at h; subst h; exact ⟨true, 0, rfl⟩⟩⟩

theorem met_RoundingClampsAndNeverOverflows :
    (∃ (f : Nat), (f ≤ 7)) ∧
    (∃ (f : Nat) (m : Nat) (e : Int), (f ≤ 7) ∧ ((fmtMax f).lt (.fin false m e) = true)) ∧
    (∃ (f : Nat) (n : Nat), (f ≤ 7) ∧ (n ≠ 0)) ∧
    (∃ (f : Nat), (f ≤ 7)) ∧
    (∃ (f : Nat) (xs : List (XV × Rnd)), (4 ≤ f) ∧ (f ≤ 7) ∧ ((∀ x ∈ xs, x.1.isFin = true))) :=
  ⟨⟨7, by decide +kernel⟩,
   ⟨5, 449, 0, by decide +kernel⟩,
   ⟨1, 1, by decide +kernel⟩,
   ⟨1, by decide +kernel⟩,
   ⟨4, [(.fin false 1 300, .rne)], by decide +kernel⟩⟩

theorem met_PowerSetWritesModeAndTarget :
    (∃ (s : State) (h : Hdr), (s.runs h ⟨0x0701, true, false, false, some 5, .always, false⟩ = true)) ∧
    (∃ (s : State) (h : Hdr) (mode : Nat), (s.runs h ⟨0x0701, true, false, false, some 5, .always, false⟩ = true) ∧ (1 < mode)) ∧
    (∃ (s : State) (r : Nat), (s.RegsCanonical) ∧ (r ≤ 1850)) :=
  ⟨⟨up, hh, by decide +kernel⟩,
   ⟨up, hh, 2, by decide +kernel⟩,
   ⟨up, 1850, by unfold State.RegsCanonical; decide +kernel, by decide +kernel⟩⟩

theorem met_PairedWritesOfGuardedRegisters :
    (∃ (s : State) (h : Hdr) (addr : Nat), (s.runs h (opReg 0x0102) = true) ∧ (guarded (regAddr addr) = false)) ∧
    (∃ (s : State) (h : Hdr) (addr : Nat), (s.runs h (opReg 0x0102) = true) ∧ (addrOk addr = true) ∧ (aliasOf addr = 0) ∧ (guarded (regAddr addr) = true) ∧ ((s.admitted h).pendingHalf (baseOf addr) = none) ∧ ((s.admitted h).answers (regAddr addr) = true)) ∧
    (∃ (a : Nat), (4 ≤ a) ∧ (guarded (a - 4) = true) ∧ (a ≠ 0x30014) ∧ (a ≠ 0x20000)) :=
  ⟨⟨up, hh, 0x44, by decide +kernel⟩,
   ⟨up, hh, 0x1F0008, by decide +kernel⟩,
   ⟨0x44, by decide +kernel⟩⟩

theorem met_RideFramesOfTheWard :
    (∃ (s g : State) (fr gr : QFrame), (gr = rideFrame fr 0xFF01) ∧ (g = s.linked gr) ∧ (s.frameIn qRide gr = true) ∧ (g.wardFrame gr = true) ∧ (g.inTurn gr = true)) ∧
    (∃ (s g : State) (fr gr : QFrame), (gr = rideFrame fr 0xFF02) ∧ (g = s.linked gr) ∧ (s.frameIn qRide gr = true) ∧ (g.wardFrame gr = true) ∧ (g.inTurn gr = true)) ∧
    (∃ (s g : State) (fr gr : QFrame), (gr = rideFrame fr 0xFF03) ∧ (g = s.linked gr) ∧ (s.frameIn qRide gr = true) ∧ (g.wardFrame gr = true) ∧ (g.inTurn gr = true)) ∧
    (∃ (s g : State) (fr gr : QFrame), (gr = rideFrame fr 0xFF04) ∧ (g = s.linked gr) ∧ (s.frameIn qRide gr = true) ∧ (g.wardFrame gr = true) ∧ (g.inTurn gr = true)) ∧
    (∃ (s g : State) (fr gr : QFrame), (gr = rideFrame fr 0xFF05) ∧ (g = s.linked gr) ∧ (s.frameIn qRide gr = true) ∧ (g.wardFrame gr = true) ∧ (g.inTurn gr = true) ∧ (¬(g.followers.contains fr.h.srcRole = true ∧ fr.h.arg = 5 ∧ fld fr.payload 0 4 = 0xFFFFFFFF))) ∧
    (∃ (s g : State) (fr gr : QFrame), (gr = rideFrame fr 0xFF06) ∧ (g = s.linked gr) ∧ (s.frameIn qRide gr = true) ∧ (g.wardFrame gr = true)) ∧
    (∃ (s g : State) (fr gr : QFrame), (gr = rideFrame fr 0xFF00) ∧ (g = s.linked gr) ∧ (s.frameIn qRide gr = true) ∧ (g.localRole fr.h = true) ∧ (g.wardRole ≠ some fr.h.srcRole ∨ g.on SVL_CTRL_WARD_EN = true)) ∧
    (∃ (s g : State) (fr gr : QFrame), (gr = rideFrame fr 0xFF00) ∧ (g = s.linked gr) ∧ (s.frameIn qRide gr = true) ∧ (g.localRole fr.h = true) ∧ (g.wardRole = some fr.h.srcRole) ∧ (g.on SVL_CTRL_WARD_EN = false)) ∧
    (∃ (s g : State) (fr gr : QFrame), (gr = rideFrame fr 0xFF02) ∧ (g = s.linked gr) ∧ (s.frameIn qRide gr = true) ∧ (g.localRole fr.h = true) ∧ (g.wardRole = some fr.h.srcRole) ∧ (g.on SVL_CTRL_WARD_EN = false) ∧ (g.inTurn gr = true)) ∧
    (∃ (s g : State) (fr gr : QFrame), (gr = rideFrame fr 0xFF02) ∧ (g = s.linked gr) ∧ (s.frameIn qRide gr = true) ∧ (g.localRole fr.h = true) ∧ (g.wardRole ≠ some fr.h.srcRole) ∧ (g.inTurn gr = true)) ∧
    (∃ (s g : State) (fr gr : QFrame) (n : Nat), (gr = rideFrame fr 0xFF02) ∧ (g = s.linked gr) ∧ (s.frameIn qRide gr = true) ∧ (g.localRole fr.h = true) ∧ (g.rideTurn fr.h.srcRole = some n) ∧ (n ≠ fr.h.mseq) ∧ (mseqBefore n fr.h.mseq = true)) ∧
    (∃ (s g : State) (fr gr : QFrame) (n : Nat), (gr = rideFrame fr 0xFF02) ∧ (g = s.linked gr) ∧ (s.frameIn qRide gr = true) ∧ (g.localRole fr.h = true) ∧ (g.rideTurn fr.h.srcRole = some n) ∧ (n ≠ fr.h.mseq) ∧ (mseqBefore n fr.h.mseq = false)) :=
  ⟨⟨following, (following).linked (rideFrame (one) 0xFF01), one, rideFrame (one) 0xFF01, rfl, rfl, by decide +kernel, by decide +kernel, by decide +kernel⟩,
   ⟨following, (following).linked (rideFrame (one) 0xFF02), one, rideFrame (one) 0xFF02, rfl, rfl, by decide +kernel, by decide +kernel, by decide +kernel⟩,
   ⟨following, (following).linked (rideFrame (one) 0xFF03), one, rideFrame (one) 0xFF03, rfl, rfl, by decide +kernel, by decide +kernel, by decide +kernel⟩,
   ⟨following, (following).linked (rideFrame (one) 0xFF04), one, rideFrame (one) 0xFF04, rfl, rfl, by decide +kernel, by decide +kernel, by decide +kernel⟩,
   ⟨following, (following).linked (rideFrame (one) 0xFF05), one, rideFrame (one) 0xFF05, rfl, rfl, by decide +kernel, by decide +kernel, by decide +kernel, by decide +kernel⟩,
   ⟨following, (following).linked (rideFrame (one) 0xFF06), one, rideFrame (one) 0xFF06, rfl, rfl, by decide +kernel, by decide +kernel⟩,
   ⟨following, (following).linked (rideFrame (one) 0xFF00), one, rideFrame (one) 0xFF00, rfl, rfl, by decide +kernel, by decide +kernel, .inr (by decide +kernel)⟩,
   ⟨following.put SVL_CTRL_WARD_EN 0, (following.put SVL_CTRL_WARD_EN 0).linked (rideFrame (one) 0xFF00), one, rideFrame (one) 0xFF00, rfl, rfl, by decide +kernel, by decide +kernel, by decide +kernel, by decide +kernel⟩,
   ⟨following.put SVL_CTRL_WARD_EN 0, (following.put SVL_CTRL_WARD_EN 0).linked (rideFrame (one) 0xFF02), one, rideFrame (one) 0xFF02, rfl, rfl, by decide +kernel, by decide +kernel, by decide +kernel, by decide +kernel, by decide +kernel⟩,
   ⟨following, (following).linked (rideFrame ({ one with h := { one.h with srcRole := 5 } }) 0xFF02), { one with h := { one.h with srcRole := 5 } }, rideFrame ({ one with h := { one.h with srcRole := 5 } }) 0xFF02, rfl, rfl, by decide +kernel, by decide +kernel, by decide +kernel, by decide +kernel⟩,
   ⟨{ following with svl := { following.svl with rideNext := [(1, 4294967295)] } }, ({ following with svl := { following.svl with rideNext := [(1, 4294967295)] } }).linked (rideFrame (one) 0xFF02), one, rideFrame (one) 0xFF02, 4294967295, rfl, rfl, by decide +kernel, by decide +kernel, by decide +kernel, by decide +kernel, by decide +kernel⟩,
   ⟨{ following with svl := { following.svl with rideNext := [(1, 1)] } }, ({ following with svl := { following.svl with rideNext := [(1, 1)] } }).linked (rideFrame (one) 0xFF02), one, rideFrame (one) 0xFF02, 1, rfl, rfl, by decide +kernel, by decide +kernel, by decide +kernel, by decide +kernel, by decide +kernel⟩⟩

theorem met_WhatRideFramesDo :
    (∃ (s : State), (s.following = true)) ∧
    (∃ (s : State), (s.following = false)) ∧
    (∃ (s : State), (s.RegsCanonical)) ∧
    (∃ (s : State) (fr : QFrame), (fr.h.arg = 1) ∧ (s.get SVL_STATUS_WARD_FOLLOW ≠ 3)) ∧
    (∃ (fr : QFrame), (fr.h.arg = 4) ∧ (fld fr.payload 0 4 ≠ 0)) ∧
    (∃ (s : State) (fr : QFrame) (f : Folio), (s.RegsCanonical) ∧ (s.wardFolio = some f) ∧ (s.following = true) ∧ (s.sbd.openLines = []) ∧ (fr.h.lines = 1) ∧ (128 * fr.h.arg < shardLen f.shard) ∧ (fr.h.poison = false) ∧ ((s.held (s.wardBase + 128 * fr.h.arg)).isSome = true) ∧ (s.wardFolio = (s.put SVL_STATUS_SNAPSHOT_VALID 0).wardFolio)) :=
  ⟨⟨following, by decide +kernel⟩,
   ⟨up, by decide +kernel⟩,
   ⟨up, by unfold State.RegsCanonical; decide +kernel⟩,
   ⟨following, { one with h := { one.h with arg := 1 } }, by decide +kernel⟩,
   ⟨{ one with h := { one.h with arg := 4 }, payload := [1] }, by decide +kernel⟩,
   ⟨mapped, one, mapFolio mapped.wardMapBytes, by unfold State.RegsCanonical; decide +kernel, by decide +kernel, by decide +kernel, by decide +kernel, by decide +kernel, by decide +kernel, by decide +kernel, by decide +kernel, by decide +kernel⟩⟩

theorem met_RiskSampleFilters :
    (∃ (s : State), (s.power.mainOk = false ∨ s.on RSK_CTRL_ENABLE = false)) ∧
    (∃ (s : State), (s.power.mainOk = true) ∧ (s.on RSK_CTRL_ENABLE = true)) ∧
    (∃ (r : Nat), (r ≤ 65535)) :=
  ⟨⟨State.reset, .inl (by decide)⟩,
   ⟨up, by decide +kernel⟩,
   ⟨65535, by decide +kernel⟩⟩

theorem met_IntakeTakesAndPauses :
    (∃ (s : State) (port : Nat) (h : IntakeHdr) (pl : List Byte) (a : State), (port < 2) ∧ (s.power.mainOk = true) ∧ (s.hostUp port = true) ∧ (a = (s.hostRx port).countAt 0xC9 (hostInst port) 1) ∧ (a.on INT_CTRL_ENABLE = true) ∧ (a.jobState = jsRunning) ∧ (h.kind = 0) ∧ (intakeMalformed h pl.length = false)) ∧
    (∃ (s : State) (port : Nat) (h : IntakeHdr) (pl : List Byte) (a : State), (port < 2) ∧ (s.power.mainOk = true) ∧ (s.hostUp port = true) ∧ (a = (s.hostRx port).countAt 0xC9 (hostInst port) 1) ∧ (a.on INT_CTRL_ENABLE = true) ∧ (a.jobState = jsRunning) ∧ (h.kind = 1) ∧ (intakeMalformed h pl.length = false)) ∧
    (∃ (s : State) (port : Nat) (h : IntakeHdr) (pl : List Byte) (a : State), (port < 2) ∧ (s.power.mainOk = true) ∧ (s.hostUp port = true) ∧ (a = (s.hostRx port).countAt 0xC9 (hostInst port) 1) ∧ (a.on INT_CTRL_ENABLE = false ∨ a.jobState ≠ jsRunning ∨ intakeMalformed h pl.length = true)) ∧
    (∃ (s : State) (h : IntakeHdr), ((s.intake.samples.find? fun x => x.seq == h.sampleSeq) = none) ∧ (s.intakeNext ≤ h.sampleSeq) ∧ (s.isGap h.sampleSeq = false) ∧ (s.intakeNext + 65536 ≤ h.sampleSeq)) ∧
    (∃ (s : State) (h : IntakeHdr), ((s.intake.samples.find? fun x => x.seq == h.sampleSeq) = none) ∧ (s.intakeNext ≤ h.sampleSeq) ∧ (s.isGap h.sampleSeq = false) ∧ (h.sampleSeq < s.intakeNext + 65536) ∧ (s.intake.free < roundUp h.sampleBytes 128)) ∧
    (∃ (s : State), (s.power.mainOk = true) ∧ (s.on INT_CTRL_ENABLE = true) ∧ (s.on INT_STATUS_PAUSED = false) ∧ (s.intake.free ≤ s.intakeDist)) ∧
    (∃ (s : State), (s.on INT_STATUS_PAUSED = false) ∧ (s.intakeDist < s.intake.free)) ∧
    (∃ (s : State), (s.power.mainOk = true) ∧ (s.on INT_CTRL_ENABLE = true) ∧ (s.on INT_STATUS_PAUSED = true) ∧ (s.intake.free < s.resumeLevel) ∧ (s.intake.xoffAt + 40000 ≤ s.time)) ∧
    (∃ (s : State), (s.power.mainOk = true) ∧ (s.on INT_CTRL_ENABLE = true) ∧ (s.on INT_STATUS_PAUSED = true) ∧ (s.resumeLevel ≤ s.intake.free)) ∧
    (∃ (s : State) (t ns : Nat), (s.RegsCanonical) ∧ (s.power.mainOk = true) ∧ (s.on INT_CTRL_ENABLE = true) ∧ (s.on INT_STATUS_PAUSED = false) ∧ (bit (s.intake.due &&& s.intake.carried) 0 = true) ∧ (s.intake.pausedAt = some t) ∧ (s.intake.tail0 + 2000 ≤ s.time) ∧ (ns = s.intake.tail0 - t)) ∧
    (∃ (s : State) (t ns : Nat), (s.RegsCanonical) ∧ (s.power.mainOk = true) ∧ (s.on INT_CTRL_ENABLE = true) ∧ (s.on INT_STATUS_PAUSED = false) ∧ (bit (s.intake.due &&& s.intake.carried) 1 = true) ∧ (s.intake.pausedAt = some t) ∧ (s.intake.tail1 + 2000 ≤ s.time) ∧ (ns = s.intake.tail1 - t)) ∧
    (∃ (s a : State) (d : Nat), (s.power.mainOk = true) ∧ (s.on INT_CTRL_ENABLE = true) ∧ (a = s.noteRtt) ∧ (a.on INT_RTT0_VALID = true ∨ a.on INT_RTT1_VALID = true) ∧ (d = max 64 (min (a.get INT_RING_MIB * 64) (ceilDiv (a.portStop 0 (a.get INT_RTT0_NS) + a.portStop 1 (a.get INT_RTT1_NS) + 9216) 4096))) ∧ (d ≠ a.get INT_DIST_D)) ∧
    (∃ (s : State), (s.power.mainOk = true) ∧ (s.on INT_CTRL_ENABLE = true) ∧ (s.intake.rtt 0 = []) ∧ (s.intake.rtt 1 = []) ∧ (s.RegsCanonical)) :=
  ⟨⟨job jsRunning up, 1, ih, zeros 16, ((job jsRunning up).hostRx 1).countAt 0xC9 (hostInst 1) 1, by decide +kernel, by decide +kernel, by decide +kernel, rfl, by decide +kernel, by decide +kernel, by decide +kernel, by decide +kernel⟩,
   ⟨job jsRunning up, 1, gh, [], ((job jsRunning up).hostRx 1).countAt 0xC9 (hostInst 1) 1, by decide +kernel, by decide +kernel, by decide +kernel, rfl, by decide +kernel, by decide +kernel, by decide +kernel, by decide +kernel⟩,
   ⟨up, 1, gh, [], (up.hostRx 1).countAt 0xC9 (hostInst 1) 1, by decide +kernel, by decide +kernel, by decide +kernel, rfl, .inr (.inl (by decide +kernel))⟩,
   ⟨job jsRunning up, { ih with sampleSeq := 65536 }, by decide +kernel⟩,
   ⟨job jsRunning up, { ih with sampleSeq := 65535 }, by decide +kernel⟩,
   ⟨job jsRunning up, by decide +kernel⟩,
   ⟨{ up with intake := { Intake.reset with free := 4096 * up.get INT_DIST_D + 1 } }, by decide +kernel⟩,
   ⟨{ up.put INT_STATUS_PAUSED 1 with intake := { Intake.reset with xoffAt := 10 ^ 15 - 40000 } }, by decide +kernel⟩,
   ⟨{ up.put INT_STATUS_PAUSED 1 with intake := { Intake.reset with free := up.resumeLevel } }, by decide +kernel⟩,
   ⟨{ up with intake := { Intake.reset with carried := 1, due := 3, pausedAt := some 5, tail0 := 905 } }, 5, 900, by unfold State.RegsCanonical; decide +kernel, by decide +kernel, by decide +kernel, by decide +kernel, by decide +kernel, by decide +kernel, by decide +kernel, by decide +kernel⟩,
   ⟨{ up with intake := { Intake.reset with carried := 2, due := 2, pausedAt := some 5, tail1 := 905 } }, 5, 900, by unfold State.RegsCanonical; decide +kernel, by decide +kernel, by decide +kernel, by decide +kernel, by decide +kernel, by decide +kernel, by decide +kernel, by decide +kernel⟩,
   ⟨{ up with intake := { Intake.reset with pauses := 1, rtt1 := [(1, 0xFFFFFF)] } }, (State.noteRtt { up with intake := { Intake.reset with pauses := 1, rtt1 := [(1, 0xFFFFFF)] } }), max 64 (min ((State.noteRtt { up with intake := { Intake.reset with pauses := 1, rtt1 := [(1, 0xFFFFFF)] } }).get INT_RING_MIB * 64) (ceilDiv ((State.noteRtt { up with intake := { Intake.reset with pauses := 1, rtt1 := [(1, 0xFFFFFF)] } }).portStop 0 ((State.noteRtt { up with intake := { Intake.reset with pauses := 1, rtt1 := [(1, 0xFFFFFF)] } }).get INT_RTT0_NS) + (State.noteRtt { up with intake := { Intake.reset with pauses := 1, rtt1 := [(1, 0xFFFFFF)] } }).portStop 1 ((State.noteRtt { up with intake := { Intake.reset with pauses := 1, rtt1 := [(1, 0xFFFFFF)] } }).get INT_RTT1_NS) + 9216) 4096)), by decide +kernel, by decide +kernel, rfl, .inr (by decide +kernel), rfl, by decide +kernel⟩,
   ⟨up, by decide +kernel, by decide +kernel, by decide +kernel, by decide +kernel, by unfold State.RegsCanonical; decide +kernel⟩⟩

/-! ## Witnesses for the statements with nested clauses -/

/-- The main side off, the Escritoire serving the side-band. -/
def mainOff : State := { up.put GLB_STATE_MAIN_ON 0 with power := { up.power with main := .off, mainOk := false } }

theorem met_PldmRequestsAnswered :
    (up.pldmUp = true ∧ mainOff.pldmUp = true) ∧
    (∃ n, n ∈ numericSensors ∧ up.sensorUp n = true) ∧
    (∃ n, n ∈ numericSensors ∧ mainOff.sensorUp n = false) ∧
    (∃ n, n ∈ stateSensors ∧ up.sensorUp n = true) ∧
    (∀ x, up.esc.receiver ≠ some (true, x)) := by
  refine ⟨by decide +kernel, ⟨7, by decide +kernel⟩, ⟨7, by decide +kernel⟩, ⟨23, by decide +kernel⟩, ?_⟩
  intro x; have h : up.esc.receiver = none := rfl; rw [h]; simp

/-- The owner's session, with number 4 of its window answered before. -/
def cachedUp : State :=
  { up with chembe := { up.chembe with sessions := [⟨.host 0 1 2, 5, 4, [4], [(4, mkReply hh 0 0 false [])], 0⟩] } }

theorem met_GatesComeBeforeAnyEffect :
    (up.arrives hh.src = true ∧ up.esc.recovery = false) ∧
    up.sessionFor { hh with session := 9 } = none ∧
    (∃ x, up.sessionFor hh = some x ∧ up.sessionFor { hh with version := 2 } = some x ∧ ({ hh with version := 2 } : Hdr).version ≠ 1) ∧
    (∃ x, up.sessionFor { hh with rsvClear := false } = some x ∧ hh.version = 1 ∧ ({ hh with rsvClear := false } : Hdr).rsvClear = false) ∧
    (∃ x, up.sessionFor { hh with seq := 4000 } = some x ∧ x.classify 4000 = .outside ∧ hh.rsvClear = true ∧ hh.status = 0) ∧
    (∃ x n r, cachedUp.sessionFor { hh with seq := 4 } = some x ∧ x.classify 4 = .dup ∧
      (x.cache.find? fun p => p.1 == 4) = some (n, r)) ∧
    (∃ s : State, s.takes hh = true ∧ hh.src.isSide = false ∧ (s.admitted hh).isOwner hh.src = false) ∧
    (∃ s : State, s.takes hh = true ∧ (s.admitted hh).presenceOpen = false) ∧
    (∃ (s : State) (c : Nat), s.takes hh = true ∧ (s.admitted hh).lockedFor hh.src.isSide c = true) := by
  refine ⟨by decide +kernel, by decide +kernel, ⟨_, rfl, by decide +kernel, by decide +kernel⟩,
    ⟨⟨.host 0 1 2, 5, 0, [], [], 0⟩, by decide +kernel⟩, ⟨⟨.host 0 1 2, 5, 0, [], [], 0⟩, by decide +kernel⟩,
    ⟨_, _, _, rfl, by decide +kernel, rfl⟩,
    ⟨{ up with flash := { up.flash with owner := some (2, 0) } }, by decide +kernel⟩,
    ⟨{ up with esc := { up.esc with windowEnd := none } }, by decide +kernel⟩,
    ⟨up.put GLB_LOCK_MGMT_HELD 1, 0, by decide +kernel⟩⟩

/-- Counter 0 one below the boundary, staying there or not. -/
def counted (sat : Nat) : State := lit [(CNT_VAL_LO_VALUE_LO 0, 0xFFFFFFFF), (CNT_VAL_HI_VALUE_HI 0, 0xFFFF), (CNT_SEL_SATURATE 0, sat)] State.reset

theorem counted_canonical (sat : Nat) (h : sat < 2) : (counted sat).RegsCanonical := by
  have : sat = 0 ∨ sat = 1 := by omega
  rcases this with rfl | rfl <;> (unfold State.RegsCanonical; decide +kernel)

theorem met_CountersWrapOrSaturate :
    (∃ v n, (counted 0).get2 (CNT_VAL_LO_VALUE_LO 0) (CNT_VAL_HI_VALUE_HI 0) = v ∧ v + n < 2 ^ 48 ∧ v + n = 2 ^ 48 - 1) ∧
    (∃ v n, (counted 0).get2 (CNT_VAL_LO_VALUE_LO 0) (CNT_VAL_HI_VALUE_HI 0) = v ∧ v < 2 ^ 48 ∧ v + n = 2 ^ 48 ∧
      v = 2 ^ 48 - 1 ∧ (counted 0).on (CNT_SEL_SATURATE 0) = false) ∧
    (∃ v n, (counted 1).get2 (CNT_VAL_LO_VALUE_LO 0) (CNT_VAL_HI_VALUE_HI 0) = v ∧ v + n = 2 ^ 48 ∧
      (counted 1).on (CNT_SEL_SATURATE 0) = true) ∧ (∃ j, j < 64 ∧ j ≠ 0) :=
  ⟨⟨2 ^ 48 - 1, 0, by decide +kernel⟩, ⟨2 ^ 48 - 1, 1, by decide +kernel⟩, ⟨2 ^ 48 - 1, 1, by decide +kernel⟩, ⟨63, by decide⟩⟩

theorem met_MainSideBlocksReadZeroWhileOff :
    State.reset.power.mainOk = false ∧ (0x30000 ≤ regAddr 0x30000 ∧ regAddr 0x2FFFC < 0x30000) ∧
    ((State.reset.win.latched.find? fun l => l.1 == true && l.2.1 == regAddr 0x2FFFC) = none) ∧
    (State.reset.pendingHalf (baseOf 0x30000) = none ∧ (State.reset.writeReg true 0x30000 1).2 = stSuccess) ∧
    (State.reset.writePair true 0x30000 1).2 = stSuccess ∧
    (regAddr 0x10000 < 0x30000 ∧ aliasOf 0x10000 = 0 ∧ State.reset.pendingHalf (baseOf 0x10000) = none ∧
      guarded (regAddr 0x10000) = false ∧ (4 ≤ regAddr 0x10000 → guarded (regAddr 0x10000 - 4) = false)) := by
  decide +kernel

theorem met_I3cAndMctpControlAnswered_endpoint :
    up.esc.ready = true ∧ up.esc.i3cAddr = some 8 ∧ (∃ op eid : Nat, op ≤ 1 ∧ 8 ≤ eid ∧ eid ≤ 254) ∧
    (∃ op eid : Nat, ¬(op ≤ 1 ∧ 8 ≤ eid ∧ eid ≤ 254)) ∧ (∃ m, m ∈ mctpTypes) ∧ (∃ n : Nat, n ≠ 0) :=
  ⟨by decide +kernel, by decide +kernel, ⟨0, 8, by decide⟩, ⟨0, 255, by decide⟩, ⟨0x7F, by decide⟩, ⟨1, by decide⟩⟩

/-- A migration at a group. -/
def migrating (w : Nat) : State := lit [(CAB_EVAC_STATUS_PHASE 0, 2), (CAB_EVAC_WMARK_WMARK 0, w)] up

theorem met_EvacuationMoves_ends :
    (∃ s : State, s.power.mainOk = true ∧ s.on (CAB_CTRL_ENABLE 0) = true ∧ s.get (CAB_EVAC_STATUS_PHASE 0) = 2 ∧
      s.get (CAB_EVAC_WMARK_WMARK 0) + 1 < groupCount) ∧
    (∃ s : State, s.power.mainOk = true ∧ s.on (CAB_CTRL_ENABLE 0) = true ∧ s.get (CAB_EVAC_STATUS_PHASE 0) = 2 ∧
      groupCount = s.get (CAB_EVAC_WMARK_WMARK 0) + 1) ∧
    (∃ l n t, (up.setCab 0 fun x => { x with pause := some (3, 2046, 10 ^ 15 - 100000) }).cab 0 =
      { up.cab 0 with pause := some (l, n, t) } ∧ t + 100000 = up.time ∧ n + 1 < 2048) :=
  ⟨⟨migrating 0, by decide +kernel⟩, ⟨migrating (groupCount - 1), by decide +kernel⟩, ⟨3, 2046, 10 ^ 15 - 100000, by decide +kernel⟩⟩

theorem met_ElementsReadUnderTheirScale_nan :
    (∃ code, code < 256 ∧ 4 ≤ code / 4 % 32 - 27 ∧ code % 4 ≠ 0) ∧ (∃ code, code < 256 ∧ code % 128 = 127) :=
  ⟨⟨0x7D, by decide⟩, ⟨0xFF, by decide⟩⟩
/-! ## Ill-formed terms are refused -/

theorem test_header_fields : ({ hh with version := 256 } : Hdr).ok = false ∧ ({ hh with seq := 2 ^ 32 } : Hdr).ok = false ∧
    ({ hh with tag := 2 ^ 32 } : Hdr).ok = false ∧ ({ hh with session := 2 ^ 16 } : Hdr).ok = false ∧
    ({ hh with status := 2 ^ 16 } : Hdr).ok = false ∧ wellFormed (.ping { hh with src := .host 2 0 0 } []) = false := by decide
theorem test_sources : (Src.host 2 0 0).ok = false ∧ (Src.host 0 (2 ^ 128) 0).ok = false ∧ (Src.host 0 0 (2 ^ 16)).ok = false ∧
    (Src.side 256).ok = false ∧ wellFormed (.chembeRefused ⟨.side 256, []⟩) = false := by decide
theorem test_quill_fields : ({ qh with qver := 16 } : QHdr).ok = false ∧ ({ qh with srcRole := 2048 } : QHdr).ok = false ∧
    ({ qh with srcList := 8 } : QHdr).ok = false ∧ ({ qh with dst := 2048 } : QHdr).ok = false ∧
    ({ qh with lines := 256 } : QHdr).ok = false ∧ ({ qh with fmt := 256 } : QHdr).ok = false ∧
    ({ qh with lseq := 2 ^ 32 } : QHdr).ok = false ∧ ({ qh with lack := 2 ^ 32 } : QHdr).ok = false ∧
    ({ qh with step := 2 ^ 32 } : QHdr).ok = false ∧ ({ qh with mseq := 2 ^ 32 } : QHdr).ok = false ∧
    ({ qh with dstTid := 2 ^ 16 } : QHdr).ok = false ∧ ({ qh with arg := 2 ^ 48 } : QHdr).ok = false := by decide
theorem test_frames : ({ ctl with port := 24 } : QFrame).ok = false ∧ ({ ctl with peer := 2 ^ 20 } : QFrame).ok = false ∧
    ({ ctl with h := { qh with qver := 16 } } : QFrame).ok = false ∧ wellFormed (.ack { ctl with port := 24 }) = false ∧
    wellFormed (.badFrame ctl true 16) = false := by decide
theorem test_intake_fields : ({ ih with magic := 2 ^ 32 } : IntakeHdr).ok = false ∧ ({ ih with version := 256 } : IntakeHdr).ok = false ∧
    ({ ih with kind := 256 } : IntakeHdr).ok = false ∧ ({ ih with frag := 2 ^ 16 } : IntakeHdr).ok = false ∧
    ({ ih with sampleSeq := 2 ^ 64 } : IntakeHdr).ok = false ∧ ({ ih with sampleBytes := 2 ^ 32 } : IntakeHdr).ok = false ∧
    ({ ih with fragCount := 2 ^ 16 } : IntakeHdr).ok = false ∧ ({ ih with sflags := 2 ^ 16 } : IntakeHdr).ok = false ∧
    ({ ih with rows := 2 ^ 32 } : IntakeHdr).ok = false ∧ ({ ih with rsv := 2 ^ 32 } : IntakeHdr).ok = false ∧
    wellFormed (.fragment 2 0 ih []) = false ∧ wellFormed (.gap 0 8 gh []) = false := by decide
theorem test_units : wellFormed (.mm 2 none) = false ∧ wellFormed (.copy 32) = false ∧ wellFormed (.update 16) = false ∧
    wellFormed (.qwrite 8) = false ∧ wellFormed (.nop 0x38) = false ∧ wellFormed (.wave 0 4 true none) = false ∧
    wellFormed (.wave 0 0 true (some (8, 0))) = false ∧ wellFormed (.hardFail 0 68) = false ∧ wellFormed (.portTrain 24 0) = false ∧
    wellFormed (.hostPortTrain 0 16) = false ∧ wellFormed (.hostPortTrain 2 0) = false ∧ wellFormed (.thermTrip 5) = false ∧
    wellFormed (.heartbeat 4) = false ∧ wellFormed (.commandDone 512) = false ∧ wellFormed (.bgUrgent 0 4) = false ∧
    wellFormed (.ready [(0, 0, 0, 9)] []) = false ∧ wellFormed (.ready [] [(16, 0)]) = false ∧
    wellFormed (.mm 0 (some ⟨4, 0, 0, false, 0, 0, 0, 0⟩)) = false := by decide
theorem test_lines : wellFormed (.lineRead .management 0x17400000000) = false ∧ wellFormed (.lineRead (.engine 2) 0) = false ∧
    wellFormed (.lineWrite 0 [] false) = false ∧ wellFormed (.mergeWrite 127 ⟨1, [0, 0]⟩) = false ∧
    wellFormed (.exactAdd 0 2 0 false) = false ∧ wellFormed (.exactAdd 0 1 (2 ^ 32) false) = false ∧ wellFormed (.swap 4 0) = false ∧
    wellFormed (.cmpSwap 0 (2 ^ 64) 0) = false ∧ wellFormed (.fetchAdd 0 (2 ^ 64)) = false ∧ wellFormed (.broadcastRow 0 [⟨[some ⟨[2 ^ 32], [], []⟩], false⟩]) = false ∧
    wellFormed (.broadcastRow 0 [⟨[some ⟨[], [256], []⟩], false⟩]) = false ∧ wellFormed (.broadcastRow 0 [⟨[some ⟨[], [], [2 ^ 40]⟩], false⟩]) = false ∧
    wellFormed (.broadcastRow 0 [row, row, row, row, row]) = false ∧ wellFormed (.weightRowLoad 0 0 [2 ^ 32]) = false := by decide
theorem test_parameters : wellFormed (.hello hh (2 ^ 16) 0) = false ∧ wellFormed (.regRead hh (2 ^ 32) 1) = false ∧
    wellFormed (.memRead hh (2 ^ 64) 0 0) = false ∧ wellFormed (.loadFolio hh 0 [0]) = false ∧ wellFormed (.adopt hh (2 ^ 16) 0) = false ∧
    wellFormed (.attest hh [] 0 0) = false ∧ wellFormed (.eventMask hh (2 ^ 64)) = false ∧ wellFormed (.arp 0 (2 ^ 32) 0 0) = false ∧
    wellFormed (.echoRequest 0 false (2 ^ 32) 0 []) = false ∧ wellFormed (.evacReq hh 0 64) = false ∧ wellFormed (.entdaa 128) = false ∧
    wellFormed (.setEndpointId 4 0) = false ∧ wellFormed (.getSensorReading 1 (2 ^ 31)) = false ∧ wellFormed (.coldStart 0 16 0) = false ∧
    wellFormed (.sealSample (some (2 ^ 32))) = false ∧ wellFormed (.pfcFrame 0 8 0) = false ∧ wellFormed (.delivery 0 16 0 false 0) = false := by
  decide
theorem test_well_formed : wellFormed (.hello hh 1 0) = true ∧ wellFormed (.memRead hh 0 128 0) = true ∧ wellFormed (.ack ctl) = true ∧
    wellFormed (.fragment 0 3 ih []) = true ∧ wellFormed (.mm 1 none) = true ∧ wellFormed (.nop 0x4F) = true ∧
    wellFormed (.lineRead (.engine 0x10) 0x173FFFFFFFF) = true ∧ wellFormed (.getSensorReading 3 (-40)) = true := by decide

/-! ## Worked values of the spec -/

/-- 1.0 in A40 and W24 (the example of spec/02_number_formats.md). -/
theorem test_one : (encodeXV fA40 .rne (.ofNat 1)).1 = 0x3FE0000000 ∧ (encodeXV fW24 .rne (.ofNat 1)).1 = 0x3FC000 := by decide +kernel

/-- The first waves of a Leaf, and how many of them were active. -/
def waves : Nat → Leaf → Leaf × Nat
  | 0, l => (l, 0)
  | n + 1, l => let (x, k) := waves n l; let (y, a) := x.nextWave 8; (y, k + a.toNat)

/-- A parked Leaf makes 27 of its first 48 waves active while its level climbs to 8 (the example of R38,
spec/01_leaves_and_desks.md). -/
theorem test_ramp : (waves 48 Leaf.parked).2 = 27 ∧ (waves 48 Leaf.parked).1.level = 8 := by decide +kernel

/-- The worked example of placing a line (spec/06_stacked_memory.md). -/
theorem test_placing : cabOf 0x12345678980 = 1 ∧ lchanOf 0x12345678980 = 28 ∧ groupOf 0x12345678980 = 9544371 ∧
    lineAt 1 28 9544371 = 0x12345678980 := by decide +kernel

/-- The worked sum of spec/07_sideboard_and_ordering.md: 0.5 + 1 − 2^24 + 2^24 seals at 1.5 in any order, and at 16,777,218
where the line seals before the third add. -/
theorem test_three_party_sum :
    let half := loadAcc fF32 0x3F000000 false
    let one := 0x3F800000; let up := 0x4B800000; let down := 0xCB800000
    (sealElement (addAcc (addAcc (addAcc half 1 one false) 1 down false) 1 up false) 1 0).1 = 0x3FC00000 ∧
    (sealElement (addAcc (addAcc (addAcc half 1 up false) 1 one false) 1 down false) 1 0).1 = 0x3FC00000 ∧
    (sealElement (addAcc (addAcc half 1 up false) 1 one false) 1 0).1 = 0x4B800001 := by decide +kernel

/-- The worked threshold of spec/12_chembe_protocol.md: round trips of 9,500 ns and 7,000 ns at 400 Gb/s. -/
def paused : State :=
  { lit [(INT_CTRL_ENABLE, 1), (INT_RTT0_VALID, 1), (INT_RTT1_VALID, 1), (INT_RTT0_NS, 9500), (INT_RTT1_NS, 7000), (INT_PAUSE_RESP_NS, 2000),
    (INT_RING_MIB, 256), (INT_RESUME_KIB, 1024), (HPT_STATUS_LINK_UP 0, 1), (HPT_STATUS_LINK_UP 1, 1), (HPT_STATUS_SPEED 0, 2), (HPT_STATUS_SPEED 1, 2)] up with
    intake := { Intake.reset with rtt0 := [(0, 9500)], rtt1 := [(0, 7000)] } }
theorem test_threshold : (match execIntakeThreshMove paused with
    | .next s => (s.intakeDist, s.resumeLevel)
    | _ => (0, 0)) = (1036288, 2084864) := by decide +kernel

/-- The worked example of a broken guarded pair (spec/13_registers.md): the pending half is lost to the write that comes
between, whose address and master are captured. -/
def broken : State := (((up.writeReg false 0x110008 0x11C).1.writeReg true 0x110018 0x118).1.writeReg false 0x11000C 0xFFFFFEE3).1
theorem test_broken_pair : (up.writeReg false 0x110008 0x11C).2 = stSuccess ∧
    ((up.writeReg false 0x110008 0x11C).1.writeReg true 0x110018 0x118).2 = 0x0304 ∧
    broken.get GLB_GUARD_ADDR_ADDR = 0x110018 ∧ broken.get GLB_GUARD_ADDR_MASTER = 1 ∧ broken.on GLB_STATUS_GUARD_FAULT = true ∧
    (broken.writePair false 0x110008 0x11C).2 = stSuccess := by decide +kernel

/-- The worked ADAPTIVE element of spec/08_nib_update.md: its moments' codes, and the quotient of its direction. -/
theorem test_adaptive_codes : (encodeXV fBF16 .rne (decode fBF16 0x3E20)).1 = 0x3E20 ∧
    (encodeXV fBF16 .rne ((decode fBF16 0x3E20).scale (-3))).1 = 0x3CA0 ∧
    (divRound fF32 (decode fBF16 0x3E20) (roundXV fF32 ((XV.ofInt 640 (-12)).add (.ofInt 1 (-12))))).1.eqv (.ofInt 16751042 (-24)) = true := by
  decide +kernel

end Sys2Proof.Tests
end

section
/-! PROOFS. Number formats (chapter 2): what an element code reads as, the bounds that rounding keeps, and the three
statements about reading, zeros and clamping. Magnitudes are compared in ℚ, where 2^k has a negative power. -/
namespace Sys2Proof.Proofs
open Sys2Proof Sys2Proof.Machine

/-! ## Values -/

/-- The values that are not finite. -/
theorem isFin_eq_false_iff (x : XV) : x.isFin = false ↔ x = .nan ∨ ∃ s, x = .inf s := by
  cases x <;> simp [XV.isFin]

theorem isFin_eq_true_iff (x : XV) : x.isFin = true ↔ ∃ neg m e, x = .fin neg m e := by
  cases x <;> simp [XV.isFin]

@[simp] theorem isFin_fin (neg : Bool) (m : Nat) (e : Int) : (XV.fin neg m e).isFin = true := rfl

@[simp] theorem isFin_ofInt (i e : Int) : (XV.ofInt i e).isFin = true := rfl

@[simp] theorem scale_nan (k : Int) : XV.nan.scale k = .nan := rfl

@[simp] theorem scale_fin (neg : Bool) (m : Nat) (e k : Int) : (XV.fin neg m e).scale k = .fin neg m (e + k) := rfl

@[simp] theorem isFin_scale (x : XV) (k : Int) : (x.scale k).isFin = x.isFin := by
  cases x <;> rfl

@[simp] theorem sig_ofInt (i e : Int) : (XV.ofInt i e).sig = i := by
  simp only [XV.ofInt, XV.sig, decide_eq_true_eq]
  split <;> omega

theorem sig_zero (neg : Bool) (e : Int) : (XV.fin neg 0 e).sig = 0 := by
  cases neg <;> rfl

/-! ## Powers of two in ℚ -/

theorem pow2_cast {k : Int} (hk : 0 ≤ k) : (pow2 k : ℚ) = 2 ^ k := by
  rw [pow2, Nat.cast_pow, Nat.cast_ofNat, ← zpow_natCast, Int.toNat_of_nonneg hk]

theorem two_zpow_add (k : Nat) (u : Int) : (2 : ℚ) ^ (k + u) = (2 ^ k : Nat) * 2 ^ u := by
  rw [zpow_add₀ two_ne_zero, zpow_natCast, Nat.cast_pow, Nat.cast_ofNat]

/-- A comparison over a common exponent is one of the values. -/
theorem mul_pow2_lt_iff {a b : Nat} {i j g : Int} (hi : g ≤ i) (hj : g ≤ j) :
    a * pow2 (i - g) < b * pow2 (j - g) ↔ (a : ℚ) * 2 ^ i < b * 2 ^ j := by
  have hg : (0 : ℚ) < 2 ^ g := by positivity
  rw [← Nat.cast_lt (α := ℚ), Nat.cast_mul, Nat.cast_mul, pow2_cast (by omega), pow2_cast (by omega),
    ← mul_lt_mul_iff_of_pos_right hg, mul_assoc, mul_assoc, ← zpow_add₀ two_ne_zero, ← zpow_add₀ two_ne_zero,
    sub_add_cancel, sub_add_cancel]

/-- The same where the smaller exponent is not known: one of the two powers is 1. -/
theorem mul_pow2_sub_lt_iff (a b : Nat) (i j : Int) :
    a * pow2 (i - j) < b * pow2 (j - i) ↔ (a : ℚ) * 2 ^ i < b * 2 ^ j := by
  have hi : pow2 (i - j) = pow2 (i - min i j) := by simp only [pow2]; congr 1; omega
  have hj : pow2 (j - i) = pow2 (j - min i j) := by simp only [pow2]; congr 1; omega
  rw [hi, hj, mul_pow2_lt_iff (min_le_left i j) (min_le_right i j)]

/-- The significand of an exact sum is that of its terms over their common exponent. -/
theorem sig_add_fin (a b : Bool) (m n : Nat) (e f : Int) : ((XV.fin a m e).add (.fin b n f)).sig =
    (if a then -1 else 1) * ((m * pow2 (e - min e f) : Nat) : Int) +
      (if b then -1 else 1) * ((n * pow2 (f - min e f) : Nat) : Int) := by
  simp only [XV.add]
  rw [apply_ite XV.sig, sig_ofInt, ite_eq_right_iff]
  intro hzero
  rw [hzero, sig_zero]

theorem lt_fin_iff (a b : Nat) (i j : Int) :
    (XV.fin false a i).lt (.fin false b j) = true ↔ (a : ℚ) * 2 ^ i < b * 2 ^ j := by
  rw [← mul_pow2_lt_iff (min_le_left i j) (min_le_right i j)]
  simp only [XV.lt, XV.sub, XV.negate, sig_add_fin, decide_eq_true_eq, Bool.not_false, if_true, Bool.false_eq_true, if_false]
  omega

/-- The whole quotient of values is below `k` when their exact quotient is. -/
theorem quot_lt_iff {n d k : Nat} (hd : d ≠ 0) (e u : Int) :
    n * pow2 (e - u) / (d * pow2 (u - e)) < k ↔ (n : ℚ) * 2 ^ e < k * d * 2 ^ u := by
  have hden : 0 < d * pow2 (u - e) := Nat.mul_pos (Nat.pos_of_ne_zero hd) (Nat.two_pow_pos _)
  rw [Nat.div_lt_iff_lt_mul hden, ← mul_assoc, mul_pow2_sub_lt_iff, Nat.cast_mul]

/-- The binary logarithms of n and d leave that of n / d open by one. -/
theorem log2_sub_bounds {n d : Nat} (hn : n ≠ 0) (hd : d ≠ 0) :
    (d : ℚ) * 2 ^ ((Nat.log2 n : Int) - Nat.log2 d - 1) ≤ n ∧ (n : ℚ) < d * 2 ^ ((Nat.log2 n : Int) - Nat.log2 d + 1) := by
  have hnlo : (2 : ℚ) ^ (Nat.log2 n : Int) ≤ n := by exact_mod_cast Nat.log2_self_le hn
  have hnhi : (n : ℚ) < 2 ^ (Nat.log2 n + 1 : Int) := by exact_mod_cast Nat.lt_log2_self (n := n)
  have hdlo : (2 : ℚ) ^ (Nat.log2 d : Int) ≤ d := by exact_mod_cast Nat.log2_self_le hd
  have hdhi : (d : ℚ) < 2 ^ (Nat.log2 d + 1 : Int) := by exact_mod_cast Nat.lt_log2_self (n := d)
  constructor
  · calc (d : ℚ) * 2 ^ ((Nat.log2 n : Int) - Nat.log2 d - 1)
        ≤ 2 ^ (Nat.log2 d + 1 : Int) * 2 ^ ((Nat.log2 n : Int) - Nat.log2 d - 1) := by gcongr
      _ = 2 ^ (Nat.log2 n : Int) := by rw [← zpow_add₀ two_ne_zero]; congr 1; omega
      _ ≤ n := hnlo
  · calc (n : ℚ) < 2 ^ (Nat.log2 n + 1 : Int) := hnhi
      _ = 2 ^ (Nat.log2 d : Int) * 2 ^ ((Nat.log2 n : Int) - Nat.log2 d + 1) := by
        rw [← zpow_add₀ two_ne_zero]; congr 1; omega
      _ ≤ d * 2 ^ ((Nat.log2 n : Int) - Nat.log2 d + 1) := by gcongr

/-- `floorLog2Q` is the floor of the binary logarithm of n / d × 2^e: its comparison settles the open one. -/
theorem floorLog2Q_spec {n d : Nat} (hn : n ≠ 0) (hd : d ≠ 0) (e : Int) :
    (d : ℚ) * 2 ^ floorLog2Q n d e ≤ n * 2 ^ e ∧ (n : ℚ) * 2 ^ e < d * 2 ^ (floorLog2Q n d e + 1) := by
  obtain ⟨hlow, hhigh⟩ := log2_sub_bounds hn hd
  have hmid (k : Int) : n * pow2 (-k) < d * pow2 k ↔ (n : ℚ) < d * 2 ^ k := by
    simpa using mul_pow2_sub_lt_iff n d 0 k
  obtain ⟨j, hj, hjlow, hjhigh⟩ :
      ∃ j, floorLog2Q n d e = j + e ∧ (d : ℚ) * 2 ^ j ≤ n ∧ (n : ℚ) < d * 2 ^ (j + 1) := by
    simp only [floorLog2Q]
    split
    case isTrue h => exact ⟨_, rfl, hlow, by rw [sub_add_cancel]; exact (hmid _).mp h⟩
    case isFalse h => exact ⟨_, rfl, not_lt.mp (mt (hmid _).mpr h), hhigh⟩
  rw [hj, zpow_add₀ two_ne_zero, add_right_comm, zpow_add₀ two_ne_zero (j + 1) e, ← mul_assoc, ← mul_assoc]
  exact ⟨by gcongr, by gcongr⟩

/-! ## Codes -/

/-- The codes that read as an infinity or a NaN (Table 2.3): a full exponent field, in E4M3 with a full fraction. -/
theorem decode_isFin_eq_false_iff (f c : Nat) :
    (decode f c).isFin = false ↔
      (f ≤ 4 ∧ c / 2 ^ fmtP f % 2 ^ fmtE f = 2 ^ fmtE f - 1) ∨
      (f = 5 ∧ c / 2 ^ fmtP f % 2 ^ fmtE f = 2 ^ fmtE f - 1 ∧ c % 2 ^ fmtP f = 7) := by
  by_cases h6 : f = 6
  · simp [decode, h6]
  · simp only [decode, if_neg h6]
    split_ifs with h5 h4 hfr hef
    · exact iff_of_true rfl (.inr h5)
    · simp [XV.isFin, h4]
    · simp [XV.isFin, h4]
    · simp only [isFin_fin, Bool.true_eq_false, false_iff, not_or]
      exact ⟨h4, h5⟩
    · simp only [isFin_fin, Bool.true_eq_false, false_iff, not_or]
      exact ⟨h4, h5⟩

/-- The sign bit stands above the exponent field and the fraction (Table 2.1). -/
theorem signCode_eq : ∀ f ≤ 7, f ≠ 6 → ∀ neg, signCode f neg = neg.toNat * 2 ^ fmtE f * 2 ^ fmtP f := by
  decide +kernel

/-- The fields of a code put together from its sign, exponent field and fraction. -/
theorem code_fields {f E r : Nat} (neg : Bool) (hf : f ≤ 7) (h6 : f ≠ 6) (hE : E < 2 ^ fmtE f) (hr : r < 2 ^ fmtP f) :
    (signCode f neg + E * 2 ^ fmtP f + r) / 2 ^ fmtP f % 2 ^ fmtE f = E ∧
    (signCode f neg + E * 2 ^ fmtP f + r) % 2 ^ fmtP f = r := by
  have hcode : signCode f neg + E * 2 ^ fmtP f + r = r + 2 ^ fmtP f * (E + 2 ^ fmtE f * neg.toNat) := by
    rw [signCode_eq f hf h6]; ring
  rw [hcode, Nat.add_mul_div_left _ _ (by positivity), Nat.div_eq_of_lt hr, Nat.zero_add, Nat.add_mul_mod_self_left,
    Nat.add_mul_mod_self_left, Nat.mod_eq_of_lt hE, Nat.mod_eq_of_lt hr]
  exact ⟨rfl, rfl⟩

/-! ## Reading under a scale (R69, R70) -/

theorem readElem_nanScale {blk : Nat} (hblk : blk ≠ 0) (f code : Nat) : readElem f blk code 0xFF = .nan := by
  simp [readElem, hblk]

theorem readElem_eq_scale {blk b : Nat} (hblk : blk ≠ 0) (hb : b ≤ 0xFE) (f code : Nat) :
    readElem f blk code b = (decode f code).scale ((b : Int) - 127) := by
  have hnan : b ≠ 0xFF := by omega
  simp [readElem, hblk, hnan]

/-- The NaN codes of E5M2: a full exponent field over a nonzero fraction (Table 2.3). -/
theorem decode_e5m2_nan {code : Nat} (hef : code / 4 % 32 = 31) (hfr : code % 4 ≠ 0) : decode fE5M2 code = .nan := by
  simp [decode, fmtP, fmtE, hef, hfr]

/-- The NaN codes of E4M3: every bit below the sign set (Table 2.3). -/
theorem decode_e4m3_nan {code : Nat} (h : code % 128 = 127) : decode fE4M3 code = .nan := by
  have hef : code / 8 % 16 = 15 := by omega
  have hfr : code % 8 = 7 := by omega
  simp [decode, fmtP, fmtE, hef, hfr]

/-- The codes of the four block-scaled formats that are no finite value. -/
theorem decode_blocked_nonfinite_iff {f : Nat} (h4 : 4 ≤ f) (code : Nat) :
    (decode f code).isFin = false ↔ (f = fE5M2 ∧ code / 4 % 32 = 31) ∨ (f = fE4M3 ∧ code % 128 = 127) := by
  rw [decode_isFin_eq_false_iff]
  constructor
  · rintro (⟨hf, hef⟩ | ⟨rfl, hef, hfr⟩)
    · obtain rfl : f = 4 := by omega
      exact .inl ⟨rfl, hef⟩
    · simp only [fmtP, fmtE, List.getD_cons_succ, List.getD_cons_zero] at hef hfr
      exact .inr ⟨rfl, show code % 128 = 127 by omega⟩
  · rintro (⟨rfl, hef⟩ | ⟨rfl, hall⟩)
    · exact .inl ⟨le_refl 4, hef⟩
    · have hef : code / 8 % 16 = 15 := by omega
      have hfr : code % 8 = 7 := by omega
      exact .inr ⟨rfl, hef, hfr⟩

/-- Settles O51: a scale other than 0xFF multiplies what the code reads as, and which codes are special is read off the
exponent field and the fraction. -/
theorem elementsReadUnderTheirScale : Obligations.ElementsReadUnderTheirScale := by
  refine ⟨?nanScale, ?finite, ?infinities, ?nans, ?special⟩
  case nanScale =>
    rintro f blk code b - - hblk rfl
    exact readElem_nanScale hblk f code
  case finite =>
    intro f blk code b neg m e _ _ hblk hb hfin
    rw [readElem_eq_scale hblk hb, hfin, scale_fin, add_sub_assoc]
  case infinities =>
    intro blk b hblk hb
    exact ⟨readElem_eq_scale hblk hb _ _, readElem_eq_scale hblk hb _ _⟩
  case nans =>
    intro blk code b hblk hb _
    refine ⟨fun ⟨hef, hfr⟩ => ?_, fun hall => ?_⟩
    · rw [readElem_eq_scale hblk hb, decode_e5m2_nan (by omega) hfr, scale_nan]
    · rw [readElem_eq_scale hblk hb, decode_e4m3_nan hall, scale_nan]
  case special =>
    intro f code h4 _ _
    rw [← isFin_eq_false_iff, decode_blocked_nonfinite_iff h4]

/-! ## Zeros (R76) -/

/-- A zero is the sign bit alone, and nothing clamps. -/
@[simp] theorem roundQ_zero (f : Nat) (mode : Rnd) (neg : Bool) (d : Nat) (e : Int) :
    roundQ f mode neg 0 d e = (if f = fINT8 then 0 else signCode f neg, false) := rfl

theorem encodeXV_fin (f : Nat) (mode : Rnd) (neg : Bool) (m : Nat) (e : Int) :
    (encodeXV f mode (.fin neg m e)).1 = (roundQ f mode neg m 1 e).1 := rfl

/-- The sign bit alone reads back as the zero of that sign, in the least exponent. -/
theorem decode_signCode : ∀ f ≤ 7, f ≠ 6 → ∀ neg, decode f (signCode f neg) = .fin neg 0 (fmtEmin f - fmtP f) := by
  decide +kernel

/-- Zeros have no largest magnitude but +0. -/
theorem amax_zeros {xs : List XV} (h : ∀ x ∈ xs, ∃ neg e, x = .fin neg 0 e) : amax xs = .zero := by
  have hlt (e : Int) : XV.zero.lt (.fin false 0 e) = false := by
    rw [← Bool.not_eq_true, XV.zero, lt_fin_iff]
    simp
  induction xs with
  | nil => rfl
  | cons x xs ih =>
    obtain ⟨⟨neg, e, rfl⟩, hxs⟩ := List.forall_mem_cons.mp h
    simpa [amax, XV.abs, hlt] using ih hxs

/-! ## Blocks of finite values (R73) -/

/-- The exponent that `encodeBlock` shares out before it holds it within the scale byte. -/
def blockExp (f : Nat) (xs : List (XV × Rnd)) : Int :=
  let a := amax (xs.map Prod.fst)
  if a.isZero then 0
  else if (fmtMax f).lt (a.scale (-(a.floorLog2 - fmtEmax f))) then a.floorLog2 - fmtEmax f + 1
  else a.floorLog2 - fmtEmax f

/-- The code that `encodeBlock` gives a finite value: that of the largest finite value where the exponent is past the scale
byte and the value past the format, else that of the value under the shared exponent. -/
def blockCode (f : Nat) (exp : Int) (x : XV × Rnd) : Nat :=
  let y := x.1.scale (-(max (-127) (min 127 exp)))
  if 127 < exp ∧ (fmtMax f).lt y.abs = true then (encodeXV f .rne (if x.1.isNeg then (fmtMax f).negate else fmtMax f)).1
  else (encodeXV f x.2 y).1

/-- What `encodeBlock` makes of finite values. -/
theorem encodeBlock_of_finite (f : Nat) {xs : List (XV × Rnd)} (h : ∀ x ∈ xs, x.1.isFin = true) :
    (encodeBlock f xs).1 = (max (-127) (min 127 (blockExp f xs)) + 127).toNat ∧
    (encodeBlock f xs).2.1 = xs.map (blockCode f (blockExp f xs)) := by
  have hnf : (xs.filter fun x => !x.1.isFin) = [] := by simpa [List.filter_eq_nil_iff] using h
  refine ⟨by simp [encodeBlock, hnf, blockExp], ?_⟩
  simp only [encodeBlock, hnf, List.length_nil, lt_self_iff_false, false_and, if_false, List.map_map]
  refine List.map_congr_left fun x hx => ?_
  obtain ⟨v, mode⟩ := x
  obtain ⟨neg, m, e, rfl⟩ := (isFin_eq_true_iff v).mp (h _ hx)
  simp only [Function.comp_apply, blockCode, scale_fin, XV.isNeg, ← sub_eq_add_neg, Bool.and_eq_true, decide_eq_true_eq]
  exact apply_ite Prod.fst _ _ _

/-- Settles O52: rounding a zero gives the sign bit alone, and a block of zeros shares out the exponent 0. -/
theorem zerosKeepTheirSign : Obligations.ZerosKeepTheirSign := by
  refine ⟨?signed, fun mode neg e => rfl, ?block⟩
  case signed =>
    intro f mode neg e hf
    obtain ⟨hf7, h6⟩ : f ≤ 7 ∧ f ≠ fINT8 := by rcases hf with rfl | rfl | rfl <;> decide
    rw [encodeXV_fin, roundQ_zero, if_neg h6]
    exact ⟨rfl, _, decode_signCode f hf7 h6 neg⟩
  case block =>
    intro f xs _ _ hzero
    have hfin : ∀ x ∈ xs, x.1.isFin = true := fun x hx => by obtain ⟨neg, e, hx⟩ := hzero x hx; rw [hx]; rfl
    have hexp : blockExp f xs = 0 := by
      simp only [blockExp, amax_zeros (List.forall_mem_map.mpr hzero)]
      rfl
    obtain ⟨hscale, hcodes⟩ := encodeBlock_of_finite f hfin
    rw [hscale, hcodes, hexp]
    refine ⟨rfl, List.map_congr_left fun x hx => ?_⟩
    obtain ⟨neg, e, hx⟩ := hzero x hx
    simp [blockCode, hx, encodeXV_fin, XV.isNeg]

/-! ## The largest finite value (Table 2.2) -/

/-- Significand of the largest finite value. -/
def maxSig (f : Nat) : Nat := if f = fE4M3 then 14 else if f = fINT8 then 127 else 2 ^ (fmtP f + 1) - 1

/-- Exponent of the last place of the largest finite value. -/
def maxExp (f : Nat) : Int := fmtEmax f - fmtP f

theorem fmtMax_eq (f : Nat) : fmtMax f = .fin false (maxSig f) (maxExp f) := by
  by_cases h5 : f = fE4M3
  · subst h5; rfl
  by_cases h6 : f = fINT8
  · subst h6; rfl
  simp only [fmtMax, maxSig, maxExp, if_neg h5, if_neg h6]

/-- Outside INT8 the largest finite value is a normal one: its significand has p + 1 bits. -/
theorem maxSig_bounds : ∀ f ≤ 7, f ≠ 6 → 2 ^ fmtP f ≤ maxSig f ∧ maxSig f < 2 ^ (fmtP f + 1) := by decide +kernel

/-- Exponent field of the largest finite value's code. -/
def topField (f : Nat) : Nat := (fmtEmax f + fmtBias f).toNat

theorem topField_lt : ∀ f ≤ 7, f ≠ 6 → 0 < topField f ∧ topField f < 2 ^ fmtE f := by decide +kernel

/-- The formats with infinities keep the full exponent field for them and for NaN. -/
theorem topField_succ_lt : ∀ f ≤ 4, topField f + 1 < 2 ^ fmtE f := by decide +kernel

/-- The code of the largest finite value reads as that value. -/
theorem decode_maxSig : ∀ f ≤ 7, ∀ neg, (decode f (encodeQ f neg (maxSig f) (maxExp f))).eqv
    (if neg then (fmtMax f).negate else fmtMax f) = true := by decide +kernel

/-! ## Codes of finite values -/

/-- A format with an exponent field has its smallest normal exponent at or below its largest. -/
theorem fmtEmin_le_fmtEmax : ∀ f ≤ 7, f ≠ 6 → fmtEmin f ≤ fmtEmax f := by decide +kernel

/-- INT8 has finite values alone. -/
theorem decode_int8_isFin (c : Nat) : (decode fINT8 c).isFin = true := rfl

/-- A code whose fields are not past those of the largest finite value reads as finite. -/
theorem decode_fields_isFin {f E r : Nat} (neg : Bool) (hf : f ≤ 7) (h6 : f ≠ 6) (hE : E ≤ topField f)
    (hr : r < 2 ^ fmtP f) (htop : E = topField f → 2 ^ fmtP f + r ≤ maxSig f) :
    (decode f (signCode f neg + E * 2 ^ fmtP f + r)).isFin = true := by
  obtain ⟨-, hlt⟩ := topField_lt f hf h6
  obtain ⟨hef, hfr⟩ := code_fields neg hf h6 (hE.trans_lt hlt) hr
  rw [← Bool.not_eq_false, decode_isFin_eq_false_iff, hef, hfr]
  rintro (⟨h4, hfull⟩ | ⟨rfl, hfull, hr7⟩)
  · have := topField_succ_lt f h4
    omega
  · subst hr7
    exact absurd (htop hfull) (by decide)

/-! The three forms of a code outside INT8 (R77): a subnormal, a normal, and a significand that carried out of its bits and
is coded as the next power of two. -/

theorem encodeQ_subnormal {f q : Nat} (h6 : f ≠ 6) (hq : q < 2 ^ fmtP f) (neg : Bool) (u : Int) :
    encodeQ f neg q u = signCode f neg + q := by
  have hne : q ≠ 2 ^ (fmtP f + 1) := (hq.trans (Nat.pow_lt_pow_succ one_lt_two)).ne
  simp [encodeQ, h6, hne, hq]

theorem encodeQ_normal {f q : Nat} (h6 : f ≠ 6) (hlo : 2 ^ fmtP f ≤ q) (hhi : q < 2 ^ (fmtP f + 1)) (neg : Bool) (u : Int) :
    encodeQ f neg q u = signCode f neg + (u + fmtP f + fmtBias f).toNat * 2 ^ fmtP f + (q - 2 ^ fmtP f) := by
  simp [encodeQ, h6, hhi.ne, hlo.not_gt]

theorem encodeQ_carry {f : Nat} (h6 : f ≠ 6) (neg : Bool) (u : Int) :
    encodeQ f neg (2 ^ (fmtP f + 1)) u = encodeQ f neg (2 ^ fmtP f) (u + 1) := by
  have hne : 2 ^ fmtP f ≠ 2 ^ (fmtP f + 1) := (Nat.pow_lt_pow_succ one_lt_two).ne
  simp [encodeQ, h6, hne]

/-- A normal value not past the largest finite one has no coarser last place. -/
theorem le_maxExp_of_le_max {f q : Nat} {u : Int} (hf : f ≤ 7) (h6 : f ≠ 6) (hlo : 2 ^ fmtP f ≤ q)
    (hmax : (q : ℚ) * 2 ^ u ≤ maxSig f * 2 ^ maxExp f) : u ≤ maxExp f := by
  have hlt : (2 : ℚ) ^ (fmtP f + u) < 2 ^ ((fmtP f + 1 : Nat) + maxExp f) := calc
    (2 : ℚ) ^ (fmtP f + u) = (2 ^ fmtP f : Nat) * 2 ^ u := two_zpow_add _ _
    _ ≤ q * 2 ^ u := by gcongr
    _ ≤ maxSig f * 2 ^ maxExp f := hmax
    _ < (2 ^ (fmtP f + 1) : Nat) * 2 ^ maxExp f := by gcongr; exact (maxSig_bounds f hf h6).2
    _ = 2 ^ ((fmtP f + 1 : Nat) + maxExp f) := (two_zpow_add _ _).symm
  have := (zpow_lt_zpow_iff_right₀ one_lt_two).mp hlt
  omega

/-- A value of at most p + 1 bits that is not past the largest finite one has a code that reads as finite. -/
theorem decode_encodeQ_isFin_of_lt {f q : Nat} {u : Int} (neg : Bool) (hf : f ≤ 7) (h6 : f ≠ 6)
    (hq : q < 2 ^ (fmtP f + 1)) (hmax : (q : ℚ) * 2 ^ u ≤ maxSig f * 2 ^ maxExp f) :
    (decode f (encodeQ f neg q u)).isFin = true := by
  obtain ⟨htop, -⟩ := topField_lt f hf h6
  by_cases hsub : q < 2 ^ fmtP f
  · have h := decode_fields_isFin neg hf h6 (Nat.zero_le _) hsub (fun h => absurd h htop.ne)
    rwa [Nat.zero_mul, Nat.add_zero, ← encodeQ_subnormal h6 hsub neg u] at h
  · have hlo : 2 ^ fmtP f ≤ q := not_lt.mp hsub
    have hexp : u ≤ maxExp f := le_maxExp_of_le_max hf h6 hlo hmax
    rw [encodeQ_normal h6 hlo hq]
    refine decode_fields_isFin neg hf h6 ?_ (by omega) (fun h => ?_)
    · simp only [topField, maxExp] at hexp ⊢
      omega
    · have hu : u = maxExp f := by simp only [topField, maxExp] at htop hexp h ⊢; omega
      have hle : q ≤ maxSig f := by
        rw [hu] at hmax
        exact_mod_cast le_of_mul_le_mul_right hmax (by positivity)
      omega

/-- The same with the carry out of p + 1 bits that rounding can leave, and with INT8. -/
theorem decode_encodeQ_isFin {f q : Nat} {u : Int} (neg : Bool) (hf : f ≤ 7) (hq : f ≠ 6 → q ≤ 2 ^ (fmtP f + 1))
    (hmax : (q : ℚ) * 2 ^ u ≤ maxSig f * 2 ^ maxExp f) : (decode f (encodeQ f neg q u)).isFin = true := by
  by_cases h6 : f = 6
  · subst h6; exact decode_int8_isFin _
  rcases (hq h6).lt_or_eq with hlt | rfl
  · exact decode_encodeQ_isFin_of_lt neg hf h6 hlt hmax
  · rw [encodeQ_carry h6]
    refine decode_encodeQ_isFin_of_lt neg hf h6 (Nat.pow_lt_pow_succ one_lt_two) ?_
    calc ((2 ^ fmtP f : Nat) : ℚ) * 2 ^ (u + 1) = (2 ^ (fmtP f + 1) : Nat) * 2 ^ u := by
          rw [zpow_add_one₀ two_ne_zero]; push_cast; ring
      _ ≤ maxSig f * 2 ^ maxExp f := hmax

/-! ## Rounding (R77) -/

/-- The place to which R77 rounds n / d × 2^e. -/
def roundUnit (f n d : Nat) (e : Int) : Int :=
  if f = fINT8 then -6 else max (floorLog2Q n d e) (fmtEmin f) - fmtP f

/-- The whole places of n / d × 2^e. -/
def wholePart (f n d : Nat) (e : Int) : Nat :=
  n * pow2 (e - roundUnit f n d e) / (d * pow2 (roundUnit f n d e - e))

/-- The significand that R77 rounds to: the whole places, or one more. -/
def roundSig (f : Nat) (mode : Rnd) (n d : Nat) (e : Int) : Nat :=
  if roundsUp mode (n * pow2 (e - roundUnit f n d e) % (d * pow2 (roundUnit f n d e - e)))
      (d * pow2 (roundUnit f n d e - e)) (wholePart f n d e % 2 = 1)
  then wholePart f n d e + 1 else wholePart f n d e

/-- R77 clamps where the rounded value is past the largest finite one. -/
theorem roundQ_eq {f n : Nat} (hn : n ≠ 0) (mode : Rnd) (neg : Bool) (d : Nat) (e : Int) :
    (roundQ f mode neg n d e).1 =
      if (maxSig f : ℚ) * 2 ^ maxExp f < roundSig f mode n d e * 2 ^ roundUnit f n d e then encodeQ f neg (maxSig f) (maxExp f)
      else encodeQ f neg (roundSig f mode n d e) (roundUnit f n d e) := by
  simp only [← mul_pow2_sub_lt_iff, roundQ, if_neg hn, fmtMax_eq, decide_eq_true_eq]
  exact apply_ite Prod.fst _ _ _

theorem wholePart_le_roundSig (f : Nat) (mode : Rnd) (n d : Nat) (e : Int) : wholePart f n d e ≤ roundSig f mode n d e := by
  unfold roundSig
  split <;> omega

theorem roundSig_le_succ (f : Nat) (mode : Rnd) (n d : Nat) (e : Int) : roundSig f mode n d e ≤ wholePart f n d e + 1 := by
  unfold roundSig
  split <;> omega

section
variable {f n d : Nat} {e : Int}

/-- The place is fine enough to leave p + 1 bits. -/
theorem wholePart_lt (hn : n ≠ 0) (hd : d ≠ 0) (h6 : f ≠ 6) : wholePart f n d e < 2 ^ (fmtP f + 1) := by
  have hu : floorLog2Q n d e - fmtP f ≤ roundUnit f n d e := by simp only [roundUnit, if_neg h6]; omega
  rw [wholePart, quot_lt_iff hd]
  calc (n : ℚ) * 2 ^ e < d * 2 ^ (floorLog2Q n d e + 1) := (floorLog2Q_spec hn hd e).2
    _ ≤ d * 2 ^ ((fmtP f + 1 : Nat) + roundUnit f n d e) :=
      mul_le_mul_of_nonneg_left (zpow_le_zpow_right₀ one_le_two (by omega)) (Nat.cast_nonneg d)
    _ = (2 ^ (fmtP f + 1) : Nat) * d * 2 ^ roundUnit f n d e := by rw [two_zpow_add]; ring

/-- A normal value has p + 1 bits. -/
theorem le_wholePart (hn : n ≠ 0) (hd : d ≠ 0) (hu : roundUnit f n d e = floorLog2Q n d e - fmtP f) :
    2 ^ fmtP f ≤ wholePart f n d e := by
  rw [wholePart, ← not_lt, quot_lt_iff hd, not_lt, hu]
  calc ((2 ^ fmtP f : Nat) : ℚ) * d * 2 ^ (floorLog2Q n d e - fmtP f) = d * 2 ^ floorLog2Q n d e := by
        rw [mul_right_comm, ← two_zpow_add, add_sub_cancel, mul_comm]
    _ ≤ n * 2 ^ e := (floorLog2Q_spec hn hd e).1

/-- Past the largest finite value the place is not finer than that value's own. -/
theorem maxExp_le_roundUnit (hn : n ≠ 0) (hd : d ≠ 0) (hf : f ≤ 7) (h6 : f ≠ 6)
    (hmax : (maxSig f : ℚ) * d * 2 ^ maxExp f < n * 2 ^ e) :
    maxExp f ≤ roundUnit f n d e ∧ roundUnit f n d e = floorLog2Q n d e - fmtP f := by
  have hlog : fmtEmax f < floorLog2Q n d e + 1 := by
    have hlt : (d : ℚ) * 2 ^ fmtEmax f < d * 2 ^ (floorLog2Q n d e + 1) := calc
      (d : ℚ) * 2 ^ fmtEmax f = (2 ^ fmtP f : Nat) * d * 2 ^ maxExp f := by
        rw [mul_right_comm, ← two_zpow_add, maxExp, add_sub_cancel, mul_comm]
      _ ≤ maxSig f * d * 2 ^ maxExp f := by gcongr; exact (maxSig_bounds f hf h6).1
      _ < n * 2 ^ e := hmax
      _ < d * 2 ^ (floorLog2Q n d e + 1) := (floorLog2Q_spec hn hd e).2
    exact (zpow_lt_zpow_iff_right₀ one_lt_two).mp (lt_of_mul_lt_mul_left hlt (Nat.cast_nonneg d))
  have hnormal := fmtEmin_le_fmtEmax f hf h6
  simp only [roundUnit, maxExp, if_neg h6]
  omega

/-- A value past the largest finite one, rounded to its place, is not below it. -/
theorem maxSig_le_roundSig (hd : d ≠ 0) (mode : Rnd) (hmax : (maxSig f : ℚ) * d * 2 ^ maxExp f < n * 2 ^ e)
    (hu : roundUnit f n d e = maxExp f) : maxSig f ≤ roundSig f mode n d e := by
  refine le_trans ?_ (wholePart_le_roundSig f mode n d e)
  rw [wholePart, ← not_lt, quot_lt_iff hd, not_lt, hu]
  exact hmax.le

/-- At the largest finite value's place a significand not below its own clamps, or is its own. -/
theorem roundQ_eq_of_maxSig_le (hn : n ≠ 0) (mode : Rnd) (neg : Bool) (hq : maxSig f ≤ roundSig f mode n d e)
    (hu : roundUnit f n d e = maxExp f) : (roundQ f mode neg n d e).1 = encodeQ f neg (maxSig f) (maxExp f) := by
  rw [roundQ_eq hn, hu, ite_eq_left_iff, not_lt]
  intro hle
  have hback : roundSig f mode n d e ≤ maxSig f := by
    exact_mod_cast le_of_mul_le_mul_right hle (by positivity)
  rw [le_antisymm hback hq]

/-- A value past the largest finite one has at least that value's places: it clamps, or is that value. -/
theorem roundQ_of_max_lt (hn : n ≠ 0) (hd : d ≠ 0) (hf : f ≤ 7) (mode : Rnd) (neg : Bool)
    (hmax : (maxSig f : ℚ) * d * 2 ^ maxExp f < n * 2 ^ e) :
    (roundQ f mode neg n d e).1 = encodeQ f neg (maxSig f) (maxExp f) := by
  by_cases h6 : f = fINT8
  · subst h6
    exact roundQ_eq_of_maxSig_le hn mode neg (maxSig_le_roundSig hd mode hmax rfl) rfl
  · obtain ⟨hle, hnormal⟩ := maxExp_le_roundUnit hn hd hf h6 hmax
    rcases hle.eq_or_lt with hu | hu
    · exact roundQ_eq_of_maxSig_le hn mode neg (maxSig_le_roundSig hd mode hmax hu.symm) hu.symm
    · rw [roundQ_eq hn, if_pos]
      calc (maxSig f : ℚ) * 2 ^ maxExp f < (2 ^ (fmtP f + 1) : Nat) * 2 ^ maxExp f := by
            gcongr; exact (maxSig_bounds f hf h6).2
        _ = (2 ^ fmtP f : Nat) * 2 ^ (maxExp f + 1) := by rw [zpow_add_one₀ two_ne_zero]; push_cast; ring
        _ ≤ roundSig f mode n d e * 2 ^ roundUnit f n d e := by
          gcongr
          · exact (le_wholePart hn hd hnormal).trans (wholePart_le_roundSig f mode n d e)
          · exact one_le_two
          · omega

end

/-- R78 for every writer: what R77 gives for a finite value reads as finite. -/
theorem decode_roundQ_isFin {f d : Nat} (hf : f ≤ 7) (hd : d ≠ 0) (mode : Rnd) (neg : Bool) (n : Nat) (e : Int) :
    (decode f (roundQ f mode neg n d e).1).isFin = true := by
  by_cases h6 : f = fINT8
  · subst h6; exact decode_int8_isFin _
  by_cases hn : n = 0
  · subst hn
    rw [roundQ_zero, if_neg h6, decode_signCode f hf h6]
    rfl
  rw [roundQ_eq hn]
  split
  case isTrue => exact decode_encodeQ_isFin neg hf (fun h => (maxSig_bounds f hf h).2.le) le_rfl
  case isFalse h =>
    have hq : roundSig f mode n d e ≤ 2 ^ (fmtP f + 1) :=
      (roundSig_le_succ f mode n d e).trans (wholePart_lt hn hd h6)
    exact decode_encodeQ_isFin neg hf (fun _ => hq) (not_lt.mp h)

theorem decode_encodeXV_isFin {f : Nat} (hf : f ≤ 7) (mode : Rnd) {x : XV} (hx : x.isFin = true) :
    (decode f (encodeXV f mode x).1).isFin = true := by
  obtain ⟨neg, m, e, rfl⟩ := (isFin_eq_true_iff x).mp hx
  exact decode_roundQ_isFin hf one_ne_zero mode neg m e

/-- Every code of a block of finite values is the code of a finite value. -/
theorem decode_blockCode_isFin {f : Nat} (hf : f ≤ 7) (exp : Int) {x : XV × Rnd} (hx : x.1.isFin = true) :
    (decode f (blockCode f exp x)).isFin = true := by
  simp only [blockCode]
  split
  · exact decode_encodeXV_isFin hf _ (by rw [fmtMax_eq]; split <;> rfl)
  · exact decode_encodeXV_isFin hf _ (by rwa [isFin_scale])

/-- Settles O53: every writer rounds by R77, whose codes are those of values not past the largest finite one. -/
theorem roundingClampsAndNeverOverflows : Obligations.RoundingClampsAndNeverOverflows := by
  refine ⟨?finite, ?clamps, ?quotient, ?root, ?block⟩
  case finite =>
    intro f mode neg m e hf
    exact decode_encodeXV_isFin hf mode rfl
  case clamps =>
    intro f mode neg m e hf hlt
    rw [fmtMax_eq, lt_fin_iff] at hlt
    have hm : m ≠ 0 := by
      rintro rfl
      rw [Nat.cast_zero, zero_mul] at hlt
      exact absurd hlt (not_lt.mpr (by positivity))
    rw [encodeXV_fin, roundQ_of_max_lt hm one_ne_zero hf mode neg (by simpa using hlt)]
    exact decode_maxSig f hf neg
  case quotient =>
    intro f a b m n e g hf hn
    simp only [divRound, if_neg hn]
    exact decode_roundQ_isFin hf hn _ _ _ _
  case root =>
    intro f m e hf
    simp only [sqrtRound]
    split
    · rfl
    · exact decode_roundQ_isFin hf one_ne_zero _ _ _ _
  case block =>
    intro f xs _ hf hfin
    obtain ⟨hscale, hcodes⟩ := encodeBlock_of_finite f hfin
    have hbyte : (encodeBlock f xs).1 ≤ 0xFE := by rw [hscale]; omega
    refine ⟨hbyte, fun c hc => ?_⟩
    rw [hcodes] at hc
    obtain ⟨x, hx, rfl⟩ := List.mem_map.mp hc
    rw [readElem_eq_scale one_ne_zero hbyte, isFin_scale]
    exact decode_blockCode_isFin hf _ (hfin x hx)

end Sys2Proof.Proofs
end

section
/-! PROOFS. Performance counters (chapter 9): the value pair of a counter and its overflow bit as registers, what an addition
leaves in them, and the statement about passing 2^48 − 1. -/
namespace Sys2Proof.Proofs
open Sys2Proof Sys2Proof.Machine

/-! ## Single bits of a word -/

theorem bit_eq_testBit (v i : Nat) : bit v i = v.testBit i := by
  rw [Nat.testBit_eq_decide_div_mod_eq]; rfl

/-- Setting a bit sets that bit alone. -/
theorem bit_orBit (v i j : Nat) : bit (orBit v i) j = (decide (j = i) || bit v j) := by
  simp only [orBit, bit_eq_testBit, testBit_setBits le_rfl]
  by_cases hj : j = i
  · subst hj; simp
  · rw [if_neg (by omega)]; simp [hj]

/-- A register keeps the low 32 bits of what is written. -/
theorem bit_mod_word (v : Nat) {i : Nat} (hi : i < 32) : bit (v % 2 ^ 32) i = bit v i := by
  rw [bit_eq_testBit, bit_eq_testBit, Nat.testBit_mod_two_pow, decide_eq_true hi, Bool.true_and]

/-! ## The value pair of a counter -/

/-- The value of counter `k`: the pair CNT_VAL_LO, CNT_VAL_HI. -/
abbrev counterValue (s : State) (k : Nat) : Nat := s.get2 (CNT_VAL_LO_VALUE_LO k) (CNT_VAL_HI_VALUE_HI k)

/-- The state with the value pair of counter `k` written. -/
abbrev putCounter (s : State) (k v : Nat) : State := s.put2 (CNT_VAL_LO_VALUE_LO k) (CNT_VAL_HI_VALUE_HI k) v

section
variable {s : State} (h : s.RegsCanonical)
include h

theorem putCounter_ok (k v : Nat) : (putCounter s k v).RegsCanonical := put_ok (put_ok h)

theorem counterValue_putCounter_same (k : Nat) {v : Nat} (hv : v < 2 ^ 48) : counterValue (putCounter s k v) k = v := by
  have hapart : (CNT_VAL_HI_VALUE_HI k).addr ≠ (CNT_VAL_LO_VALUE_LO k).addr := by
    simp [CNT_VAL_LO_VALUE_LO, CNT_VAL_HI_VALUE_HI]
  have hhi : (putCounter s k v).get (CNT_VAL_HI_VALUE_HI k) = v / 2 ^ 32 % 2 ^ 16 :=
    get_put_same (put_ok h) (Nat.zero_le _) (show 15 < 32 by decide)
  have hlo : (putCounter s k v).get (CNT_VAL_LO_VALUE_LO k) = v % 2 ^ 32 % 2 ^ 32 :=
    (get_put_other (put_ok h) (Nat.zero_le _) (show 31 < 32 by decide) (.inl hapart)).trans
      (get_put_same h (Nat.zero_le _) (show 31 < 32 by decide))
  rw [counterValue, State.get2, hhi, hlo]
  omega

/-- The value pair stands at its own two addresses, so every other register is left alone. -/
theorem reg_putCounter_other {k a : Nat} (v : Nat) (hlo : a ≠ 0x40200 + 8 * k) (hhi : a ≠ 0x40204 + 8 * k) :
    (putCounter s k v).reg a = s.reg a :=
  (reg_put_other (put_ok h) hhi).trans (reg_put_other h hlo)

end

/-- A counter's value depends on its two registers alone. -/
theorem counterValue_congr {s t : State} {k : Nat} (hlo : t.reg (0x40200 + 8 * k) = s.reg (0x40200 + 8 * k))
    (hhi : t.reg (0x40204 + 8 * k) = s.reg (0x40204 + 8 * k)) : counterValue t k = counterValue s k := by
  simp only [counterValue, State.get2, State.get, CNT_VAL_LO_VALUE_LO, CNT_VAL_HI_VALUE_HI, hlo, hhi]

/-! ## What an addition leaves -/

/-- The register of CNT_OVF with the bit of counter `k`. -/
abbrev ovfReg (k : Nat) : Nat := if k < 32 then 0x40008 else 0x4000C

/-- What counter `k` holds after passing 2^48 − 1 to reach `sum` (R329). -/
def pastMax (s : State) (k sum : Nat) : Nat := if s.on (CNT_SEL_SATURATE k) then 2 ^ 48 - 1 else sum % 2 ^ 48

theorem pastMax_wraps {s : State} {k : Nat} (hsat : s.on (CNT_SEL_SATURATE k) = false) (sum : Nat) :
    pastMax s k sum = sum % 2 ^ 48 := by
  rw [pastMax, hsat]; rfl

theorem pastMax_saturates {s : State} {k : Nat} (hsat : s.on (CNT_SEL_SATURATE k) = true) (sum : Nat) :
    pastMax s k sum = 2 ^ 48 - 1 := by
  rw [pastMax, hsat]; rfl

theorem pastMax_lt (s : State) (k sum : Nat) : pastMax s k sum < 2 ^ 48 := by
  unfold pastMax; split <;> omega

theorem ovfReg_eq (k : Nat) : ovfReg k = 0x40008 ∨ ovfReg k = 0x4000C := by
  unfold ovfReg; split <;> simp

/-- Two counters of one overflow register have different bits in it. -/
theorem mod_ne_of_ovfReg_eq {j k : Nat} (hj : j < 64) (hk : k < 64) (hne : j ≠ k) (heq : ovfReg j = ovfReg k) :
    j % 32 ≠ k % 32 := by
  unfold ovfReg at heq
  split at heq <;> split at heq <;> omega

section
variable {s : State} {k n : Nat}

theorem addCounter_of_lt (hlt : counterValue s k + n < 2 ^ 48) :
    s.addCounter k n = putCounter s k (counterValue s k + n) :=
  if_pos hlt

theorem addCounter_of_le (h : s.RegsCanonical) (hk : k < 64) (hle : 2 ^ 48 ≤ counterValue s k + n) :
    s.addCounter k n = (putCounter s k (pastMax s k (counterValue s k + n))).setReg (ovfReg k)
      (orBit (s.reg (ovfReg k)) (k % 32)) := by
  have hreg := reg_putCounter_other h (pastMax s k (counterValue s k + n)) (k := k) (a := ovfReg k)
    (by have := ovfReg_eq k; omega) (by have := ovfReg_eq k; omega)
  rw [← hreg]
  refine (if_neg hle.not_gt).trans ?_
  by_cases hk32 : k < 32
  · rw [Nat.mod_eq_of_lt hk32]; simp only [ovfReg, if_pos hk32]; rfl
  · have hmod : k % 32 = k - 32 := by omega
    rw [hmod]; simp only [ovfReg, if_neg hk32]; rfl

/-- An addition that stays in range changes the value pair alone. -/
theorem addCounter_inRange (h : s.RegsCanonical) (hlt : counterValue s k + n < 2 ^ 48) :
    counterValue (s.addCounter k n) k = counterValue s k + n ∧
    ∀ a, a ≠ 0x40200 + 8 * k → a ≠ 0x40204 + 8 * k → (s.addCounter k n).reg a = s.reg a := by
  rw [addCounter_of_lt hlt]
  exact ⟨counterValue_putCounter_same h k hlt, fun a => reg_putCounter_other h _⟩

/-- An addition past the range leaves the wrapped or saturated value, sets the counter's overflow bit, and changes no other
register. -/
theorem addCounter_pastMax (h : s.RegsCanonical) (hk : k < 64) (hle : 2 ^ 48 ≤ counterValue s k + n) :
    counterValue (s.addCounter k n) k = pastMax s k (counterValue s k + n) ∧
    (s.addCounter k n).reg (ovfReg k) = orBit (s.reg (ovfReg k)) (k % 32) % 2 ^ 32 ∧
    ∀ a, a ≠ 0x40200 + 8 * k → a ≠ 0x40204 + 8 * k → a ≠ ovfReg k → (s.addCounter k n).reg a = s.reg a := by
  rw [addCounter_of_le h hk hle]
  have hput := putCounter_ok h k (pastMax s k (counterValue s k + n))
  have hovf := ovfReg_eq k
  refine ⟨?value, ?ovf, ?frame⟩
  case value =>
    have hlo : 0x40200 + 8 * k ≠ ovfReg k := by omega
    have hhi : 0x40204 + 8 * k ≠ ovfReg k := by omega
    rw [counterValue_congr ((reg_setReg hput).trans (if_neg hlo)) ((reg_setReg hput).trans (if_neg hhi)),
      counterValue_putCounter_same h k (pastMax_lt s k _)]
  case ovf => rw [reg_setReg hput, if_pos rfl]
  case frame =>
    intro a hlo hhi ha
    rw [reg_setReg hput, if_neg ha, reg_putCounter_other h _ hlo hhi]

/-- The value of another counter is left alone, in range or past it. -/
theorem counterValue_addCounter_other (h : s.RegsCanonical) (hk : k < 64) {j : Nat} (hne : j ≠ k) :
    counterValue (s.addCounter k n) j = counterValue s j := by
  have hovf := ovfReg_eq k
  rcases lt_or_ge (counterValue s k + n) (2 ^ 48) with hlt | hle
  · obtain ⟨-, hframe⟩ := addCounter_inRange h hlt
    exact counterValue_congr (hframe _ (by omega) (by omega)) (hframe _ (by omega) (by omega))
  · obtain ⟨-, -, hframe⟩ := addCounter_pastMax h hk hle
    exact counterValue_congr (hframe _ (by omega) (by omega) (by omega)) (hframe _ (by omega) (by omega) (by omega))

/-- Passing 2^48 − 1 sets the counter's own overflow bit and no other. -/
theorem bit_ovfReg_addCounter (h : s.RegsCanonical) (hk : k < 64) (hle : 2 ^ 48 ≤ counterValue s k + n) {j : Nat}
    (hj : j < 64) : bit ((s.addCounter k n).reg (ovfReg j)) (j % 32) =
      (decide (j = k) || bit (s.reg (ovfReg j)) (j % 32)) := by
  obtain ⟨-, hovf, hframe⟩ := addCounter_pastMax h hk hle
  by_cases hreg : ovfReg j = ovfReg k
  · have hmod : j % 32 = k % 32 ↔ j = k :=
      ⟨fun hm => by_contra fun hne => mod_ne_of_ovfReg_eq hj hk hne hreg hm, fun he => he ▸ rfl⟩
    rw [hreg, hovf, bit_mod_word _ (Nat.mod_lt _ (by decide)), bit_orBit]
    simp only [hmod]
  · have hne : j ≠ k := fun he => hreg (he ▸ rfl)
    have hval := ovfReg_eq j
    rw [hframe _ (by omega) (by omega) hreg]
    simp [hne]

end

/-- Settles O50: in range the value pair alone changes; past it `pastMax` is left and the counter's overflow bit set. -/
theorem countersWrapOrSaturate : Obligations.CountersWrapOrSaturate := by
  rintro s k v n h hk rfl hv
  refine ⟨?inRange, ?wraps, ?wrapsToZero, ?saturates, ?overflow, fun j _ => counterValue_addCounter_other h hk⟩
  case inRange =>
    intro hlt
    obtain ⟨hvalue, hframe⟩ := addCounter_inRange h hlt
    exact ⟨hvalue, hframe _ (by omega) (by omega), hframe _ (by omega) (by omega)⟩
  case wraps =>
    intro hle hsat
    obtain ⟨hvalue, -⟩ := addCounter_pastMax h hk hle
    exact hvalue.trans (pastMax_wraps hsat _)
  case wrapsToZero =>
    intro (hmax : counterValue s k = 2 ^ 48 - 1) hsat
    obtain ⟨hvalue, -⟩ := addCounter_pastMax (n := 1) h hk (by omega)
    rw [pastMax_wraps hsat, hmax] at hvalue
    exact hvalue
  case saturates =>
    intro hle hsat
    obtain ⟨hvalue, -⟩ := addCounter_pastMax h hk hle
    exact hvalue.trans (pastMax_saturates hsat _)
  case overflow =>
    intro hle
    refine ⟨?own, fun j hj hne => ?others⟩
    case own => simpa using bit_ovfReg_addCounter h hk hle hk
    case others => simpa [hne] using bit_ovfReg_addCounter h hk hle hj

end Sys2Proof.Proofs
end

section
/-! PROOFS. The register window (chapter 13): what a read or write does while the main side is off, which registers are
guarded, and the two statements about R443 and R451. -/
namespace Sys2Proof.Proofs
open Sys2Proof Sys2Proof.Machine

/-! ## Blocks that do not answer (R443) -/

section
variable {s : State} {mgmt : Bool} {addr : Nat} {v : Word}

theorem answers_of_mainOff (hoff : s.power.mainOk = false) (a : Nat) : s.answers a = decide (a < 0x30000) := by
  simp [State.answers, hoff]

theorem answers_eq_false_of_mainOff (hoff : s.power.mainOk = false) {a : Nat} (ha : 0x30000 ≤ a) : s.answers a = false := by
  simp [answers_of_mainOff hoff, ha]

/-- The bits that `regAddr` drops select within a block: a register of the main side stands in a block of the main side. -/
theorem mainSide_baseOf (ha : 0x30000 ≤ regAddr addr) : 0x30000 ≤ baseOf addr := by
  unfold regAddr at ha
  have hblock : 3 ≤ addr / 0x10000 := by omega
  exact Nat.mul_le_mul_right 0x10000 hblock

theorem base_of_pendingHalf {base : Nat} {g : Nat × Nat × Word × Bool × Nat} (hg : s.pendingHalf base = some g) :
    g.1 = base := by
  unfold State.pendingHalf at hg
  simpa using List.find?_some hg

theorem readReg_unanswered (ha : s.answers (regAddr addr) = false) : s.readReg mgmt addr = (s, 0) := by
  simp [State.readReg, ha]

/-- A read that finds no latched word returns what the register shows. -/
theorem readReg_snd_of_unlatched (ha : s.answers (regAddr addr) = true)
    (hl : (s.win.latched.find? fun l => l.1 == mgmt && l.2.1 == regAddr addr) = none) :
    (s.readReg mgmt addr).2 = s.shown (regAddr addr) := by
  simp [State.readReg, ha, hl]

/-- A write to the main side's window while it is off is refused by its guard, discarded, or completes a pending half, which
is dropped and written nowhere. -/
theorem writeReg_mainOff (hoff : s.power.mainOk = false) (ha : 0x30000 ≤ regAddr addr) :
    (s.writeReg mgmt addr v).2 = stGuard ∨ s.writeReg mgmt addr v = (s, stSuccess) ∨
      ∃ g, s.pendingHalf (baseOf addr) = some g ∧ s.writeReg mgmt addr v = (s.dropHalf g.1, stSuccess) := by
  unfold State.writeReg
  cases hg : s.pendingHalf (baseOf addr) with
  | some g =>
    have hbase : 0x30000 ≤ g.1 + g.2.1 := by
      rw [base_of_pendingHalf hg]; exact Nat.le_add_right_of_le (mainSide_baseOf ha)
    have hsilent : (s.dropHalf g.1).answers (g.1 + g.2.1) = false := answers_eq_false_of_mainOff hoff hbase
    by_cases hc : completes g addr v mgmt = true
    · exact .inr (.inr ⟨g, rfl, by simp [hc, hsilent]⟩)
    · exact .inl (by simp [hc])
  | none =>
    have hsilent := answers_eq_false_of_mainOff hoff ha
    dsimp only
    split
    · exact .inl rfl
    · exact .inr (.inl (by simp [hsilent]))

/-- A pair written to the main side's window while it is off is refused or discarded. -/
theorem writePair_mainOff (hoff : s.power.mainOk = false) (ha : 0x30000 ≤ regAddr addr) :
    (s.writePair mgmt addr v).2 = stGuard ∨ s.writePair mgmt addr v = (s, stSuccess) := by
  unfold State.writePair
  dsimp only
  split
  · exact .inl rfl
  · exact .inr (by simp [answers_eq_false_of_mainOff hoff ha])

/-- With no half pending, a write to an answering register that is neither half of a guarded pair takes effect. -/
theorem writeReg_own (ha : s.answers (regAddr addr) = true) (hal : aliasOf addr = 0)
    (hp : s.pendingHalf (baseOf addr) = none) (hg : guarded (regAddr addr) = false)
    (hc : 4 ≤ regAddr addr → guarded (regAddr addr - 4) = false) :
    s.writeReg mgmt addr v =
      ((s.writeOwn mgmt (regAddr addr) v.toNat false).collide (regAddr addr) addr mgmt, stSuccess) := by
  have hhalf : (decide (4 ≤ regAddr addr) && guarded (regAddr addr - 4)) = false := by
    simpa using hc
  simp [State.writeReg, hp, ha, hal, hg, hhalf]

/-- With no half pending, a pair written to an answering register takes effect at once. -/
theorem writePair_own (ha : s.answers (regAddr addr) = true) (hal : aliasOf addr = 0)
    (hp : s.pendingHalf (baseOf addr) = none) :
    s.writePair mgmt addr v =
      ((s.writeOwn mgmt (regAddr addr) v.toNat true).collide (regAddr addr) addr mgmt, stSuccess) := by
  simp [State.writePair, hp, ha, hal]

end

/-- Settles O55: what does not answer reads as 0, and a write there with SUCCESS is discarded or drops a pending half. -/
theorem mainSideBlocksReadZeroWhileOff : Obligations.MainSideBlocksReadZeroWhileOff := by
  intro s hoff
  have hguard : stGuard ≠ stSuccess := by decide
  have hown {a : Nat} (ha : a < 0x30000) : s.answers a = true := by simp [answers_of_mainOff hoff, ha]
  refine ⟨?readZero, ?readOwn, ?discarded, ?regsKept, ?pairDiscarded, ?writeOwn⟩
  case readZero => exact fun m addr ha => readReg_unanswered (answers_eq_false_of_mainOff hoff ha)
  case readOwn => exact fun m addr ha hl => readReg_snd_of_unlatched (hown ha) hl
  case discarded =>
    intro m addr v ha hnone hok
    obtain hst | heq | ⟨g, hg, -⟩ := writeReg_mainOff (mgmt := m) (v := v) hoff ha
    · exact absurd (hst.symm.trans hok) hguard
    · rw [heq]
    · cases hnone.symm.trans hg
  case regsKept =>
    intro m addr v ha hok
    obtain hst | heq | ⟨g, -, heq⟩ := writeReg_mainOff (mgmt := m) (v := v) hoff ha
    · exact absurd (hst.symm.trans hok) hguard
    · rw [heq]
    · rw [heq]; rfl
  case pairDiscarded =>
    intro m addr v ha hok
    obtain hst | heq := writePair_mainOff (mgmt := m) (v := v) hoff ha
    · exact absurd (hst.symm.trans hok) hguard
    · rw [heq]
  case writeOwn => exact fun m addr v ha hal hp hg hc => writeReg_own (hown ha) hal hp hg hc

/-! ## The guarded registers (Table 13.3) -/

theorem blockOf_eq_some {a base : Nat} {b : BlockDef} (h : blockOf a = some (base, b)) :
    b ∈ regBlocks ∧ b.base ≤ a ∧ a < b.base + 0x10000 * b.count := by
  unfold blockOf at h
  split at h
  next c hfind =>
    cases h
    exact ⟨List.mem_of_find?_eq_some hfind, by simpa using List.find?_some hfind⟩
  next => cases h

/-- The register of an address is one of the tables', in a block that holds the address. -/
theorem regDef_eq_some {a : Nat} {r : RegDef} (h : regDef a = some r) :
    ∃ b ∈ regBlocks, b.base ≤ a ∧ a < b.base + 0x10000 * b.count ∧ r ∈ b.regs ++ regsNIB0 ∧
      r.covers (a % 0x10000) = true := by
  unfold regDef at h
  split at h
  next base b hblock =>
    obtain ⟨hb, hlo, hhi⟩ := blockOf_eq_some hblock
    have hmem : r ∈ regsAt base b := List.mem_of_find?_eq_some h
    refine ⟨b, hb, hlo, hhi, ?_, by simpa using List.find?_some h⟩
    unfold regsAt at hmem
    split at hmem
    · exact hmem
    · exact List.mem_append_left _ hmem
  next => cases h

/-- Has a register a GP field? -/
abbrev hasGP (r : RegDef) : Bool := r.fields.any fun f => f.acc == .GP

theorem guarded_iff_regDef {a : Nat} : guarded a = true ↔ ∃ r, regDef a = some r ∧ hasGP r = true := by
  unfold guarded
  cases regDef a <;> simp

/-- The registers with a GP field in the tables of the blocks: each stands at one offset, with the blocks that hold it. -/
theorem hasGP_of_mem : ∀ b ∈ regBlocks, ∀ r ∈ b.regs ++ regsNIB0, hasGP r = true → r.stride = 0 ∧
    (b.base = 0 ∧ b.count = 1 ∧ r.off = 0x40 ∨ b.base = 0x480000 ∧ b.count = 1 ∧ r.off = 0x14 ∨
      b.base = 0x100000 ∧ b.count = 16 ∧ r.off = 8) := by
  decide +kernel

theorem offset_of_covers {r : RegDef} {o : Nat} (hstride : r.stride = 0) (h : r.covers o = true) : o = r.off := by
  simp only [RegDef.covers, hstride, if_pos, Bool.and_eq_true, beq_iff_eq] at h
  exact h.2

theorem guarded_resetReq : guarded 0x40 = true := by decide +kernel

theorem guarded_routeArm : guarded 0x480014 = true := by decide +kernel

theorem guarded_evacReq : ∀ c < 16, guarded (0x100008 + 0x10000 * c) = true := by decide +kernel

/-- The guarded registers are GLB_RESET_REQ, QFB_ROUTE_ARM and the sixteen CABc_EVAC_REQ. -/
theorem guarded_iff (a : Nat) :
    guarded a = true ↔ a = 0x40 ∨ a = 0x480014 ∨ ∃ c, c < 16 ∧ a = 0x100008 + 0x10000 * c := by
  constructor
  · intro h
    obtain ⟨r, hr, hgp⟩ := guarded_iff_regDef.mp h
    obtain ⟨b, hb, hlo, hhi, hmem, hcovers⟩ := regDef_eq_some hr
    obtain ⟨hstride, hplace⟩ := hasGP_of_mem b hb r hmem hgp
    have hoff := offset_of_covers hstride hcovers
    obtain ⟨hbase, hcount, ho⟩ | ⟨hbase, hcount, ho⟩ | ⟨hbase, hcount, ho⟩ := hplace
    · exact .inl (by omega)
    · exact .inr (.inl (by omega))
    · exact .inr (.inr ⟨a / 0x10000 - 0x10, by omega, by omega⟩)
  · rintro (rfl | rfl | ⟨c, hc, rfl⟩)
    · exact guarded_resetReq
    · exact guarded_routeArm
    · exact guarded_evacReq c hc

/-! ## REG_WRITE_PAIR (R451) -/

/-- The complement's address reads the complement of the guarded register. -/
theorem shown_complement (s : State) {a : Nat} (ha : 4 ≤ a) (hg : guarded (a - 4) = true) :
    s.shown a = 0xFFFFFFFF - s.reg (a - 4) := by
  obtain h | h | ⟨c, hc, h⟩ := (guarded_iff _).mp hg <;>
  · unfold State.shown
    rw [if_neg (by omega), if_neg (by omega), if_neg (by omega), if_neg (by omega), if_pos ⟨ha, hg⟩]

theorem exec_regWritePair (s : State) (h : Hdr) (addr : Nat) (v : Word) :
    exec (.regWritePair h addr v) s = .next (s.command h (opReg 0x0102) (Machine.addrOk addr && guarded (regAddr addr))
      (.regWritePair h addr v) fun s => .status (s.writePair h.src.isSide addr v)).afterReply := rfl

theorem regWritePair_refused {s : State} {h : Hdr} {addr : Nat} (v : Word) (hr : s.runs h (opReg 0x0102) = true)
    (hg : guarded (regAddr addr) = false) :
    exec (.regWritePair h addr v) s = .next (((s.admitted h).answer h 0x0102 stParam []).afterReply) := by
  rw [exec_regWritePair, command_of_bad hr (by simp [hg])]

theorem regWritePair_acts {s : State} {h : Hdr} {addr : Nat} (v : Word) (hr : s.runs h (opReg 0x0102) = true)
    (hok : Machine.addrOk addr = true) (hg : guarded (regAddr addr) = true) :
    exec (.regWritePair h addr v) s = .next
      (((s.admitted h).writePair h.src.isSide addr v).1.answer h 0x0102
        ((s.admitted h).writePair h.src.isSide addr v).2 []).afterReply := by
  rw [exec_regWritePair, command_of_runs hr (by simp [hok, hg])]
  rfl

/-- Settles O56: the registers with a GP field are read off the tables; at one of them the command is one guarded write, at
any other address its parameters are out of range. -/
theorem pairedWritesOfGuardedRegisters : Obligations.PairedWritesOfGuardedRegisters := by
  refine ⟨guarded_iff, ?refused, ?written, ?complement⟩
  case refused => exact fun s h addr v hr hg => regWritePair_refused v hr hg
  case written =>
    intro s h addr v hr hok hal hg hp ha
    rw [regWritePair_acts v hr hok hg, writePair_own ha hal hp]
  case complement => exact fun s a ha hg _ _ => shown_complement s ha hg

end Sys2Proof.Proofs
end

section
/-! PROOFS. Power commands (chapter 15): the target that a MODE of POWER_SET selects, what its two field writes read back as,
and the statement about R518 and R458. -/
namespace Sys2Proof.Proofs
open Sys2Proof Sys2Proof.Machine

/-! ## The two targets of PWR_TARGET (Table 13.8) -/

/-- The field of PWR_TARGET that belongs to a value of PWR_CTRL.MODE. -/
def targetFld : Nat → Fld
  | 0 => PWR_TARGET_RATE
  | _ => PWR_TARGET_CAP

/-- The least value of that field; the greatest is 1,850 for both. -/
def targetFloor : Nat → Nat
  | 0 => 1000
  | _ => 900

/-- The register writes of POWER_SET: MODE and the target that belongs to it. -/
def putTarget (s : State) (mode v : Nat) : State := (s.put PWR_CTRL_MODE mode).put (targetFld mode) v

/-- Both targets stand in PWR_TARGET, each in its own bits, wide enough for 1,850. -/
theorem targetFld_layout {mode : Nat} (hm : mode ≤ 1) :
    (targetFld mode).addr = 0x10004 ∧ (targetFld mode).lo ≤ (targetFld mode).hi ∧ (targetFld mode).hi < 32 ∧
      1850 < 2 ^ ((targetFld mode).hi + 1 - (targetFld mode).lo) ∧
      ((targetFld (1 - mode)).hi < (targetFld mode).lo ∨ (targetFld mode).hi < (targetFld (1 - mode)).lo) := by
  decide +revert

theorem get_put_mode_target {s : State} {mode : Nat} (h : s.RegsCanonical) (hm : mode ≤ 1) (v : Nat) :
    (s.put PWR_CTRL_MODE v).get (targetFld mode) = s.get (targetFld mode) := by
  obtain ⟨haddr, -, hhi, -, -⟩ := targetFld_layout hm
  exact get_put_other h (by decide) hhi (.inl (by rw [haddr]; decide))

section
variable {s : State} {mode v : Nat} (h : s.RegsCanonical) (hm : mode ≤ 1)
include h hm

theorem get_mode_putTarget : (putTarget s mode v).get PWR_CTRL_MODE = mode := by
  obtain ⟨haddr, hlo, -, -, -⟩ := targetFld_layout hm
  have hkept : (putTarget s mode v).get PWR_CTRL_MODE = (s.put PWR_CTRL_MODE mode).get PWR_CTRL_MODE :=
    get_put_other (put_ok h) hlo (by decide) (.inl (by rw [haddr]; decide))
  rw [hkept, get_put_same h (by decide) (by decide)]
  exact Nat.mod_eq_of_lt (Nat.lt_succ_of_le hm)

theorem get_target_putTarget (hv : v ≤ 1850) : (putTarget s mode v).get (targetFld mode) = v := by
  obtain ⟨-, hlo, hhi, hwide, -⟩ := targetFld_layout hm
  rw [putTarget, get_put_same (put_ok h) hlo hhi, Nat.mod_eq_of_lt (hv.trans_lt hwide)]

/-- The target of the other mode is left as it was. -/
theorem get_otherTarget_putTarget : (putTarget s mode v).get (targetFld (1 - mode)) = s.get (targetFld (1 - mode)) := by
  obtain ⟨-, hlo, -, -, hapart⟩ := targetFld_layout hm
  have hother : 1 - mode ≤ 1 := Nat.sub_le 1 mode
  obtain ⟨-, -, hhi, -, -⟩ := targetFld_layout hother
  rw [putTarget, get_put_other (put_ok h) hlo hhi (.inr hapart), get_put_mode_target h hother]

end

/-! ## POWER_SET (R518) -/

/-- The row of POWER_SET in Table 12.4. -/
abbrev opPowerSet : OpInfo := ⟨0x0701, true, false, false, some 5, .always, false⟩

section
variable {s : State} {h : Hdr} {mode : Nat} (hr : s.runs h opPowerSet = true)
include hr

/-- With a MODE of 0 or 1 the command writes MODE and its target, brought to the nearer bound (R458). -/
theorem powerSet_acts (target : Nat) (hm : mode ≤ 1) : exec (.powerSet h mode target) s =
    .next ((putTarget (s.admitted h) mode (max (targetFloor mode) (min 1850 target))).answer h 0x0701 stSuccess []) := by
  change execPowerSet h mode target s = _
  rw [execPowerSet, command_of_runs hr (by simpa using hm)]
  cases mode <;> rfl

theorem powerSet_refused (target : Nat) (hm : 1 < mode) :
    exec (.powerSet h mode target) s = .next ((s.admitted h).answer h 0x0701 stParam []) := by
  change execPowerSet h mode target s = _
  rw [execPowerSet, command_of_bad hr (by simpa using hm)]

end

/-- Settles O54: one argument for both modes, over the target field that MODE selects. -/
theorem powerSetWritesModeAndTarget : Obligations.PowerSetWritesModeAndTarget := by
  refine ⟨?acts, ?refused, ?readBack⟩
  case acts => exact fun s h target hr => ⟨powerSet_acts hr target (by decide), powerSet_acts hr target (by decide)⟩
  case refused => exact fun s h mode target hr hm => powerSet_refused hr target hm
  case readBack =>
    intro s r h hle
    have hrate : 0 ≤ 1 := by decide
    have hcap : 1 ≤ 1 := by decide
    exact ⟨get_mode_putTarget h hrate, get_target_putTarget h hrate hle, get_otherTarget_putTarget h hrate,
      get_mode_putTarget h hcap, get_target_putTarget h hcap hle, get_otherTarget_putTarget h hcap⟩

end Sys2Proof.Proofs
end

section
/-! PROOFS. What every command keeps (chapters 5, 6, 12, 13): one case per row of the dispatch, and from it the statements about
soundness, the queue and the transcript, the floors and the owner, and the quiet commands. -/
namespace Sys2Proof.Proofs
open Sys2Proof Sys2Proof.Machine Sys2Proof.Laws

/-- The commands that leave the owner addresses alone: all but the three of R414 and R480. -/
def ownerQuiet : Instr → Bool
  | .claim _ _ | .release _ | .eraseAll _ _ => false
  | _ => true

/-- Every command but those three keeps the owner beside what all commands keep. -/
theorem exec_keeps_owner {i : Instr} (hi : ownerQuiet i = true) (s : State) : OutKept false true s (exec i s) := by
  have hs : Kept false true s s := Kept.rfl'
  unfold exec
  split
  · with_reducible exact kept_execHello hs
  · cases hi
  · cases hi
  · with_reducible exact kept_execPing hs
  · with_reducible exact kept_execRegRead hs
  · with_reducible exact kept_execRegWrite hs
  · with_reducible exact kept_execRegWritePair hs
  · with_reducible exact kept_execLock hs
  · with_reducible exact kept_execUnlock hs
  · with_reducible exact kept_execMemRead hs
  · with_reducible exact kept_execMemWrite hs
  · with_reducible exact kept_execMemAtomic hs
  · with_reducible exact kept_execScrub hs
  · with_reducible exact kept_execDigest hs
  · with_reducible exact kept_execStateRead hs
  · with_reducible exact kept_execStateWrite hs
  · with_reducible exact kept_execFolioData hs
  · with_reducible exact kept_execLoadFolio hs
  · with_reducible exact kept_execStart hs
  · with_reducible exact kept_execStop hs
  · with_reducible exact kept_execSetStepSize hs
  · with_reducible exact kept_execSetSeed hs
  · with_reducible exact kept_execJobStatus hs
  · with_reducible exact kept_execRouteWrite hs
  · with_reducible exact kept_execRouteArm hs
  · with_reducible exact kept_execSeal hs
  · with_reducible exact kept_execRestore hs
  · with_reducible exact kept_execAdopt hs
  · with_reducible exact kept_execConfirm hs
  · with_reducible exact kept_execPartner2 hs
  · with_reducible exact kept_execEventAck hs
  · with_reducible exact kept_execEventMask hs
  · with_reducible exact kept_execStepReport hs
  · with_reducible exact kept_execPowerStatus hs
  · with_reducible exact kept_execPowerSet hs
  · with_reducible exact kept_execMainPower hs
  · with_reducible exact kept_execFwStage hs
  · with_reducible exact kept_execFwCommit hs
  · with_reducible exact kept_execIdRotate hs
  · cases hi
  · with_reducible exact kept_execDebugUnlock hs
  · with_reducible exact kept_execTestMode hs
  · with_reducible exact kept_execSealAck hs
  · with_reducible exact kept_execAttest hs
  · with_reducible exact kept_execOpcodeUnknown hs
  · with_reducible exact kept_execChembeRefused hs
  · with_reducible exact kept_execArp hs
  · with_reducible exact kept_execNeighborDiscovery hs
  · with_reducible exact kept_execEchoRequest hs
  · with_reducible exact kept_execSessionTimeout hs
  · with_reducible exact kept_execCommandDone hs
  · with_reducible exact kept_execEventResend hs
  · with_reducible exact kept_execHLinkDown hs
  · with_reducible exact kept_execHostPortTrain hs
  · with_reducible exact kept_execLockTimeout hs
  · with_reducible exact kept_execGuardTimeout hs
  · with_reducible exact kept_execWarmReset hs
  · with_reducible exact kept_execBlockReset hs
  · with_reducible exact kept_execEvacReq hs
  · with_reducible exact kept_execSnap hs
  · with_reducible exact kept_execClear hs
  · with_reducible exact kept_execColdStart hs
  · with_reducible exact kept_execEscritoireReady hs
  · with_reducible exact kept_execMainOnStart hs
  · with_reducible exact kept_execReady hs
  · with_reducible exact kept_execStandbyLoss hs
  · with_reducible exact kept_execPwrEnRise hs
  · with_reducible exact kept_execPwrEnFall hs
  · with_reducible exact kept_execResetN hs
  · with_reducible exact kept_execResetNRelease hs
  · with_reducible exact kept_execUndervolt hs
  · with_reducible exact kept_execOvervolt hs
  · with_reducible exact kept_execPowerFail hs
  · with_reducible exact kept_execGaspRailsOff hs
  · with_reducible exact kept_execThermTrip hs
  · with_reducible exact kept_execFeedWarn hs
  · with_reducible exact kept_execHeartbeat hs
  · with_reducible exact kept_execMainLost hs
  · with_reducible exact kept_execVloopStep hs
  · with_reducible exact kept_execGateUpdate hs
  · with_reducible exact kept_execPresence hs
  · with_reducible exact kept_execPresenceStrapped hs
  · with_reducible exact kept_execPresenceWindowExpiry hs
  · with_reducible exact kept_execSealSample hs
  · with_reducible exact kept_execFwStageTimeout hs
  · with_reducible exact kept_execEntdaa hs
  · with_reducible exact kept_execSetnewda hs
  · with_reducible exact kept_execGetpid hs
  · with_reducible exact kept_execGetbcr hs
  · with_reducible exact kept_execGetdcr hs
  · with_reducible exact kept_execGetstatus hs
  · with_reducible exact kept_execGetmwl hs
  · with_reducible exact kept_execGetmrl hs
  · with_reducible exact kept_execRstdaa hs
  · with_reducible exact kept_execSetEndpointId hs
  · with_reducible exact kept_execGetEndpointId hs
  · with_reducible exact kept_execGetEndpointUuid hs
  · with_reducible exact kept_execGetMctpVersionSupport hs
  · with_reducible exact kept_execGetMessageTypeSupport hs
  · with_reducible exact kept_execGetVendorDefinedMsgSupport hs
  · with_reducible exact kept_execGetPdrRepositoryInfo hs
  · with_reducible exact kept_execGetPdr hs
  · with_reducible exact kept_execGetSensorReading hs
  · with_reducible exact kept_execGetStateSensorReadings hs
  · with_reducible exact kept_execSetEventReceiver hs
  · with_reducible exact kept_execPlatformEventMessage hs
  · with_reducible exact kept_execWave hs
  · with_reducible exact kept_execWeightRowLoad hs
  · with_reducible exact kept_execBroadcastRow hs
  · with_reducible exact kept_execTie hs
  · with_reducible exact kept_execTieForced hs
  · with_reducible exact kept_execLeafRateWindow hs
  · with_reducible exact kept_execNop hs
  · with_reducible exact kept_execMm hs
  · with_reducible exact kept_execEw hs
  · with_reducible exact kept_execRow hs
  · with_reducible exact kept_execGather hs
  · with_reducible exact kept_execScatter hs
  · with_reducible exact kept_execRoot hs
  · with_reducible exact kept_execStrokeDone hs
  · with_reducible exact kept_execTableWait hs
  · with_reducible exact kept_execCopy hs
  · with_reducible exact kept_execFill hs
  · with_reducible exact kept_execTableLoad hs
  · with_reducible exact kept_execSlotSet hs
  · with_reducible exact kept_execIntakeTake hs
  · with_reducible exact kept_execTakeWait hs
  · with_reducible exact kept_execDmaDone hs
  · with_reducible exact kept_execActReplay hs
  · with_reducible exact kept_execReplayRestart hs
  · with_reducible exact kept_execQwrite hs
  · with_reducible exact kept_execQadd hs
  · with_reducible exact kept_execQmcast hs
  · with_reducible exact kept_execUpdate hs
  · with_reducible exact kept_execSparseUpdate hs
  · with_reducible exact kept_execStepSizeStale hs
  · with_reducible exact kept_execNibBarrier hs
  · with_reducible exact kept_execStepEnd hs
  · with_reducible exact kept_execStepTimeout hs
  · with_reducible exact kept_execConfirmHold hs
  · with_reducible exact kept_execLineRead hs
  · with_reducible exact kept_execLineWrite hs
  · with_reducible exact kept_execMergeWrite hs
  · with_reducible exact kept_execExactAdd hs
  · with_reducible exact kept_execResWait hs
  · with_reducible exact kept_execFetchAdd hs
  · with_reducible exact kept_execSwap hs
  · with_reducible exact kept_execCmpSwap hs
  · with_reducible exact kept_execMaxU hs
  · with_reducible exact kept_execMinU hs
  · with_reducible exact kept_execSbdWriteback hs
  · with_reducible exact kept_execGrantSlot hs
  · with_reducible exact kept_execBgUrgent hs
  · with_reducible exact kept_execBgOverdue hs
  · with_reducible exact kept_execRefresh hs
  · with_reducible exact kept_execRefreshRateRead hs
  · with_reducible exact kept_execScrubPass hs
  · with_reducible exact kept_execScrubLine hs
  · with_reducible exact kept_execScrubLate hs
  · with_reducible exact kept_execEyeSample hs
  · with_reducible exact kept_execPrepare hs
  · with_reducible exact kept_execMigrate hs
  · with_reducible exact kept_execRetraining hs
  · with_reducible exact kept_execPauseSlice hs
  · with_reducible exact kept_execHardFail hs
  · with_reducible exact kept_execRebuild hs
  · with_reducible exact kept_execPortTrain hs
  · with_reducible exact kept_execQHello hs
  · with_reducible exact kept_execQEqAdapt hs
  · with_reducible exact kept_execQRetrain hs
  · with_reducible exact kept_execQLinkDown hs
  · with_reducible exact kept_execHandover hs
  · with_reducible exact kept_execAckTimeout hs
  · with_reducible exact kept_execAckSend hs
  · with_reducible exact kept_execAck hs
  · with_reducible exact kept_execQFrameWrite hs
  · with_reducible exact kept_execQFrameAdd hs
  · with_reducible exact kept_execQFrameMcast hs
  · with_reducible exact kept_execQFrameClose hs
  · with_reducible exact kept_execDelivery hs
  · with_reducible exact kept_execReport hs
  · with_reducible exact kept_execReadReq hs
  · with_reducible exact kept_execReadResp hs
  · with_reducible exact kept_execPair hs
  · with_reducible exact kept_execMap hs
  · with_reducible exact kept_execRideCopy hs
  · with_reducible exact kept_execEcho hs
  · with_reducible exact kept_execInput hs
  · with_reducible exact kept_execMark hs
  · with_reducible exact kept_execGasp hs
  · with_reducible exact kept_execGaspTimeout hs
  · with_reducible exact kept_execRiskSample hs
  · with_reducible exact kept_execFragment hs
  · with_reducible exact kept_execGap hs
  · with_reducible exact kept_execIntakePause hs
  · with_reducible exact kept_execIntakeRttSample hs
  · with_reducible exact kept_execIntakeThreshMove hs
  · with_reducible exact kept_execDatagramDrop hs
  · with_reducible exact kept_execBadFrame hs
  · with_reducible exact kept_execPfcFrame hs
  · with_reducible exact kept_execMessagingControlAndDiscovery hs
  · with_reducible exact kept_execMainRailFault hs

/-- A quiet command keeps memory beside what all commands keep. -/
theorem exec_keeps_memory {i : Instr} (hi : memoryQuiet i = true) (s : State) : OutKept true false s (exec i s) := by
  have hs : Kept true false s s := Kept.rfl'
  cases i
  case hello version _ => exact kept_execHello (_version := version) hs
  case claim => exact kept_execClaim hs
  case release => exact kept_execRelease hs
  case ping => exact kept_execPing hs
  case regRead => exact kept_execRegRead hs
  case lock => exact kept_execLock hs
  case unlock => exact kept_execUnlock hs
  case setStepSize => exact kept_execSetStepSize hs
  case jobStatus => exact kept_execJobStatus hs
  case routeWrite => exact kept_execRouteWrite hs
  case restore => exact kept_execRestore hs
  case partner2 => exact kept_execPartner2 hs
  case eventAck => exact kept_execEventAck hs
  case eventMask => exact kept_execEventMask hs
  case stepReport => exact kept_execStepReport hs
  case powerStatus => exact kept_execPowerStatus hs
  case powerSet => exact kept_execPowerSet hs
  case fwStage => exact kept_execFwStage hs
  case fwCommit => exact kept_execFwCommit hs
  case idRotate => exact kept_execIdRotate hs
  case debugUnlock => exact kept_execDebugUnlock hs
  case testMode => exact kept_execTestMode hs
  case sealAck => exact kept_execSealAck hs
  case attest => exact kept_execAttest hs
  case opcodeUnknown => exact kept_execOpcodeUnknown hs
  case chembeRefused => exact kept_execChembeRefused hs
  case arp mac => exact kept_execArp (_senderMac := mac) hs
  case neighborDiscovery mac => exact kept_execNeighborDiscovery (_senderMac := mac) hs
  case echoRequest => exact kept_execEchoRequest hs
  case sessionTimeout => exact kept_execSessionTimeout hs
  case eventResend => exact kept_execEventResend hs
  case hLinkDown => exact kept_execHLinkDown hs
  case hostPortTrain => exact kept_execHostPortTrain hs
  case lockTimeout => exact kept_execLockTimeout hs
  case guardTimeout => exact kept_execGuardTimeout hs
  case escritoireReady => exact kept_execEscritoireReady hs
  case mainOnStart => exact kept_execMainOnStart hs
  case pwrEnRise => exact kept_execPwrEnRise hs
  case resetNRelease => exact kept_execResetNRelease hs
  case undervolt => exact kept_execUndervolt hs
  case feedWarn => exact kept_execFeedWarn hs
  case heartbeat secretary => exact kept_execHeartbeat (_secretary := secretary) hs
  case mainLost => exact kept_execMainLost hs
  case vloopStep => exact kept_execVloopStep hs
  case gateUpdate => exact kept_execGateUpdate hs
  case presence => exact kept_execPresence hs
  case presenceStrapped => exact kept_execPresenceStrapped hs
  case presenceWindowExpiry => exact kept_execPresenceWindowExpiry hs
  case sealSample => exact kept_execSealSample hs
  case fwStageTimeout => exact kept_execFwStageTimeout hs
  case entdaa => exact kept_execEntdaa hs
  case setnewda => exact kept_execSetnewda hs
  case getpid => exact kept_execGetpid hs
  case getbcr => exact kept_execGetbcr hs
  case getdcr => exact kept_execGetdcr hs
  case getstatus => exact kept_execGetstatus hs
  case getmwl => exact kept_execGetmwl hs
  case getmrl => exact kept_execGetmrl hs
  case rstdaa => exact kept_execRstdaa hs
  case setEndpointId => exact kept_execSetEndpointId hs
  case getEndpointId => exact kept_execGetEndpointId hs
  case getEndpointUuid => exact kept_execGetEndpointUuid hs
  case getMctpVersionSupport => exact kept_execGetMctpVersionSupport hs
  case getMessageTypeSupport => exact kept_execGetMessageTypeSupport hs
  case getVendorDefinedMsgSupport => exact kept_execGetVendorDefinedMsgSupport hs
  case getPdrRepositoryInfo => exact kept_execGetPdrRepositoryInfo hs
  case getPdr => exact kept_execGetPdr hs
  case getSensorReading => exact kept_execGetSensorReading hs
  case getStateSensorReadings => exact kept_execGetStateSensorReadings hs
  case setEventReceiver => exact kept_execSetEventReceiver hs
  case platformEventMessage => exact kept_execPlatformEventMessage hs
  case wave => exact kept_execWave hs
  case weightRowLoad => exact kept_execWeightRowLoad hs
  case broadcastRow => exact kept_execBroadcastRow hs
  case tie => exact kept_execTie hs
  case tieForced => exact kept_execTieForced hs
  case leafRateWindow => exact kept_execLeafRateWindow hs
  case nop => exact kept_execNop hs
  case actReplay => exact kept_execActReplay hs
  case stepSizeStale => exact kept_execStepSizeStale hs
  case confirmHold => exact kept_execConfirmHold hs
  case grantSlot => exact kept_execGrantSlot hs
  case bgUrgent => exact kept_execBgUrgent hs
  case bgOverdue => exact kept_execBgOverdue hs
  case refresh die => exact kept_execRefresh (_die := die) hs
  case scrubPass => exact kept_execScrubPass hs
  case scrubLate => exact kept_execScrubLate hs
  case eyeSample => exact kept_execEyeSample hs
  case prepare => exact kept_execPrepare hs
  case retraining => exact kept_execRetraining hs
  case pauseSlice => exact kept_execPauseSlice hs
  case portTrain => exact kept_execPortTrain hs
  case qHello => exact kept_execQHello hs
  case qEqAdapt => exact kept_execQEqAdapt hs
  case ackTimeout => exact kept_execAckTimeout hs
  case ackSend => exact kept_execAckSend hs
  case riskSample => exact kept_execRiskSample hs
  case gap prio _ _ => exact kept_execGap (_prio := prio) hs
  case intakePause => exact kept_execIntakePause hs
  case intakeRttSample => exact kept_execIntakeRttSample hs
  case intakeThreshMove => exact kept_execIntakeThreshMove hs
  case datagramDrop => exact kept_execDatagramDrop hs
  case pfcFrame => exact kept_execPfcFrame hs
  case messagingControlAndDiscovery => exact kept_execMessagingControlAndDiscovery hs
  all_goals cases hi
/-! ## What the relation says -/

theorem kept_of_exec {c : Instr} {s t : State} (hexec : exec c s = .next t) : Kept false false s t := kept_exec Kept.rfl' t hexec

theorem sound_of_kept {m o : Bool} {s t : State} (h : Kept m o s t) (hs : s.Sound) : t.Sound := h.1 hs

theorem mem_of_kept {o : Bool} {s t : State} (h : Kept true o s t) : t.mem = s.mem := by
  obtain ⟨-, -, -, -, -, -, -, hmem, -⟩ := h
  exact hmem rfl

theorem owner_of_kept {m : Bool} {s t : State} (h : Kept m true s t) : t.flash.owner = s.flash.owner := by
  obtain ⟨-, -, -, -, -, -, -, -, howner⟩ := h
  exact howner rfl

theorem floors_of_kept {m o : Bool} {s t : State} (h : Kept m o s t) :
    s.flash.svnFloor ≤ t.flash.svnFloor ∧ s.flash.keyFloor ≤ t.flash.keyFloor := by
  obtain ⟨-, -, -, -, -, hsvn, hkey, -, -⟩ := h
  exact ⟨hsvn, hkey⟩

/-! ## The tick -/

/-- The counters of the nanosecond that passes, the timestamp among them (R327, R330). -/
def tickCounters (s : State) : State :=
  if s.power.timeOn then s.durations.put2 CNT_TIME_LO_TIME CNT_TIME_HI_TIME ((s.stamp + 1) % 2 ^ 64) else s

theorem tick_eq (s : State) : s.tick = ({ tickCounters s with time := (tickCounters s).time + 1 } : State).ageVin.endPauses := rfl

theorem kept_tickCounters (s : State) : Kept true true s (tickCounters s) := by
  unfold tickCounters
  split
  · exact kept_put2 (kept_durations Kept.rfl')
  · exact Kept.rfl'

/-- Past the clock itself, the tick keeps what a command keeps, memory and the owner with it. -/
theorem kept_tick (s : State) : Kept true true { tickCounters s with time := (tickCounters s).time + 1 } s.tick :=
  kept_endPauses (kept_ageVin Kept.rfl')

theorem tick_sound {s : State} (hs : s.Sound) : s.tick.Sound :=
  sound_of_kept (kept_tick s) (show (tickCounters s).Sound from sound_of_kept (kept_tickCounters s) hs)

theorem tick_floors (s : State) : s.flash.svnFloor ≤ s.tick.flash.svnFloor ∧ s.flash.keyFloor ≤ s.tick.flash.keyFloor := by
  obtain ⟨hsvn, hkey⟩ := floors_of_kept (kept_tickCounters s)
  obtain ⟨hsvn', hkey'⟩ := floors_of_kept (kept_tick s)
  exact ⟨hsvn.trans hsvn', hkey.trans hkey'⟩

theorem tick_owner (s : State) : s.tick.flash.owner = s.flash.owner :=
  (owner_of_kept (kept_tick s)).trans (show (tickCounters s).flash.owner = _ from owner_of_kept (kept_tickCounters s))

theorem tick_mem (s : State) : s.tick.mem = s.mem :=
  (mem_of_kept (kept_tick s)).trans (show (tickCounters s).mem = _ from mem_of_kept (kept_tickCounters s))

/-! ## Steps -/

theorem step_nil {s : State} (h : s.pending = []) : step s = .next s.tick := by rw [step, h]

theorem step_cons {s : State} {c : Instr} {rest : List Instr} (h : s.pending = c :: rest) :
    step s = exec c { s with pending := rest } := by rw [step, h]

/-- Settles O43: a command keeps the four lists canonical by `kept_exec`, the tick by the relation on both sides of the clock. -/
theorem soundnessIsKept : Obligations.SoundnessIsKept := by
  intro s t hs hstep
  cases hp : s.pending with
  | nil =>
    obtain rfl : s.tick = t := by simpa [step_nil hp] using hstep
    exact tick_sound hs
  | cons c rest =>
    rw [step_cons hp] at hstep
    have hs' : State.Sound { s with pending := rest } := hs
    exact sound_of_kept (kept_of_exec hstep) hs'

/-- Settles O44: these are four of the fields that `Kept` speaks of. -/
theorem commandsKeepTheQueueTheClockAndWhatWasSent : Obligations.CommandsKeepTheQueueTheClockAndWhatWasSent := by
  intro c s t hexec
  obtain ⟨-, hpending, htime, hout, hfree, -⟩ := kept_of_exec hexec
  exact ⟨hpending, htime, hout, hfree⟩

theorem ownerQuiet_eq_true {i : Instr} (hclaim : ∀ h alt, i ≠ .claim h alt) (hrelease : ∀ h, i ≠ .release h)
    (herase : ∀ h n, i ≠ .eraseAll h n) : ownerQuiet i = true := by
  unfold ownerQuiet
  split
  · exact absurd rfl (hclaim _ _)
  · exact absurd rfl (hrelease _)
  · exact absurd rfl (herase _ _)
  · rfl

/-- Settles O45: the floors by `kept_exec`, the owner by the case of each command but the three. -/
theorem floorsNeverFallAndOnlyThreeRowsChangeTheOwner : Obligations.FloorsNeverFallAndOnlyThreeRowsChangeTheOwner := by
  intro s t hstep
  cases hp : s.pending with
  | nil =>
    obtain rfl : s.tick = t := by simpa [step_nil hp] using hstep
    exact ⟨(tick_floors s).1, (tick_floors s).2, fun _ _ _ => tick_owner s⟩
  | cons c rest =>
    rw [step_cons hp] at hstep
    obtain ⟨hsvn, hkey⟩ := floors_of_kept (kept_of_exec hstep)
    refine ⟨hsvn, hkey, fun hclaim hrelease herase => ?_⟩
    have hquiet : ownerQuiet c = true :=
      ownerQuiet_eq_true (by simpa using hclaim) (by simpa using hrelease) (by simpa using herase)
    exact (owner_of_kept (exec_keeps_owner hquiet _ t hstep) :)

/-- Settles O46: a line's bytes and check word are read off memory alone. -/
theorem quietCommandsLeaveMemoryAlone : Obligations.QuietCommandsLeaveMemoryAlone := by
  have hmem : ∀ (c : Instr) (s t : State), memoryQuiet c = true → exec c s = .next t → t.mem = s.mem :=
    fun c s t hquiet hexec => mem_of_kept (exec_keeps_memory hquiet s t hexec)
  refine ⟨hmem, fun c s t hquiet hexec a => ?_⟩
  simp [State.rawData, State.rawCheck, hmem c s t hquiet hexec]

end Sys2Proof.Proofs
end

section
/-! PROOFS. What the operations of the fabric leave alone (chapter 10): a frame that is queued, sent or reported touches
registers, channels and the transcript, never memory, the Sideboard, flash, folio, job, run, the survival path or the table
of messages. -/
namespace Sys2Proof.Proofs
open Sys2Proof Sys2Proof.Machine

/-- The part of the module that a frame on its way out never touches. -/
def inner (s : State) : Mem × Sbd × Flash × Option Folio × Job × Run × Survival × List RxMsg :=
  (s.mem, s.sbd, s.flash, s.folio, s.job, s.run, s.svl, s.quill.rx)

theorem inner_foldl {α : Type} {f : State → α → State} (hf : ∀ s x, inner (f s x) = inner s) (l : List α) (s : State) :
    inner (l.foldl f s) = inner s := by
  induction l generalizing s with
  | nil => rfl
  | cons x l ih => exact (ih (f s x)).trans (hf s x)

@[simp] theorem inner_send (s : State) (o : Out) : inner (s.send o) = inner s := rfl
@[simp] theorem inner_put (s : State) (f : Fld) (v : Nat) : inner (s.put f v) = inner s := rfl
@[simp] theorem inner_countAt (s : State) (c : Nat) (i : Inst) (n : Nat) : inner (s.countAt c i n) = inner s := by simp [inner]
@[simp] theorem inner_addCounter (s : State) (k n : Nat) : inner (s.addCounter k n) = inner s := by simp [inner]
@[simp] theorem inner_onPort (s : State) (p : Nat) (f : QPort → QPort) : inner (s.onPort p f) = inner s := rfl
@[simp] theorem inner_setChan (s : State) (c : Chan) : inner (s.setChan c) = inner s := rfl
@[simp] theorem inner_countBytes (s : State) (p : Nat) (f : TxFrame) : inner (s.countBytes p f) = inner s := rfl

@[simp] theorem inner_noteRetry (s : State) (p : Nat) : inner (s.noteRetry p) = inner s := by
  unfold State.noteRetry
  dsimp only
  split <;> simp

@[simp] theorem inner_sendPort (s : State) (p lines : Nat) (o : Out) : inner (s.sendPort p lines o) = inner s := by
  unfold State.sendPort
  dsimp only
  split <;> simp

@[simp] theorem inner_wire (s : State) (c : Chan) (f : TxFrame) : inner (s.wire c f) = inner s := by
  unfold State.wire
  dsimp only
  split <;> simp

@[simp] theorem inner_noteStall (s : State) (p : Nat) (was : Bool) : inner (s.noteStall p was) = inner s := by
  unfold State.noteStall
  split <;> simp

@[simp] theorem inner_queueFrame (s : State) (p peer : Nat) (f : TxFrame) : inner (s.queueFrame p peer f) = inner s := by
  unfold State.queueFrame
  split
  · rfl
  · split <;> simp

@[simp] theorem inner_offer (s : State) (p peer : Nat) (f : TxFrame) : inner (s.offer p peer f) = inner s := by simp [State.offer]

@[simp] theorem inner_pumpChan (s : State) (p peer : Nat) : inner (s.pumpChan p peer) = inner s := by
  unfold State.pumpChan
  split
  · rfl
  · simp [inner_foldl fun s f => inner_queueFrame s p peer f]

@[simp] theorem inner_pumpPort (s : State) (p : Nat) : inner (s.pumpPort p) = inner s :=
  inner_foldl (f := fun s (c : Chan) => s.pumpChan p c.peer) (fun s c => inner_pumpChan s p c.peer) _ s

@[simp] theorem inner_releasePort (s : State) (p : Nat) : inner (s.releasePort p) = inner s := by
  unfold State.releasePort
  split
  · simp [inner_foldl inner_send]
  · rfl

@[simp] theorem inner_pickPort (s : State) (ps : List Nat) : inner (s.pickPort ps).1 = inner s := by
  unfold State.pickPort
  split <;> rfl

@[simp] theorem inner_routeRole (s : State) (t : Nat) (h : QHdr) (pl : List Byte) : inner (s.routeRole t h pl) = inner s := by
  unfold State.routeRole
  dsimp only
  split
  · simp
  · split <;> simp

@[simp] theorem inner_sendReport (s : State) (role list dst : Nat) (g : Bool) (mseq step kind : Nat) :
    inner (s.sendReport role list dst g mseq step kind) = inner s := by simp [State.sendReport]

@[simp] theorem inner_refuse (s : State) (h : QHdr) (g late : Bool) : inner (s.refuse h g late) = inner s := by
  cases late <;> simp [State.refuse]

@[simp] theorem inner_sendAck (s : State) (c : Chan) (nak : Bool) : inner (s.sendAck c nak) = inner s := by simp [State.sendAck]

/-- What `inner` holds, field by field. -/
theorem fields_of_inner {s t : State} (h : inner t = inner s) : t.mem = s.mem ∧ t.sbd = s.sbd ∧ t.flash = s.flash ∧
    t.folio = s.folio ∧ t.job = s.job ∧ t.run = s.run ∧ t.svl = s.svl ∧ t.quill.rx = s.quill.rx := by
  simpa [inner] using h

/-! ## The tick -/

@[simp] theorem inner_durations (s : State) : inner s.durations = inner s := by
  unfold State.durations
  split
  · refine inner_foldl (fun s k => ?_) _ s
    dsimp only
    split <;> simp
  · rfl

@[simp] theorem inner_ageVin (s : State) : inner s.ageVin = inner s := by
  unfold State.ageVin
  dsimp only
  split <;> rfl

@[simp] theorem inner_endPauses (s : State) : inner s.endPauses = inner s := by
  refine inner_foldl (fun s p => ?_) _ s
  split <;> simp

theorem inner_tick (s : State) : inner s.tick = inner s := by
  have hcounters : inner (tickCounters s) = inner s := by
    unfold tickCounters
    split
    · simp [State.put2]
    · rfl
  rw [tick_eq, inner_endPauses, inner_ageVin]
  exact hcounters

theorem tick_time_pending (s : State) : s.tick.time = s.time + 1 ∧ s.tick.pending = s.pending := by
  obtain ⟨-, hpending, htime, -⟩ := kept_tickCounters s
  obtain ⟨-, hpending', htime', -⟩ := kept_tick s
  exact ⟨htime'.trans (congrArg (· + 1) htime), hpending'.trans hpending⟩

/-- Settles O41: the front command is `exec`'s, the tick's frame is the fabric's and the counters'. -/
theorem stepRunsTheFrontCommand : Obligations.StepRunsTheFrontCommand := by
  refine ⟨fun s c rest h => step_cons h, fun s c => rfl, fun s h => ⟨s.tick, step_nil h, ?_⟩, fun s nbits w => ⟨rfl, rfl⟩⟩
  obtain ⟨htime, hpending⟩ := tick_time_pending s
  obtain ⟨hmem, hsbd, hflash, hfolio, hjob, hrun, -⟩ := fields_of_inner (inner_tick s)
  exact ⟨htime, hpending.trans h, hmem, hsbd, hflash, hfolio, hjob, hrun⟩

/-- Settles O42: the reset state lists nothing, so every register reads its Reset column. -/
theorem resetIsSoundAndAsTheTablesSay : Obligations.ResetIsSoundAndAsTheTablesSay := by
  refine ⟨⟨rfl, rfl, rfl, rfl⟩, rfl, rfl, rfl, rfl, rfl, ?_⟩
  refine ⟨by decide +kernel, by decide +kernel, by decide +kernel, by decide +kernel, by decide +kernel, by decide +kernel,
    by decide +kernel, by decide +kernel, fun a _ => rfl⟩

/-! ## The Sideboard rows (R211, R447) -/

/-- Every command that names no line answers. -/
theorem exec_next_of_no_line {c : Instr} (h : lineAddress c = none) (s : State) : ∃ t, exec c s = .next t := by
  cases c
  case lineRead | lineWrite | mergeWrite | exactAdd | fetchAdd | swap | cmpSwap | maxU | minU | sbdWriteback => cases h
  all_goals exact ⟨_, rfl⟩

/-- A command that names a line is an operation on that line's slice. -/
theorem exec_eq_slice {c : Instr} {a : Nat} (h : lineAddress c = some a) (s : State) :
    ∃ work, exec c s = s.slice a work := by
  unfold lineAddress at h
  split at h
  case h_11 => cases h
  all_goals
    obtain rfl := Option.some.inj h
    unfold exec
    dsimp only
  · unfold execLineRead; exact ⟨_, rfl⟩
  · unfold execLineWrite; exact ⟨_, rfl⟩
  · unfold execMergeWrite; exact ⟨_, rfl⟩
  · unfold execExactAdd; exact ⟨_, rfl⟩
  · unfold execFetchAdd State.sliceWord; exact ⟨_, rfl⟩
  · unfold execSwap State.sliceWord; exact ⟨_, rfl⟩
  · unfold execCmpSwap State.sliceWord; exact ⟨_, rfl⟩
  · unfold execMaxU State.sliceWord; exact ⟨_, rfl⟩
  · unfold execMinU State.sliceWord; exact ⟨_, rfl⟩
  · unfold execSbdWriteback; exact ⟨_, rfl⟩

theorem slice_fault {s : State} {a : Nat} (ha : decodedEnd ≤ a) (work : State → State) :
    s.slice a work = .fault (.undecodedAddress a) := if_pos ha

theorem slice_next {s : State} {a : Nat} (ha : a < decodedEnd) (work : State → State) : ∃ t, s.slice a work = .next t := by
  unfold State.slice
  rw [if_neg (Nat.not_le.2 ha)]
  split <;> exact ⟨_, rfl⟩

theorem slice_off {s : State} {a : Nat} (ha : a < decodedEnd) (hoff : s.power.mainOk = false ∨ s.on SBD_CTRL_ENABLE = false)
    (work : State → State) : s.slice a work = .next s := by
  unfold State.slice
  rw [if_neg (Nat.not_le.2 ha), if_pos (by rcases hoff with h | h <;> simp [h])]

theorem slice_on {s : State} {a : Nat} (ha : a < decodedEnd) (hok : s.power.mainOk = true) (hen : s.on SBD_CTRL_ENABLE = true)
    (work : State → State) : s.slice a work = .next (work s) := by
  unfold State.slice
  rw [if_neg (Nat.not_le.2 ha), if_neg (by simp [hok, hen])]

/-- Settles O47: a row that names a line is its slice's, every other row answers as it stands. -/
theorem onlyAnUndecodedLineFaults : Obligations.OnlyAnUndecodedLineFaults := by
  refine ⟨?fault, ?next, fun s h => ⟨_, step_nil h⟩, ?off⟩
  case fault =>
    intro c s a hline ha
    obtain ⟨work, hwork⟩ := exec_eq_slice hline s
    rw [hwork, slice_fault ha]
  case next =>
    intro c s hdecoded
    cases hline : lineAddress c with
    | none => exact exec_next_of_no_line hline s
    | some a =>
      obtain ⟨work, hwork⟩ := exec_eq_slice hline s
      rw [hwork]
      exact slice_next (hdecoded a hline) work
  case off =>
    intro c s a hline ha hoff
    obtain ⟨work, hwork⟩ := exec_eq_slice hline s
    rw [hwork, slice_off ha hoff]

end Sys2Proof.Proofs
end

section
/-! PROOFS. Session, lock and event commands (chapters 12 and 13): each command that runs answers what its act leaves. -/
namespace Sys2Proof.Proofs
open Sys2Proof Sys2Proof.Machine

/-- A command that runs leaves what its act leaves. -/
theorem next_of_runs {s t : State} {h : Hdr} {op : OpInfo} {ok : Bool} {i : Instr} {act : State → Act}
    (hr : s.runs h op = true) (hok : ok = true) (hact : State.perform h op i (act (s.admitted h)) = t) :
    (.next (s.command h op ok i act) : Host.Outcome State Fault Refusal) = .next t := by
  rw [command_of_runs hr hok, hact]

/-- A command whose parameters are out of range is answered PARAM_INVALID. -/
theorem next_of_bad {s : State} {h : Hdr} {op : OpInfo} {ok : Bool} {i : Instr} {act : State → Act}
    (hr : s.runs h op = true) (hok : ok = false) :
    (.next (s.command h op ok i act) : Host.Outcome State Fault Refusal) = .next ((s.admitted h).answer h op.code stParam []) := by
  rw [command_of_bad hr hok]

/-! ## PING, JOB_STATUS, LOCK, UNLOCK, STEP_REPORT, unknown opcodes -/

theorem lock_acts {s : State} {h : Hdr} {cls : Nat} (hr : s.runs h (opNow 0x0103 true .always) = true) (hcls : cls < 64) :
    exec (.lock h cls) s = .next (
      if (s.admitted h).lockHeld (!h.src.isSide) &&& cls = 0 then
        ((s.admitted h).setLock h.src.isSide ((s.admitted h).lockHeld h.src.isSide ||| cls)).answer h 0x0103 stSuccess
          (le 4 ((s.admitted h).lockHeld h.src.isSide ||| cls))
      else (s.admitted h).answer h 0x0103 stLocked []) := by
  refine next_of_runs hr (decide_eq_true hcls) ?_
  split
  · next hfree => simp [hfree]
  · next hheld => simp [hheld, Act.no]

theorem stepReport_acts {s : State} {h : Hdr} {step first : Nat} {r : Report} (hr : s.runs h (opNow 0x0603 false .always) = true)
    (hfind : ((s.admitted h).run.reports.find? fun x => x.step == step) = some r) :
    exec (.stepReport h step first) s =
      .next ((s.admitted h).answer h 0x0603 stSuccess (r.body (if h.src.isSide then 1001 else 1984) first)) := by
  refine next_of_runs hr rfl ?_
  rw [hfind]
  rfl

theorem opcodeUnknown_acts {s : State} {h : Hdr} {opcode : Nat} (hnew : opcode ∉ opcodes)
    (hr : s.runs h (opNow opcode false .always) = true) :
    exec (.opcodeUnknown h opcode) s = .next ((s.admitted h).answer h opcode stOpcode []) := by
  change Host.Outcome.next (ite _ _ _) = _
  rw [if_neg (by simpa using hnew)]
  exact next_of_runs hr rfl rfl

theorem opcodeUnknown_known {opcode : Nat} (hknown : opcode ∈ opcodes) (s : State) (h : Hdr) :
    exec (.opcodeUnknown h opcode) s = .next s := by
  change Host.Outcome.next (ite _ _ _) = _
  rw [if_pos (by simpa using hknown)]

/-- Settles O1: each reply is the act of its row, taken in the state in which the command is admitted. -/
theorem sessionCommandsAnswer : Obligations.SessionCommandsAnswer := by
  refine ⟨?ping, ?jobStatus, fun s h cls => lock_acts, ?unlock, fun s h step first r => stepReport_acts,
    fun s h opcode => opcodeUnknown_acts, fun s h opcode hknown => opcodeUnknown_known hknown s h⟩
  case ping => exact fun s h data hr hlen => next_of_runs hr (decide_eq_true hlen) rfl
  case jobStatus => exact fun s h hr => next_of_runs hr rfl rfl
  case unlock => exact fun s h cls hr hcls => next_of_runs hr (decide_eq_true hcls) rfl

/-! ## HELLO, CLAIM, RELEASE -/

theorem hello_opens {s : State} {h : Hdr} (version firstSeq : Nat) (hreach : s.reaches h = true)
    (hsession : h.session = 0 ∨ (s.sessionFor h).isSome = true) (hversion : h.version = 1) (hrsv : h.rsvClear = true)
    (hstatus : h.status = 0) (hlen : h.lenOk = true) :
    exec (.hello h version firstSeq) s = .next (((s.heard h.src).makeRoom h.src).openSession h firstSeq) := by
  change Host.Outcome.next (s.hello h firstSeq) = _
  have hopen : ¬ (h.session ≠ 0 ∧ (s.sessionFor h).isNone = true) := by
    rcases hsession with h0 | hsome
    · simp [h0]
    · cases hs : s.sessionFor h <;> simp [hs] at hsome ⊢
  unfold State.hello
  rw [if_neg (by simp [hreach]), if_neg hopen, if_neg (by simp [hversion]), if_neg (by simp [hrsv, hstatus, hlen])]

/-- After HELLO the one session of its source is the fresh one. -/
theorem hello_sessions (s : State) (h : Hdr) (firstSeq : Nat) :
    ∃ num, ∀ y, y ∈ (((s.heard h.src).makeRoom h.src).openSession h firstSeq).chembe.sessions ↔
      y ∈ ((s.heard h.src).makeRoom h.src).chembe.sessions ∨ y = freshSession h.src num firstSeq s.time := by
  obtain ⟨htime, -⟩ := makeRoom_spec (s.heard h.src) h.src
  obtain ⟨-, -, -, -, -, hsessions⟩ := openSession_spec ((s.heard h.src).makeRoom h.src) h firstSeq
  rw [htime, heard_time] at hsessions
  exact ⟨((s.heard h.src).makeRoom h.src).newSession.2, fun y => by rw [hsessions]; simp⟩

theorem claim_frame (s : State) (p a alt : Nat) :
    (s.claimed p a alt).flash = { s.flash with owner := some (a, alt) } ∧ (s.claimed p a alt).mem = s.mem ∧
      (s.claimed p a alt).sbd = s.sbd ∧ (s.claimed p a alt).job = s.job ∧ (s.claimed p a alt).run = s.run ∧
      (s.claimed p a alt).folio = s.folio ∧ (s.claimed p a alt).power = s.power ∧ (s.claimed p a alt).esc = s.esc := by
  unfold State.claimed
  dsimp only
  split <;> simp

theorem endOwnership_frame (s : State) :
    s.endOwnership.flash = { s.flash with owner := none } ∧ s.endOwnership.mem = s.mem ∧
      s.endOwnership.sbd = s.sbd ∧ s.endOwnership.job = s.job ∧ s.endOwnership.run = s.run ∧
      s.endOwnership.folio = s.folio ∧ s.endOwnership.power = s.power ∧ s.endOwnership.esc = s.esc := by
  unfold State.endOwnership
  simp

/-- Settles O2: HELLO by what making room and opening a session leave, CLAIM and RELEASE by the frame of their one write. -/
theorem sessionsAndOwnership : Obligations.SessionsAndOwnership := by
  refine ⟨?hello, ?claim, ?release⟩
  case hello =>
    intro s h version firstSeq hreach hsession hversion hrsv hstatus hlen
    obtain ⟨num, hmem⟩ := hello_sessions s h firstSeq
    obtain ⟨-, rmem, rflash, rjob, rrun, rfolio, rsame⟩ := makeRoom_spec (s.heard h.src) h.src
    obtain ⟨omem, oflash, ojob, orun, ofolio, -⟩ := openSession_spec ((s.heard h.src).makeRoom h.src) h firstSeq
    refine ⟨_, freshSession h.src num firstSeq s.time, hello_opens version firstSeq hreach hsession hversion hrsv hstatus hlen,
      (hmem _).2 (.inr rfl), rfl, rfl, rfl, rfl, fun y hy hsame => ?_, ?_⟩
    · rcases (hmem y).1 hy with hold | hnew
      · simp [rsame y hold] at hsame
      · exact hnew
    · simp [omem, oflash, ojob, orun, ofolio, rmem, rflash, rjob, rrun, rfolio]
  case claim =>
    intro s h port addr udp alt hsrc hr
    obtain ⟨hflash, hmem, hsbd, hjob, hrun, hfolio, hpower, hesc⟩ := claim_frame (s.admitted h) port addr alt
    refine ⟨_, next_of_runs hr rfl (by rw [hsrc]), ?_⟩
    simp [Act.ok, hflash, hmem, hsbd, hjob, hrun, hfolio, hpower, hesc]
  case release =>
    intro s h hr
    obtain ⟨hflash, hmem, hsbd, hjob, hrun, hfolio, hpower, hesc⟩ := endOwnership_frame (s.admitted h)
    refine ⟨_, next_of_runs hr rfl rfl, ?_⟩
    simp [Act.ok, hflash, hmem, hsbd, hjob, hrun, hfolio, hpower, hesc]

/-! ## SESSION_TIMEOUT, LOCK_TIMEOUT, GUARD_TIMEOUT -/

theorem keepSessions_frame (s : State) (p : Session → Bool) :
    (s.keepSessions p).chembe = { s.chembe with sessions := s.chembe.sessions.filter p } ∧ (s.keepSessions p).mem = s.mem ∧
      (s.keepSessions p).flash = s.flash ∧ (s.keepSessions p).job = s.job := by
  unfold State.keepSessions
  simp

/-- Settles O3: each timer is one test of the time before its effect. -/
theorem silenceEndsSessionsLocksAndHalves : Obligations.SilenceEndsSessionsLocksAndHalves := by
  refine ⟨fun s side n => ⟨_, rfl, keepSessions_frame s _⟩, ?lockDue, ?lockEarly, ?guard⟩
  case lockDue => exact fun s mgmt hdue => congrArg Host.Outcome.next (if_pos hdue)
  case lockEarly => exact fun s mgmt hearly => congrArg Host.Outcome.next (if_neg (Nat.not_le.2 hearly))
  case guard =>
    intro s block off w mgmt since hpending hdue
    change execGuardTimeout block s = _
    simp only [execGuardTimeout, hpending, if_pos hdue]

end Sys2Proof.Proofs
end

section
/-! PROOFS. Register commands (chapter 13): a read answers its words, a write its status, and the rows that stand for one
register write are that write of their register. -/
namespace Sys2Proof.Proofs
open Sys2Proof Sys2Proof.Machine

section
variable {s : State} {h : Hdr} {addr : Nat} {v : Word} {i : Instr}

theorem regWrite_acts (hr : s.runs h (opReg 0x0101) = true) (hok : Machine.addrOk addr = true) :
    s.regWrite h addr v i = (((s.admitted h).writeReg h.src.isSide addr v).1.answer h 0x0101
      ((s.admitted h).writeReg h.src.isSide addr v).2 []).afterReply := by
  rw [State.regWrite, command_of_runs hr hok]
  rfl

/-- A row that writes a guarded pair whole, with no half pending there. -/
theorem regWritePair_own (hr : s.runs h (opReg 0x0102) = true) (hok : Machine.addrOk addr = true)
    (hg : guarded (regAddr addr) = true) (hal : aliasOf addr = 0) (hp : (s.admitted h).pendingHalf (baseOf addr) = none)
    (ha : (s.admitted h).answers (regAddr addr) = true) :
    s.regWritePair h addr v i = ((((s.admitted h).writeOwn h.src.isSide (regAddr addr) v.toNat true).collide (regAddr addr) addr
      h.src.isSide).answer h 0x0102 stSuccess []).afterReply := by
  rw [State.regWritePair, command_of_runs hr (by simp [hok, hg]), writePair_own ha hal hp]
  rfl

/-- A row that writes an unguarded register, with no half pending there. -/
theorem regWrite_own (hr : s.runs h (opReg 0x0101) = true) (hok : Machine.addrOk addr = true) (hal : aliasOf addr = 0)
    (hg : guarded (regAddr addr) = false) (hc : guarded (regAddr addr - 4) = false)
    (hp : (s.admitted h).pendingHalf (baseOf addr) = none) (ha : (s.admitted h).answers (regAddr addr) = true) :
    s.regWrite h addr v i = ((((s.admitted h).writeOwn h.src.isSide (regAddr addr) v.toNat false).collide (regAddr addr) addr
      h.src.isSide).answer h 0x0101 stSuccess []).afterReply := by
  rw [regWrite_acts hr hok, writeReg_own ha hal hp hg fun _ => hc]

end

theorem answers_of_main {s : State} (hok : s.power.mainOk = true) (a : Nat) : s.answers a = true := by simp [State.answers, hok]

theorem answers_low (s : State) {a : Nat} (ha : a < 0x30000) : s.answers a = true := by simp [State.answers, ha]

/-! ## The registers that these rows name -/

theorem addrOk_resetReq : Machine.addrOk 0x40 = true := by decide +kernel

theorem addrOk_evacReq : ∀ c < 16, Machine.addrOk (0x100008 + 0x10000 * c) = true := by decide +kernel

theorem regAddr_evacReq : ∀ c < 16, regAddr (0x100008 + 0x10000 * c) = 0x100008 + 0x10000 * c ∧
    aliasOf (0x100008 + 0x10000 * c) = 0 ∧ baseOf (0x100008 + 0x10000 * c) = 0x100000 + 0x10000 * c := by decide +kernel

theorem addrOk_cntCtrl : Machine.addrOk 0x40000 = true := by decide +kernel

theorem guarded_cntCtrl : guarded 0x40000 = false ∧ guarded (0x40000 - 4) = false := by decide +kernel

theorem regRead_acts {s : State} {h : Hdr} {addr count : Nat} (hr : s.runs h (opNow 0x0100 false .always) = true)
    (hok : Machine.addrOk addr = true) (hone : 1 ≤ count) (hmax : count ≤ 64)
    (hblock : addr / 0x10000 = (addr + 4 * (count - 1)) / 0x10000) :
    exec (.regRead h addr count) s = .next (((s.admitted h).readRegs h.src.isSide addr count).1.answer h 0x0100 stSuccess
      ((s.admitted h).readRegs h.src.isSide addr count).2) :=
  next_of_runs hr (by simp [hok, hone, hmax, ← hblock]) rfl

/-- WARM_RESET and a block reset: one pair of GLB_RESET_REQ. -/
theorem resetReq_acts {s : State} {h : Hdr} {i : Instr} (v : Word) (hr : s.runs h (opReg 0x0102) = true)
    (hp : (s.admitted h).pendingHalf 0 = none) :
    s.regWritePair h 0x40 v i = ((((s.admitted h).writeOwn h.src.isSide 0x40 v.toNat true).collide 0x40 0x40
      h.src.isSide).answer h 0x0102 stSuccess []).afterReply :=
  regWritePair_own hr addrOk_resetReq guarded_resetReq rfl hp (answers_low _ (by decide))

theorem evacReq_acts {s : State} {h : Hdr} {cab lchan : Nat} (hr : s.runs h (opReg 0x0102) = true) (hcab : cab < 16)
    (hlchan : lchan < 64) (hp : (s.admitted h).pendingHalf (0x100000 + 0x10000 * cab) = none)
    (hmain : (s.admitted h).power.mainOk = true) :
    exec (.evacReq h cab lchan) s = .next
      ((((s.admitted h).writeOwn h.src.isSide (0x100008 + 0x10000 * cab) (lchan + 256) true).collide (0x100008 + 0x10000 * cab)
        (0x100008 + 0x10000 * cab) h.src.isSide).answer h 0x0102 stSuccess []).afterReply := by
  obtain ⟨hreg, halias, hbase⟩ := regAddr_evacReq cab hcab
  have hword : (BitVec.ofNat 32 (lchan % 64 + 256)).toNat = lchan + 256 := by simp; omega
  have hown := regWritePair_own (v := BitVec.ofNat 32 (lchan % 64 + 256)) (i := .evacReq h cab lchan) hr
    (addrOk_evacReq cab hcab) (by rw [hreg]; exact guarded_evacReq cab hcab) halias (by rw [hbase]; exact hp)
    (answers_of_main hmain _)
  rw [hword, hreg] at hown
  change Host.Outcome.next (s.regWritePair h (0x100008 + 0x10000 * (cab % 16)) _ _) = _
  rw [Nat.mod_eq_of_lt hcab, hown]

/-- SNAP and CLEAR: one write of CNT_CTRL. -/
theorem cntCtrl_acts {s : State} {h : Hdr} {i : Instr} (v : Word) (hr : s.runs h (opReg 0x0101) = true)
    (hp : (s.admitted h).pendingHalf 0x40000 = none) (hmain : (s.admitted h).power.mainOk = true) :
    s.regWrite h 0x40000 v i = ((((s.admitted h).writeOwn h.src.isSide 0x40000 v.toNat false).collide 0x40000 0x40000
      h.src.isSide).answer h 0x0101 stSuccess []).afterReply :=
  regWrite_own hr addrOk_cntCtrl rfl guarded_cntCtrl.1 guarded_cntCtrl.2 hp (answers_of_main hmain _)

/-- Settles O4: the rows differ in the register and the word that they write. -/
theorem registerCommandsAct : Obligations.RegisterCommandsAct := by
  have haddr {addr : Nat} (hword : addr % 4 = 0) (hblock : (blockOf addr).isSome = true) : Machine.addrOk addr = true := by
    simp [Machine.addrOk, hword, hblock]
  refine ⟨?read, ?write, ?pair, ?warm, ?block, fun s h cab lchan => evacReq_acts, ?snap, ?clear⟩
  case read => exact fun s h addr count hr hword hblock hone hmax => regRead_acts hr (haddr hword hblock) hone hmax
  case write => exact fun s h addr v hr hword hblock => congrArg Host.Outcome.next (regWrite_acts hr (haddr hword hblock))
  case pair => exact fun s h addr v hr hword hblock hg => regWritePair_acts v hr (haddr hword hblock) hg
  case warm => exact fun s h hr hp => congrArg Host.Outcome.next (resetReq_acts 1 hr hp)
  case block =>
    intro s h block hr hp hblock
    have hword : (BitVec.ofNat 32 (2 + 256 * (block % 256))).toNat = 2 + 256 * block := by simp; omega
    rw [← hword]
    exact congrArg Host.Outcome.next (resetReq_acts _ hr hp)
  case snap => exact fun s h hr hp hmain => congrArg Host.Outcome.next (cntCtrl_acts _ hr hp hmain)
  case clear => exact fun s h hr hp hmain => congrArg Host.Outcome.next (cntCtrl_acts _ hr hp hmain)

/-! ## Latched halves (R449) -/

/-- The latches after a master's read of a _LO register: its _HI word in front, no other of that master's for it. -/
def latchHigh (s : State) (m : Bool) (a : Nat) : List (Bool × Nat × Word) :=
  (m, a + 4, BitVec.ofNat 32 (s.shown (a + 4))) :: s.win.latched.filter fun l => !(l.1 == m && l.2.1 == a + 4)

theorem isLo_drawPeak : isLo 0x10010 = false := by decide +kernel

theorem readReg_low {s : State} {m : Bool} {a : Nat} (hreg : regAddr a = a) (hlo : isLo a = true) (ha : s.answers a = true)
    (hfree : (s.win.latched.find? fun l => l.1 == m && l.2.1 == a) = none) :
    s.readReg m a = ({ s with win := { s.win with latched := latchHigh s m a } }, s.shown a) := by
  have hpeak : a ≠ 0x10010 := by rintro rfl; rw [isLo_drawPeak] at hlo; cases hlo
  simp [State.readReg, hreg, ha, hfree, hlo, hpeak, latchHigh]

theorem readReg_latched {u : State} {m : Bool} {b : Nat} {w : Word} {rest : List (Bool × Nat × Word)} (hreg : regAddr b = b)
    (ha : u.answers b = true) (hl : u.win.latched = (m, b, w) :: rest) :
    u.readReg m b = ({ u with win := { u.win with latched := rest } }, w.toNat) := by
  simp [State.readReg, hreg, ha, hl]

/-- Settles O49: the latch that the low read puts in front is the one that the next high read takes. -/
theorem lowWordsLatchHighWords : Obligations.LowWordsLatchHighWords := by
  refine ⟨fun s m a hreg hregHi hlo ha _ hfree hword => ?_, by decide +kernel⟩
  refine ⟨_, readReg_low hreg hlo ha hfree, rfl, fun u hl haHi => ?_⟩
  rw [readReg_latched hregHi haHi hl]
  exact ⟨by simpa using hword, rfl, List.find?_eq_none.2 fun l hmem => by
    simpa [imp_iff_not_or] using (List.mem_filter.1 hmem).2⟩

end Sys2Proof.Proofs
end

section
/-! PROOFS. Memory and state commands (chapters 6 and 12): what each act does inside the decoded range, with nothing to wait
for, and the DIGEST that waits. -/
namespace Sys2Proof.Proofs
open Sys2Proof Sys2Proof.Machine

/-! ## The acts -/

section
variable {s : State} {addr n : Nat}

theorem readLocal_now (hin : outside addr n = false) (hfree : s.memWaits addr n = false) :
    s.readLocal addr n = .reply (s.readRange addr n false).1 stSuccess
      (le 8 (s.readRange addr n false).2.2 ++ (s.readRange addr n false).2.1) := by
  simp only [State.readLocal, hin, hfree, Bool.false_eq_true, if_false]

theorem memWriteAct_now {data : List Byte} (hin : outside addr data.length = false) (hfree : s.memWaits addr data.length = false) :
    s.memWriteAct addr data = .reply (s.writeRange addr data).1.settle
      (if (s.writeRange addr data).2 then stSuccess else stPoisonKept) [] := by
  simp only [State.memWriteAct, hin, hfree, Bool.false_eq_true, if_false, Act.no]

theorem memAtomicAct_now (op x y : Nat) (hin : outside addr 8 = false) (hfree : s.memWaits addr 8 = false) :
    s.memAtomicAct addr op x y = .reply (s.wordOp addr (wordNew op x y) false).1.settle
      (if (s.wordOp addr (wordNew op x y) false).2.2 then stSuccess else stPoisonKept)
      (le 8 (s.wordOp addr (wordNew op x y) false).2.1) := by
  simp only [State.memAtomicAct, hin, hfree, Bool.false_eq_true, if_false]

theorem scrubAct_now {before : List Instr} (fl : Nat) (hin : outside addr n = false) (hfree : s.memWaits addr n = false)
    (hfirst : s.memBefore before addr n = false) :
    s.scrubAct addr n fl before = .begun (s.scrubWork addr n fl).1 (some (stSuccess, (s.scrubWork addr n fl).2)) 0 := by
  simp only [State.scrubAct, hin, hfree, hfirst, Bool.or_false, Bool.false_eq_true, if_false, Act.did]

theorem digestAct_now {before : List Instr} (hin : outside addr n = false) (hfree : s.memWaits addr n = false)
    (hfirst : s.memBefore before addr n = false) :
    s.digestAct addr n before = .begun (s.readRange addr n false).1
      (some (stSuccess, rangeDigest addr (s.readRange addr n false).2.1)) 0 := by
  simp only [State.digestAct, hin, hfree, hfirst, Bool.or_false, Bool.false_eq_true, if_false, Act.did]

theorem digestAct_waits {before : List Instr} (hin : outside addr n = false)
    (hwait : s.memWaits addr n = true ∨ s.memBefore before addr n = true) : s.digestAct addr n before = .hold s := by
  have hheld : (s.memWaits addr n || s.memBefore before addr n) = true := by simpa using hwait
  simp only [State.digestAct, hin, hheld, Bool.false_eq_true, if_false, if_true]

theorem stateWriteAct_now {o : Nat} {data : List Byte} (hfree : s.memWaits (stateBlock + o) data.length = false)
    (hgood : (s.touch stateBlock 6 false).badBlock o data = false) :
    s.stateWriteAct o data = .reply (((s.touch stateBlock 6 false).writeRange (stateBlock + o) data).1.applyBlock o
      data.length).settle stSuccess [] := by
  simp only [State.stateWriteAct, hfree, hgood, Bool.false_eq_true, if_false, Act.ok]

end

/-- The state block lies inside the decoded range. -/
theorem stateBlock_inside {o n : Nat} (hblock : o + n ≤ stateBlockBytes) : outside (stateBlock + o) n = false := by
  have hend : stateBlock + stateBlockBytes ≤ decodedEnd := by decide
  exact decide_eq_false (by omega)

theorem stateRead_acts {s : State} {h : Hdr} {o n : Nat} (hr : s.runs h ⟨0x0205, true, false, false, none, .always, true⟩ = true)
    (hone : 1 ≤ n) (hcap : n ≤ dataCap h 4032) (hblock : o + n ≤ stateBlockBytes)
    (hfree : (s.admitted h).memWaits (stateBlock + o) n = false) :
    exec (.stateRead h o n) s = .next (((s.admitted h).readRange (stateBlock + o) n false).1.answer h 0x0205 stSuccess
      ((s.admitted h).readRange (stateBlock + o) n false).2.1) := by
  refine next_of_runs hr (by simp [hone, hcap, hblock]) ?_
  rw [readLocal_now (stateBlock_inside hblock) hfree]
  simp [State.retry.dropMask]

/-- Settles O5: each command runs its act, and with nothing to wait for the act is its memory operation. -/
theorem memoryCommandsAct : Obligations.MemoryCommandsAct := by
  refine ⟨?read, ?write, ?atomic, ?scrub, ?digest, fun s h o n => stateRead_acts, ?stateWrite, ?waits⟩
  case read =>
    intro s h addr n hr hone hcap hin hfree
    refine next_of_runs hr (by simp [hone, hcap]) ?_
    rw [show (s.admitted h).memReadAct addr n 0 = (s.admitted h).readLocal addr n from rfl, readLocal_now hin hfree]
    rfl
  case write =>
    intro s h addr data hr hone hcap hin hfree
    refine next_of_runs hr (by simp [hcap]; omega) ?_
    rw [memWriteAct_now hin hfree]
    rfl
  case atomic =>
    intro s h addr op x y hr hone hmax halign hin hfree
    refine next_of_runs hr (by simp [hone, hmax, halign]) ?_
    rw [memAtomicAct_now op x y hin hfree]
    rfl
  case scrub =>
    intro s h base n fl hr hbase hn hne hfl hin hfree hfirst
    refine congrArg (fun t : State => Host.Outcome.next (t.noteRange h base n)) ?_
    rw [command_of_runs hr (by simp [hbase, hn, hne, hfl]), scrubAct_now fl hin hfree hfirst]
    rfl
  case digest =>
    intro s h base n hr hone hin hfree hfirst
    refine congrArg (fun t : State => Host.Outcome.next (t.noteRange h base n)) ?_
    rw [command_of_runs hr (decide_eq_true hone), digestAct_now hin hfree hfirst]
    rfl
  case stateWrite =>
    intro s h o data hr hcap hblock hfree hgood
    refine next_of_runs hr (by simp [hcap, hblock]) ?_
    rw [stateWriteAct_now hfree hgood]
    rfl
  case waits =>
    intro s h base n hr hone hin hwait
    refine congrArg (fun t : State => Host.Outcome.next (t.noteRange h base n)) ?_
    rw [command_of_runs hr (decide_eq_true hone), digestAct_waits hin hwait]

end Sys2Proof.Proofs
end

section
/-! PROOFS. Job and route commands (chapters 5, 10, 12): what each act does in the job state that its row allows. -/
namespace Sys2Proof.Proofs
open Sys2Proof Sys2Proof.Machine

/-! ## LOAD_FOLIO (R425) -/

section
variable {s t : State} {n bad : Nat} {image digest : List Byte}

theorem loadAct_accepts {f : Folio} (hclosed : s.sbd.openLines = []) (hread : s.readRange stagingBase n false = (t, image, bad))
    (hdigest : shake256 image 32 = digest)
    (hload : loadImage image n (t.setJobState jsLoading).switched (t.setJobState jsLoading).flash.config.quillPorts
      ((t.setJobState jsLoading).get PWR_STRAPS_FEED_ID) = .inr f) :
    s.loadAct n digest = .begun ((t.setJobState jsLoading).accept f) (some (stSuccess, f.digest)) 0 := by
  simp only [State.loadAct, hclosed, hread, hdigest, hload, Act.did, List.isEmpty_nil, Bool.not_true, Bool.false_eq_true,
    ne_eq, not_true_eq_false, if_false]

theorem loadAct_mismatch (hclosed : s.sbd.openLines = []) (hread : s.readRange stagingBase n false = (t, image, bad))
    (hdigest : shake256 image 32 ≠ digest) :
    s.loadAct n digest = .begun (t.setJobState jsLoading) (some (0x0121, [])) 0 := by
  simp only [State.loadAct, hclosed, hread, Act.did, List.isEmpty_nil, Bool.not_true, Bool.false_eq_true, if_false, ne_eq,
    hdigest, not_false_eq_true, if_true]

end

/-! ## START, STOP, step sizes (R303, R426, R427) -/

section
variable {s : State}

theorem startAct_begins {f : Folio} (first steps : Nat) (hfolio : s.folio = some f) (hon : ∀ x ∈ startEnables, s.on x = true) :
    s.startAct first steps = .begun (s.started f first steps) none 0 := by
  have hnone : (startEnables.any fun x => !s.on x) = false := by simpa using hon
  simp only [State.startAct, hfolio, hnone, Bool.false_eq_true, if_false]

theorem stopAct_running (mode : Nat) (hjob : s.jobState = jsRunning) (hstep : s.run.stepOn = true) :
    s.stopAct mode = if mode = 0 then .reply (s.mapRun fun r => { r with stopAtEnd := true }) stSuccess (le 4 ((s.step + 1) % 2 ^ 32))
      else .reply (s.voidNow true 0x0209 0 0) stSuccess (le 4 s.step) := by
  have hne : jsRunning ≠ jsLoaded := by decide
  simp only [State.stopAct, hjob, hne, hstep, if_false, Bool.not_true, Bool.false_eq_true]

theorem stopAct_loaded (mode : Nat) (hjob : s.jobState = jsLoaded) : s.stopAct mode = .reply s stSuccess (le 4 s.step) :=
  if_pos hjob

theorem stop_running {h : Hdr} {mode : Nat} (hr : s.runs h ⟨0x0303, true, false, false, some 2, .active, true⟩ = true)
    (hmode : mode ≤ 1) (hjob : (s.admitted h).jobState = jsRunning) (hstep : (s.admitted h).run.stepOn = true) :
    exec (.stop h mode) s = .next (
      if mode = 0 then
        (((s.admitted h).mapRun fun r => { r with stopAtEnd := true }).answer h 0x0303 stSuccess (le 4 (((s.admitted h).step + 1) % 2 ^ 32)))
      else ((s.admitted h).voidNow true 0x0209 0 0).answer h 0x0303 stSuccess (le 4 (s.admitted h).step)) := by
  refine next_of_runs hr (decide_eq_true hmode) ?_
  rw [stopAct_running mode hjob hstep]
  split <;> rfl

theorem setStepSize_taken {h : Hdr} {t v : Nat} (hr : s.runs h ⟨0x0304, true, false, false, some 2, .active, true⟩ = true)
    (hstep : (s.admitted h).step ≤ t)
    (hlast : t = (s.admitted h).get NIB0_STEP_INDEX_STEP → (s.admitted h).get NIB0_STEP_INDEX_STEP = 0xFFFFFFFF)
    (hroom : (s.admitted h).run.pendingSteps.length < 8) :
    exec (.setStepSize h t v) s = .next (((s.admitted h).takeSize t v).answer h 0x0304 stSuccess []) := by
  refine next_of_runs hr rfl ?_
  have hopen : ¬ (t < (s.admitted h).step ∨ (t = (s.admitted h).get NIB0_STEP_INDEX_STEP ∧
      (s.admitted h).get NIB0_STEP_INDEX_STEP ≠ 0xFFFFFFFF)) := by
    rintro (hpast | ⟨heq, hne⟩)
    · exact absurd hpast (Nat.not_lt.2 hstep)
    · exact hne (hlast heq)
  have hqueue : ¬ ((!(s.admitted h).run.pendingSteps.any fun p => p.1 == t) &&
      decide (8 ≤ (s.admitted h).run.pendingSteps.length)) = true := by
    simp only [Bool.and_eq_true, decide_eq_true_eq]
    omega
  dsimp only
  rw [if_neg hopen, if_neg hqueue]
  rfl

theorem setStepSize_late {h : Hdr} {t v : Nat} (hr : s.runs h ⟨0x0304, true, false, false, some 2, .active, true⟩ = true)
    (hpast : t < (s.admitted h).step) :
    exec (.setStepSize h t v) s = .next (((s.admitted h).count 0x8B).answer h 0x0304 stTagLate []) := by
  refine next_of_runs hr rfl ?_
  dsimp only
  rw [if_pos (.inl hpast)]
  rfl

end

/-- Settles O6: each act is its row's, and START's PAIR exchange is looked at once the command has been taken. -/
theorem jobCommandsAct : Obligations.JobCommandsAct := by
  refine ⟨?data, ?load, ?mismatch, ?start, fun s h mode => stop_running, ?stopLoaded, fun s h t v => setStepSize_taken,
    fun s h t v => setStepSize_late, fun s h seed hr => next_of_runs hr rfl rfl⟩
  case data => exact fun s h o data hr hone hcap hend => next_of_runs hr (by simp [hcap, hend]; omega) rfl
  case load =>
    intro s t h n bad image digest f hr hone hmax hclosed hread hdigest hload
    refine next_of_runs hr (by simp [hone, hmax]) ?_
    rw [loadAct_accepts hclosed hread hdigest hload]
    rfl
  case mismatch =>
    intro s t h n bad image digest hr hone hmax hclosed hread hdigest
    refine next_of_runs hr (by simp [hone, hmax]) ?_
    rw [loadAct_mismatch hclosed hread hdigest]
    rfl
  case start =>
    intro s h t n f hr hfolio hon
    refine congrArg (fun u : State => Host.Outcome.next u.tryStart) ?_
    rw [command_of_runs hr rfl, startAct_begins t n hfolio hon]
    rfl
  case stopLoaded =>
    intro s h mode hr hmode hjob
    refine next_of_runs hr (decide_eq_true hmode) ?_
    rw [stopAct_loaded mode hjob]
    rfl

/-! ## ROUTE_WRITE and ROUTE_ARM (R359) -/

theorem routeWrite_free {s : State} {h : Hdr} {bank o : Nat} {data : List Byte}
    (hr : s.runs h ⟨0x0400, true, false, false, some 3, .active, true⟩ = true) (hbank : bank ≤ 1)
    (hcap : data.length ≤ restCap h 4056) (hend : o + data.length ≤ 51200) (hfree : (s.admitted h).bankFree bank = true) :
    exec (.routeWrite h bank o data) s = .next (((s.admitted h).mapQuill fun q =>
      if bank = 0 then { q with bank0 := patch q.bank0 o data } else { q with bank1 := patch q.bank1 o data }).answer h 0x0400
        stSuccess []) := by
  refine next_of_runs hr (by simp [hbank, hcap, hend]) ?_
  rw [if_neg (by simp [hfree])]
  rfl

theorem routeWrite_busy {s : State} {h : Hdr} {bank o : Nat} {data : List Byte}
    (hr : s.runs h ⟨0x0400, true, false, false, some 3, .active, true⟩ = true) (hbank : bank ≤ 1)
    (hcap : data.length ≤ restCap h 4056) (hend : o + data.length ≤ 51200) (hbusy : (s.admitted h).bankFree bank = false) :
    exec (.routeWrite h bank o data) s = .next ((s.admitted h).answer h 0x0400 stBusy []) := by
  refine next_of_runs hr (by simp [hbank, hcap, hend]) ?_
  rw [if_pos (by simp [hbusy])]
  rfl

theorem routeArm_writes {s : State} {h : Hdr} {t : Nat} (hr : s.runs h ⟨0x0401, true, false, false, some 3, .active, true⟩ = true)
    (hok : (s.admitted h).armOk t = true) (hword : t < 2 ^ 32) (hp : (s.admitted h).pendingHalf 0x480000 = none) :
    exec (.routeArm h t) s = .next ((((s.admitted h).writeOwn h.src.isSide 0x480014 t true).collide 0x480014 0x480014
      h.src.isSide).answer h 0x0401 stSuccess []) := by
  have hmain : (s.admitted h).power.mainOk = true := by
    simp only [State.runs, State.allows, Bool.and_eq_true] at hr
    simpa using hr.2.1.2
  have hpair := writePair_own (mgmt := h.src.isSide) (v := BitVec.ofNat 32 t) (answers_of_main hmain (regAddr 0x480014)) rfl hp
  refine next_of_runs hr rfl ?_
  rw [if_neg (by simp [hok]), hpair, show (BitVec.ofNat 32 t).toNat = t by simpa using hword]
  rfl

theorem routeArm_refused {s : State} {h : Hdr} {t : Nat} (hr : s.runs h ⟨0x0401, true, false, false, some 3, .active, true⟩ = true)
    (hbad : (s.admitted h).armOk t = false) :
    exec (.routeArm h t) s = .next ((s.admitted h).answer h 0x0401 stParam []) := by
  refine next_of_runs hr rfl ?_
  rw [if_pos (by simp [hbad])]
  rfl

/-- Settles O7: the bank's and the step's test come before the write. -/
theorem routeCommandsAct : Obligations.RouteCommandsAct :=
  ⟨fun _ _ _ _ _ => routeWrite_free, fun _ _ _ _ _ => routeWrite_busy, fun _ _ _ => routeArm_writes, fun _ _ _ => routeArm_refused⟩

end Sys2Proof.Proofs
end

section
/-! PROOFS. Survival commands (chapters 11 and 12): CONFIRM, SEAL, RESTORE, ADOPT and PARTNER2, and the fetch of an image,
which asks for lines and touches nothing of the survival path. -/
namespace Sys2Proof.Proofs
open Sys2Proof Sys2Proof.Machine

/-! ## A fetch begins (R355) -/

@[simp] theorem inner_takeMseq (s : State) (list dst : Nat) (g : Bool) : inner (s.takeMseq list dst g).1 = inner s := rfl

theorem inner_requestGo (role : Nat) (k : Nat) : ∀ (a n : Nat) (acc : State × List (Nat × Nat × Nat)),
    inner (State.requestGo role k a n acc).1 = inner acc.1 := by
  induction k with
  | zero => exact fun a n acc => rfl
  | succ k ih =>
    intro a n acc
    unfold State.requestGo
    dsimp only
    split
    · rfl
    · exact (ih _ _ _).trans (by simp)

@[simp] theorem inner_startFetch (s : State) (role a n : Nat) : inner (s.startFetch role a n) = inner s :=
  inner_requestGo role (n / 32 + 1) a n (s, [])

theorem svl_of_inner {s t : State} (h : inner t = inner s) : t.svl = s.svl := by
  obtain ⟨-, -, -, -, -, -, hsvl, -⟩ := fields_of_inner h
  exact hsvl

theorem startRecover_recover (s : State) (p st : Nat) (adopt : Bool) :
    (s.startRecover p st adopt).svl.recover = some { step := st, adopt := adopt, asked := false } := by
  unfold State.startRecover
  rw [svl_of_inner (inner_startFetch _ p shadowSpace 3)]
  rfl

/-! ## The acts -/

section
variable {s : State}

theorem benching_admitted (s : State) (h : Hdr) : (s.admitted h).benching = s.benching := by simp [State.benching]

theorem confirmAct_next {u : Nat} (hbench : s.benching = false) (hu : u = (s.get SVL_CONFIRMED_STEP + 1) % 2 ^ 32)
    (himage : s.holdsImage u = true) : s.confirmAct u =
      .ok ((((s.put SVL_CONFIRMED_STEP u).landOwn u).endSealFollow u).applyWard u).syncHead.settle := by
  rw [State.confirmAct, if_neg (by simp [hbench]), if_neg (by simpa using hu), if_neg (by simp [himage])]

theorem confirmAct_other {u : Nat} (hbench : s.benching = false) (hu : u ≠ (s.get SVL_CONFIRMED_STEP + 1) % 2 ^ 32) :
    s.confirmAct u = .no s stParam := by
  rw [State.confirmAct, if_neg (by simp [hbench]), if_pos hu]

theorem confirmAct_bench {u : Nat} (hbench : s.benching = true) (hstaged : (s.svl.stages.map Stage.step).contains u = true)
    (holdest : ((s.svl.stages.map Stage.step).all fun v => decide (u ≤ v)) = true) :
    s.confirmAct u = .ok (s.applyWard u).syncHead.settle := by
  rw [State.confirmAct, if_pos hbench, State.confirmWard, if_pos (by simp only [hstaged, holdest, Bool.and_self])]

/-- The follow that a SEAL starts at an owner at CALM. -/
abbrev sealsAsOwner (s : State) : Bool :=
  s.partnerRole.isSome && s.get RSK_STATUS_LEVEL == 0 && s.get SVL_STATUS_OWN_FOLLOW == 0

theorem sealAct_now {t : Nat} (hfree : s.svl.sealWait = none) (hown : sealsAsOwner s = false)
    (hward : s.wardRole.isSome = true) (hcomplete : s.get SVL_STATUS_WARD_FOLLOW = 2) (hstep : s.get SVL_WARD_STEP_STEP = t) :
    s.sealAct t = .begun ((s.sealWard 2).stopWard).syncHead (some ((s.sealWard 2).sealAnswer s.sealDiffers)) 0 := by
  have hsome : s.wardRole.isNone = false := by simpa [Option.isNone_eq_false_iff] using hward
  simp only [sealsAsOwner] at hown
  simp only [State.sealAct, hfree, hown, hsome, hcomplete, hstep, Option.isSome_none, Bool.false_eq_true, if_false, and_self,
    if_true, Act.did]

theorem sealAct_waits {t : Nat} (hfree : s.svl.sealWait = none) (hown : sealsAsOwner s = false)
    (hward : s.wardRole.isSome = true) (hstep : s.get SVL_WARD_STEP_STEP ≠ t) :
    s.sealAct t = .begun (s.mapSvl fun v => { v with sealWait := some (t, 2) }) none 0 := by
  have hsome : s.wardRole.isNone = false := by simpa [Option.isNone_eq_false_iff] using hward
  simp only [sealsAsOwner] at hown
  simp only [State.sealAct, hfree, hown, hsome, hstep, Option.isSome_none, Bool.false_eq_true, if_false, and_false]

end

/-! ## ADOPT (R399, R400) -/

/-- The act of ADOPT, which fetches the image or has it here. -/
def adoptAct (role st : Nat) (s : State) : Act :=
  if s.svl.recover.isSome then .no s stBusy
  else match s.folio, s.partnerRole with
    | some f, some p =>
      if f.role ≠ role then .did s stAdoptRefused []
      else if s.svl.wardOf = some role ∧ s.wardWhole = true ∧ [2, 4].contains (s.get SVL_STATUS_WARD_FOLLOW) ∧ s.get SVL_WARD_STEP_STEP = st then
        .begun (s.mapSvl fun v => { v with recover := some { step := st, adopt := true, asked := true } }) none 0
      else .begun (s.startRecover p st true) none 0
    | _, _ => .did s stAdoptRefused []

/-- What follows the command: an image that the Bench holds itself is copied at once. -/
def adoptAfter (s t : State) : State :=
  match t.svl.recover, t.folio with
  | some r, some f => if s.svl.recover.isNone && r.adopt && r.asked then t.adoptHere f r.step else t
  | _, _ => t

theorem exec_adopt (s : State) (h : Hdr) (role step : Nat) : exec (.adopt h role step) s =
    .next (adoptAfter s (s.command h ⟨0x0502, true, false, true, some 4, .loaded, true⟩ true (.adopt h role step)
      (adoptAct role ((step + 2 ^ 32 - 1) % 2 ^ 32)))) := rfl

/-- Nothing follows a command that has asked for the image, or that runs no recovery. -/
theorem adoptAfter_eq {s t : State} (ht : ∀ r, t.svl.recover = some r → r.asked = false) : adoptAfter s t = t := by
  unfold adoptAfter
  split
  · next r f hr _ => simp [ht r hr]
  · rfl

section
variable {s : State} {h : Hdr} {role step : Nat} {f : Folio} (hr : s.runs h ⟨0x0502, true, false, true, some 4, .loaded, true⟩ = true)
  (hfree : (s.admitted h).svl.recover = none) (hfolio : (s.admitted h).folio = some f)
include hr hfree hfolio

theorem adopt_fetches {p : Nat} (hpartner : (s.admitted h).partnerRole = some p) (hrole : f.role = role)
    (hward : (s.admitted h).svl.wardOf ≠ some role) :
    exec (.adopt h role step) s = .next ((((s.admitted h).startRecover p ((step + 2 ^ 32 - 1) % 2 ^ 32) true).addDeferred h 0x0502
      none 0).sendReply (mkReply h 0x0502 stSuccess true [])) := by
  have hact : adoptAct role ((step + 2 ^ 32 - 1) % 2 ^ 32) (s.admitted h) =
      .begun ((s.admitted h).startRecover p ((step + 2 ^ 32 - 1) % 2 ^ 32) true) none 0 := by
    simp only [adoptAct, hfree, hfolio, hpartner, hrole, hward, Option.isSome_none, Bool.false_eq_true, if_false, ne_eq,
      not_true_eq_false, false_and]
  rw [exec_adopt, command_of_runs hr rfl, hact, perform_begun]
  refine congrArg Host.Outcome.next (adoptAfter_eq fun r hrec => ?_)
  simp only [sendReply_svl, addDeferred_svl, startRecover_recover, Option.some.injEq] at hrec
  rw [← hrec]

theorem adopt_refused (hrole : f.role ≠ role) :
    exec (.adopt h role step) s = .next (((s.admitted h).addDeferred h 0x0502 (some (stAdoptRefused, [])) 0).sendReply
      (mkReply h 0x0502 stSuccess true [])) := by
  have hact : adoptAct role ((step + 2 ^ 32 - 1) % 2 ^ 32) (s.admitted h) = .did (s.admitted h) stAdoptRefused [] := by
    unfold adoptAct
    rw [if_neg (by simp only [hfree]; decide), hfolio]
    cases (s.admitted h).partnerRole with
    | none => rfl
    | some p => exact if_pos hrole
  rw [exec_adopt, command_of_runs hr rfl, hact, Act.did, perform_begun]
  refine congrArg Host.Outcome.next (adoptAfter_eq fun r hrec => ?_)
  simp only [sendReply_svl, addDeferred_svl, hfree] at hrec
  cases hrec

end

theorem partner2_acts {s : State} {h : Hdr} {role : Nat} {f : Folio}
    (hr : s.runs h ⟨0x0504, true, false, true, some 4, .loaded, true⟩ = true) (hrole : role < 2048)
    (hfolio : (s.admitted h).folio = some f) (hlevel : (s.admitted h).get RSK_STATUS_LEVEL = 3)
    (hbench : (s.admitted h).benchOk f role = true) :
    exec (.partner2 h role) s = .next
      (((((s.admitted h).stopFollow.mapSvl fun v => { v with partner2 := some role }).rideTo role 0xFF00 0
        (((s.admitted h).stopFollow.mapSvl fun v => { v with partner2 := some role }).pairLine f) false).addDeferred h 0x0504
        (some (stSuccess, [])) 0).sendReply (mkReply h 0x0504 stSuccess true [])) := by
  refine next_of_runs hr (decide_eq_true hrole) ?_
  dsimp only
  rw [hfolio]
  dsimp only
  rw [if_neg (by simp [hlevel]), if_neg (by simp [hbench])]
  rfl

/-- Settles O8: CONFIRM takes the row of the job state that the Bench's reading gives it, and ADOPT's image is here only once
no fetch has been asked for. -/
theorem survivalCommandsAct : Obligations.SurvivalCommandsAct := by
  refine ⟨?confirm, ?other, ?sealNow, ?sealWaits, ?restore, ?adopt, ?refused, fun s h role f => partner2_acts, ?bench⟩
  case confirm =>
    intro s h u hbench hr hu himage
    refine next_of_runs (by rw [hbench]; exact hr) rfl ?_
    rw [confirmAct_next ((benching_admitted s h).trans hbench) hu himage]
    rfl
  case other =>
    intro s h u hbench hr hu
    refine next_of_runs (by rw [hbench]; exact hr) rfl ?_
    rw [confirmAct_other ((benching_admitted s h).trans hbench) hu]
    rfl
  case sealNow =>
    intro s h t hr hfree hown hward hcomplete hstep
    refine next_of_runs hr rfl ?_
    rw [sealAct_now hfree hown hward hcomplete hstep]
    rfl
  case sealWaits =>
    intro s h t hr hfree hown hward hstep
    refine next_of_runs hr rfl ?_
    rw [sealAct_waits hfree hown hward hstep]
    rfl
  case restore =>
    intro s h t p hr hfree hpartner
    refine next_of_runs hr rfl ?_
    rw [if_neg (by simp only [hfree]; decide), hpartner]
    rfl
  case adopt => exact fun s h t p role f hr hfree hfolio hpartner hrole hward => adopt_fetches hr hfree hfolio hpartner hrole hward
  case refused => exact fun s h t role f hr hfree hfolio hrole => adopt_refused hr hfree hfolio hrole
  case bench =>
    intro s h u hbench hr hstaged holdest
    refine next_of_runs (by rw [hbench]; exact hr) rfl ?_
    rw [confirmAct_bench ((benching_admitted s h).trans hbench) (by rwa [admitted_svl]) (by rwa [admitted_svl])]
    rfl

end Sys2Proof.Proofs
end

section
/-! PROOFS. Event, power and privileged commands (chapters 12, 14, 15). -/
namespace Sys2Proof.Proofs
open Sys2Proof Sys2Proof.Machine

/-! ## EVENT_ACK, EVENT_MASK, EVENT_RESEND, COMMAND_DONE (R412, R416) -/

section
variable {s : State}

theorem eventAck_host {h : Hdr} {n port addr udp : Nat} (hr : s.runs h (opNow 0x0601 true .always) = true)
    (hsrc : h.src = .host port addr udp) :
    exec (.eventAck h n) s = .next
      ((((s.admitted h).setEvq false { (s.admitted h).evq false with items := ((s.admitted h).evq false).items.filter fun e =>
        match e.seq with | some k => !ackedBy n k | none => true }).pump false).answer h 0x0601 stSuccess []) := by
  refine next_of_runs hr rfl ?_
  simp only [hsrc, Src.isSide]
  rfl

theorem eventMask_host {h : Hdr} {mask port addr udp : Nat} (hr : s.runs h (opNow 0x0602 true .always) = true)
    (hsrc : h.src = .host port addr udp) :
    exec (.eventMask h mask) s = .next
      (((s.admitted h).setEvq false { (s.admitted h).evq false with mask := mask }).answer h 0x0602 stSuccess []) := by
  refine next_of_runs hr rfl ?_
  simp only [hsrc, Src.isSide]
  rfl

theorem eventMask_side {h : Hdr} {mask eid : Nat} (hr : s.runs h (opNow 0x0602 true .always) = true) (hsrc : h.src = .side eid) :
    exec (.eventMask h mask) s = .next
      ((((s.admitted h).setEvq true { (s.admitted h).evq true with mask := mask }).setReceiver true eid).answer h 0x0602 stSuccess []) := by
  refine next_of_runs hr rfl ?_
  simp only [hsrc, Src.isSide]
  rfl

variable {side : Bool} {e : QEvent} {rest : List QEvent} {n : Nat}

theorem eventResend_due (hitems : (s.evq side).items = e :: rest) (hseq : e.seq = some n)
    (hdue : (s.evq side).lastSend + 2000000 ≤ s.time) (hsend : s.canSend side = true) :
    exec (.eventResend side) s = .next ((s.setEvq side { s.evq side with lastSend := s.time }).transmit side e n) := by
  change execEventResend side s = _
  simp only [execEventResend, hitems, hseq, hdue, hsend, and_self, if_true]

theorem eventResend_early (hitems : (s.evq side).items = e :: rest) (hseq : e.seq = some n)
    (hearly : s.time < (s.evq side).lastSend + 2000000) : exec (.eventResend side) s = .next s := by
  change execEventResend side s = _
  simp only [execEventResend, hitems, hseq, Nat.not_le.2 hearly, false_and, if_false]

variable {i st : Nat} {d : Deferred} {ps : List Byte}

theorem commandDone_eq (hd : s.chembe.deferred[i]? = some d) (hres : d.result = some (st, ps)) :
    exec (.commandDone i) s = .next (((if d.op = 0x0301 ∧ s.jobState = jsLoading then
      s.setJobState (if s.folio.isSome then jsLoaded else jsEmpty) else s).endDeferred d st ps).runHeld) := by
  change execCommandDone i s = _
  simp only [execCommandDone, hd, hres]

theorem commandDone_working (hd : s.chembe.deferred[i]? = some d) (hres : d.result = none) :
    exec (.commandDone i) s = .next s := by
  change execCommandDone i s = _
  simp only [execCommandDone, hd, hres]

end

/-- Settles O9: the queue's first event and the deferred command's result decide. -/
theorem eventCommandsAct : Obligations.EventCommandsAct := by
  refine ⟨fun s h n port addr udp => eventAck_host, fun s h mask port addr udp => eventMask_host,
    fun s h mask eid => eventMask_side, fun s side e rest n => eventResend_due, fun s side e rest n => eventResend_early,
    ?done, ?loaded, fun s i d => commandDone_working⟩
  case done =>
    intro s i st d ps hd hres hop
    rw [commandDone_eq hd hres, if_neg fun h => hop h.1]
  case loaded =>
    intro s i st d ps hd hres hop hjob
    rw [commandDone_eq hd hres, if_pos ⟨hop, hjob⟩]

/-! ## MAIN_POWER (R507, R511) -/

/-- The row of MAIN_POWER in Table 12.4. -/
abbrev opMainPower : OpInfo := ⟨0x0702, true, false, true, some 5, .always, false⟩

/-- The act of MAIN_POWER while PWR_EN is high and no reset runs. -/
theorem mainPower_switches {s t : State} {h : Hdr} {on : Nat} {r : Option Nat} (hr : s.runs h opMainPower = true) (hon : on ≤ 2)
    (hen : s.pins.pwrEn = true) (hwarm : s.power.main ≠ .starting .warm) (hact : (s.admitted h).actSwitch on = (t, r)) :
    exec (.mainPower h on) s = .next ((((if r = some stState then s.admitted h
      else t.mapPower fun p => { p with switch := switchOf on }).addDeferred h 0x0702 (r.map fun st => (st, [])) on).sendReply
      (mkReply h 0x0702 stSuccess true []))) := by
  refine next_of_runs hr (decide_eq_true hon) ?_
  have hwarming : (s.admitted h).warming = false := by simpa [State.warming] using hwarm
  have hpins : (s.admitted h).pins.pwrEn = true := by simpa using hen
  simp only [hpins, hwarming, hact, Bool.not_true, Bool.false_eq_true, if_false]
  rfl

theorem mainPower_noRequest {s : State} {h : Hdr} {on : Nat} (hr : s.runs h opMainPower = true) (hen : s.pins.pwrEn = false)
    (hon : on ≤ 2) : exec (.mainPower h on) s = .next
      ((((s.admitted h).mapPower fun p => { p with switch := switchOf on }).addDeferred h 0x0702 (some (stState, [])) 0).sendReply
        (mkReply h 0x0702 stSuccess true [])) := by
  refine next_of_runs hr (decide_eq_true hon) ?_
  have hpins : (s.admitted h).pins.pwrEn = false := by simpa using hen
  simp only [hpins, Bool.not_false, if_true]
  rfl

section
variable {s : State}

theorem actSwitch_on_of_off (hmain : s.power.main = .off) : s.actSwitch 1 = (s, none) := by simp [State.actSwitch, hmain]

theorem actSwitch_hold_of_on (hmain : s.power.main = .on) : s.actSwitch 2 = (s.enterHold, some stSuccess) := by
  simp [State.actSwitch, hmain]

theorem actSwitch_hold_of_off (hmain : s.power.main = .off) : s.actSwitch 2 = (s, some stState) := by
  simp [State.actSwitch, hmain]

end

/-- Settles O10: the switch asks what the state of the main side lets it ask. -/
theorem powerCommandsAct : Obligations.PowerCommandsAct := by
  have hmain {s : State} {h : Hdr} {m : MainSide} (hm : s.power.main = m) : (s.admitted h).power.main = m := by simpa using hm
  refine ⟨fun s h hr => next_of_runs hr rfl rfl, fun s h target hr => powerSet_acts hr target (by decide),
    fun s h target hr => powerSet_acts hr target (by decide), fun s h mode target hr hmode => powerSet_refused hr target hmode,
    ?off, ?on, ?hold, ?holdOff, fun s h on => mainPower_noRequest⟩
  case off =>
    intro s h hr hen hon
    exact mainPower_switches (r := some stSuccess) hr (by decide) hen (by simp [hon]) rfl
  case on =>
    intro s h hr hen hoff
    exact mainPower_switches (r := none) hr (by decide) hen (by simp [hoff]) (actSwitch_on_of_off (hmain hoff))
  case hold =>
    intro s h hr hen hon
    exact mainPower_switches (r := some stSuccess) hr (by decide) hen (by simp [hon]) (actSwitch_hold_of_on (hmain hon))
  case holdOff =>
    intro s h hr hen hoff
    exact mainPower_switches (r := some stState) hr (by decide) hen (by simp [hoff]) (actSwitch_hold_of_off (hmain hoff))

end Sys2Proof.Proofs
end

section
/-! PROOFS. The privileged commands of Table 14.7 and ATTEST (chapter 14). -/
namespace Sys2Proof.Proofs
open Sys2Proof Sys2Proof.Machine

section
variable {s : State} {h : Hdr}

/-! ## Firmware (R482, R483) -/

section
variable {o : Nat} {data : List Byte}

theorem fwStage_stages (hr : s.runs h (privOp 0x0F00 false) = true) (hpos : 1 ≤ data.length) (hcap : data.length ≤ dataCap h 4048)
    (hslot : o + data.length ≤ slotBytes) (hfree : (s.admitted h).stagingTaken h = false) :
    exec (.fwStage h o 0 data) s = .next (((s.admitted h).stageBytes h o data).answer h 0x0F00 stSuccess []) := by
  refine next_of_runs hr (decide_eq_true ⟨Nat.zero_le 1, hpos, hcap, hslot⟩) ?_
  generalize s.admitted h = u at hfree
  simp only [hfree, Bool.false_or, if_true]
  rfl

theorem fwStage_final (hr : s.runs h (privOp 0x0F00 true) = true) (hpos : 1 ≤ data.length) (hcap : data.length ≤ dataCap h 4048)
    (hslot : o + data.length ≤ slotBytes) (hfree : (s.admitted h).stagingTaken h = false) (hidle : (s.admitted h).privBusy = false) :
    exec (.fwStage h o 1 data) s = .next
      (((((s.admitted h).stageBytes h o data).finalStage.1).addDeferred h 0x0F00
        (some (((s.admitted h).stageBytes h o data).finalStage.2.1, ((s.admitted h).stageBytes h o data).finalStage.2.2)) 0).sendReply
        (mkReply h 0x0F00 stSuccess true [])) := by
  refine next_of_runs hr (decide_eq_true ⟨Nat.le_refl 1, hpos, hcap, hslot⟩) ?_
  generalize s.admitted h = u at hfree hidle
  simp only [hfree, hidle, Bool.and_false, Bool.or_self, Bool.false_eq_true, one_ne_zero, if_false]
  generalize (u.stageBytes h o data).finalStage = r
  obtain ⟨t, st, ps⟩ := r
  rfl

end

theorem fwCommit_commits {v : Nat} (hr : s.runs h (privOp 0x0F01 true) = true) (hidle : (s.admitted h).privBusy = false)
    (hver : (s.admitted h).esc.verified = true) (hv : v = (s.admitted h).get SEC_FW_STAGED_VERSION) :
    exec (.fwCommit h v) s = .next
      ((((s.admitted h).mapFlash fun f => { f with trial := true, trialStarts := 0 }).addDeferred h 0x0F01 (some (stSuccess, [])) 0).sendReply
        (mkReply h 0x0F01 stSuccess true [])) := by
  refine next_of_runs hr rfl ?_
  generalize s.admitted h = u at hidle hver hv
  simp only [hidle, hver, hv, Bool.false_eq_true, Bool.not_true, ne_eq, not_true_eq_false, if_false]
  rfl

/-! ## Identity, erasure, the seal and attestation (R478, R480, R487, R488) -/

theorem idRotate_rotates {seed pub : List Byte} (hr : s.runs h (privOp 0x0F02 true) = true)
    (hidle : (s.admitted h).privBusy = false) (hroom : (s.admitted h).flash.rotations.length < 255)
    (hid : (s.admitted h).liveId = some (seed, pub)) :
    exec (.idRotate h) s = .next
      ((((s.admitted h).rotateId seed pub).1.addDeferred h 0x0F02 (some (stSuccess, ((s.admitted h).rotateId seed pub).2)) 0).sendReply
        (mkReply h 0x0F02 stSuccess true [])) := by
  refine next_of_runs hr rfl ?_
  generalize s.admitted h = u at hidle hroom hid
  simp only [hidle, hid, Nat.not_le.2 hroom, Bool.false_eq_true, if_false]
  rfl

theorem eraseAll_erases (hr : s.runs h ⟨0x0F03, true, true, true, none, .always, true⟩ = true)
    (hidle : (s.admitted h).privBusy = false) :
    exec (.eraseAll h 0x4C4C4145) s = .next
      (((s.admitted h).eraseAll.1.addDeferred h 0x0F03 (some (stSuccess, (s.admitted h).eraseAll.2)) 0).sendReply
        (mkReply h 0x0F03 stSuccess true [])) := by
  refine next_of_runs hr rfl ?_
  generalize s.admitted h = u at hidle
  simp only [hidle, Bool.false_eq_true, if_false]
  rfl

theorem sealAck_acks {r : Nat} (hr : s.runs h (privOp 0x0F06 false) = true) (hohms : (s.admitted h).esc.sealOhms = some r)
    (hclosed : loopOpen (some r) = false) :
    exec (.sealAck h) s = .next (((s.admitted h).sealAck r).answer h 0x0F06 stSuccess (le 4 r)) := by
  refine next_of_runs hr rfl ?_
  generalize s.admitted h = u at hohms
  simp only [hohms, hclosed, Bool.false_eq_true, if_false]
  rfl

theorem sealAck_open (hr : s.runs h (privOp 0x0F06 false) = true) (hopen : loopOpen (s.admitted h).esc.sealOhms = true) :
    exec (.sealAck h) s = .next ((s.admitted h).answer h 0x0F06 stState []) := by
  refine next_of_runs hr rfl ?_
  generalize s.admitted h = u at hopen
  cases hohms : u.esc.sealOhms with
  | none => rfl
  | some r =>
    rw [hohms] at hopen
    simp only [hopen, if_true]
    rfl

theorem attest_part {nonce seed pub : List Byte} {part o : Nat}
    (hr : s.runs h ⟨0x0F07, false, false, true, none, .always, false⟩ = true) (hnonce : nonce.length = 32) (hpart : part ≤ 4)
    (hidle : (s.admitted h).privBusy = false) (hid : (s.admitted h).liveId = some (seed, pub))
    (ho : o < ((s.admitted h).attestPart seed pub nonce part).2.length) :
    exec (.attest h nonce part o) s = .next
      ((((s.admitted h).attestPart seed pub nonce part).1.addDeferred h 0x0F07 (some (stSuccess,
        le 4 ((s.admitted h).attestPart seed pub nonce part).2.length ++ zeros 4
          ++ (((s.admitted h).attestPart seed pub nonce part).2.drop o).take 4000)) 0).sendReply
        (mkReply h 0x0F07 stSuccess true [])) := by
  refine next_of_runs hr (decide_eq_true ⟨hnonce, hpart⟩) ?_
  generalize s.admitted h = u at hidle hid ho
  simp only [hidle, hid, Nat.not_le.2 ho, Bool.false_eq_true, if_false]
  rfl

end

/-- Settles O11: each command passes the tests of its row, and its act is what is left. -/
theorem privilegedCommandsAct : Obligations.PrivilegedCommandsAct :=
  ⟨fun _ _ _ _ => fwStage_stages, fun _ _ _ _ => fwStage_final, fun _ _ _ => fwCommit_commits,
    fun _ _ _ _ => idRotate_rotates, fun _ _ => eraseAll_erases,
    fun _ _ _ hr harm => next_of_runs hr (decide_eq_true harm) rfl,
    fun _ _ _ hr harm => next_of_runs hr (decide_eq_true harm) rfl,
    fun _ _ _ => sealAck_acks, fun _ _ => sealAck_open, fun _ _ _ _ _ _ _ => attest_part⟩

end Sys2Proof.Proofs
end

section
/-! PROOFS. The host ports (chapter 12). -/
namespace Sys2Proof.Proofs
open Sys2Proof Sys2Proof.Machine

/-! ## Counting and events write the CNT block alone -/

/-- A canonical register window stays canonical, and of it only the CNT block may change. -/
def CntOnly (s t : State) : Prop := s.RegsCanonical → t.RegsCanonical ∧ ∀ a, outsideCnt a → t.reg a = s.reg a

theorem cntOnly_of_regs {s t : State} (h : t.regs = s.regs) : CntOnly s t := fun hs =>
  ⟨by unfold State.RegsCanonical; rwa [h], fun _ _ => by unfold State.reg; rw [h]⟩

theorem CntOnly.trans {s t u : State} (hst : CntOnly s t) (htu : CntOnly t u) : CntOnly s u := fun hs =>
  have ⟨ht, hreg⟩ := hst hs
  have ⟨hu, hreg'⟩ := htu ht
  ⟨hu, fun a ha => (hreg' a ha).trans (hreg a ha)⟩

theorem cntOnly_countAt (s : State) (code : Nat) (i : Inst) (n : Nat) : CntOnly s (s.countAt code i n) := countAt_ok_reg

theorem cntOnly_transmit (s : State) (side : Bool) (e : QEvent) (n : Nat) : CntOnly s (s.transmit side e n) := by
  unfold State.transmit
  split
  · split <;> exact cntOnly_of_regs (by simp)
  · split
    next port own num failover _ =>
      have hsent {o : Out} {i j : Inst} : CntOnly s (((s.send o).countAt 0xC1 i 1).countAt 0xC5 j 1) :=
        (cntOnly_of_regs (send_regs s o)).trans ((cntOnly_countAt _ _ _ _).trans (cntOnly_countAt _ _ _ _))
      dsimp only
      split
      · exact hsent.trans (cntOnly_countAt _ _ _ _)
      · exact hsent
    · exact cntOnly_of_regs rfl

theorem cntOnly_pumpGo (side : Bool) : ∀ (n : Nat) (s : State), CntOnly s (State.pumpGo side n s)
  | 0, _ => cntOnly_of_regs rfl
  | n + 1, s => by
    unfold State.pumpGo
    dsimp only
    split
    · exact cntOnly_of_regs rfl
    · split
      · exact ((cntOnly_of_regs (setEvq_regs _ _ _)).trans (cntOnly_transmit _ _ _ _)).trans (cntOnly_pumpGo side n _)
      · exact cntOnly_of_regs rfl

theorem cntOnly_raiseStepTo (s : State) (side : Bool) (code step : Nat) (body : List Byte) :
    CntOnly s (s.raiseStepTo side code step body) := by
  unfold State.raiseStepTo
  split
  · exact cntOnly_of_regs rfl
  · exact (cntOnly_of_regs (setEvq_regs _ _ _)).trans (cntOnly_pumpGo _ _ _)

theorem cntOnly_raise (s : State) (code : Nat) (body : List Byte) : CntOnly s (s.raise code body) := by
  unfold State.raise State.raiseStep
  refine CntOnly.trans ?_ (cntOnly_raiseStepTo _ _ _ _ _)
  split
  · exact cntOnly_raiseStepTo _ _ _ _ _
  · exact cntOnly_of_regs rfl

theorem CntOnly.get {s t : State} (h : CntOnly s t) (hs : s.RegsCanonical) {f : Fld} (hf : outsideCnt f.addr) : t.get f = s.get f := by
  unfold State.get
  rw [(h hs).2 _ hf]

/-! ## Frames on a port that is up (R405, R407) -/

section
variable {s : State} {p sip smac : Nat}

theorem hostFrame_up {work : State → State} (hp : p < 2) (hup : s.hostUp p = true) : s.hostFrame p work = work (s.hostRx p) := by
  simp [State.hostFrame, hup, Nat.not_lt.2 (Nat.le_of_lt_succ hp)]

theorem hostAnswer_own {kind own peer : Nat} {data : List Byte} : s.hostAnswer p kind own own peer data =
    (s.send (.net p kind own peer data)).countAt 0xC1 { port := some (24 + p) } 1 := if_pos rfl

theorem arp_own (hp : p < 2) (hup : s.hostUp p = true) : exec (.arp p (s.flash.config.ipv4 p) sip smac) s = .next
    (((s.hostRx p).send (.net p 0 (s.flash.config.ipv4 p) sip (be 6 (s.flash.config.mac p)))).countAt 0xC1
      { port := some (24 + p) } 1) := by
  change execArp p (s.flash.config.ipv4 p) sip smac s = _
  rw [execArp, hostFrame_up hp hup, hostRx_flash, hostAnswer_own]

theorem arp_other {tip : Nat} (hp : p < 2) (hup : s.hostUp p = true) (htip : tip ≠ s.flash.config.ipv4 p) :
    exec (.arp p tip sip smac) s = .next ((s.hostRx p).bump (HPT_DROP_COUNT p) 1) := by
  change execArp p tip sip smac s = _
  rw [execArp, hostFrame_up hp hup, hostRx_flash, State.hostAnswer, if_neg htip]
  rfl

theorem neighborDiscovery_own (hp : p < 2) (hup : s.hostUp p = true) :
    exec (.neighborDiscovery p (s.flash.config.ipv6 p) sip smac) s = .next
      (((s.hostRx p).send (.net p 1 (s.flash.config.ipv6 p) sip (be 6 (s.flash.config.mac p)))).countAt 0xC1
        { port := some (24 + p) } 1) := by
  change execNeighborDiscovery p (s.flash.config.ipv6 p) sip smac s = _
  rw [execNeighborDiscovery, hostFrame_up hp hup, hostRx_flash, hostAnswer_own]

theorem echoRequest_own4 {data : List Byte} (hp : p < 2) (hup : s.hostUp p = true) :
    exec (.echoRequest p false (s.flash.config.ipv4 p) sip data) s = .next
      (((s.hostRx p).send (.net p 2 (s.flash.config.ipv4 p) sip data)).countAt 0xC1 { port := some (24 + p) } 1) := by
  change execEchoRequest _ _ _ _ _ _ = _
  rw [execEchoRequest, hostFrame_up hp hup, if_neg Bool.false_ne_true, hostRx_flash, hostAnswer_own]

theorem echoRequest_own6 {data : List Byte} (hp : p < 2) (hup : s.hostUp p = true) :
    exec (.echoRequest p true (s.flash.config.ipv6 p) sip data) s = .next
      (((s.hostRx p).send (.net p 3 (s.flash.config.ipv6 p) sip data)).countAt 0xC1 { port := some (24 + p) } 1) := by
  change execEchoRequest _ _ _ _ _ _ = _
  rw [execEchoRequest, hostFrame_up hp hup, if_pos rfl, hostRx_flash, hostAnswer_own]

theorem datagramDrop_drops {d : Stray} (hp : d.port < 2) (hup : s.hostUp d.port = true) (hnot : s.takesDatagram d = false) :
    exec (.datagramDrop d) s = .next ((s.hostRx d.port).bump (HPT_DROP_COUNT d.port) 1) := by
  change execDatagramDrop _ _ = _
  rw [execDatagramDrop, hnot, hostFrame_up hp hup]
  rfl

theorem chembeRefused_counts {a u : Nat} {bytes : List Byte} (hp : p < 2) (hup : s.hostUp p = true)
    (hbad : malformed bytes = true ∨ s.noSession ⟨.host p a u, bytes⟩ = true) :
    exec (.chembeRefused ⟨.host p a u, bytes⟩) s = .next
      (((s.hostRx p).countAt 0xC4 { port := some (24 + p) } 1).bump (HPT_DROP_COUNT p) 1) := by
  have harrives : s.arrives (.host p a u) = true := by simp [State.arrives, hp, hup]
  have htest : (s.arrives (.host p a u) && (malformed bytes || s.noSession ⟨.host p a u, bytes⟩)) = true := by
    rw [harrives, Bool.true_and, Bool.or_eq_true]
    exact hbad
  change Host.Outcome.next (ite _ _ _) = _
  rw [if_pos htest]
  rfl

/-! ## Training and loss of the link (R404, R417) -/

variable {lanes : Nat}

theorem hostPortTrain_full (hp : p < 2) (hmain : s.power.mainOk = true) (hen : s.on (HPT_CTRL_ENABLE p) = true)
    (hdown : s.hostUp p = false) (h400 : s.on (HPT_CTRL_ALLOW_400 p) = true) (hlanes : lanes % 16 = 15) :
    exec (.hostPortTrain p lanes) s = .next
      ((((s.put (HPT_STATUS_LINK_UP p) 1).put (HPT_STATUS_SPEED p) 2).put (HPT_STATUS_LANES_HIGH p) 0).pump false) := by
  have htrained : s.hostTrained p lanes = some (2, 0) := if_pos ⟨h400, hlanes⟩
  change execHostPortTrain p lanes s = _
  simp [execHostPortTrain, hmain, hen, hdown, htrained, Nat.not_lt.2 (Nat.le_of_lt_succ hp)]

theorem hostPortTrain_none (htrained : s.hostTrained p lanes = none) : exec (.hostPortTrain p lanes) s = .next s := by
  change execHostPortTrain p lanes s = _
  simp [execHostPortTrain, htrained]

theorem hLinkDown_eq (hp : p < 2) : exec (.hLinkDown p) s = .next (s.hostDown p) :=
  congrArg Host.Outcome.next (if_neg (Nat.not_lt.2 (Nat.le_of_lt_succ hp)))

/-- The registers of a port that has gone down, before the loss is counted and told. -/
def portLost (s : State) (p : Nat) : State :=
  (((s.put (HPT_STATUS_LINK_UP p) 0).put (HPT_STATUS_SPEED p) 0).put (HPT_STATUS_LANES_HIGH p) 0).put (HPT_STATUS_WENT_DOWN p) 1

theorem portLost_ok (hs : s.RegsCanonical) : (portLost s p).RegsCanonical := put_ok (put_ok (put_ok (put_ok hs)))

theorem raiseLink_get {kind : Nat} {f : Fld} (hs : s.RegsCanonical) (hf : outsideCnt f.addr) (h2C : f.addr ≠ 0x2C) :
    (s.raiseLink p kind).RegsCanonical ∧ (s.raiseLink p kind).get f = s.get f := by
  have hraise := cntOnly_raise s 0xA (le 2 p ++ le 2 kind)
  refine ⟨setReg_ok (hraise hs).1, ?_⟩
  rw [← hraise.get hs hf]
  unfold State.get State.raiseLink State.alert
  rw [reg_setReg (hraise hs).1, if_neg h2C]

/-- What the loss of a port's link writes beside its own registers. -/
theorem hostDown_get {f : Fld} (hs : s.RegsCanonical) (hup : s.hostUp p = true) (hf : outsideCnt f.addr) (h2C : f.addr ≠ 0x2C) :
    (s.hostDown p).get f = (portLost s p).get f := by
  have hcount := cntOnly_countAt (portLost s p) 0xC7 { port := some (24 + p) } 1
  obtain ⟨hok, hget⟩ := raiseLink_get (p := 24 + p) (kind := 1) (hcount (portLost_ok hs)).1 hf h2C
  have hlink := hget.trans (hcount.get (portLost_ok hs) hf)
  unfold State.hostDown
  simp only [hup, Bool.not_true, Bool.false_eq_true, if_false]
  split
  · split
    · exact (raiseLink_get hok hf h2C).2.trans hlink
    · exact hlink
  · exact hlink

theorem hostDown_frame : (s.hostDown p).mem = s.mem ∧ (s.hostDown p).flash = s.flash ∧ (s.hostDown p).job = s.job ∧
    (s.hostDown p).run = s.run ∧ (s.hostDown p).quill = s.quill := by
  unfold State.hostDown State.raiseLink
  dsimp only
  split
  · exact ⟨rfl, rfl, rfl, rfl, rfl⟩
  · split
    · split <;> simp
    · simp

/-- A port that is lost reads down, and the other port as before. -/
theorem portLost_reads (hs : s.RegsCanonical) (hp : p < 2) :
    (portLost s p).get (HPT_STATUS_LINK_UP p) = 0 ∧ (portLost s p).get (HPT_STATUS_SPEED p) = 0 ∧
    (portLost s p).get (HPT_STATUS_WENT_DOWN p) = 1 ∧
    (portLost s p).get (HPT_STATUS_LINK_UP (1 - p)) = s.get (HPT_STATUS_LINK_UP (1 - p)) := by
  have h1 := put_ok (f := HPT_STATUS_LINK_UP p) (v := 0) hs
  have h2 := put_ok (f := HPT_STATUS_SPEED p) (v := 0) h1
  have h3 := put_ok (f := HPT_STATUS_LANES_HIGH p) (v := 0) h2
  have hother : (HPT_STATUS_LINK_UP p).addr ≠ (HPT_STATUS_LINK_UP (1 - p)).addr := by simp only [HPT_STATUS_LINK_UP]; omega
  unfold portLost
  refine ⟨?_, ?_, get_put_same h3 (by simp [HPT_STATUS_WENT_DOWN]) (by simp [HPT_STATUS_WENT_DOWN]), ?_⟩
  · rw [get_put_other h3 (by simp [HPT_STATUS_WENT_DOWN]) (by simp [HPT_STATUS_LINK_UP]) (by simp [HPT_STATUS_WENT_DOWN, HPT_STATUS_LINK_UP]),
      get_put_other h2 (by simp [HPT_STATUS_LANES_HIGH]) (by simp [HPT_STATUS_LINK_UP]) (by simp [HPT_STATUS_LANES_HIGH, HPT_STATUS_LINK_UP]),
      get_put_other h1 (by simp [HPT_STATUS_SPEED]) (by simp [HPT_STATUS_LINK_UP]) (by simp [HPT_STATUS_SPEED, HPT_STATUS_LINK_UP]),
      get_put_same hs (by simp [HPT_STATUS_LINK_UP]) (by simp [HPT_STATUS_LINK_UP])]
    rfl
  · rw [get_put_other h3 (by simp [HPT_STATUS_WENT_DOWN]) (by simp [HPT_STATUS_SPEED]) (by simp [HPT_STATUS_WENT_DOWN, HPT_STATUS_SPEED]),
      get_put_other h2 (by simp [HPT_STATUS_LANES_HIGH]) (by simp [HPT_STATUS_SPEED]) (by simp [HPT_STATUS_LANES_HIGH, HPT_STATUS_SPEED]),
      get_put_same h1 (by simp [HPT_STATUS_SPEED]) (by simp [HPT_STATUS_SPEED])]
    rfl
  · rw [get_put_other (f := HPT_STATUS_WENT_DOWN p) h3 (by simp [HPT_STATUS_WENT_DOWN]) (by simp [HPT_STATUS_LINK_UP]) (.inl hother),
      get_put_other (f := HPT_STATUS_LANES_HIGH p) h2 (by simp [HPT_STATUS_LANES_HIGH]) (by simp [HPT_STATUS_LINK_UP]) (.inl hother),
      get_put_other (f := HPT_STATUS_SPEED p) h1 (by simp [HPT_STATUS_SPEED]) (by simp [HPT_STATUS_LINK_UP]) (.inl hother),
      get_put_other (f := HPT_STATUS_LINK_UP p) hs (by simp [HPT_STATUS_LINK_UP]) (by simp [HPT_STATUS_LINK_UP]) (.inl hother)]

theorem hostDown_reads (hs : s.RegsCanonical) (hp : p < 2) (hup : s.hostUp p = true) :
    (s.hostDown p).hostUp p = false ∧ (s.hostDown p).get (HPT_STATUS_SPEED p) = 0 ∧
    (s.hostDown p).on (HPT_STATUS_WENT_DOWN p) = true ∧ (s.hostDown p).hostUp (1 - p) = s.hostUp (1 - p) := by
  obtain ⟨hlink, hspeed, hwent, hother⟩ := portLost_reads hs hp
  have hreads {f : Fld} (hf : 0x490000 ≤ f.addr) : (s.hostDown p).get f = (portLost s p).get f :=
    hostDown_get hs hup (.inr (Nat.le_trans (by decide) hf)) (by omega)
  have hin (q : Nat) : 0x490000 ≤ 0x490000 + 0x10000 * q + 0x4 := by omega
  unfold State.hostUp State.on
  rw [hreads (f := HPT_STATUS_LINK_UP p) (hin p), hreads (f := HPT_STATUS_SPEED p) (hin p),
    hreads (f := HPT_STATUS_WENT_DOWN p) (hin p), hreads (f := HPT_STATUS_LINK_UP (1 - p)) (hin (1 - p)), hlink, hspeed, hwent, hother]
  exact ⟨rfl, rfl, rfl, rfl⟩

end

/-- Settles O12: a frame on a port that is up, training, and the registers of a port that goes down. -/
theorem hostPortsAnswerAndGoDown : Obligations.HostPortsAnswerAndGoDown := by
  refine ⟨⟨fun _ _ _ _ => arp_own, fun _ _ _ _ _ => arp_other, fun _ _ _ _ => neighborDiscovery_own, fun _ _ _ _ => echoRequest_own4,
    fun _ _ _ _ => echoRequest_own6, fun _ _ => datagramDrop_drops, fun _ _ ht => congrArg Host.Outcome.next (if_pos ht),
    fun _ _ _ _ _ => chembeRefused_counts, fun _ _ hp _ => hLinkDown_eq hp, fun _ _ _ => hostPortTrain_full,
    fun _ _ _ _ _ _ _ htrained => hostPortTrain_none htrained⟩, ?down⟩
  intro s p hs hp hup
  obtain ⟨hdown, hspeed, hwent, hother⟩ := hostDown_reads hs hp hup
  exact ⟨s.hostDown p, hLinkDown_eq hp, hdown, hspeed, hwent, hother, hostDown_frame⟩

end Sys2Proof.Proofs
end

section
/-! PROOFS. The side-band below Chembe: I3C, MCTP control and PLDM (chapter 14). -/
namespace Sys2Proof.Proofs
open Sys2Proof Sys2Proof.Machine

/-! ## I3C and MCTP control (Table 14.1) -/

section
variable {s : State} {b : Nat}

theorem addressed (haddr : s.esc.i3cAddr = some b) : s.esc.i3cAddr.isSome = true := by rw [haddr]; rfl

theorem cccRead_up {ccc : Nat} {data : List Byte} (hready : s.esc.ready = true) (haddr : s.esc.i3cAddr = some b) :
    s.cccRead ccc data = { s with out := s.out ++ [.i3c ccc data] } := by
  rw [State.cccRead, hready, addressed haddr]
  rfl

theorem mctpAnswer_up {command completion : Nat} {data : List Byte} (hready : s.esc.ready = true) (haddr : s.esc.i3cAddr = some b) :
    s.mctpAnswer command completion data = { s with out := s.out ++ [.i3c 0 ibiByte, .mctp command completion data] } := by
  rw [State.mctpAnswer, hready, addressed haddr, if_pos (Bool.and_self true)]
  simp only [State.ibi, State.send, List.append_assoc, List.cons_append, List.nil_append]

theorem entdaa_takes {a : Nat} (hready : s.esc.ready = true) (hnone : s.esc.i3cAddr = none) : exec (.entdaa a) s = .next
    (((s.send (.i3c 0x07 (be 6 s.pid ++ le 1 6 ++ le 1 0))).mapEsc fun e => { e with i3cAddr := some a }).pump true) := by
  refine congrArg Host.Outcome.next (if_neg ?_)
  simp [hready, hnone]

theorem setnewda_changes {a : Nat} (hready : s.esc.ready = true) (haddr : s.esc.i3cAddr = some b) :
    exec (.setnewda a) s = .next { s with esc := { s.esc with i3cAddr := some a } } :=
  congrArg Host.Outcome.next (if_pos (by simp [hready, haddr]))

theorem cccReads_answer (hready : s.esc.ready = true) (haddr : s.esc.i3cAddr = some b) :
    exec .getpid s = .next { s with out := s.out ++ [.i3c 0x8D (be 6 s.pid)] } ∧
    exec .getbcr s = .next { s with out := s.out ++ [.i3c 0x8E [0x06]] } ∧
    exec .getdcr s = .next { s with out := s.out ++ [.i3c 0x8F [0x00]] } ∧
    exec .getstatus s = .next { s with free := s.free + 1, out := s.out ++ [.i3c 0x90 (fit 2 (Config.sideBytes 1 s.free))] } ∧
    exec .getmwl s = .next { s with out := s.out ++ [.i3c 0x8B (fit 2 (Config.sideBytes 2 0))] } ∧
    exec .getmrl s = .next { s with out := s.out ++ [.i3c 0x8C (fit 3 (Config.sideBytes 3 0))] } :=
  ⟨congrArg _ (cccRead_up hready haddr), congrArg _ (cccRead_up hready haddr), congrArg _ (cccRead_up hready haddr),
    congrArg _ (cccRead_up (s := { s with free := s.free + 1 }) hready haddr), congrArg _ (cccRead_up hready haddr),
    congrArg _ (cccRead_up hready haddr)⟩

theorem setEndpointId_sets {op eid : Nat} (hready : s.esc.ready = true) (haddr : s.esc.i3cAddr = some b)
    (hok : op ≤ 1 ∧ 8 ≤ eid ∧ eid ≤ 254) : exec (.setEndpointId op eid) s = .next
      (({ s with esc := { s.esc with eid := some eid }, out := s.out ++ [.i3c 0 ibiByte, .mctp 1 0 [0, BitVec.ofNat 8 eid, 0]] } : State).pump
        true) := by
  have hup : (!s.esc.ready || s.esc.i3cAddr.isNone) = false := by simp [hready, haddr]
  have hanswer := mctpAnswer_up (s := { s with esc := { s.esc with eid := some eid } }) (command := 1) (completion := 0)
    (data := le 1 0 ++ le 1 eid ++ le 1 0) hready haddr
  have hbytes : le 1 0 ++ le 1 eid ++ le 1 0 = [0, BitVec.ofNat 8 eid, 0] := by simp [le]
  rw [hbytes] at hanswer
  change execSetEndpointId op eid s = _
  rw [execSetEndpointId, hup, if_neg Bool.false_ne_true, if_pos hok, hbytes]
  exact congrArg (fun t : State => Host.Outcome.next (t.pump true)) hanswer

theorem setEndpointId_refuses {op eid : Nat} (hready : s.esc.ready = true) (haddr : s.esc.i3cAddr = some b)
    (hbad : ¬(op ≤ 1 ∧ 8 ≤ eid ∧ eid ≤ 254)) :
    exec (.setEndpointId op eid) s = .next { s with out := s.out ++ [.i3c 0 ibiByte, .mctp 1 2 []] } := by
  have hup : (!s.esc.ready || s.esc.i3cAddr.isNone) = false := by simp [hready, haddr]
  change execSetEndpointId op eid s = _
  rw [execSetEndpointId, hup, if_neg Bool.false_ne_true, if_neg hbad, mctpAnswer_up hready haddr]

theorem getMctpVersionSupport_known {m : Nat} (hready : s.esc.ready = true) (haddr : s.esc.i3cAddr = some b)
    (hm : m = 0xFF ∨ m ∈ mctpTypes) : exec (.getMctpVersionSupport m) s = .next
      { s with out := s.out ++ [.i3c 0 ibiByte, .mctp 4 0 (Config.sideBytes 6 m)] } := by
  change execGetMctpVersionSupport m s = _
  rw [execGetMctpVersionSupport, if_pos (hm.imp_right List.contains_iff_mem.2), mctpAnswer_up hready haddr]

theorem getVendorDefined_other {n : Nat} (hready : s.esc.ready = true) (haddr : s.esc.i3cAddr = some b) (hn : n ≠ 0) :
    exec (.getVendorDefinedMsgSupport n) s = .next { s with out := s.out ++ [.i3c 0 ibiByte, .mctp 6 2 []] } := by
  change execGetVendorDefinedMsgSupport n s = _
  rw [execGetVendorDefinedMsgSupport, if_neg hn, mctpAnswer_up hready haddr]

end

/-- Settles O13: what a ready target answers with and without its dynamic address. -/
theorem i3cAndMctpControlAnswered : Obligations.I3cAndMctpControlAnswered := by
  refine ⟨⟨fun _ _ => entdaa_takes, fun _ _ _ => setnewda_changes, fun _ hready => congrArg Host.Outcome.next (if_pos hready),
    fun _ _ => cccReads_answer⟩, ?control⟩
  intro s b hready haddr
  exact ⟨fun _ _ hop hlow hhigh => setEndpointId_sets hready haddr ⟨hop, hlow, hhigh⟩, fun _ _ => setEndpointId_refuses hready haddr,
    congrArg _ (mctpAnswer_up hready haddr), congrArg _ (mctpAnswer_up hready haddr),
    fun _ => getMctpVersionSupport_known hready haddr, congrArg _ (mctpAnswer_up hready haddr),
    congrArg _ (mctpAnswer_up hready haddr), fun _ => getVendorDefined_other hready haddr⟩

/-! ## PLDM (R471, R472) -/

section
variable {s : State} {n : Nat} {r : Int}

theorem pldmAnswer_eq {type command completion : Nat} {data : List Byte} : s.pldmAnswer type command completion data =
    { s with out := s.out ++ [.i3c 0 ibiByte, .pldm type command completion data] } := by
  simp only [State.pldmAnswer, State.ibi, State.send, List.append_assoc, List.cons_append, List.nil_append]

/-- No sensor of Table 14.4 is both numeric and a state sensor. -/
theorem not_numeric_of_state (hn : n ∈ stateSensors) : numericSensors.contains n = false := by
  revert n
  decide

theorem pdr_handle_ne_zero (hn : n ∈ numericSensors ∨ n ∈ stateSensors) : n ≠ 0 := by
  rintro rfl
  exact absurd hn (by decide)

variable (hup : s.pldmUp = true)
include hup

theorem getPdr_numeric (hn : n ∈ numericSensors) : exec (.getPdr n) s = .next { s with out := s.out ++ [.i3c 0 ibiByte,
    .pldm 2 0x51 0 (le 2 n ++ le 1 0 ++ le 1 (sensorUnit n).1 ++ le 1 (ofSigned 8 (sensorUnit n).2) ++ (s.thresholds n).flatMap pdrThreshold
      ++ Config.sideBytes 9 n)] } := by
  change execGetPdr n s = _
  simp only [execGetPdr, hup, pdr_handle_ne_zero (.inl hn), List.contains_iff_mem.2 hn, Bool.not_true, Bool.false_eq_true, if_true, if_false,
    pldmAnswer_eq]

theorem getPdr_state (hn : n ∈ stateSensors) : exec (.getPdr n) s = .next { s with out := s.out ++ [.i3c 0 ibiByte,
    .pldm 2 0x51 0 (le 2 n ++ le 1 1 ++ Config.sideBytes 9 n)] } := by
  change execGetPdr n s = _
  simp only [execGetPdr, hup, pdr_handle_ne_zero (.inr hn), not_numeric_of_state hn, List.contains_iff_mem.2 hn, Bool.not_true,
    Bool.false_eq_true, if_true, if_false, pldmAnswer_eq]

theorem getSensorReading_up (hn : n ∈ numericSensors) (hsensor : s.sensorUp n = true) :
    exec (.getSensorReading n r) s = .next (((s.takeReading n r).1.send (.i3c 0 ibiByte)).send (.pldm 2 0x11 0
      (le 1 0 ++ le 1 (ofSigned 8 ((s.takeReading n r).1.sensorSide n (s.takeReading n r).2))
        ++ le 4 (ofSigned 32 (s.takeReading n r).2)))) := by
  change execGetSensorReading n r s = _
  simp only [execGetSensorReading, hup, hsensor, List.contains_iff_mem.2 hn, Bool.not_true, Bool.false_eq_true, if_false]
  rfl

theorem getSensorReading_down (hn : n ∈ numericSensors) (hsensor : s.sensorUp n = false) :
    exec (.getSensorReading n r) s = .next { s with out := s.out ++ [.i3c 0 ibiByte, .pldm 2 0x11 0 [2, 0, 0, 0, 0, 0]] } := by
  change execGetSensorReading n r s = _
  simp only [execGetSensorReading, hup, hsensor, List.contains_iff_mem.2 hn, Bool.not_true, Bool.not_false, Bool.false_eq_true, if_true,
    if_false, pldmAnswer_eq]
  rfl

theorem getStateSensorReadings_up (hn : n ∈ stateSensors) (hsensor : s.sensorUp n = true) :
    exec (.getStateSensorReadings n) s = .next
      { s with out := s.out ++ [.i3c 0 ibiByte, .pldm 2 0x21 0 (le 1 0 ++ le 1 (s.stateSensor n))] } := by
  change execGetStateSensorReadings n s = _
  simp only [execGetStateSensorReadings, hup, hsensor, List.contains_iff_mem.2 hn, Bool.not_true, Bool.false_eq_true, if_false, pldmAnswer_eq]

theorem setEventReceiver_names {e : Nat} (hfree : ∀ x, s.esc.receiver ≠ some (true, x)) :
    exec (.setEventReceiver e) s = .next (((s.setReceiver false e).send (.i3c 0 ibiByte)).send (.pldm 2 0x04 0 [])) := by
  change execSetEventReceiver e s = _
  simp only [execSetEventReceiver, hup, Bool.not_true, Bool.false_eq_true, if_false]
  rfl

theorem setEventReceiver_keeps {e x : Nat} (hnamed : s.esc.receiver = some (true, x)) :
    exec (.setEventReceiver e) s = .next ((s.send (.i3c 0 ibiByte)).send (.pldm 2 0x04 0 [])) := by
  change execSetEventReceiver e s = _
  simp only [execSetEventReceiver, hup, hnamed, Bool.not_true, Bool.false_eq_true, if_false]
  rfl

theorem ready_of_pldmUp : s.esc.ready = true := by
  simp only [State.pldmUp, State.mctpUp, Bool.and_eq_true] at hup
  exact hup.1.1.1

theorem platformEventMessage_numeric (hn : n ∈ numericSensors) (hsensor : s.sensorUp n = true) :
    exec (.platformEventMessage n r) s = .next
      ((s.takeReading n r).1.noteSensor n ((s.takeReading n r).1.sensorSide n (s.takeReading n r).2) (s.takeReading n r).2) := by
  change execPlatformEventMessage n r s = _
  simp only [execPlatformEventMessage, ready_of_pldmUp hup, hsensor, List.contains_iff_mem.2 hn, Bool.not_true, Bool.or_self,
    Bool.false_eq_true, if_true, if_false]

theorem platformEventMessage_state (hn : n ∈ stateSensors) (hsensor : s.sensorUp n = true) :
    exec (.platformEventMessage n r) s = .next
      (s.noteSensor n ((s.stateSensor n : Nat) : Int) ((s.stateSensor n : Nat) : Int)) := by
  change execPlatformEventMessage n r s = _
  simp only [execPlatformEventMessage, ready_of_pldmUp hup, hsensor, not_numeric_of_state hn, List.contains_iff_mem.2 hn, Bool.not_true,
    Bool.or_self, Bool.false_eq_true, if_true, if_false]

theorem messagingControl_known : exec (.messagingControlAndDiscovery 4) s = .next
      { s with out := s.out ++ [.i3c 0 ibiByte, .pldm 0 4 0 (le 8 5)] } ∧
    exec (.messagingControlAndDiscovery 1) s = .next { s with out := s.out ++ [.i3c 0 ibiByte, .pldm 0 1 0 []] } := by
  change execMessagingControlAndDiscovery 4 s = _ ∧ execMessagingControlAndDiscovery 1 s = _
  simp [execMessagingControlAndDiscovery, hup, pldmAnswer_eq]

theorem getPdrRepositoryInfo_eq : exec .getPdrRepositoryInfo s = .next
    { s with out := s.out ++ [.i3c 0 ibiByte, .pldm 2 0x50 0 (le 1 0 ++ le 4 11 ++ Config.sideBytes 8 0)] } := by
  change execGetPdrRepositoryInfo s = _
  rw [execGetPdrRepositoryInfo, hup, if_neg (by decide), pldmAnswer_eq]
  rfl

end

/-- Settles O14: what PLDM answers once it is up, and what a sensor's reading notes. -/
theorem pldmRequestsAnswered : Obligations.PldmRequestsAnswered := fun _ hup =>
  ⟨getPdrRepositoryInfo_eq hup, fun _ => getPdr_numeric hup, fun _ => getPdr_state hup, fun _ _ => getSensorReading_up hup,
    fun _ _ => getSensorReading_down hup, fun _ => getStateSensorReadings_up hup, fun _ => setEventReceiver_names hup,
    fun _ _ => setEventReceiver_keeps hup, fun _ _ => platformEventMessage_numeric hup, fun _ _ => platformEventMessage_state hup,
    messagingControl_known hup⟩

end Sys2Proof.Proofs
end

section
/-! PROOFS. Power, the standby domain, presence and the seal (chapters 14 and 15). -/
namespace Sys2Proof.Proofs
open Sys2Proof Sys2Proof.Machine

/-! ## The standby domain (R476, R493, R494) -/

section
variable {s : State}

theorem sealBreakNow_esc (s : State) (kind : Nat) (ohms : Option Nat) : (s.sealBreakNow kind ohms).esc = s.esc := by
  unfold State.sealBreakNow
  dsimp only
  generalize (if kind = 3 then 1 else 0) = b
  split
  · rfl
  · rw [raise_esc, alert_esc, put_esc, mapFlash_esc, State.sealRecord, mapFlash_esc]

theorem bootId_esc (s : State) : s.bootId.esc = s.esc := by
  have hpend : (match s.flash.pendingId with
      | some i => s.mapFlash fun f => { f with identity := some i, pendingId := none }
      | none => s).esc = s.esc := by split <;> rfl
  unfold State.bootId
  dsimp only
  split
  · exact (put_esc _ _ _).trans hpend
  · split
    · exact (put_esc _ _ _).trans hpend
    · exact (put_esc _ _ _).trans hpend

theorem commission_esc (s : State) (ohms : Nat) : (s.commission ohms).esc = s.esc := by
  rw [State.commission, bootId_esc]
  rfl

theorem ite_ready {c : Prop} [Decidable c] {t u : State} (ht : t.esc.ready = true) (hu : u.esc.ready = true) :
    (if c then t else u).esc.ready = true := by split <;> assumption

theorem sealBreakNow_ready {kind : Nat} {ohms : Option Nat} (h : s.esc.ready = true) : (s.sealBreakNow kind ohms).esc.ready = true := by
  rw [sealBreakNow_esc, h]

theorem commission_ready {ohms : Nat} (h : s.esc.ready = true) : (s.commission ohms).esc.ready = true := by rw [commission_esc, h]

theorem escReady_ready (s : State) (ohms : Option Nat) : (s.escReady ohms).esc.ready = true := by
  have hnoted : (((s.mapEsc fun e => { e with ready := true, sealBad := 0, sealBadKind := 0 }).noteLoop ohms)).esc.ready = true := rfl
  have htail {t : State} {k : Nat} (ht : t.esc.ready = true) :
      (if k = 1 then t.sealBreakNow 2 ohms else if k = 3 then t.sealBreakNow 3 ohms else t).esc.ready = true :=
    ite_ready (sealBreakNow_ready ht) (ite_ready (sealBreakNow_ready ht) ht)
  have hlatch {t : State} (ht : t.esc.ready = true) :
      (if t.esc.sealLatch then (t.mapEsc fun e => { e with sealLatch := false }).sealBreakNow 1 none else t).esc.ready = true :=
    ite_ready (sealBreakNow_ready (s := t.mapEsc fun e => { e with sealLatch := false }) ht) ht
  unfold State.escReady
  cases ohms with
  | none => exact htail (hlatch hnoted)
  | some r => exact htail (hlatch (ite_ready hnoted (commission_ready hnoted)))

theorem resetAsserted_frame (s : State) : s.resetAsserted.pins.resetN = false ∧
    s.resetAsserted.power.standby = s.power.standby ∧ s.resetAsserted.power.trip = s.power.trip ∧
    s.resetAsserted.mem = State.reset.mem ∧ s.resetAsserted.job = State.reset.job ∧ s.resetAsserted.esc.ready = false := by
  have hclose : s.closeWindow.power = s.power := by
    unfold State.closeWindow State.raisePresence State.notePresence
    dsimp only
    split <;> simp
  unfold State.resetAsserted
  simp only [put_pins, put_power, put_mem, put_job, put_esc, setReg_pins, setReg_power, setReg_mem, setReg_job, setReg_esc, mapPower_pins,
    mapPower_mem, mapPower_job, mapPower_esc, mapEsc_pins, mapEsc_mem, mapEsc_job]
  exact ⟨trivial, (congrArg Power.standby hclose :), (congrArg Power.trip hclose :), rfl, rfl, rfl⟩

theorem coldStart_ignored {v f l : Nat} (h : s.power.standby = true ∨ v < 30000) : exec (.coldStart v f l) s = .next s :=
  congrArg Host.Outcome.next (if_pos (by simpa using h))

theorem resetN_ignored {n : Nat} (h : n < 10000 ∨ s.pins.resetN = false) : exec (.resetN n) s = .next s := by
  refine congrArg Host.Outcome.next (if_neg ?_)
  rintro ⟨hlong, hhigh⟩
  rcases h with h | h
  · omega
  · rw [h] at hhigh
    exact Bool.false_ne_true hhigh

theorem resetNRelease_boots {f l : Nat} (hlow : s.pins.resetN = false) (hpower : s.power.standby = true) :
    exec (.resetNRelease f l) s = .next (({ s with pins := { s.pins with resetN := true } } : State).bootEsc f l) := by
  change execResetNRelease f l s = _
  simp only [execResetNRelease, hlow, hpower, Bool.false_eq_true, if_false, if_true]

theorem resetNRelease_unpowered {f l : Nat} (hlow : s.pins.resetN = false) (hpower : s.power.standby = false) :
    exec (.resetNRelease f l) s = .next { s with pins := { s.pins with resetN := true } } := by
  change execResetNRelease f l s = _
  simp only [execResetNRelease, hlow, hpower, Bool.false_eq_true, if_false]

end

/-- Settles O15: the voltage, the pulse's length and the pin decide, and a reset starts from the state after reset. -/
theorem standbyAndResetEvents : Obligations.StandbyAndResetEvents := by
  refine ⟨?cold, fun _ _ _ _ => coldStart_ignored, ?ready, ?loss, ?low, fun _ _ => resetN_ignored, fun _ _ _ => resetNRelease_boots,
    fun _ _ _ => resetNRelease_unpowered⟩
  case cold =>
    intro s v f l hoff hv
    exact congrArg Host.Outcome.next (if_neg (by simpa [hoff] using hv))
  case ready =>
    intro s ohms hpower hreset hready
    exact ⟨congrArg Host.Outcome.next (if_pos (by simp [hpower, hreset, hready])), escReady_ready s ohms⟩
  case loss =>
    intro s v hpower hv
    exact ⟨_, congrArg Host.Outcome.next (if_pos (by simp [hpower, hv])), rfl, rfl⟩
  case low =>
    intro s n hlong hhigh
    exact ⟨_, congrArg Host.Outcome.next (if_pos ⟨hlong, hhigh⟩), rfl, resetAsserted_frame s⟩

/-! ## The main side (R493 to R507) -/

/-- Settles O16: each row asks the pins and the state of the main side. -/
theorem mainSideEvents : Obligations.MainSideEvents := by
  refine ⟨?start, ?noStart, ?ready, ?beat, ?lost, ?notLost, fun _ hon => congrArg Host.Outcome.next (if_pos hon), fun _ => rfl, fun _ => rfl⟩
  case start =>
    intro s hreq hall hmain
    exact congrArg Host.Outcome.next (if_pos (by simpa [hreq, hall] using hmain))
  case noStart =>
    intro s h
    refine congrArg Host.Outcome.next (if_neg ?_)
    rcases h with h | h <;> simp [h]
  case ready =>
    intro s k pl dr hmain
    change execReady pl dr s = _
    rw [execReady, hmain]
  case beat =>
    intro s n hok hready
    exact congrArg Host.Outcome.next (if_pos (by simp [hok, hready]))
  case lost =>
    intro s hmain hon hsilent
    exact congrArg Host.Outcome.next (if_pos (by simp [hmain, hon, hsilent]))
  case notLost =>
    intro s hearly
    exact congrArg Host.Outcome.next (if_neg (by simp [Nat.not_le.2 hearly]))

/-! ## The input voltage (R397, R492, R500) -/

section
variable {s : State} {v : Nat}

theorem undervolt_enters (hpower : s.power.standby = true) (hlow : 33000 ≤ v) (hhigh : v < 36000)
    (hclear : (s.noteVin v).on PWR_STATUS_UNDERVOLT = false) :
    exec (.undervolt v) s = .next (((s.noteVin v).put PWR_STATUS_UNDERVOLT 1).raisePower 1 v) := by
  have hband : decide (33000 ≤ v ∧ v < 36000) = true := decide_eq_true ⟨hlow, hhigh⟩
  change execUndervolt v s = _
  simp only [execUndervolt, hpower, hband, hclear]
  rfl

theorem undervolt_leaves (hpower : s.power.standby = true) (hhigh : 36000 ≤ v) (hset : (s.noteVin v).on PWR_STATUS_UNDERVOLT = true) :
    exec (.undervolt v) s = .next (((s.noteVin v).put PWR_STATUS_UNDERVOLT 0).raisePower 1 0) := by
  have hband : decide (33000 ≤ v ∧ v < 36000) = false := decide_eq_false fun h => by omega
  change execUndervolt v s = _
  simp only [execUndervolt, hpower, hband, hset]
  rfl

theorem overvolt_acts {n : Nat} (hpower : s.power.standby = true) (hv : 50000 < v) (hn : 10000 ≤ n) (honset : s.power.overvolt = false) :
    exec (.overvolt v n) s = .next
      ((((s.mainFault 3).noteVin v).mapPower fun p => { p with overvolt := true }).raisePower 2 v) := by
  have htest : decide (50000 < v ∧ 10000 ≤ n) = true := decide_eq_true ⟨hv, hn⟩
  change execOvervolt v n s = _
  simp only [execOvervolt, hpower, htest, honset, Bool.not_false, Bool.true_or, Bool.and_self, if_true]

theorem overvolt_ignored {n : Nat} (h : v ≤ 50000 ∨ n < 10000) : exec (.overvolt v n) s = .next s := by
  refine congrArg Host.Outcome.next (if_neg ?_)
  simp only [Bool.and_eq_true, decide_eq_true_eq]
  omega

theorem powerFail_gasps {n : Nat} (hpower : s.power.standby = true) (hv : v < 33000) (hn : 5000 ≤ n) (hmain : s.power.main = .on)
    (hgasp : s.power.gasp = none) : exec (.powerFail v n) s = .next (s.lastGasp v n) :=
  congrArg Host.Outcome.next (if_pos (by simp [hpower, hv, hn, hmain, hgasp]))

theorem powerFail_ignored {n : Nat} (h : 33000 ≤ v ∨ n < 5000) : exec (.powerFail v n) s = .next s := by
  have htest : decide (v < 33000 ∧ 5000 ≤ n) = false := decide_eq_false (by omega)
  change execPowerFail v n s = _
  simp [execPowerFail, htest]

theorem gaspRailsOff_due {g : GaspRun} (hgasp : s.power.gasp = some g) (hdue : g.since + 900000 ≤ s.time) :
    exec .gaspRailsOff s = .next s.railsOff := by
  change execGaspRailsOff s = _
  simp only [execGaspRailsOff, hgasp, hdue, if_true]

theorem gaspRailsOff_early {g : GaspRun} (hgasp : s.power.gasp = some g) (hearly : s.time < g.since + 900000) :
    exec .gaspRailsOff s = .next s := by
  change execGaspRailsOff s = _
  simp only [execGaspRailsOff, hgasp, Nat.not_le.2 hearly, if_false]

theorem feedWarn_taken {n : Nat} (hpower : s.power.standby = true) (hn : 1000000 ≤ n) (hclear : s.on PWR_STATUS_FEED_WARN = false) :
    exec (.feedWarn true n) s = .next
      (((({ (s.put PWR_STATUS_FEED_WARN 1).raisePower 3 1 with
        risk := { ((s.put PWR_STATUS_FEED_WARN 1).raisePower 3 1).risk with feedWarnAt := some s.time } } : State)).alert 4).count
          0xEC) := by
  have htime : ((s.put PWR_STATUS_FEED_WARN 1).raisePower 3 1).time = s.time := by simp
  change execFeedWarn true n s = _
  rw [execFeedWarn, if_pos (by simp [hpower, hn, hclear])]
  simp only [show b2n true = 1 from rfl, htime, if_true]

theorem feedWarn_ignored {b : Bool} {n : Nat} (hn : n < 1000000) : exec (.feedWarn b n) s = .next s :=
  congrArg Host.Outcome.next (if_neg (by simp [Nat.not_le.2 hn]))

end

/-- Settles O17: the voltage and how long it lasted decide. -/
theorem inputVoltageEvents : Obligations.InputVoltageEvents :=
  ⟨fun _ _ => undervolt_enters, fun _ _ => undervolt_leaves, fun _ _ _ => overvolt_acts, fun _ _ _ => overvolt_ignored,
    fun _ _ _ => powerFail_gasps, fun _ _ _ => powerFail_ignored, fun _ _ => gaspRailsOff_due, fun _ _ => gaspRailsOff_early,
    fun _ _ hpower hlow hhigh => congrArg Host.Outcome.next (if_pos (by simp [hpower, hlow, hhigh])),
    fun _ _ => feedWarn_taken, fun _ _ _ => feedWarn_ignored⟩

/-! ## The voltage loop (R496 to R498) -/

section
variable {s : State} {w : Nat}

theorem gateUpdate_rises (hok : s.power.mainOk = true) (h0 : s.get PWR_VDD_DESK0_MV = 600) (h1 : s.get PWR_VDD_DESK1_MV = 600)
    (hover : s.powerLimit < w) :
    exec (.gateUpdate w) s = .next { s with power := { s.power with gate := min 14 (s.power.gate + 1) } } := by
  change execGateUpdate w s = _
  rw [execGateUpdate, if_neg (by simp [hok])]
  dsimp only
  rw [if_pos (by simp [h0, h1, hover])]
  rfl

theorem gateUpdate_falls (hok : s.power.mainOk = true) (hunder : 100 * w < 98 * s.powerLimit) :
    exec (.gateUpdate w) s = .next { s with power := { s.power with gate := s.power.gate - 1 } } := by
  have hnot : decide (s.powerLimit < w) = false := decide_eq_false (by omega)
  change execGateUpdate w s = _
  rw [execGateUpdate, if_neg (by simp [hok])]
  dsimp only
  rw [if_neg (by simp [hnot]), if_pos hunder]
  rfl

theorem gateUpdate_stays (hok : s.power.mainOk = true) (hle : w ≤ s.powerLimit) (hge : 98 * s.powerLimit ≤ 100 * w) :
    exec (.gateUpdate w) s = .next s := by
  change execGateUpdate w s = _
  simp only [execGateUpdate, hok, decide_eq_false (Nat.not_lt.2 hle), Nat.not_lt.2 hge, Bool.and_false, Bool.not_true, Bool.false_eq_true,
    if_false]

end

/-- Settles O18: without the main rails neither row acts; with them the power drawn decides. -/
theorem voltageLoopEvaluates : Obligations.VoltageLoopEvaluates := by
  refine ⟨?step, ?off, fun _ _ => gateUpdate_rises, fun _ _ => gateUpdate_falls, fun _ _ => gateUpdate_stays⟩
  case step =>
    intro s w hok
    exact congrArg Host.Outcome.next (if_neg (by simp [hok]))
  case off =>
    intro s w hoff
    exact ⟨congrArg Host.Outcome.next (if_pos (by simp [hoff])), congrArg Host.Outcome.next (if_pos (by simp [hoff]))⟩

/-! ## Presence and the seal (R473, R474, R476, R482) -/

section
variable {s : State}

theorem presence_ignored {n : Nat} (h : s.esc.ready = false ∨ n < 2000000000) : exec (.presence n) s = .next s :=
  congrArg Host.Outcome.next (if_pos (by simpa using h))

theorem presence_opens {n : Nat} (hready : s.esc.ready = true) (hlong : 2000000000 ≤ n) (hshort : n ≤ 5000000000)
    (hfree : s.esc.strapped = false) (hclosed : s.presenceOpen = false) :
    exec (.presence n) s = .next ((s.mapEsc fun e => { e with windowEnd := some (s.time + 300000000000) }).raisePresence 1) := by
  change execPresence n s = _
  simp only [execPresence, hready, decide_eq_false (Nat.not_lt.2 hlong), hfree, Nat.not_lt.2 hshort, hclosed, Bool.not_true, Bool.or_self,
    Bool.false_and, Bool.false_eq_true, if_false]

theorem presence_closes {n : Nat} (hready : s.esc.ready = true) (hfree : s.esc.strapped = false) (hlong : 5000000000 < n) :
    exec (.presence n) s = .next s.closeWindow := by
  have hpress : decide (n < 2000000000) = false := decide_eq_false (by omega)
  change execPresence n s = _
  simp only [execPresence, hready, hpress, hfree, hlong, Bool.not_true, Bool.or_self, Bool.false_and, Bool.false_eq_true, if_false, if_true]

theorem presence_strapped_holds {n : Nat} (hready : s.esc.ready = true) (hstrapped : s.esc.strapped = true) (hshort : n < 10000000000) :
    exec (.presence n) s = .next s := by
  change execPresence n s = _
  simp only [execPresence, hready, hstrapped, decide_eq_true hshort, Bool.and_self, if_true, ite_self]

theorem presence_strapped_ends {n : Nat} (hready : s.esc.ready = true) (hstrapped : s.esc.strapped = true) (hlong : 10000000000 ≤ n) :
    exec (.presence n) s = .next s.closeWindow := by
  have hpress : decide (n < 2000000000) = false := decide_eq_false (by omega)
  have hlow : decide (n < 10000000000) = false := decide_eq_false (by omega)
  have hover : 5000000000 < n := by omega
  change execPresence n s = _
  simp only [execPresence, hready, hpress, hstrapped, hlow, hover, Bool.not_true, Bool.or_self, Bool.and_false, Bool.false_eq_true, if_false,
    if_true]

theorem presenceWindowExpiry_due {t : Nat} (hwindow : s.esc.windowEnd = some t) (hdue : t ≤ s.time) (hfree : s.esc.strapped = false) :
    exec .presenceWindowExpiry s = .next s.closeWindow := by
  change execPresenceWindowExpiry s = _
  simp [execPresenceWindowExpiry, hwindow, hdue, hfree]

theorem presenceWindowExpiry_early {t : Nat} (hwindow : s.esc.windowEnd = some t) (hearly : s.time < t) :
    exec .presenceWindowExpiry s = .next s := by
  change execPresenceWindowExpiry s = _
  simp [execPresenceWindowExpiry, hwindow, Nat.not_le.2 hearly]

theorem sealSample_good {o : Option Nat} (hpower : s.power.standby = true) (hready : s.esc.ready = true)
    (hgood : sealKind o s.flash.baseline = 0) :
    exec (.sealSample o) s = .next ((s.noteLoop o).mapEsc fun e => { e with sealBad := 0, sealBadKind := 0 }) := by
  have hnoted : sealKind o (s.noteLoop o).flash.baseline = 0 := hgood
  change execSealSample o s = _
  simp only [execSealSample, hpower, hready, hnoted]
  rfl

theorem sealSample_third {o : Option Nat} {k : Nat} (hpower : s.power.standby = true) (hready : s.esc.ready = true) (hk : k ≠ 0)
    (hkind : sealKind o (s.noteLoop o).flash.baseline = k) (hsame : (s.noteLoop o).esc.sealBadKind = k)
    (hbad : 2 ≤ (s.noteLoop o).esc.sealBad) :
    exec (.sealSample o) s = .next (((s.noteLoop o).mapEsc fun e =>
      { e with sealBad := (s.noteLoop o).esc.sealBad + 1, sealBadKind := k }).sealBreakNow k o) := by
  have hthird : 3 ≤ (s.noteLoop o).esc.sealBad + 1 := Nat.succ_le_succ hbad
  change execSealSample o s = _
  simp only [execSealSample, hpower, hready, hkind, hsame, hk, hthird, Bool.not_true, Bool.false_eq_true, if_false, if_true]

theorem sealSample_latches {o : Option Nat} (hpower : s.power.standby = true) (hready : s.esc.ready = false) :
    exec (.sealSample o) s = .next { s with esc := s.esc.latchLoop o } := by
  change execSealSample o s = _
  simp only [execSealSample, hpower, hready]
  rfl

theorem fwStageTimeout_due {g : Staging} (hstaging : s.esc.staging = some g) (hdue : g.last + 60000000000 ≤ s.time) :
    exec .fwStageTimeout s = .next { s with esc := { s.esc with staging := none } } := by
  change execFwStageTimeout s = _
  simp only [execFwStageTimeout, hstaging, hdue, if_true]
  rfl

theorem fwStageTimeout_early {g : Staging} (hstaging : s.esc.staging = some g) (hearly : s.time < g.last + 60000000000) :
    exec .fwStageTimeout s = .next s := by
  change execFwStageTimeout s = _
  simp only [execFwStageTimeout, hstaging, Nat.not_le.2 hearly, if_false]

end

/-- Settles O19: the press's length, the loop's samples and the time decide. -/
theorem presenceAndSealEvents : Obligations.PresenceAndSealEvents :=
  ⟨fun _ _ => presence_ignored, fun _ _ => presence_opens, fun _ _ => presence_closes, fun _ _ => presence_strapped_holds,
    fun _ _ => presence_strapped_ends,
    fun _ hready hfree => congrArg Host.Outcome.next (if_pos (by simp [hready, hfree])),
    fun _ _ => presenceWindowExpiry_due, fun _ _ => presenceWindowExpiry_early, fun _ _ => sealSample_good, fun _ _ _ => sealSample_third,
    fun _ _ => sealSample_latches, fun _ _ => fwStageTimeout_due, fun _ _ => fwStageTimeout_early⟩

end Sys2Proof.Proofs
end

section
/-! PROOFS. Descriptors of the Desks and the DMA engines (chapters 3 to 5). -/
namespace Sys2Proof.Proofs
open Sys2Proof Sys2Proof.Machine

section
variable {s : State} {c kind : Nat} {d : Desc}

/-- What it takes for a head descriptor to start, taken apart. -/
theorem starts_iff : s.starts c kind d = true ↔
    s.replayReady c = none ∧ s.ready c = some d ∧ d.kind = kind ∧ (s.openHead c d).headElided c = false := by
  simp [State.starts, and_assoc]

/-! ## Strokes (R139, R158, R164) -/

variable {f : Folio} {desk : Nat} {empty : Stroke → Bool} {work : StrokeWork}

theorem stroke_elided (hdesk : desk < 2) (hf : s.folio = some f) (hreplay : s.replayReady desk = none) (hready : s.ready desk = some d)
    (hkind : d.kind = kind) (helided : (s.openHead desk d).headElided desk = true) :
    s.stroke desk kind empty work = ((s.openHead desk d).setPhase desk (.done .zero)).settle := by
  unfold State.openHead at helided ⊢
  simp only [State.stroke, Nat.not_le.2 hdesk, hf, hreplay, hready, hkind, helided, ne_eq, not_true_eq_false, if_false, if_true]

theorem stroke_starts (hdesk : desk < 2) (hf : s.folio = some f) (hstarts : s.starts desk kind d = true) :
    s.stroke desk kind empty work = ((s.strokeHead desk d).strokeBegin desk f d empty work).settle := by
  obtain ⟨hreplay, hready, hkind, helided⟩ := starts_iff.1 hstarts
  unfold State.strokeHead State.openHead
  unfold State.openHead at helided
  simp only [State.stroke, Nat.not_le.2 hdesk, hf, hreplay, hready, hkind, helided, ne_eq, not_true_eq_false, if_false,
    Bool.false_eq_true]

theorem strokeBegin_bound {bank : Option Nat} (hbank : s.bindTable d = some bank) : s.strokeBegin desk f d empty work =
    ((s.bound desk bank).strokeRun desk f d bank empty work).1.setPhase desk
      (.done ((s.bound desk bank).strokeRun desk f d bank empty work).2) := by
  simp only [State.strokeBegin, hbank]

theorem strokeBegin_held (hbank : s.bindTable d = none) : s.strokeBegin desk f d empty work =
    (s.setPhase desk .heldTable).countAt 0x16 { desk := some desk } 1 := by
  simp only [State.strokeBegin, hbank]

theorem stroke_runs {bank : Option Nat} (hdesk : desk < 2) (hf : s.folio = some f) (hstarts : s.starts desk kind d = true)
    (hbank : (s.strokeHead desk d).bindTable d = some bank) : s.stroke desk kind empty work =
    ((((s.strokeHead desk d).bound desk bank).strokeRun desk f d bank empty work).1.setPhase desk
      (.done (((s.strokeHead desk d).bound desk bank).strokeRun desk f d bank empty work).2)).settle := by
  rw [stroke_starts hdesk hf hstarts, strokeBegin_bound hbank]

end

/-- Settles O20: the six strokes are one run with their own work. -/
theorem strokesRunOnTheirDesk : Obligations.StrokesRunOnTheirDesk :=
  ⟨fun _ _ _ _ _ _ hdesk hf hstarts hbank => congrArg Host.Outcome.next (stroke_runs hdesk hf hstarts hbank),
    fun _ _ _ _ _ hdesk hf hstarts hbank => congrArg Host.Outcome.next (stroke_runs hdesk hf hstarts hbank),
    fun _ _ _ _ _ hdesk hf hstarts hbank => congrArg Host.Outcome.next (stroke_runs hdesk hf hstarts hbank),
    fun _ _ _ _ _ hdesk hf hstarts hbank => congrArg Host.Outcome.next (stroke_runs hdesk hf hstarts hbank),
    fun _ _ _ _ _ hdesk hf hstarts hbank => congrArg Host.Outcome.next (stroke_runs hdesk hf hstarts hbank),
    fun _ _ _ _ _ _ hdesk hf hstarts hbank => congrArg Host.Outcome.next (stroke_runs hdesk hf hstarts hbank)⟩

section
variable {s : State} {f : Folio} {d : Desc} {desk : Nat} {fault : Option ArrayFault}

theorem tableWait_runs {bank : Option Nat} {empty : Stroke → Bool} {work : StrokeWork} (hdesk : desk < 2) (hf : s.folio = some f)
    (hphase : (s.eng desk).phase = .heldTable) (hhead : s.head desk = some d) (hrun : s.mayRun = true) (hbank : s.bindTable d = some bank)
    (hkind : tableKind fault d.kind = some (empty, work)) :
    exec (.tableWait ⟨desk, fault⟩) s = .next ((((s.bound desk bank).strokeRun desk f d bank empty work).1.setPhase desk
      (.done ((s.bound desk bank).strokeRun desk f d bank empty work).2)).settle) := by
  change execTableWait ⟨desk, fault⟩ s = _
  simp only [execTableWait, hphase, hhead, hf, hrun, hbank, hkind, decide_eq_false (Nat.not_le.2 hdesk), Bool.not_true, Bool.or_self,
    Bool.false_eq_true, if_false]

theorem tableWait_waits (hbank : s.bindTable d = none) (hhead : s.head desk = some d) : exec (.tableWait ⟨desk, fault⟩) s = .next s := by
  change execTableWait ⟨desk, fault⟩ s = _
  simp only [execTableWait, hhead]
  split
  · next _ hd _ =>
    obtain rfl := Option.some.inj hd
    simp only [hbank, ite_self]
  · rfl

/-! ## STROKE_DONE and NOP (R134, R160) -/

theorem strokeDone_ends {r : Rec} (hdesk : desk < 2) (hadds : s.addsWait (.engine desk) = false) (hreplay : s.replayPending desk = false)
    (hphase : (s.eng desk).phase = .done r) :
    exec (.strokeDone desk) s = .next ((((s.finishEng desk r).unbind desk).countAt 0x10 { desk := some desk } 1).settle) := by
  change execStrokeDone desk s = _
  simp only [execStrokeDone, decide_eq_false (Nat.not_le.2 hdesk), hadds, hreplay, hphase, Bool.or_self, Bool.false_eq_true, if_false]

theorem strokeDone_replays (hdesk : desk < 2) (hadds : s.addsWait (.engine desk) = false) (hreplay : s.replayPending desk = true) :
    exec (.strokeDone desk) s = .next ((s.replayDone desk).unbind desk).settle := by
  change execStrokeDone desk s = _
  simp only [execStrokeDone, decide_eq_false (Nat.not_le.2 hdesk), hadds, hreplay, Bool.or_self, Bool.false_eq_true, if_false, if_true]

theorem strokeDone_idle (hreplay : s.replayPending desk = false) (hphase : ∀ r, (s.eng desk).phase ≠ .done r) :
    exec (.strokeDone desk) s = .next s := by
  change execStrokeDone desk s = _
  simp only [execStrokeDone, hreplay, Bool.false_eq_true, if_false, ite_self]

theorem strokeDone_holds (hadds : s.addsWait (.engine desk) = true) : exec (.strokeDone desk) s = .next s :=
  congrArg Host.Outcome.next (if_pos (by rw [hadds, Bool.or_true]))

theorem nop_eq {c : Nat} (hreplay : s.replayReady c = none) : exec (.nop c) s = .next (s.nop c) := by
  change execNop c s = _
  simp only [execNop, hreplay]

end

/-! ## DMA (R139, R158) -/

section
variable {s : State} {e kind : Nat} {d : Desc}

theorem dma_begins (he : e < 32) (hreplay : s.replayReady (0x10 + e) = none) (hready : s.ready (0x10 + e) = some d)
    (hkind : d.kind = kind) : s.dma e kind = (s.dmaBegin (0x10 + e) d).noteDma.settle := by
  simp only [State.dma, Nat.not_le.2 he, hreplay, hready, hkind, if_true, if_false]

theorem dmaBegin_elided {c : Nat} (helided : (s.openHead c d).headElided c = true) :
    s.dmaBegin c d = (s.openHead c d).setPhase c (.done .zero) := if_pos helided

theorem dmaBegin_waits {c : Nat} (helided : (s.openHead c d).headElided c = false) (hwaits : (s.openHead c d).loadWaits d = true) :
    s.dmaBegin c d = ((s.openHead c d).setPhase c .heldTable).countAt 0x30 ((s.openHead c d).srcTensorInst d) 1 :=
  (if_neg (by rw [show ((s.acquire d).setEng { s.eng c with since := s.time }).headElided c = false from helided]; decide)).trans
    (if_pos hwaits)

theorem dmaBegin_works {c : Nat} (helided : (s.openHead c d).headElided c = false) (hfree : (s.openHead c d).loadWaits d = false) :
    s.dmaBegin c d = ((s.openHead c d).dmaWork c d false).1.dmaEnds c ((s.openHead c d).dmaWork c d false).2 := by
  unfold State.openHead at helided hfree ⊢
  simp only [State.dmaBegin, helided, hfree, Bool.false_eq_true, if_false]

theorem dma_works (he : e < 32) (hstarts : s.starts (0x10 + e) kind d = true) (hfree : (s.openHead (0x10 + e) d).loadWaits d = false) :
    s.dma e kind = ((((s.openHead (0x10 + e) d).dmaWork (0x10 + e) d false).1.dmaEnds (0x10 + e)
      ((s.openHead (0x10 + e) d).dmaWork (0x10 + e) d false).2).noteDma.settle) := by
  obtain ⟨hreplay, hready, hkind, helided⟩ := starts_iff.1 hstarts
  rw [dma_begins he hreplay hready hkind, dmaBegin_works helided hfree]

theorem dma_waits (he : e < 32) (hstarts : s.starts (0x10 + e) kind d = true) (hwaits : (s.openHead (0x10 + e) d).loadWaits d = true) :
    s.dma e kind = (((s.openHead (0x10 + e) d).setPhase (0x10 + e) .heldTable).countAt 0x30
      ((s.openHead (0x10 + e) d).srcTensorInst d) 1).noteDma.settle := by
  obtain ⟨hreplay, hready, hkind, helided⟩ := starts_iff.1 hstarts
  rw [dma_begins he hreplay hready hkind, dmaBegin_waits helided hwaits]

end

/-- Settles O22: the four kinds are one engine run, and a TABLE_LOAD may have to wait for its bank. -/
theorem dmaDescriptorsRun : Obligations.DmaDescriptorsRun :=
  ⟨fun _ _ _ he hstarts hfree => congrArg Host.Outcome.next (dma_works he hstarts hfree),
    fun _ _ _ he hstarts hfree => congrArg Host.Outcome.next (dma_works he hstarts hfree),
    fun _ _ _ he hstarts hfree => congrArg Host.Outcome.next (dma_works he hstarts hfree),
    fun _ _ _ he hstarts hfree => congrArg Host.Outcome.next (dma_works he hstarts hfree),
    fun _ _ _ he hstarts hwaits => congrArg Host.Outcome.next (dma_waits he hstarts hwaits)⟩

/-- Settles O21: what holds, what is elided, and what ends a stroke. -/
theorem descriptorsHoldElideAndComplete : Obligations.DescriptorsHoldElideAndComplete := by
  refine ⟨⟨?held, fun _ _ _ _ _ _ _ _ => tableWait_runs, fun _ _ _ _ _ _ _ _ hhead hbank => tableWait_waits hbank hhead,
      fun _ _ _ _ hdesk hf hreplay hready hkind helided =>
        congrArg Host.Outcome.next (stroke_elided hdesk hf hreplay hready hkind helided),
      ?copy⟩,
    fun _ _ _ => strokeDone_ends, fun _ _ => strokeDone_replays, fun _ _ _ => strokeDone_idle, fun _ _ => strokeDone_holds, ?nop,
    ?notReady⟩
  case held =>
    intro s f desk d hdesk hf hstarts hbank
    change Host.Outcome.next (s.stroke desk 0x11 mnEmpty State.ewWork) = _
    rw [stroke_starts hdesk hf hstarts, strokeBegin_held hbank]
  case copy =>
    intro s f e d he hf hreplay hready hkind helided
    change Host.Outcome.next (s.dma e 0x20) = _
    rw [dma_begins he hreplay hready hkind, dmaBegin_elided helided]
  case nop =>
    intro s c d hreplay hready hkind
    rw [nop_eq hreplay, State.nop, hready]
    simp only [hkind, if_true]
  case notReady =>
    intro s c hreplay hready
    rw [nop_eq hreplay, State.nop, hready]

/-! ## INTAKE_TAKE and the end of DMA work (R134, R158, R159, R434) -/

section
variable {s : State} {e : Nat} {d : Desc} {t : Tensor}

theorem intakeTake_takes (he : e < 32) (hready : s.ready (0x10 + e) = some d) (hkind : d.kind = 0x24) (ht : s.takeTensor d = some t)
    (helided : (s.openHead (0x10 + e) d).headElided (0x10 + e) = false) :
    exec (.intakeTake e) s = .next
      (((s.openHead (0x10 + e) d).takeOn (0x10 + e) t d ⟨0, 0, 0, 0, 0, (s.openHead (0x10 + e) d).intakeNext, false⟩).noteTakeWait.noteDma.settle) := by
  change execIntakeTake e s = _
  unfold State.openHead at helided ⊢
  simp only [execIntakeTake, State.takeBegin, Nat.not_le.2 he, hready, ht, hkind, helided, ne_eq, not_true_eq_false, Bool.false_eq_true,
    if_false]

theorem takeWait_goes_on {k : Take} (he : e < 32) (hphase : (s.eng (0x10 + e)).phase = .heldSample k) (hhead : s.head (0x10 + e) = some d)
    (ht : s.takeTensor d = some t) (hrun : s.mayRun = true) :
    exec (.takeWait e) s = .next ((s.takeOn (0x10 + e) t d k).noteTakeWait.noteDma.settle) := by
  change execTakeWait e s = _
  simp only [execTakeWait, Nat.not_le.2 he, hphase, hhead, ht, hrun, if_false, if_true]

theorem dmaDone_ends {r : Rec} (he : e < 32) (hreplay : s.replayPending (0x10 + e) = false) (hphase : (s.eng (0x10 + e)).phase = .done r) :
    exec (.dmaDone e) s = .next
      ((((s.finishEng (0x10 + e) r).logEnded (0x10 + e)).countAt 0x20 (s.dmaInst (0x10 + e)) 1).noteDma.settle) := by
  change execDmaDone e s = _
  simp only [execDmaDone, Nat.not_le.2 he, hreplay, hphase, Bool.false_eq_true, if_false]

theorem dmaDone_replays (he : e < 32) (hreplay : s.replayPending (0x10 + e) = true) :
    exec (.dmaDone e) s = .next (((s.replayDone (0x10 + e)).countAt 0x20 (s.dmaInst (0x10 + e)) 1).noteDma.settle) := by
  change execDmaDone e s = _
  simp only [execDmaDone, Nat.not_le.2 he, hreplay, if_false, if_true]

theorem actReplay_queues {f : Folio} {tid : Nat} (he : e < 32) (hphase : (s.eng (0x10 + e)).phase = .stopped tid) (hf : s.folio = some f) :
    exec (.actReplay e) s = .next (s.queueFound tid f) := by
  change execActReplay e s = _
  simp only [execActReplay, hphase, hf, he, if_true]

/-- The state in which a stopped descriptor starts again: its replay has left the queue and its engine is idle. -/
def restarted (s : State) (e : Nat) (r : Replay) (rest : List Replay) : State :=
  ((s.mapJob fun j => { j with replays := rest }).unstop r.tid).setEng { s.eng (0x10 + e) with since := s.time, phase := .idle }

theorem replayRestart_restarts {f : Folio} {r : Replay} {rest : List Replay} (he : e < 32) (hf : s.folio = some f)
    (hreplays : s.job.replays = r :: rest) (hdma : r.dma = 0x10 + e) (hdone : segDone f r = true) (hrun : s.mayRun = true)
    (hhead : s.head (0x10 + e) = some d) :
    exec (.replayRestart e) s = .next
      (if (restarted s e r rest).loadWaits d then
        (((restarted s e r rest).setPhase (0x10 + e) .heldTable).countAt 0x30 ((restarted s e r rest).srcTensorInst d) 1).noteDma.settle
       else (((restarted s e r rest).dmaWork (0x10 + e) d false).1.dmaEnds (0x10 + e)
        ((restarted s e r rest).dmaWork (0x10 + e) d false).2).noteDma.settle) := by
  have htest : (r.dma == 0x10 + e && decide (e < 32) && segDone f r && s.mayRun) = true := by simp [hdma, he, hdone, hrun]
  change execReplayRestart e s = _
  simp only [execReplayRestart, hreplays, hf, htest, hhead, if_true]
  rfl

end

/-- Settles O23: the engine's phase, the take and the first replay of the queue decide. -/
theorem takesAndDmaCompletions : Obligations.TakesAndDmaCompletions :=
  ⟨fun _ _ _ _ => intakeTake_takes, fun _ _ _ _ _ => takeWait_goes_on, fun _ _ _ => dmaDone_ends, fun _ _ => dmaDone_replays,
    fun _ _ _ _ => actReplay_queues,
    fun s e _ r rest _ he hf hreplays hdma hdone hrun hhead =>
      ⟨restarted s e r rest, rfl, replayRestart_restarts he hf hreplays hdma hdone hrun hhead⟩⟩

end Sys2Proof.Proofs
end

section
/-! PROOFS. Quill descriptors, Nib descriptors and the boundary of a step (chapters 5, 8 and 10). -/
namespace Sys2Proof.Proofs
open Sys2Proof Sys2Proof.Machine

/-! ## Quill descriptors (R182, R352) -/

section
variable {s : State} {f : Folio} {list kind : Nat} {d : Desc} {t : Tensor}

theorem quillStart_sends (hlist : list < 8) (hready : s.ready (0x30 + list) = some d) (hf : s.folio = some f)
    (ht : f.tensor d.qSrc = some t) (hkind : d.kind = kind) (hclear : s.overlapsSent list d = false) :
    s.quillStart list kind = (s.openHead (0x30 + list) d).quillSent list d t := by
  simp only [State.quillStart, Nat.not_le.2 hlist, hready, hf, ht, hkind, hclear, ne_eq, not_true_eq_false, decide_false, Bool.or_self,
    Bool.false_eq_true, if_false]
  rfl

theorem quillStart_waits (hlist : list < 8) (hready : s.ready (0x30 + list) = some d) (hf : s.folio = some f)
    (ht : f.tensor d.qSrc = some t) (hover : s.overlapsSent list d = true) : s.quillStart list kind = s := by
  simp only [State.quillStart, Nat.not_le.2 hlist, hready, hf, ht, hover, Bool.or_true, if_true, if_false]

end

/-- Settles O24: the three kinds are one descriptor start. -/
theorem quillDescriptorsSend : Obligations.QuillDescriptorsSend :=
  ⟨fun _ _ _ _ _ hlist hready hf ht hkind hclear => congrArg Host.Outcome.next (quillStart_sends hlist hready hf ht hkind hclear),
    fun _ _ _ _ _ hlist hready hf ht hkind hclear => congrArg Host.Outcome.next (quillStart_sends hlist hready hf ht hkind hclear),
    fun _ _ _ _ _ hlist hready hf ht hkind hclear => congrArg Host.Outcome.next (quillStart_sends hlist hready hf ht hkind hclear),
    fun _ _ _ _ _ hlist hready hf ht _ hover => congrArg Host.Outcome.next (quillStart_waits hlist hready hf ht hover)⟩

/-! ## Nib descriptors (R280, R304, R392) -/

section
variable {s : State} {c kind : Nat} {d : Desc}

theorem nibStart_runs {j : NibJob} (hc : c < 16) (hready : s.ready (0x40 + c) = some d) (hkind : d.kind = kind) (hgo : s.nibGate.2 = true)
    (hjob : (s.nibGate.1.openHead (0x40 + c) d).nibJob c = some j) : s.nibStart c kind =
      if j.k.frozen then (s.nibGate.1.openHead (0x40 + c) d).nibFrozen c
      else ((s.nibGate.1.openHead (0x40 + c) d).nibHead c j).runPass j 0 none .zero := by
  unfold State.nibHead
  unfold State.openHead at hjob ⊢
  simp only [State.nibStart, Nat.not_le.2 hc, hready, hkind, hgo, hjob, ne_eq, not_true_eq_false, Bool.not_true, Bool.false_eq_true, if_false]

theorem nibStart_holds (hc : c < 16) (hready : s.ready (0x40 + c) = some d) (hkind : d.kind = kind) (hhold : s.nibGate.2 = false) :
    s.nibStart c kind = s.nibGate.1 := by
  simp only [State.nibStart, Nat.not_le.2 hc, hready, hkind, hhold, ne_eq, not_true_eq_false, Bool.not_false, if_false, if_true]

theorem nibBarrier_runs {p : Nat} (hp : s.barrierPass = some p) : exec .nibBarrier s = .next (s.passBarrier p).settle := by
  change execNibBarrier s = _
  simp only [execNibBarrier, hp]

theorem nibBarrier_waits (hp : s.barrierPass = none) : exec .nibBarrier s = .next s := by
  change execNibBarrier s = _
  simp only [execNibBarrier, hp]

theorem stepSizeStale_due {t : Nat} (hhold : s.run.holdSince = some t) (hon : s.run.stepOn = true)
    (hdue : t + 1000 * s.get NIB0_STEP_CTRL_WAIT_US ≤ s.time) : exec .stepSizeStale s = .next (s.latch s.stepSize true) := by
  change execStepSizeStale s = _
  simp only [execStepSizeStale, hhold, hon, decide_eq_true hdue, Bool.and_self, if_true]

theorem stepSizeStale_early {t : Nat} (hhold : s.run.holdSince = some t) (hearly : s.time < t + 1000 * s.get NIB0_STEP_CTRL_WAIT_US) :
    exec .stepSizeStale s = .next s := by
  change execStepSizeStale s = _
  simp only [execStepSizeStale, hhold, decide_eq_false (Nat.not_le.2 hearly), Bool.and_false, Bool.false_eq_true, if_false]

end

/-- Settles O25: the gate, the barrier and the wait decide. -/
theorem nibDescriptorsRun : Obligations.NibDescriptorsRun :=
  ⟨fun _ _ _ _ hc hready hkind hgo hjob => congrArg (fun t : State => Host.Outcome.next t.settle) (nibStart_runs hc hready hkind hgo hjob),
    fun _ _ _ _ hc hready hkind hgo hjob => congrArg (fun t : State => Host.Outcome.next t.settle) (nibStart_runs hc hready hkind hgo hjob),
    fun _ _ _ hc hready hkind hhold => congrArg (fun t : State => Host.Outcome.next t.settle) (nibStart_holds hc hready hkind hhold),
    fun _ _ => nibBarrier_runs, fun _ => nibBarrier_waits,
    fun _ hwait hconfirmed => congrArg Host.Outcome.next (if_pos (by rw [hwait, hconfirmed]; rfl)),
    fun _ _ => stepSizeStale_due, fun _ _ => stepSizeStale_early⟩

/-! ## The end of a step (R173, R174) -/

section
variable {s : State} {f : Folio}

theorem stepEnd_completes (hf : s.folio = some f) (hover : s.stepOver = true) (hfault : (s.commitEnd f).run.fault = none) :
    exec .stepEnd s = .next ((s.commitEnd f).boundary f).goOn := by
  change execStepEnd s = _
  simp only [execStepEnd, hf, hover, hfault, Bool.not_true, Bool.false_eq_true, if_false]

theorem stepEnd_void {st unit addr : Nat} (hf : s.folio = some f) (hover : s.stepOver = true)
    (hfault : (s.commitEnd f).run.fault = some (st, unit, addr)) :
    exec .stepEnd s = .next ((s.commitEnd f).voidNow false st unit addr) := by
  change execStepEnd s = _
  simp only [execStepEnd, hf, hover, hfault, Bool.not_true, Bool.false_eq_true, if_false]

theorem stepEnd_early (hover : s.stepOver = false) : exec .stepEnd s = .next s := by
  change execStepEnd s = _
  cases hf : s.folio <;> simp [execStepEnd, hf, hover]

theorem stepTimeout_due (hf : s.folio = some f) (hon : s.run.stepOn = true)
    (hdue : s.run.stepStart + f.stepLimitMs * 1000000 ≤ s.time) :
    exec .stepTimeout s = .next ((s.count 0xE2).voidNow false 0x0205 0 0) := by
  change execStepTimeout s = _
  simp only [execStepTimeout, hf, hon, decide_eq_true hdue, Bool.and_self, if_true]

theorem stepTimeout_early (hf : s.folio = some f) (hearly : s.time < s.run.stepStart + f.stepLimitMs * 1000000) :
    exec .stepTimeout s = .next s := by
  change execStepTimeout s = _
  simp only [execStepTimeout, hf, decide_eq_false (Nat.not_le.2 hearly), Bool.and_false, Bool.false_eq_true, if_false]

end

/-- Settles O26: the step's lists, its fault and its time decide. -/
theorem stepBoundary : Obligations.StepBoundary :=
  ⟨fun _ _ => stepEnd_completes, fun _ _ _ _ _ => stepEnd_void, fun _ => stepEnd_early, fun _ _ => stepTimeout_due,
    fun _ _ => stepTimeout_early⟩

end Sys2Proof.Proofs
end

section
/-! PROOFS. The arrays: waves, rows, ties and rates (chapters 1 and 5). -/
namespace Sys2Proof.Proofs
open Sys2Proof Sys2Proof.Machine

/-! ## One wave of a Leaf (R38 to R41) -/

section
variable {l : Leaf} {t : Nat} {slotFree active : Bool} {chain : Option (List (List Nat))}

theorem swap_level (l : Leaf) : l.swap.level = l.level := by
  unfold Leaf.swap
  split <;> rfl

theorem deliver_level (l : Leaf) (out : List Flying) : (l.deliver out).level = l.level := by
  unfold Leaf.deliver
  split
  · rfl
  · split <;> rfl

theorem ite_swap_level : (if active then l.swap else l).level = l.level := by
  split
  · exact swap_level l
  · rfl

theorem nativeWave_level : (l.nativeWave active chain).1.level = l.level := (deliver_level _ _).trans ite_swap_level

theorem elasticWave_level : (l.elasticWave active slotFree chain).1.level = l.level := (deliver_level _ _).trans ite_swap_level

/-- Only `nextWave` moves the activity level. -/
theorem wave_level : (l.wave t slotFree chain).1.level = (l.nextWave t).1.level := by
  unfold Leaf.wave
  dsimp only
  split
  · rfl
  · split
    · exact elasticWave_level
    · exact nativeWave_level

theorem nextWave_level : (l.nextWave t).1.level =
    if l.stepCount = 0 then (if l.level < t then l.level + 1 else if t < l.level then l.level - 1 else l.level) else l.level := rfl

theorem target_zero_or_eight (slotFree here : Bool) : l.target slotFree here = 0 ∨ l.target slotFree here = 8 := by
  unfold Leaf.target
  generalize (if l.elastic then l.canMove slotFree here else slotFree && (l.ready here || l.flying)) = moves
  cases moves
  · by_cases h : 512 ≤ l.idle ∨ l.level = 0
    · exact .inl (if_pos h)
    · exact .inr (if_neg h)
  · exact .inr rfl

theorem wave_level_bounds {here : Bool} (hlevel : l.level ≤ 8) :
    (l.wave (l.target slotFree here) slotFree chain).1.level ≤ 8 ∧
    (l.wave (l.target slotFree here) slotFree chain).1.level ≤ l.level + 1 ∧
    l.level ≤ (l.wave (l.target slotFree here) slotFree chain).1.level + 1 ∧
    (l.stepCount ≠ 0 → (l.wave (l.target slotFree here) slotFree chain).1.level = l.level) := by
  rw [wave_level, nextWave_level]
  have htarget := target_zero_or_eight (l := l) slotFree here
  by_cases hstep : l.stepCount = 0
  · rw [if_pos hstep]
    have hmoved : ∀ t, t = 0 ∨ t = 8 → (if l.level < t then l.level + 1 else if t < l.level then l.level - 1 else l.level) ≤ 8 ∧
        (if l.level < t then l.level + 1 else if t < l.level then l.level - 1 else l.level) ≤ l.level + 1 ∧
        l.level ≤ (if l.level < t then l.level + 1 else if t < l.level then l.level - 1 else l.level) + 1 := by
      intro t ht
      split
      · omega
      · split <;> omega
    obtain ⟨hmax, hup, hdown⟩ := hmoved _ htarget
    exact ⟨hmax, hup, hdown, fun h => absurd hstep h⟩
  · rw [if_neg hstep]
    exact ⟨hlevel, Nat.le_succ _, Nat.le_succ _, fun _ => rfl⟩

theorem nextWave_acc (hacc : l.acc < 8) (hlevel : (l.nextWave t).1.level ≤ 8) :
    (l.nextWave t).1.acc < 8 ∧ ((l.nextWave t).2 = true ↔ 8 ≤ l.acc + (l.nextWave t).1.level) ∧
    (l.nextWave t).1.stepCount = (l.stepCount + 1) % 6 := by
  have hsum : (l.nextWave t).1.acc = if 8 ≤ l.acc + (l.nextWave t).1.level then l.acc + (l.nextWave t).1.level - 8
    else l.acc + (l.nextWave t).1.level := rfl
  refine ⟨?_, decide_eq_true_iff, rfl⟩
  rw [hsum]
  split <;> omega

/-- A native Leaf without a free output slot moves nothing. -/
theorem wave_holds (hnative : l.elastic = false) :
    (l.wave t false chain).1.lanes = l.lanes ∧ (l.wave t false chain).1.front = l.front ∧ (l.wave t false chain).1.back = l.back ∧
    (l.wave t false chain).1.link = l.link ∧ (l.wave t false chain).2.2 = false := by
  have hsame : (l.nextWave t).1.elastic = false := hnative
  unfold Leaf.wave
  simp only [hsame, Bool.not_false, Bool.and_self, if_true]
  exact ⟨rfl, rfl, rfl, rfl, trivial⟩

end

/-! ## WAVE (R38, R45, R54) -/

section
variable {s : State} {desk leaf : Nat} {slotFree active valid : Bool} {l l' : Leaf} {parity : Option (Nat × Nat)}

/-- The state in which a wave has been counted and the Leaf moved. -/
def waved (s : State) (desk leaf : Nat) (l l' : Leaf) (active valid : Bool) : State :=
  (s.countWave { desk := some desk, leaf := some leaf } l l' active valid true).setLeaf desk leaf l'.park

/-- WAVE of an enabled Desk once the sums that the Leaf needs are there. -/
theorem wave_eq (hdesk : desk < 2) (hleaf : leaf < 4) (hon : s.answers 0x80000 = true) (hen : s.on (DSK_CTRL_ENABLE desk) = true)
    (hgasp : s.power.gasp = none) (hl : s.leaf desk leaf = l) {chain : Option (List (List Nat))}
    (hchain : (if l.chainIn then (s.leaf desk ((leaf + 3) % 4)).link.head? else none) = chain) (hhere : (!l.chainIn || chain.isSome) = true)
    (hmoves : 0 < l.level ∨ l.target (l.slot slotFree) true = 8)
    (hwave : l.wave (l.target (l.slot slotFree) true) (l.slot slotFree) chain = (l', active, valid)) :
    exec (.wave desk leaf slotFree parity) s = .next (
      let t := if l.chainIn ∧ l.entered l' then (waved s desk leaf l l' active valid).setLeaf desk ((leaf + 3) % 4)
        { s.leaf desk ((leaf + 3) % 4) with link := (s.leaf desk ((leaf + 3) % 4)).link.drop 1 } else waved s desk leaf l l' active valid
      match parity with
      | some (row, col) => if (l.slot slotFree || l.elastic) && (l.flying || valid) && t.plankMoves desk leaf row col l.plankCols then
          t.noteArrayFault desk leaf row col else t
      | none => t) := by
  have hgo : ¬(2 ≤ desk ∨ 4 ≤ leaf ∨ (!s.answers 0x80000) = true ∨ (l.level = 0 ∧ l.target (l.slot slotFree) true = 0)) := by
    rw [hon]
    rintro (h | h | h | ⟨h, h'⟩)
    · omega
    · omega
    · exact Bool.noConfusion h
    · omega
  change execWave desk leaf slotFree parity s = _
  simp only [execWave, hl, hchain, hhere, hen, hgasp, Option.isNone_none, Bool.and_self, if_true, hwave]
  rw [if_neg hgo]
  rfl

theorem wave_parked (hzero : ∀ b, (s.leaf desk leaf).target ((s.leaf desk leaf).slot slotFree) b = 0)
    (hlevel : (s.leaf desk leaf).level = 0) : exec (.wave desk leaf slotFree parity) s = .next s := by
  change execWave desk leaf slotFree parity s = _
  simp only [execWave, hzero, hlevel, ite_self, and_self, or_true, if_true]

end

/-- Settles O27: one equation of WAVE serves every moving Leaf, and `nextWave` alone moves its level. -/
theorem wavesMoveALeaf : Obligations.WavesMoveALeaf := by
  refine ⟨?plain, ?parity, ?chain, fun _ _ _ _ _ _ _ _ hlevel hzero => wave_parked hzero hlevel, fun _ _ _ _ => wave_level_bounds,
    fun _ _ _ => nextWave_acc, fun _ _ _ => wave_holds⟩
  case plain =>
    intro s desk leaf slotFree active valid l l' hdesk hleaf hon hen hgasp hl hchain hmoves hwave
    rw [wave_eq hdesk hleaf hon hen hgasp hl (by rw [hchain]; rfl) (by rw [hchain]; rfl) hmoves hwave]
    simp only [hchain, Bool.false_eq_true, false_and, if_false]
    rfl
  case parity =>
    intro s desk leaf row col slotFree active valid l l' hdesk hleaf hon hen hgasp hl hchain hmoves hwave hvalues
    rw [wave_eq hdesk hleaf hon hen hgasp hl (by rw [hchain]; rfl) (by rw [hchain]; rfl) hmoves hwave]
    simp only [hchain, Bool.false_eq_true, false_and, if_false]
    exact congrArg Host.Outcome.next (if_pos hvalues)
  case chain =>
    intro s desk leaf slotFree active valid l l' up x rest hdesk hleaf hon hen hgasp hl hchain hup hlink hmoves hwave
    have hsums : (if l.chainIn then (s.leaf desk ((leaf + 3) % 4)).link.head? else none) = some x := by rw [hchain, hup, hlink]; rfl
    rw [wave_eq hdesk hleaf hon hen hgasp hl hsums (by rw [hchain]; rfl) hmoves hwave]
    simp only [hchain, hup, hlink, true_and, List.drop_succ_cons, List.drop_zero]
    rfl

/-! ## The Leaves of a state -/

theorem getD_modifyAt {α : Type} (l : List α) (i k : Nat) (f : α → α) (d : α) :
    (modifyAt l i f).getD k d = if k = i ∧ i < l.length then f (l.getD i d) else l.getD k d := by
  induction l generalizing i k with
  | nil => simp [modifyAt]
  | cons a l ih =>
    cases i with
    | zero => cases k <;> simp [modifyAt]
    | succ i => cases k with
      | zero => simp [modifyAt]
      | succ k => simpa [modifyAt] using ih i k

theorem length_modifyAt {α : Type} (l : List α) (i : Nat) (f : α → α) : (modifyAt l i f).length = l.length := by
  induction l generalizing i with
  | nil => rfl
  | cons a l ih => cases i <;> simp [modifyAt, ih]

theorem foldl_keeps {α β : Type} {p : State → β} {f : State → α → State} (hf : ∀ s a, p (f s a) = p s) (l : List α) (s : State) :
    p (l.foldl f s) = p s := by
  induction l generalizing s with
  | nil => rfl
  | cons a l ih => exact (ih (f s a)).trans (hf s a)

section
variable (s : State)

/-- What a change of a Leaf and the counting of an event leave alone. -/
def besideLeaves (s : State) : Mem × Job × Run × List Out := (s.mem, s.job, s.run, s.out)

theorem besideLeaves_setLeaf (d k : Nat) (x : Leaf) : besideLeaves (s.setLeaf d k x) = besideLeaves s := rfl

theorem besideLeaves_countIf (c : Bool) (code : Nat) (i : Inst) : besideLeaves (s.countIf c code i) = besideLeaves s := by
  unfold State.countIf besideLeaves
  split <;> simp

theorem setLeaf_leaves (d k : Nat) (x : Leaf) : (s.setLeaf d k x).leaves = modifyAt s.leaves (d * 4 + k) fun _ => x := rfl

theorem countIf_leaves (c : Bool) (code : Nat) (i : Inst) : (s.countIf c code i).leaves = s.leaves := by
  unfold State.countIf
  split <;> simp

end

/-! ## WEIGHT_ROW_LOAD and BROADCAST_ROW (R26, R27, R45, R49) -/

section
variable {s : State} {desk : Nat}

theorem weightRowLoad_loads {leaf : Nat} {codes : List Nat} (hdesk : desk < 2) (hleaf : leaf < 4) (hen : s.on (DSK_CTRL_ENABLE desk) = true)
    (hroom : (s.leaf desk leaf).backFull = false) :
    ∃ t, exec (.weightRowLoad desk leaf codes) s = .next t ∧ t.mem = s.mem ∧ t.job = s.job ∧
      (desk * 4 + leaf < s.leaves.length → t.leaf desk leaf =
        { s.leaf desk leaf with back := (s.leaf desk leaf).back ++ [codes],
                                backFull := decide (512 ≤ (s.leaf desk leaf).back.length + 1) }) := by
  have hgo : ¬(2 ≤ desk ∨ 4 ≤ leaf ∨ (!s.on (DSK_CTRL_ENABLE desk)) = true ∨ (s.leaf desk leaf).backFull = true) := by
    rw [hen, hroom]
    rintro (h | h | h | h)
    · omega
    · omega
    · exact Bool.noConfusion h
    · exact Bool.noConfusion h
  refine ⟨_, congrArg Host.Outcome.next (if_neg hgo), ?_, ?_, ?_⟩
  · exact congrArg Prod.fst (besideLeaves_countIf _ _ _ _)
  · exact congrArg (fun p => p.2.1) (besideLeaves_countIf _ _ _ _)
  · intro hlen
    unfold State.leaf at *
    rw [countIf_leaves, setLeaf_leaves, getD_modifyAt, if_pos ⟨rfl, hlen⟩, List.length_append, List.length_singleton]

theorem weightRowLoad_full {leaf : Nat} {codes : List Nat} (hfull : (s.leaf desk leaf).backFull = true) :
    exec (.weightRowLoad desk leaf codes) s = .next s := by
  change execWeightRowLoad desk leaf codes s = _
  simp [execWeightRowLoad, hfull]

/-- A Leaf and the row that the rotation gives it. -/
def rowsAt (s : State) (desk : Nat) (lanes : List FeedRow) : List (Nat × FeedRow) :=
  ((lanes.take 4).zipIdx).map fun r => ((r.2 + s.get (DSK_ROT_STATUS_OFFSET desk)) % 4, r.1)

/-- One Leaf of a broadcast that waits. -/
def waitOne (desk : Nat) (s : State) (r : Nat × FeedRow) : State :=
  (s.countIf (!(s.leaf desk r.1).waits && (s.leaf desk r.1).feedFull) 0x0F { desk := some desk, leaf := some r.1 }).setLeaf desk r.1
    { s.leaf desk r.1 with waits := (s.leaf desk r.1).feedFull }

/-- One Leaf that takes its row. -/
def takeOne (desk : Nat) (s : State) (r : Nat × FeedRow) : State := s.setLeaf desk r.1 ((s.leaf desk r.1).accept r.2)

theorem broadcastRow_waits {lanes : List FeedRow} (hdesk : desk < 2) (hen : s.on (DSK_CTRL_ENABLE desk) = true)
    (hfull : ((rowsAt s desk lanes).any fun r => (s.leaf desk r.1).feedFull) = true) :
    exec (.broadcastRow desk lanes) s = .next ((rowsAt s desk lanes).foldl (waitOne desk) s) := by
  have hgo : ¬(2 ≤ desk ∨ (!s.on (DSK_CTRL_ENABLE desk)) = true) := by simp [hen, hdesk]
  exact congrArg Host.Outcome.next ((if_neg hgo).trans (if_pos hfull))

theorem broadcastRow_takes {lanes : List FeedRow} (hdesk : desk < 2) (hen : s.on (DSK_CTRL_ENABLE desk) = true)
    (hroom : ((rowsAt s desk lanes).any fun r => (s.leaf desk r.1).feedFull) = false) :
    exec (.broadcastRow desk lanes) s = .next ((rowsAt s desk lanes).foldl (takeOne desk) s) := by
  have hgo : ¬(2 ≤ desk ∨ (!s.on (DSK_CTRL_ENABLE desk)) = true) := by simp [hen, hdesk]
  exact congrArg Host.Outcome.next ((if_neg hgo).trans (if_neg (Bool.eq_false_iff.1 hroom)))

theorem besideLeaves_waitOne (s : State) (r : Nat × FeedRow) : besideLeaves (waitOne desk s r) = besideLeaves s :=
  (besideLeaves_setLeaf _ _ _ _).trans (besideLeaves_countIf _ _ _ _)

/-- A Leaf that waits keeps its lanes. -/
theorem waitOne_lanes (s : State) (r : Nat × FeedRow) (k : Nat) :
    ((waitOne desk s r).leaf desk k).lanes = (s.leaf desk k).lanes := by
  unfold waitOne
  generalize hfull : (s.leaf desk r.1).feedFull = full
  unfold State.leaf at *
  rw [setLeaf_leaves, getD_modifyAt, countIf_leaves]
  split
  · next h => rw [h.1]
  · rfl

/-- Whether it waits or is taken, a broadcast touches Leaves alone. -/
theorem broadcastRow_frame {lanes : List FeedRow} (hdesk : desk < 2) (hen : s.on (DSK_CTRL_ENABLE desk) = true) :
    ∃ t, exec (.broadcastRow desk lanes) s = .next t ∧ t.mem = s.mem ∧ t.job = s.job ∧ t.run = s.run ∧ t.out = s.out := by
  have hframe {t : State} (h : besideLeaves t = besideLeaves s) : t.mem = s.mem ∧ t.job = s.job ∧ t.run = s.run ∧ t.out = s.out := by
    simpa [besideLeaves] using h
  cases hfull : (rowsAt s desk lanes).any fun r => (s.leaf desk r.1).feedFull with
  | true => exact ⟨_, broadcastRow_waits hdesk hen hfull, hframe (foldl_keeps besideLeaves_waitOne _ _)⟩
  | false => exact ⟨_, broadcastRow_takes hdesk hen hfull, hframe (foldl_keeps (fun t r => besideLeaves_setLeaf t _ _ _) _ _)⟩

theorem rowsAt_full {lanes : List FeedRow} {q : Nat} (hq : q < min 4 lanes.length)
    (hfull : (s.leaf desk ((q + s.get (DSK_ROT_STATUS_OFFSET desk)) % 4)).feedFull = true) :
    ((rowsAt s desk lanes).any fun r => (s.leaf desk r.1).feedFull) = true := by
  have hlen : q < (lanes.take 4).length := by rwa [List.length_take]
  refine List.any_eq_true.2 ⟨_, List.mem_map_of_mem (List.mk_mem_zipIdx_iff_getElem?.2
    (List.getElem?_eq_getElem hlen)), hfull⟩

theorem broadcastRow_one {r : FeedRow} (hdesk : desk < 2) (hen : s.on (DSK_CTRL_ENABLE desk) = true) (hleaves : s.leaves.length = 8)
    (hroom : (s.leaf desk (s.get (DSK_ROT_STATUS_OFFSET desk) % 4)).feedFull = false) :
    ∃ t, exec (.broadcastRow desk [r]) s = .next t ∧ t.mem = s.mem ∧
      t.leaf desk (s.get (DSK_ROT_STATUS_OFFSET desk) % 4) = (s.leaf desk (s.get (DSK_ROT_STATUS_OFFSET desk) % 4)).accept r ∧
      ∀ k < 8, k ≠ desk * 4 + s.get (DSK_ROT_STATUS_OFFSET desk) % 4 → t.leaves.getD k .parked = s.leaves.getD k .parked := by
  have hrows : rowsAt s desk [r] = [(s.get (DSK_ROT_STATUS_OFFSET desk) % 4, r)] := by simp [rowsAt]
  have hin : desk * 4 + s.get (DSK_ROT_STATUS_OFFSET desk) % 4 < s.leaves.length := by omega
  refine ⟨_, broadcastRow_takes hdesk hen (by rw [hrows]; simpa using hroom), ?_⟩
  rw [hrows, List.foldl_cons, List.foldl_nil]
  refine ⟨rfl, ?_, fun k _ hk => ?_⟩
  · unfold takeOne State.leaf
    rw [setLeaf_leaves, getD_modifyAt, if_pos ⟨rfl, hin⟩]
  · unfold takeOne
    rw [setLeaf_leaves, getD_modifyAt, if_neg fun h => hk h.1]

theorem accept_lane {l : Leaf} {r : FeedRow} {p : Nat} {n : Lane} (hn : l.lanes[p]? = some n) :
    (l.accept r).lanes[p]? = some (if p < l.problems ∧ (r.marker ∨ ((r.lanes[p]?).getD none).isSome) then
      { n with feed := n.feed ++ [⟨r.marker, (r.lanes[p]?).getD none⟩] } else n) := by
  simp [Leaf.accept, hn]

end

/-- Settles O28: the rotation names the Leaf of each row, and every row waits for the last Feed. -/
theorem rowsReachTheLeaves : Obligations.RowsReachTheLeaves := by
  refine ⟨fun _ _ _ _ => weightRowLoad_loads, fun _ _ _ _ => weightRowLoad_full, ?waits, fun _ _ _ => broadcastRow_one,
    fun _ _ _ _ => accept_lane, fun _ _ _ => broadcastRow_frame⟩
  case waits =>
    rintro s desk lanes hdesk hen ⟨q, hq, hfull⟩
    refine ⟨_, broadcastRow_waits hdesk hen (rowsAt_full hq hfull), congrArg Prod.fst (foldl_keeps besideLeaves_waitOne _ s), fun k _ => ?_⟩
    exact foldl_keeps (p := fun t => (t.leaf desk k).lanes) (fun t r => waitOne_lanes t r k) _ s

end Sys2Proof.Proofs
end

section
/-! PROOFS. Mutual-exclusion elements and the rate windows (chapters 1, 5 and 15). -/
namespace Sys2Proof.Proofs
open Sys2Proof Sys2Proof.Machine

/-! ## TURN (R198, R199) -/

section
variable {s : State} {e : Nat}

theorem turn_setTurn (hs : spWf (fun _ => 0) s.turns = true) (v k : Nat) : (s.setTurn e v).turn k = if k = e then v else s.turn k :=
  spGet_spSet (spWf_iff.1 hs).1

theorem turn_countAt (s : State) (code : Nat) (i : Inst) (n k : Nat) : (s.countAt code i n).turn k = s.turn k := by
  unfold State.turn
  rw [countAt_turns]

theorem tie_settles (hclear : s.turn e = 0) : exec (.tie e) s = .next
    ((({ s with free := s.free + 1 } : State).setTurn e (1 + Config.freeNat s.free % 2)).countAt 0xED (meInst e) 1) := by
  change Host.Outcome.next (s.tie e).1 = _
  rw [State.tie, hclear]
  rfl

theorem tie_clears (hset : s.turn e ≠ 0) : exec (.tie e) s = .next (s.setTurn e 0) := by
  change Host.Outcome.next (s.tie e).1 = _
  unfold State.tie
  split
  · next h => exact absurd h hset
  · rfl

theorem tieForced_forces (hclear : s.turn e = 0) : exec (.tieForced e) s = .next
    (((s.setTurn e 2).countAt 0xED (meInst e) 1).countAt 0xEE (meInst e) 1) :=
  congrArg Host.Outcome.next (if_neg (not_not_intro hclear))

theorem tie_then_clears (hclear : s.turn e = 0) (hs : spWf (fun _ => 0) s.turns = true) :
    ∃ t, exec (.tie e) s = .next t ∧ (t.turn e = 1 ∨ t.turn e = 2) ∧ (∀ k, k ≠ e → t.turn k = s.turn k) ∧ t.free = s.free + 1 ∧
      t.mem = s.mem ∧ t.job = s.job ∧ t.out = s.out ∧
      ∃ u, exec (.tie e) t = .next u ∧ u.turn e = 0 ∧ (∀ k, k ≠ e → u.turn k = s.turn k) ∧ u.free = t.free ∧ u.regs = t.regs ∧
        u.mem = s.mem := by
  let m : State := { s with free := s.free + 1 }
  let loser := 1 + Config.freeNat s.free % 2
  have hturns : ((m.setTurn e loser).countAt 0xED (meInst e) 1).turns = spSet (fun _ => 0) s.turns e loser := by
    rw [countAt_turns]
    rfl
  have hturn (k : Nat) : ((m.setTurn e loser).countAt 0xED (meInst e) 1).turn k = if k = e then loser else s.turn k :=
    (turn_countAt _ _ _ _ _).trans (turn_setTurn (s := m) hs _ _)
  have hloser : loser = 1 ∨ loser = 2 := by omega
  have hset : ((m.setTurn e loser).countAt 0xED (meInst e) 1).turn e ≠ 0 := by rw [hturn, if_pos rfl]; omega
  refine ⟨_, tie_settles hclear, by rwa [hturn, if_pos rfl], fun k hk => by rw [hturn, if_neg hk], by rw [countAt_free]; rfl,
    by rw [countAt_mem]; rfl, by rw [countAt_job]; rfl, by rw [countAt_out]; rfl, _, tie_clears hset, ?_, fun k hk => ?_, rfl, rfl,
    countAt_mem (m.setTurn e loser) _ _ _⟩
  · rw [turn_setTurn (by rw [hturns]; exact spWf_spSet hs), if_pos rfl]
  · rw [turn_setTurn (by rw [hturns]; exact spWf_spSet hs), if_neg hk, hturn, if_neg hk]

theorem tieForced_frame (hclear : s.turn e = 0) (hs : spWf (fun _ => 0) s.turns = true) :
    ∃ t, exec (.tieForced e) s = .next t ∧ t.turn e = 2 ∧ (∀ k, k ≠ e → t.turn k = s.turn k) ∧ t.free = s.free ∧
      t.mem = s.mem ∧ t.job = s.job ∧ t.out = s.out := by
  have hturn (k : Nat) : (((s.setTurn e 2).countAt 0xED (meInst e) 1).countAt 0xEE (meInst e) 1).turn k = if k = e then 2 else s.turn k := by
    rw [turn_countAt, turn_countAt, turn_setTurn hs]
  refine ⟨_, tieForced_forces hclear, by rw [hturn, if_pos rfl], fun k hk => by rw [hturn, if_neg hk], ?_, ?_, ?_, ?_⟩
  · rw [countAt_free, countAt_free]; rfl
  · rw [countAt_mem, countAt_mem]; rfl
  · rw [countAt_job, countAt_job]; rfl
  · rw [countAt_out, countAt_out]; rfl

end

/-! ## LEAF_RATE_WINDOW (R37, R495) -/

section

theorem le_foldl_max {x a : Int} {l : List Int} (h : x ≤ a ∨ x ∈ l) : x ≤ l.foldl max a := by
  induction l generalizing a with
  | nil => simpa using h
  | cons b l ih =>
    refine ih ?_
    rcases h with h | h
    · exact .inl (h.trans (le_max_left a b))
    · rcases List.mem_cons.1 h with rfl | h
      · exact .inl (le_max_right a x)
      · exact .inr h

theorem foldl_max_mem {P : Int → Prop} {a : Int} {l : List Int} (ha : P a) (hl : ∀ x ∈ l, P x) : P (l.foldl max a) := by
  induction l generalizing a with
  | nil => exact ha
  | cons b l ih =>
    refine ih ?_ fun x hx => hl x (List.mem_cons_of_mem b hx)
    rcases max_choice a b with h | h <;> rw [h]
    · exact ha
    · exact hl b (List.mem_cons_self)

theorem toSigned16_bounds (v : Nat) : -(2 ^ 15 : Int) ≤ toSigned 16 v ∧ toSigned 16 v < 2 ^ 15 := by
  unfold toSigned
  split <;> omega

theorem toSigned16_ofSigned {i : Int} (hlow : -(2 ^ 15 : Int) ≤ i) (hhigh : i < 2 ^ 15) : toSigned 16 (ofSigned 16 i) = i := by
  unfold toSigned ofSigned
  split <;> omega

theorem ofSigned16_lt (i : Int) : ofSigned 16 i < 2 ^ 16 := by
  unfold ofSigned
  omega

variable {s : State} {desk leaf rate tj : Nat}

/-- A Leaf's rate and temperature shown. -/
def rateShown (s : State) (desk leaf rate tj : Nat) : State :=
  (s.put (DSK_LEAF_RATE_RATE desk leaf) (rate % 65536)).put (DSK_LEAF_RATE_TJ desk leaf) (tj % 65536)

/-- The temperatures of the eight Leaves. -/
def leafTemps (s : State) : List Int := (List.range 8).map fun i => toSigned 16 (s.get (DSK_LEAF_RATE_TJ (i / 4) (i % 4)))

/-- The hottest of them. -/
def hottest (s : State) : Int := (leafTemps s).foldl max ((leafTemps s).getD 0 0)

theorem leafRateWindow_eq (hdesk : desk < 2) (hleaf : leaf < 4) (hon : s.answers 0x80000 = true) :
    exec (.leafRateWindow desk leaf rate tj) s = .next
      ((rateShown s desk leaf rate tj).put PWR_TEMP_TJ_MAX (ofSigned 16 (hottest (rateShown s desk leaf rate tj)))) := by
  refine congrArg Host.Outcome.next (if_neg ?_)
  rw [hon]
  rintro (h | h | h)
  · omega
  · omega
  · exact Bool.noConfusion h

theorem rateShown_ok (hs : s.RegsCanonical) : (rateShown s desk leaf rate tj).RegsCanonical := put_ok (put_ok hs)

theorem rateShown_tj (hs : s.RegsCanonical) : (rateShown s desk leaf rate tj).get (DSK_LEAF_RATE_TJ desk leaf) = tj % 65536 := by
  unfold rateShown
  rw [get_put_same (put_ok hs) (by simp [DSK_LEAF_RATE_TJ]) (by simp [DSK_LEAF_RATE_TJ])]
  simp [DSK_LEAF_RATE_TJ]

theorem rateShown_rate (hs : s.RegsCanonical) : (rateShown s desk leaf rate tj).get (DSK_LEAF_RATE_RATE desk leaf) = rate % 65536 := by
  unfold rateShown
  rw [get_put_other (put_ok hs) (by simp [DSK_LEAF_RATE_TJ]) (by simp [DSK_LEAF_RATE_RATE]) (by simp [DSK_LEAF_RATE_TJ, DSK_LEAF_RATE_RATE]),
    get_put_same hs (by simp [DSK_LEAF_RATE_RATE]) (by simp [DSK_LEAF_RATE_RATE])]
  simp [DSK_LEAF_RATE_RATE]

/-- The register of TJ_MAX shows the hottest Leaf and lies apart from those of the Leaves. -/
theorem get_hottest (hs : s.RegsCanonical) :
    toSigned 16 ((s.put PWR_TEMP_TJ_MAX (ofSigned 16 (hottest s))).get PWR_TEMP_TJ_MAX) = hottest s := by
  have hbounds : -(2 ^ 15 : Int) ≤ hottest s ∧ hottest s < 2 ^ 15 := by
    refine foldl_max_mem (P := fun x => -(2 ^ 15 : Int) ≤ x ∧ x < 2 ^ 15) (toSigned16_bounds _) fun x hx => ?_
    obtain ⟨i, _, rfl⟩ := List.mem_map.1 hx
    exact toSigned16_bounds _
  have hfits : ofSigned 16 (hottest s) % 2 ^ (PWR_TEMP_TJ_MAX.hi + 1 - PWR_TEMP_TJ_MAX.lo) = ofSigned 16 (hottest s) :=
    Nat.mod_eq_of_lt (ofSigned16_lt _)
  rw [get_put_same hs (by decide) (by decide), hfits, toSigned16_ofSigned hbounds.1 hbounds.2]

theorem le_hottest (hdesk : desk < 2) (hleaf : leaf < 4) : toSigned 16 (s.get (DSK_LEAF_RATE_TJ desk leaf)) ≤ hottest s := by
  refine le_foldl_max (.inr (List.mem_map.2 ⟨desk * 4 + leaf, List.mem_range.2 (by omega), ?_⟩))
  rw [show (desk * 4 + leaf) / 4 = desk by omega, show (desk * 4 + leaf) % 4 = leaf by omega]

theorem leafRateWindow_shows (hs : s.RegsCanonical) (hdesk : desk < 2) (hleaf : leaf < 4) (hon : s.answers 0x80000 = true) :
    ∃ t, exec (.leafRateWindow desk leaf rate tj) s = .next t ∧ t.get (DSK_LEAF_RATE_RATE desk leaf) = rate % 65536 ∧
      t.get (DSK_LEAF_RATE_TJ desk leaf) = tj % 65536 ∧
      toSigned 16 (tj % 65536) ≤ toSigned 16 (t.get PWR_TEMP_TJ_MAX) ∧ t.mem = s.mem ∧ t.leaves = s.leaves := by
  have hok := rateShown_ok (desk := desk) (leaf := leaf) (rate := rate) (tj := tj) hs
  refine ⟨_, leafRateWindow_eq hdesk hleaf hon, ?_, ?_, ?_, rfl, rfl⟩
  · rw [get_put_other hok (by decide) (by simp [DSK_LEAF_RATE_RATE]) (.inl (by simp only [PWR_TEMP_TJ_MAX, DSK_LEAF_RATE_RATE]; omega)),
      rateShown_rate hs]
  · rw [get_put_other hok (by decide) (by simp [DSK_LEAF_RATE_TJ]) (.inl (by simp only [PWR_TEMP_TJ_MAX, DSK_LEAF_RATE_TJ]; omega)),
      rateShown_tj hs]
  · rw [get_hottest hok]
    exact (rateShown_tj (rate := rate) hs ▸ le_hottest hdesk hleaf :)

end

/-- Settles O29: TURN's bit of one element, and the registers of one Leaf. -/
theorem tiesAndRates : Obligations.TiesAndRates :=
  ⟨fun _ _ => tie_then_clears, fun _ _ => tieForced_frame,
    fun _ _ hset => ⟨tie_clears hset, congrArg Host.Outcome.next (if_pos hset)⟩, fun _ _ _ _ _ => leafRateWindow_shows⟩

end Sys2Proof.Proofs
end

section
/-! PROOFS. The Sideboard's operations of Table 7.1 on a line (chapter 7). -/
namespace Sys2Proof.Proofs
open Sys2Proof Sys2Proof.Machine

/-! ## A line in its slice -/

section
variable {s : State} {a : Nat} {l : SLine}

theorem held_of_sbd {t : State} (h : t.sbd = s.sbd) (a : Nat) : t.held a = s.held a := by
  unfold State.held
  rw [h]

@[simp] theorem countAt_held (s : State) (code : Nat) (i : Inst) (n a : Nat) : (s.countAt code i n).held a = s.held a :=
  held_of_sbd (countAt_sbd _ _ _ _) a

theorem putHeld_held (s : State) (l : SLine) : (s.putHeld l).held l.addr = some l := by
  unfold State.held State.putHeld
  rw [List.find?_append, List.find?_eq_none.2 fun x hx => by simpa using (List.mem_filter.1 hx).2]
  simp

@[simp] theorem noteWrite_sbd (s : State) (a : Nat) (dt : List Byte) (marked nib : Bool) : (s.noteWrite a dt marked nib).sbd = s.sbd := by
  unfold State.noteWrite
  split
  · rfl
  · dsimp only
    split <;> rfl

@[simp] theorem noteWrite_mem (s : State) (a : Nat) (dt : List Byte) (marked nib : Bool) : (s.noteWrite a dt marked nib).mem = s.mem := by
  unfold State.noteWrite
  split
  · rfl
  · dsimp only
    split <;> rfl

theorem hold_held (s : State) (l : SLine) : (s.hold l).held l.addr = some l := putHeld_held _ l

theorem hold_mem (hheld : (s.held l.addr).isSome = true) : (s.hold l).mem = s.mem := by
  unfold State.hold
  rw [if_pos hheld]
  rfl

theorem holdWrite_held (s : State) (l : SLine) (nib : Bool) : (s.holdWrite l nib).held l.addr = some l :=
  (held_of_sbd (noteWrite_sbd _ _ _ _ _) _).trans (hold_held s l)

theorem holdWrite_mem {nib : Bool} (hheld : (s.held l.addr).isSome = true) : (s.holdWrite l nib).mem = s.mem :=
  (noteWrite_mem _ _ _ _ _).trans (hold_mem hheld)

theorem sealLine_closed (hopen : s.openAt a = none) : s.sealLine a = s := by
  simp only [State.sealLine, hopen]

theorem checkSlice_right {faults : Bool} (herr : s.lineErr a = 0) : s.checkSlice a faults = s := by
  unfold State.checkSlice
  generalize s.lineErr a = n at herr
  subst herr
  rfl

/-- A line that its slice holds is read from it. -/
theorem fetch_held {faults spill : Bool} (herr : s.lineErr a = 0) (hheld : s.held a = some l) (hvoid : l.outcome ≠ .lost ∨ faults = false) :
    s.fetch a faults spill = (s.countAt 0x60 (cabInst (cabOf a)) 1, l.outcome, l.data) := by
  have hkeep : ¬(l.outcome = .lost ∧ faults = true) := by
    rintro ⟨ho, hf⟩
    rcases hvoid with h | h
    · exact h ho
    · exact absurd (h.symm.trans hf) Bool.false_ne_true
  unfold State.fetch
  rw [checkSlice_right herr]
  dsimp only
  rw [hheld]
  dsimp only
  rw [if_neg hkeep]

end

/-! ## Word operations (R521, Table 7.1) -/

section
variable {s : State} {w : Nat} {l : SLine} {f : Nat → Nat}

/-- The state in which a held line has been read for a word operation. -/
def wordRead (s : State) (w : Nat) : State :=
  (s.countAt 0x60 (cabInst (cabOf (lineOf w))) 1).countAt 0x6F (cabInst (cabOf (lineOf w))) 1

theorem wordRead_held (s : State) (w a : Nat) : (wordRead s w).held a = s.held a := by simp [wordRead]

theorem wordRead_sbd (s : State) (w : Nat) : (wordRead s w).sbd = s.sbd := by simp [wordRead]

theorem wordRead_mem (s : State) (w : Nat) : (wordRead s w).mem = s.mem := by simp [wordRead]

section
variable (hopen : s.openAt (lineOf w) = none) (herr : s.lineErr (lineOf w) = 0) (hheld : s.held (lineOf w) = some l)
include hopen herr hheld

theorem wordOp_good (hgood : l.outcome = .good) : s.wordOp w f false =
    ((wordRead s w).holdWrite ⟨lineOf w, patch l.data (w - lineOf w) (le 8 (f (fld l.data (w - lineOf w) 8))), .good, true⟩ false,
      fld l.data (w - lineOf w) 8, true) := by
  unfold State.wordOp
  dsimp only
  rw [sealLine_closed hopen, checkSlice_right herr, fetch_held herr hheld (.inr rfl)]
  dsimp only
  rw [if_neg (by rw [hgood]; exact Bool.false_ne_true)]
  rfl

theorem wordOp_marked (hmarked : l.outcome.marked = true) : s.wordOp w f false = (wordRead s w, 0, false) := by
  unfold State.wordOp
  dsimp only
  rw [sealLine_closed hopen, checkSlice_right herr, fetch_held herr hheld (.inr rfl)]
  dsimp only
  rw [if_pos hmarked]
  rfl

end

variable {op addr operand comparand : Nat} {i : Instr}

theorem sliceWord_on (ha : addr < decodedEnd) (hok : s.power.mainOk = true) (hen : s.on SBD_CTRL_ENABLE = true) {t : State} {old : Nat}
    {b : Bool} {o : LineOutcome} (hop : s.wordOp (addr / 8 * 8) (wordNew op (operand % 2 ^ 64) comparand) false = (t, old, b))
    (ht : t.held (lineOf (addr / 8 * 8)) = some l) (ho : l.outcome = o) :
    s.sliceWord op addr operand comparand = .next (t.sliceAnswer (addr / 8 * 8) o (le 8 old)) := by
  simp only [State.sliceWord, slice_on ha hok hen, hop, ht, ho]

/-- A word operation on a line held GOOD returns the old word and stores the new one. -/
theorem wordInstr_good (hi : exec i s = s.sliceWord op addr operand comparand) (ha : addr < decodedEnd) (hok : s.power.mainOk = true) (hen : s.on SBD_CTRL_ENABLE = true)
    (hopen : s.openAt (lineOf (addr / 8 * 8)) = none) (herr : s.lineErr (lineOf (addr / 8 * 8)) = 0)
    (hheld : s.held (lineOf (addr / 8 * 8)) = some l) (hgood : l.outcome = .good) :
    exec i s = .next
      (((wordRead s (addr / 8 * 8)).holdWrite ⟨lineOf (addr / 8 * 8), patch l.data (addr / 8 * 8 - lineOf (addr / 8 * 8))
        (le 8 (wordNew op (operand % 2 ^ 64) comparand (fld l.data (addr / 8 * 8 - lineOf (addr / 8 * 8)) 8))), .good, true⟩
          false).sliceAnswer (addr / 8 * 8) .good (le 8 (fld l.data (addr / 8 * 8 - lineOf (addr / 8 * 8)) 8))) :=
  hi.trans (sliceWord_on ha hok hen (wordOp_good hopen herr hheld hgood) (holdWrite_held _ _ _) rfl)

/-- On a line held POISON it returns 0 and stores nothing. -/
theorem wordInstr_poison (hi : exec i s = s.sliceWord op addr operand comparand) (ha : addr < decodedEnd) (hok : s.power.mainOk = true) (hen : s.on SBD_CTRL_ENABLE = true)
    (hopen : s.openAt (lineOf (addr / 8 * 8)) = none) (herr : s.lineErr (lineOf (addr / 8 * 8)) = 0)
    (hheld : s.held (lineOf (addr / 8 * 8)) = some l) (hpoison : l.outcome = .poison) :
    ∃ t, exec i s = .next t ∧ t.held (lineOf (addr / 8 * 8)) = some l ∧
      t.sbd.answer = some (addr / 8 * 8, .poison, le 8 0) ∧ t.sbd.lines = s.sbd.lines ∧ t.mem = s.mem := by
  have hread := (wordRead_held s (addr / 8 * 8) (lineOf (addr / 8 * 8))).trans hheld
  refine ⟨_, hi.trans (sliceWord_on ha hok hen (wordOp_marked hopen herr hheld (by rw [hpoison]; rfl)) hread hpoison), hread, rfl, ?_,
    wordRead_mem _ _⟩
  change (wordRead s (addr / 8 * 8)).sbd.lines = s.sbd.lines
  exact congrArg Sbd.lines (wordRead_sbd s (addr / 8 * 8))

end

/-! ## MERGE_WRITE (R521) -/

section
variable {s : State} {a mask : Nat} {data : List Byte} {l : SLine}
variable (hopen : s.openAt a = none) (herr : s.lineErr a = 0) (hheld : s.held a = some l)
include hopen herr hheld

/-- A line that a MERGE_WRITE reads: the state after it, as counted. -/
theorem mergeMask_good (hgood : l.outcome = .good) : (s.mergeMask a mask data false false).1 =
    ((s.countAt 0x60 (cabInst (cabOf a)) 1).countAt 0x63 (cabInst (cabOf a)) 1).holdWrite
      ⟨a, maskBytes l.data mask data, .good, true⟩ false := by
  unfold State.mergeMask
  dsimp only
  rw [sealLine_closed hopen, checkSlice_right herr, fetch_held herr hheld (.inr rfl)]
  dsimp only
  rw [if_neg (by rw [hgood]; exact Bool.false_ne_true)]

theorem mergeMask_marked (hmarked : l.outcome.marked = true) : (s.mergeMask a mask data false false).1 =
    (s.countAt 0x60 (cabInst (cabOf a)) 1).countAt 0x63 (cabInst (cabOf a)) 1 := by
  unfold State.mergeMask
  dsimp only
  rw [sealLine_closed hopen, checkSlice_right herr, fetch_held herr hheld (.inr rfl)]
  dsimp only
  rw [if_pos hmarked]

end

section
variable {s : State} {addr mask : Nat} {data : List Byte} {l : SLine}
variable (ha : addr < decodedEnd) (hok : s.power.mainOk = true) (hen : s.on SBD_CTRL_ENABLE = true)
include ha hok hen

theorem mergeWrite_on : exec (.mergeWrite addr ⟨mask, data⟩) s = .next (s.mergeMask (lineOf addr) (mask % 2 ^ 128) data false false).1 :=
  slice_on ha hok hen fun s => (s.mergeMask (lineOf addr) (mask % 2 ^ 128) data false false).1

theorem mergeWrite_marked (hopen : s.openAt (lineOf addr) = none) (herr : s.lineErr (lineOf addr) = 0) (hheld : s.held (lineOf addr) = some l)
    (hmarked : l.outcome = .poison ∨ l.outcome = .lost) : ∃ t, exec (.mergeWrite addr ⟨mask, data⟩) s = .next t ∧
      t.held (lineOf addr) = some l ∧ t.sbd.lines = s.sbd.lines ∧ t.mem = s.mem := by
  have hm : l.outcome.marked = true := by rcases hmarked with h | h <;> rw [h] <;> rfl
  refine ⟨_, mergeWrite_on ha hok hen, ?_⟩
  rw [mergeMask_marked hopen herr hheld hm]
  refine ⟨by simpa using hheld, ?_, by simp⟩
  rw [countAt_sbd, countAt_sbd]

theorem mergeWrite_merges (hopen : s.openAt (lineOf addr) = none) (herr : s.lineErr (lineOf addr) = 0) (hheld : s.held (lineOf addr) = some l)
    (hgood : l.outcome = .good) : ∃ t, exec (.mergeWrite addr ⟨mask, data⟩) s = .next t ∧
      t.held (lineOf addr) = some ⟨lineOf addr, maskBytes l.data (mask % 2 ^ 128) data, .good, true⟩ ∧ t.mem = s.mem := by
  refine ⟨_, mergeWrite_on ha hok hen, ?_⟩
  rw [mergeMask_good hopen herr hheld hgood]
  refine ⟨holdWrite_held _ _ _, ?_⟩
  rw [holdWrite_mem (by simp [hheld]), countAt_mem, countAt_mem]

end

/-- Settles O30: each word operation is `wordOp` with its own new word. -/
theorem wordOperationsOnAHeldLine : Obligations.WordOperationsOnAHeldLine :=
  ⟨⟨fun _ _ _ _ => wordInstr_good (op := 1) (comparand := 0) rfl, fun _ _ _ _ => wordInstr_good (op := 2) (comparand := 0) rfl,
      fun _ _ _ _ _ => wordInstr_good (op := 3) rfl, fun _ _ _ _ => wordInstr_good (op := 4) (comparand := 0) rfl,
      fun _ _ _ _ => wordInstr_good (op := 5) (comparand := 0) rfl⟩,
    fun _ _ x _ => wordInstr_poison (op := 1) (operand := x) (comparand := 0) rfl,
    fun _ _ x _ => wordInstr_poison (op := 2) (operand := x) (comparand := 0) rfl,
    fun _ _ x y _ => wordInstr_poison (op := 3) (operand := x) (comparand := y) rfl,
    fun _ _ x _ => wordInstr_poison (op := 4) (operand := x) (comparand := 0) rfl,
    fun _ _ x _ => wordInstr_poison (op := 5) (operand := x) (comparand := 0) rfl, fun _ _ _ _ _ => mergeWrite_marked⟩

/-! ## LINE_READ, LINE_WRITE, SBD_WRITEBACK -/

section
variable {s : State} {addr : Nat} {data : List Byte} {l : SLine}

theorem lineRead_held {r : Reader} (ha : addr < decodedEnd) (hok : s.power.mainOk = true) (hen : s.on SBD_CTRL_ENABLE = true)
    (hopen : s.openAt (lineOf addr) = none) (herr : s.lineErr (lineOf addr) = 0) (hheld : s.held (lineOf addr) = some l)
    (hgood : l.outcome = .good) :
    exec (.lineRead r addr) s = .next ((s.countAt 0x60 (cabInst (cabOf (lineOf addr))) 1).sliceAnswer (lineOf addr) .good l.data) := by
  have hnotLost : l.outcome ≠ .lost := by rw [hgood]; exact LineOutcome.noConfusion
  have hread {e spill : Bool} : s.lineRead (lineOf addr) e spill = (s.countAt 0x60 (cabInst (cabOf (lineOf addr))) 1, .good, l.data) := by
    rw [State.lineRead, sealLine_closed hopen, fetch_held herr hheld (.inl hnotLost), hgood]
  change execLineRead r addr s = _
  unfold execLineRead
  refine (slice_on ha hok hen _).trans (congrArg Host.Outcome.next ?_)
  dsimp only
  rw [hread]

theorem lineWrite_good (ha : addr < decodedEnd) (hok : s.power.mainOk = true) (hen : s.on SBD_CTRL_ENABLE = true) :
    ∃ t, exec (.lineWrite addr data false) s = .next t ∧ t.held (lineOf addr) = some ⟨lineOf addr, fit 128 data, .good, true⟩ :=
  ⟨_, slice_on ha hok hen fun s => s.lineWrite (lineOf addr) data false, holdWrite_held _ _ _⟩

theorem lineWrite_poison (ha : addr < decodedEnd) (hok : s.power.mainOk = true) (hen : s.on SBD_CTRL_ENABLE = true) :
    ∃ t, exec (.lineWrite addr data true) s = .next t ∧ t.held (lineOf addr) = some ⟨lineOf addr, zeroLine, .poison, true⟩ :=
  ⟨_, slice_on ha hok hen fun s => s.lineWrite (lineOf addr) data true, holdWrite_held _ _ _⟩

theorem writeback_dirty {a : Nat} (herr : s.lineErr a = 0) (hheld : s.held a = some l) (hdirty : l.dirty = true) :
    s.writeback a = ((s.cabWrite a l.data l.delta).putHeld { l with dirty := false }).countAt 0x62 (cabInst (cabOf a)) 1 := by
  unfold State.writeback
  rw [checkSlice_right herr]
  dsimp only
  rw [hheld]
  dsimp only
  rw [if_pos hdirty]

theorem writeback_clean {a : Nat} (herr : s.lineErr a = 0) (hheld : s.held a = some l) (hclean : l.dirty = false) : s.writeback a = s := by
  unfold State.writeback
  rw [checkSlice_right herr]
  dsimp only
  rw [hheld]
  dsimp only
  rw [if_neg (by rw [hclean]; exact Bool.false_ne_true)]

theorem sbdWriteback_clean (ha : addr < decodedEnd) (herr : s.lineErr (lineOf addr) = 0) (hheld : s.held (lineOf addr) = some l)
    (hclean : l.dirty = false) : exec (.sbdWriteback addr) s = .next s := by
  change s.slice addr (fun s => s.writeback (lineOf addr)) = _
  unfold State.slice
  dsimp only
  rw [if_neg (Nat.not_le.2 ha), writeback_clean herr hheld hclean, ite_self]

end

/-! ## EXACT_ADD and RES_WAIT (R260, R264) -/

section
variable {s : State} {addr fmt code : Nat} {p : Bool}

theorem putOpen_openAt (s : State) (o : OpenLine) : (s.putOpen o).sbd.openLines =
    (s.sbd.openLines.filter fun x => x.addr != o.addr) ++ [o] := rfl

/-- The formats that an exact add may have. -/
theorem exactAdd_runs (ha : addr < decodedEnd) (hok : s.power.mainOk = true) (hen : s.on SBD_CTRL_ENABLE = true) (hfmt : fmt = 1 ∨ fmt = 3) :
    exec (.exactAdd addr fmt code p) s = .next (s.exactAdd addr fmt code p .command) :=
  (slice_on ha hok hen _).trans (congrArg Host.Outcome.next (if_pos hfmt))

theorem exactAdd_open {o : OpenLine} (ho : s.openAt (lineOf addr) = some o) (hfmt : o.fmt = fmt) :
    s.exactAdd addr fmt code p .command =
      (s.putOpen { o with accs := modifyAt o.accs (addr % 128 / fmtBytes fmt) fun x => addAcc x fmt code p, nibs := false }).countAt 0x66
        (cabInst (cabOf (lineOf addr))) 1 := by
  simp only [State.exactAdd, State.addNow, ho, hfmt, if_true, Option.isSome_some, Bool.true_or, AddSrc.isNib, Bool.and_false]

/-- The state in which an add has been left to wait. -/
def addLeft (s : State) (w : WaitAdd) : State :=
  ({ s with sbd := { s.sbd with waiting := s.sbd.waiting ++ [w] } } : State).put SBD_STATUS_RES_WAIT 1

theorem exactAdd_full (hopen : s.openAt (lineOf addr) = none) (hfull : s.roomFor (lineOf addr) fmt = false) :
    s.exactAdd addr fmt code p .command =
      (addLeft s ⟨addr, fmt, code, p, .command⟩).countAt 0x6B (cabInst (cabOf (lineOf addr))) 1 := by
  simp only [State.exactAdd, hopen, hfull, Option.isSome_none, Bool.or_self, Bool.false_eq_true, if_false]
  rfl

theorem exactAdd_waits (hs : s.RegsCanonical) (ha : addr < decodedEnd) (hok : s.power.mainOk = true) (hen : s.on SBD_CTRL_ENABLE = true)
    (hfmt : fmt = 1 ∨ fmt = 3) (hopen : s.openAt (lineOf addr) = none) (hfull : s.roomFor (lineOf addr) fmt = false) :
    ∃ t, exec (.exactAdd addr fmt code p) s = .next t ∧ t.sbd.waiting = s.sbd.waiting ++ [⟨addr, fmt, code, p, .command⟩] ∧
      t.sbd.openLines = s.sbd.openLines ∧ t.sbd.lines = s.sbd.lines ∧ t.mem = s.mem ∧ t.on SBD_STATUS_RES_WAIT = true := by
  refine ⟨_, (exactAdd_runs ha hok hen hfmt).trans (congrArg Host.Outcome.next (exactAdd_full hopen hfull)), ?_⟩
  rw [countAt_sbd, countAt_mem]
  refine ⟨rfl, rfl, rfl, rfl, ?_⟩
  have hleft : (addLeft s ⟨addr, fmt, code, p, .command⟩).RegsCanonical := put_ok hs
  unfold State.on
  rw [(cntOnly_countAt _ _ _ _).get hleft (.inr (by decide)),
    show (addLeft s ⟨addr, fmt, code, p, .command⟩).get SBD_STATUS_RES_WAIT = _ from get_put_same hs (by decide) (by decide)]
  rfl

variable {c : Nat} {w : WaitAdd}

/-- The first waiting add, once it may proceed. -/
theorem resWait_proceeds (hw : (s.sbd.waiting.find? fun w => cabOf w.addr == c) = some w)
    (hroom : (s.openAt (lineOf w.addr)).isSome ∨ s.roomFor w.addr w.fmt = true) : s.resWait c =
      ({ s with sbd := { s.sbd with waiting := s.sbd.waiting.erase w } } : State).exactAdd w.addr w.fmt w.code w.poison w.src := by
  have hgo : ((s.openAt (lineOf w.addr)).isSome || s.roomFor w.addr w.fmt) = true := Bool.or_eq_true _ _ ▸ hroom
  simp only [State.resWait, hw, hgo, if_true]

theorem resWait_on (hok : s.power.mainOk = true) (hen : s.on SBD_CTRL_ENABLE = true) : exec (.resWait c) s = .next (s.resProceed c) :=
  congrArg Host.Outcome.next (if_pos (by rw [hok, hen]; rfl))

theorem resProceed_other (hw : (s.sbd.waiting.find? fun w => cabOf w.addr == c) = some w)
    (hsrc : ∀ p peer vc n k, w.src ≠ .frame p peer vc n k) : s.resProceed c = s.resWait c := by
  simp only [State.resProceed, hw]

theorem resProceed_frame {port peer n k : Nat} {vc : Bool} (hw : (s.sbd.waiting.find? fun w => cabOf w.addr == c) = some w)
    (hsrc : w.src = .frame port peer vc n k) :
    s.resProceed c = if (s.resWait c).addsWait w.src then s.resWait c else (s.resWait c).freeSlots port peer vc k := by
  simp only [State.resProceed, hw, hsrc]

end

/-- Settles O31: one line, held, open or full. -/
theorem lineOperationsAct : Obligations.LineOperationsAct := by
  refine ⟨fun _ _ _ _ => lineRead_held, fun _ _ _ => lineWrite_good, fun _ _ _ => lineWrite_poison,
    fun _ _ _ _ _ => mergeWrite_merges, ?opened, fun _ _ _ _ _ => exactAdd_waits, ?waits, ?frame, ?dirty,
    fun _ _ _ => sbdWriteback_clean⟩
  case opened =>
    intro s addr fmt code p o ha hok hen hfmt ho hsame
    rw [exactAdd_runs ha hok hen hfmt, exactAdd_open ho hsame]
  case waits =>
    intro s c w hok hen hw hroom hsrc
    rw [resWait_on hok hen, resProceed_other hw hsrc, resWait_proceeds hw hroom]
  case frame =>
    intro s t c p peer n k vc w hok hen hw hroom hsrc ht
    rw [resWait_on hok hen, resProceed_frame hw hsrc, resWait_proceeds hw hroom, ← ht]
  case dirty =>
    intro s addr l ha hok hen herr hheld hdirty
    exact (slice_on ha hok hen fun s => s.writeback (lineOf addr)).trans (congrArg Host.Outcome.next (writeback_dirty herr hheld hdirty))

end Sys2Proof.Proofs
end

section
/-! PROOFS. What a Cabinet does beside serving lines (chapter 6). -/
namespace Sys2Proof.Proofs
open Sys2Proof Sys2Proof.Machine

section
variable {s r : State} {c k : Nat}

theorem cabinet_on {work : State → State} (hc : c < 16) (hok : s.power.mainOk = true) (hen : s.on (CAB_CTRL_ENABLE c) = true) :
    s.cabinet c work = work s :=
  if_neg (by rw [hok, hen, decide_eq_false (Nat.not_lt.2 (Nat.le_of_lt_succ hc))]; decide)

theorem stack_on {work : State → State} (hc : c < 16) (hok : s.power.mainOk = true) : s.stack c work = work s :=
  if_neg (by rw [hok, decide_eq_false (Nat.not_lt.2 (Nat.le_of_lt_succ hc))]; decide)

/-- Where the work of a Cabinet changes nothing, neither does its row. -/
theorem cabinet_idle {work : State → State} (hwork : work s = s) : s.cabinet c work = s := by
  unfold State.cabinet
  rw [hwork, ite_self]

theorem stack_idle {work : State → State} (hwork : work s = s) : s.stack c work = s := by
  unfold State.stack
  rw [hwork, ite_self]

end

/-! ## Background classes (R242, R243) -/

section
variable {s r t u : State} {c k i : Nat} {demand : Bool}
variable (hc : c < 16) (hok : s.power.mainOk = true) (hen : s.on (CAB_CTRL_ENABLE c) = true)
include hc hok hen

theorem bgUrgent_turns (hk : k < 4) (hr : s.settleClasses c = r) (hcalm : bit (r.cab c).urgent k = false)
    (haged : r.aged c k (r.patience c k * 3 / 4) = true) :
    exec (.bgUrgent c k) s = .next (((r.noteAge c k (r.patience c k * 3 / 4)).setCab c fun x =>
      { x with urgent := x.urgent ||| 2 ^ k }).countAt 0x58 (cabInst c) 1) := by
  refine congrArg Host.Outcome.next ((cabinet_on hc hok hen).trans ?_)
  simp only [hr, hcalm, haged, decide_eq_false (Nat.not_lt.2 (Nat.le_of_lt_succ hk)), Bool.not_true, Bool.or_self, Bool.false_eq_true, if_false]

theorem bgOverdue_turns (hk : k < 4) (hr : s.settleClasses c = r) (hcalm : bit (r.cab c).overdue k = false)
    (haged : r.aged c k (r.patience c k) = true) :
    exec (.bgOverdue c k) s = .next (((r.noteAge c k (r.patience c k)).setCab c fun x =>
      { x with overdue := x.overdue ||| 2 ^ k }).countAt 0x59 (cabInst c) 1) := by
  refine congrArg Host.Outcome.next ((cabinet_on hc hok hen).trans ?_)
  simp only [hr, hcalm, haged, decide_eq_false (Nat.not_lt.2 (Nat.le_of_lt_succ hk)), Bool.not_true, Bool.or_self, Bool.false_eq_true, if_false]

section
variable (hr : (s.noteWaiting c).settleClasses c = r)
include hr

theorem grantSlot_refresh (hdue : (r.cab c).refreshDue = true) : exec (.grantSlot c demand) s = .next
    ((r.setCab c fun x => { x with refreshDue := false }).grantOther c) := by
  refine congrArg Host.Outcome.next ((cabinet_on hc hok hen).trans ?_)
  simp only [hr, hdue, if_true]

variable (hnot : (r.cab c).refreshDue = false)
include hnot

theorem grantSlot_overdue (heldest : r.eldest c (fun j => bit (r.cab c).overdue j) true = (t, some i)) :
    exec (.grantSlot c demand) s = .next (t.grantClass c i false) := by
  refine congrArg Host.Outcome.next ((cabinet_on hc hok hen).trans ?_)
  simp only [hr, hnot, heldest, Bool.false_eq_true, if_false]

variable (heldest : r.eldest c (fun j => bit (r.cab c).overdue j) true = (t, none))
include heldest

theorem grantSlot_urgent (hurgent : (List.range 4).find? (fun j => bit (r.cab c).urgent j) = some i)
    (hgrants : (r.cab c).grants.contains true = false) : exec (.grantSlot c demand) s = .next (t.grantClass c i true) := by
  refine congrArg Host.Outcome.next ((cabinet_on hc hok hen).trans ?_)
  simp only [hr, hnot, heldest, hurgent, hgrants, Bool.false_eq_true, if_false]

/-- No class is urgent, or one of the last 16 slots went to an urgent class. -/
theorem grantSlot_rest (hcalm : (List.range 4).find? (fun j => bit (r.cab c).urgent j) = none ∨ (r.cab c).grants.contains true = true) :
    exec (.grantSlot c demand) s = .next (if demand then t.grantOther c
      else match t.eldest c (fun _ => true) false with
        | (s, some i) => s.grantClass c i false
        | (s, none) => s) := by
  refine congrArg Host.Outcome.next ((cabinet_on hc hok hen).trans ?_)
  simp only [hr, hnot, heldest, Bool.false_eq_true, if_false]
  rcases hcalm with h | h
  · simp only [h] <;> rfl
  · simp only [h]
    cases List.find? (fun j => bit (r.cab c).urgent j) (List.range 4) <;> rfl

end

end

section
variable {s : State} {c die rate temp : Nat}

theorem refresh_due (hc : c < 16) (hok : s.power.mainOk = true) (hself : s.selfRefreshing c = false) :
    exec (.refresh c die) s = .next (((if (s.cab c).refreshDue then s else s.countAt 0x5E (cabInst c) 1).setCab c fun x =>
      { x with refreshDue := true }).countAt 0x54 (cabInst c) 1) := by
  refine congrArg Host.Outcome.next ((stack_on hc hok).trans ?_)
  cases hdue : (s.cab c).refreshDue <;>
    simp only [hself, Bool.not_true, Bool.not_false, Bool.false_eq_true, if_true, if_false]

theorem refreshRateRead_eq (hc : c < 16) (hok : s.power.mainOk = true) :
    exec (.refreshRateRead c rate temp) s = .next (((if s.get (CAB_TEMP_REFRESH_RATE c) < rate % 16 then s.countAt 0x55 (cabInst c) 1
      else s).put (CAB_TEMP_REFRESH_RATE c) (rate % 16)).noteCabTemp c temp) :=
  congrArg Host.Outcome.next (stack_on hc hok)

end

/-- Settles O32: the classes' ages and the refresh decide who gets the slot. -/
theorem backgroundAndRefresh : Obligations.BackgroundAndRefresh := by
  refine ⟨fun _ _ _ _ => bgUrgent_turns, fun _ _ _ _ => bgOverdue_turns, fun _ _ _ _ => grantSlot_refresh,
    fun _ _ _ _ _ _ => grantSlot_overdue, fun _ _ _ _ _ _ => grantSlot_urgent, ?demand, ?idle, ?wait, ?due, ?self, ?same, ?rise⟩
  case demand =>
    intro s r t c hc hok hen hr hnot heldest hcalm
    rw [grantSlot_rest hc hok hen hr hnot heldest hcalm, if_pos rfl]
  case idle =>
    intro s r t u c i hc hok hen hr hnot heldest hcalm hother
    rw [grantSlot_rest hc hok hen hr hnot heldest hcalm, if_neg Bool.false_ne_true, hother]
  case wait =>
    intro s c die hc hok hself hdue
    rw [refresh_due hc hok hself, hdue, if_neg Bool.false_ne_true]
  case due =>
    intro s c die hc hok hself hdue
    rw [refresh_due hc hok hself, hdue, if_pos rfl]
  case self =>
    intro s c die hself
    exact congrArg Host.Outcome.next (stack_idle (if_pos hself))
  case same =>
    intro s c rate temp hc hok hle
    rw [refreshRateRead_eq hc hok, if_neg (Nat.not_lt.2 hle)]
  case rise =>
    intro s c rate temp hc hok hlt
    rw [refreshRateRead_eq hc hok, if_pos hlt]

/-! ## Patrol scrub and the read eye (R226, R230) -/

section
variable {s : State} {c : Nat}

theorem scrubPass_begins (hc : c < 16) (hok : s.power.mainOk = true) (hen : s.on (CAB_CTRL_ENABLE c) = true)
    (hscrub : s.on (CAB_CTRL_SCRUB_EN c) = true) (hoff : (s.cab c).passOn = false) (hdue : (s.cab c).passStart + s.scrubPeriod c ≤ s.time) :
    exec (.scrubPass c []) s = .next ((((s.setCab c fun x =>
      { x with passOn := true, passStart := s.time, passChan := 0, passLate := false }).noteAge c 0 0).put
        (CAB_SCRUB_STATUS_PASS_POS c) 0).countAt 0x49 (cabInst c) 1) := by
  refine congrArg Host.Outcome.next ((cabinet_on hc hok hen).trans ?_)
  simp only [hscrub, hoff, decide_eq_false (Nat.not_lt.2 hdue), Bool.not_true, Bool.or_self, Bool.false_eq_true, if_false,
    List.filter_nil, List.foldl_nil]

theorem scrubPass_early {bad : List Nat} (hearly : s.time < (s.cab c).passStart + s.scrubPeriod c) :
    exec (.scrubPass c bad) s = .next s :=
  congrArg Host.Outcome.next (cabinet_idle (if_pos (by rw [decide_eq_true hearly, Bool.or_true])))

theorem scrubLine_next (hc : c < 16) (hok : s.power.mainOk = true) (hen : s.on (CAB_CTRL_ENABLE c) = true)
    (hscrub : s.on (CAB_CTRL_SCRUB_EN c) = true) (hon : (s.cab c).passOn = true) (hchan : (s.cab c).passChan < 63) :
    exec (.scrubLine c) s = .next
      (((s.scrubAt (lineAt c (s.cab c).passChan (s.get (CAB_SCRUB_STATUS_PASS_POS c)))).countAt 0x47 (cabInst c) 1).setCab c
        fun x => { x with passChan := (s.cab c).passChan + 1 }) := by
  refine congrArg Host.Outcome.next ((cabinet_on hc hok hen).trans ?_)
  simp only [hscrub, hon, hchan, Bool.not_true, Bool.or_self, Bool.false_eq_true, if_false, if_true]

theorem scrubLate_found (hc : c < 16) (hok : s.power.mainOk = true) (hen : s.on (CAB_CTRL_ENABLE c) = true)
    (hon : (s.cab c).passOn = true) (hfirst : (s.cab c).passLate = false) (hlate : (s.cab c).passStart + 86400000000000 ≤ s.time) :
    exec (.scrubLate c) s = .next (((s.setCab c fun x => { x with passLate := true }).put (CAB_STATUS_SCRUB_LATE c) 1).countAt 0x48
      (cabInst c) 1) := by
  refine congrArg Host.Outcome.next ((cabinet_on hc hok hen).trans (if_pos ?_))
  rw [hon, hfirst, decide_eq_true hlate]
  rfl

theorem scrubLate_again (hfound : (s.cab c).passLate = true) : exec (.scrubLate c) s = .next s :=
  congrArg Host.Outcome.next (cabinet_idle (if_neg (by simp [hfound])))

theorem scrubLate_early (hearly : s.time < (s.cab c).passStart + 86400000000000) : exec (.scrubLate c) s = .next s :=
  congrArg Host.Outcome.next (cabinet_idle (if_neg (by simp [hearly])))

theorem eyeSample_one {p m : Nat} {t : State} (hc : c < 16) (hok : s.power.mainOk = true) (hen : s.on (CAB_CTRL_ENABLE c) = true)
    (hdue : (s.cab c).eyeAt + s.samplePeriod c ≤ s.time) (heyed : s.eyed c p = true) (ht : t = s.setCab c fun x => { x with eyeAt := s.time }) :
    exec (.eyeSample c [(p, m)]) s = .next
      ((((((t.put (CAB_EYE_CTRL_WORST_MARGIN c) (min m 255)).put (CAB_EYE_CTRL_WORST_DRAWER c) p).countAt 0x4A (cabInst c) 1).setCab c
        fun x => { x with low := x.low.filter fun q => [(p, min m 255)].any fun r => r.1 == q.1 }).moveEye c p).noteMargin c
          (p, min m 255)) := by
  have hseen : ([(p, m)].filter fun x => t.eyed c x.1) = [(p, m)] := by
    have hsame : t.eyed c p = true := by rw [ht]; exact heyed
    simp [hsame]
  refine congrArg Host.Outcome.next ((cabinet_on hc hok hen).trans ((if_neg (Nat.not_lt.2 hdue)).trans ?_))
  rw [← ht]
  dsimp only
  rw [hseen]
  rfl

theorem eyeSample_early {ms : List (Nat × Nat)} (hearly : s.time < (s.cab c).eyeAt + s.samplePeriod c) :
    exec (.eyeSample c ms) s = .next s :=
  congrArg Host.Outcome.next (cabinet_idle (if_pos hearly))

end

/-- Settles O33: the periods and the running pass decide. -/
theorem scrubAndEye : Obligations.ScrubAndEye :=
  ⟨fun _ _ => scrubPass_begins, fun _ _ _ => scrubPass_early, fun _ _ => scrubLine_next,
    fun _ _ hoff => congrArg Host.Outcome.next (cabinet_idle (if_pos (by simp [hoff]))), fun _ _ => scrubLate_found,
    fun _ _ => scrubLate_again, fun _ _ => scrubLate_early, fun _ _ _ _ _ => eyeSample_one, fun _ _ _ => eyeSample_early⟩

/-! ## RETRAINING (R236, Table 6.4) -/

/-- A source that passes its retraining is SPARE, and DEGRADED no longer. -/
theorem retraining_passes {s : State} {c p : Nat} (hc : c < 16) (hok : s.power.mainOk = true) (hen : s.on (CAB_CTRL_ENABLE c) = true)
    (hp : p < 68) (hstate : s.dstate c p = 5) : exec (.retraining c p true) s = .next
      ((s.setCab c fun x => { x with degraded := x.degraded.map fun d => if d.1 = p then (p, false) else d }).setDstate c p 1) := by
  refine congrArg Host.Outcome.next ((cabinet_on hc hok hen).trans ?_)
  simp only [hstate, decide_eq_false (Nat.not_lt.2 (Nat.le_of_lt_succ hp)), bne_self_eq_false, Bool.or_self, Bool.false_eq_true, if_false,
    if_true]

theorem setDstate_cab (s : State) (c p v k : Nat) : (s.setDstate c p v).cab k = s.cab k := rfl

/-- Cabinet 0 enabled, its physical Drawer 0 retraining (state 5) after it had become DEGRADED. -/
def degradedSource : State :=
  { State.reset with
    regs := [(0x100000, 1), (0x100140, 5)]
    power := { State.reset.power with mainOk := true }
    cabs := modifyAt State.reset.cabs 0 fun k => { k with degraded := [(0, true)] } }

/-- Refutes O34: a DEGRADED source that passes its retraining is DEGRADED no longer (Table 6.4), and its Cabinet's list of degraded
Drawers changes with its state; the statement changes the state alone. -/
theorem not_evacuationMoves : ¬ Obligations.EvacuationMoves := by
  intro h
  obtain ⟨-, -, -, -, hretraining, -⟩ := h
  have hen : degradedSource.on (CAB_CTRL_ENABLE 0) = true := by decide +kernel
  have hstate : degradedSource.dstate 0 0 = 5 := by decide +kernel
  have hsays := (hretraining degradedSource 0 0 (by decide) rfl hen (by decide) hstate).1
  rw [retraining_passes (by decide) rfl hen (by decide) hstate] at hsays
  have hlists := congrArg (fun t : State => (t.cab 0).degraded) (Host.Outcome.next.inj hsays)
  rw [setDstate_cab, setDstate_cab] at hlists
  exact absurd hlists (by decide +kernel)

end Sys2Proof.Proofs
end

section
/-! PROOFS. Quill ports: training, HELLO, adaptation, retrains (O35). -/
namespace Sys2Proof.Proofs
open Sys2Proof Sys2Proof.Machine

section
variable {s u : State} {p lanes speed high was : Nat}

/-! ## Training (R337) -/

theorem portTrain_comesUp (hp : p < 24) (hok : s.power.mainOk = true) (hen : s.on (QPT_CTRL_ENABLE p) = true) (hdown : s.portAlive p = false)
    (hmis : s.on (QPT_STATUS_MISCABLED p) = false) (htrained : s.trained p lanes 2 = some (speed, high)) (hspeed : speed ≠ 1)
    (hu : u = (s.linkUp p speed high).onPort p fun x => { x with helloSince := some s.time, lowMargin := 0 }) :
    exec (.portTrain p lanes) s = .next (u.sendHello p 0 (u.ctrlMac p)) := by
  refine congrArg Host.Outcome.next ((if_pos ?_).trans ?_)
  · simp only [hp, hok, hen, hdown, hmis, decide_true, Bool.not_false, Bool.and_self]
  · simp only [htrained, hspeed, if_false, hu]

theorem portTrain_stays (hbars : s.trained p lanes 2 = none ∨ s.power.mainOk = false ∨ s.portAlive p = true ∨
    s.on (QPT_STATUS_MISCABLED p) = true) : exec (.portTrain p lanes) s = .next s := by
  change execPortTrain p lanes s = _
  rcases hbars with htrained | hbar
  · simp only [execPortTrain, htrained, ite_self]
  · refine congrArg Host.Outcome.next (if_neg ?_)
    rcases hbar with h | h | h <;> simp [h]

/-! ## HELLO (R337, R343) -/

variable {role peerPort mac c0 c1 : Nat}

theorem qHello_heard (hup : s.portUp p = true) :
    exec (.qHello p role peerPort mac c0 c1) s = .next (s.hearHello p role peerPort mac c0 c1) :=
  congrArg Host.Outcome.next (if_pos hup)

theorem putChan_mem (s : State) (c : Chan) : (s.putChan c).mem = s.mem := rfl

/-- The first HELLO on a torus port opens its one channel. -/
theorem hearHello_opens (hnone : s.quill.chans = []) (hcabled : s.miscabled p peerPort mac = false)
    (hu : u = ((((s.onPort p fun x => { x with helloSince := none, partner := some (helloModule peerPort mac) }).put
      (QPT_PARTNER_ROLE p) role).put (QPT_PARTNER_PORT p) peerPort).put (QPT_PARTNER_VALID p) 1).put (QPT_STATUS_MISCABLED p) 0)
    (htorus : u.switched = false) : s.hearHello p role peerPort mac c0 c1 = u.putChan (freshChan p 0 mac c0 c1) := by
  have hchans : u.quill.chans = [] := by rw [hu]; exact hnone
  have hchan : u.chan p 0 = none := by simp [State.chan, hchans]
  have hroom : u.chanRoom p 0 = true := by simp [State.chanRoom, State.roleChans, hchans]
  simp only [State.hearHello, hcabled, Bool.false_eq_true, if_false, ← hu, htorus, hchan, hroom, if_true]
  rfl

theorem hearHello_miscabled (hmis : s.miscabled p peerPort mac = true) : s.hearHello p role peerPort mac c0 c1 =
    ((((((s.put (QPT_PARTNER_ROLE p) role).put (QPT_PARTNER_PORT p) peerPort).linkDown p).closeChans p).onPort p fun x =>
      { x with helloSince := none, partner := none, retrain := none, stalled := [] }).put (QPT_STATUS_MISCABLED p) 1) :=
  if_pos hmis

theorem noteBundle_ok (hs : s.RegsCanonical) : (s.noteBundle p).RegsCanonical := put_ok hs

theorem linkDown_ok (hs : s.RegsCanonical) : (s.linkDown p).RegsCanonical := noteBundle_ok (put_ok (put_ok (put_ok (put_ok hs))))

theorem closeChans_ok (hs : s.RegsCanonical) : (s.closeChans p).RegsCanonical :=
  put_ok (s := s.mapQuill fun q => { q with chans := q.chans.filter fun c => c.port != p }) hs

/-- A port that hears another module than its bundle closes its own channels and no other. -/
theorem hearHello_closes (hs : s.RegsCanonical) (hmis : s.miscabled p peerPort mac = true) :
    (s.hearHello p role peerPort mac c0 c1).on (QPT_STATUS_MISCABLED p) = true ∧
    (s.hearHello p role peerPort mac c0 c1).quill.chans = s.quill.chans.filter fun c => c.port != p := by
  rw [hearHello_miscabled hmis]
  refine ⟨?_, rfl⟩
  have hregs := closeChans_ok (p := p) (linkDown_ok (p := p) (put_ok (f := QPT_PARTNER_PORT p) (v := peerPort)
    (put_ok (f := QPT_PARTNER_ROLE p) (v := role) hs)))
  rw [State.on, get_put_same (by exact hregs) (by simp [QPT_STATUS_MISCABLED]) (by simp [QPT_STATUS_MISCABLED])]
  simp [QPT_STATUS_MISCABLED]

/-! ## Adaptation and retrains (R338, Table 10.6) -/

theorem qEqAdapt_margin {margin lane : Nat} (hup : s.portUp p = true)
    (hu : u = ((s.put (QPT_EQ_MARGIN p) margin).put (QPT_EQ_WORST_LANE p) lane).countAt 0xB4 (portInst p) 1)
    (hmargin : (u.sendCtrl p 2 (u.get (QPT_PARTNER_ROLE p)) (u.ctrlMac p) []).get (QPT_EQ_RETRAIN_MARGIN p) ≤ margin) :
    exec (.qEqAdapt p margin lane) s = .next
      ((u.sendCtrl p 2 (u.get (QPT_PARTNER_ROLE p)) (u.ctrlMac p) []).onPort p fun x => { x with lowMargin := 0 }) := by
  refine congrArg Host.Outcome.next ((if_pos hup).trans ?_)
  have hgood := decide_eq_false (Nat.not_lt.2 hmargin)
  simp only [← hu, hgood, Bool.false_eq_true, if_false]
  rfl

/-- What a retrain that ends on some lanes leads to, by what trained. -/
theorem qRetrain_eq : exec (.qRetrain p lanes false) s = .next (match (s.qport p).retrain with
    | some was =>
      match s.trained p lanes was with
      | some (speed, high) =>
        let t := (s.linkUp p speed high).onPort p fun x => { x with retrain := none }
        let t := if (speed = 1 ∧ was ≠ 1) ∨ laneFailed was (s.get (QPT_STATUS_LANES_HIGH p)) lanes = true then
            ((t.put (QPT_STATUS_DEGRADED p) 1).countAt 0xAA (portInst p) 1).countAt 0xB6 (portInst p) 1
          else t
        let t := t.releasePort p
        (t.quill.chans.filter fun c => c.port == p).foldl (fun s c => s.resumeChan p c.peer) t
      | none => s.portLoss p
    | none => s) := rfl

theorem qRetrain_fails (hwas : (s.qport p).retrain = some was) (htrained : s.trained p lanes was = none) :
    exec (.qRetrain p lanes false) s = .next (s.portLoss p) := by
  rw [qRetrain_eq]
  simp only [hwas, htrained]

theorem qRetrain_idle (hnone : (s.qport p).retrain = none) : exec (.qRetrain p lanes false) s = .next s := by
  rw [qRetrain_eq]
  simp only [hnone]

variable (hwas : (s.qport p).retrain = some was) (htrained : s.trained p lanes was = some (speed, high))
include hwas htrained

theorem qRetrain_same (hspeed : speed ≠ 1 ∨ was = 1) (hlanes : laneFailed was (s.get (QPT_STATUS_LANES_HIGH p)) lanes = false)
    (hu : u = ((s.linkUp p speed high).onPort p fun x => { x with retrain := none }).releasePort p) :
    exec (.qRetrain p lanes false) s = .next
      ((u.quill.chans.filter fun c => c.port == p).foldl (fun s c => s.resumeChan p c.peer) u) := by
  have hgood : ¬((speed = 1 ∧ was ≠ 1) ∨ laneFailed was (s.get (QPT_STATUS_LANES_HIGH p)) lanes = true) := by
    rw [hlanes]
    simpa [Classical.or_iff_not_imp_left] using hspeed
  rw [qRetrain_eq]
  simp only [hwas, htrained, if_neg hgood, hu]

theorem qRetrain_degraded
    (hfailed : (speed = 1 ∧ was ≠ 1) ∨ laneFailed was (s.get (QPT_STATUS_LANES_HIGH p)) lanes = true)
    (hu : u = (((((s.linkUp p speed high).onPort p fun x => { x with retrain := none }).put (QPT_STATUS_DEGRADED p) 1).countAt 0xAA
      (portInst p) 1).countAt 0xB6 (portInst p) 1).releasePort p) :
    exec (.qRetrain p lanes false) s = .next
      ((u.quill.chans.filter fun c => c.port == p).foldl (fun s c => s.resumeChan p c.peer) u) := by
  rw [qRetrain_eq]
  simp only [hwas, htrained, if_pos hfailed, hu]

end

/-- Settles O35: each row by what bars it and by what trained. -/
theorem portsTrainAndAdapt : Obligations.PortsTrainAndAdapt := by
  refine ⟨fun _ _ _ _ _ _ => portTrain_comesUp, fun _ _ _ => portTrain_stays, fun _ _ _ _ _ _ _ => qHello_heard, ?opens, ?closes,
    fun _ _ _ _ _ => qEqAdapt_margin, fun _ _ _ _ => qRetrain_fails, fun _ _ _ _ _ _ _ => qRetrain_same,
    fun _ _ _ _ _ _ _ => qRetrain_degraded, fun _ _ _ => qRetrain_idle⟩
  case opens =>
    intro s u p role peerPort mac c0 c1 hup _ hnone hcabled hu htorus
    refine ⟨_, qHello_heard hup, ?_, ?_⟩ <;> rw [hearHello_opens hnone hcabled hu htorus]
    · have hchans : u.quill.chans = [] := by rw [hu]; exact hnone
      change u.quill.chans.filter _ ++ [_] = _
      rw [hchans]
      rfl
    · exact (putChan_mem _ _).trans (by rw [hu, put_mem, put_mem, put_mem, put_mem]; rfl)
  case closes =>
    intro s p role peerPort mac c0 c1 hs hup hmis
    obtain ⟨hon, hchans⟩ := hearHello_closes (role := role) (c0 := c0) (c1 := c1) hs hmis
    refine ⟨_, qHello_heard hup, hon, ?_, ?_⟩ <;> rw [hchans]
    · exact fun c hc => by simpa using (List.mem_filter.1 hc).2
    · exact fun c hc hother => List.mem_filter.2 ⟨hc, by simpa using hother⟩

end Sys2Proof.Proofs
end

section
/-! PROOFS. Quill frames that are received: data frames and their steps, delivery, reports, reads, link timers and bad frames
(O36, O38, O39, O40). -/
namespace Sys2Proof.Proofs
open Sys2Proof Sys2Proof.Machine

/-! ## From the link to the receiver (R345, R353, R358) -/

section
variable {s : State} {t : Nat} {fr : QFrame}

/-- A frame that the link accepts and whose form is right goes to what handles its type. -/
theorem receive_in {handle : State → State × Bool} (hin : s.frameIn t fr = true) : s.receive t fr handle =
    if (handle (s.linked fr)).2 then (handle (s.linked fr)).1 else (handle (s.linked fr)).1.freeFrame fr := by
  obtain ⟨haccepted, hform⟩ := Bool.and_eq_true_iff.1 hin
  simp only [State.receive, haccepted, hform, Bool.not_true, Bool.false_eq_true, if_false]
  rfl

theorem toRole_local {handle : State → State × Bool} (hlocal : s.localRole fr.h = true) : s.toRole t fr handle = handle s :=
  if_pos hlocal

/-- A data frame to a role held here, not one of a group. -/
theorem handleData_local (hrole : ¬(t = qMcast ∨ (t = qClose ∧ s.groupClose fr = true))) (hlocal : s.localRole fr.h = true) :
    s.handleData t fr = s.takeData t fr false true :=
  (if_neg hrole).trans (toRole_local hlocal)

variable {group new : Bool} {take : State → State}

theorem byStep_idle (hjob : s.jobState ≠ jsRunning) : s.byStep t fr group new take = (s.refuse fr.h group false, false) := if_pos hjob

theorem byStep_later (hjob : s.jobState = jsRunning) (hlater : s.step < fr.h.step) : s.byStep t fr group true take =
    ((s.countAt 0xAF (portInst fr.port) 1).mapQuill fun q => { q with held := q.held ++ [(t, group, fr)] }, true) := by
  refine (if_neg (not_not_intro hjob)).trans ((if_pos (.inl hlater)).trans ?_)
  simp only [decide_eq_true hlater, Bool.and_self, if_true]

theorem byStep_earlier (hjob : s.jobState = jsRunning) (hearlier : fr.h.step < s.step) :
    s.byStep t fr group new take = (s.refuse fr.h group true, false) :=
  (if_neg (not_not_intro hjob)).trans ((if_neg (by omega)).trans (if_pos hearlier))

theorem byStep_now (hstep : s.inStep fr.h group = true) : s.byStep t fr group new take =
    if s.lets t fr.h then (take s, false) else (s.refuse fr.h group false, false) := by
  obtain ⟨⟨⟨hjob, hsame⟩, hon⟩, hroom⟩ : ((s.jobState = jsRunning ∧ s.step = fr.h.step) ∧ s.run.stepOn = true) ∧
    s.rxRoom fr.h group = true := by simpa [State.inStep] using hstep
  have hturn : ¬(s.step < fr.h.step ∨ (fr.h.step = s.step ∧ (!s.run.stepOn) = true) ∨ (fr.h.step = s.step ∧ (!s.rxRoom fr.h group) = true)) := by
    simp [hsame, hon, hroom]
  refine (if_neg (not_not_intro hjob)).trans ((if_neg hturn).trans ((if_neg (by omega)).trans ?_))
  cases s.lets t fr.h <;> rfl

theorem lets_lines (ht : t ≠ qClose) : s.lets t fr.h = (s.target fr.h).isSome := if_neg ht

end

/-! ## Frames of other steps (R353) -/

section
variable {s : State} {fr : QFrame}

theorem qFrameWrite_local (hin : s.frameIn qWrite fr = true) (hlocal : (s.linked fr).localRole fr.h = true) :
    exec (.qFrameWrite fr) s = .next (if ((s.linked fr).takeData qWrite fr false true).2
      then ((s.linked fr).takeData qWrite fr false true).1 else ((s.linked fr).takeData qWrite fr false true).1.freeFrame fr) := by
  refine congrArg Host.Outcome.next ((receive_in hin).trans ?_)
  rw [handleData_local (by simp) hlocal]

theorem qFrameAdd_local (hin : s.frameIn qAdd fr = true) (hlocal : (s.linked fr).localRole fr.h = true) :
    exec (.qFrameAdd fr) s = .next (if ((s.linked fr).takeData qAdd fr false true).2
      then ((s.linked fr).takeData qAdd fr false true).1 else ((s.linked fr).takeData qAdd fr false true).1.freeFrame fr) := by
  refine congrArg Host.Outcome.next ((receive_in hin).trans ?_)
  rw [handleData_local (by simp) hlocal]

end

/-- Settles O39: the step of a frame against the own one, and what a refusal leaves alone. -/
theorem framesOfOtherStepsAreHeldOrRefused : Obligations.FramesOfOtherStepsAreHeldOrRefused := by
  refine ⟨?later, ?earlier, ?idle, ?admitsNone, fun s h g late => ?_⟩
  case later =>
    intro s fr hin hlocal hjob hlater
    rw [qFrameWrite_local hin hlocal, State.takeData, byStep_later hjob hlater]
    rfl
  case earlier =>
    intro s fr hin hlocal hjob hearlier
    rw [qFrameWrite_local hin hlocal, State.takeData, byStep_earlier hjob hearlier]
    rfl
  case idle =>
    intro s fr hin hlocal hjob
    rw [qFrameWrite_local hin hlocal, State.takeData, byStep_idle hjob]
    rfl
  case admitsNone =>
    intro s fr hin hlocal hstep hnone
    rw [qFrameAdd_local hin hlocal, State.takeData, byStep_now hstep, lets_lines (by decide), hnone]
    rfl
  obtain ⟨hmem, hsbd, -, -, hjob, hrun, -, hrx⟩ := fields_of_inner (inner_refuse s h g late)
  exact ⟨hmem, hsbd, hjob, hrun, hrx⟩

/-! ## CLOSE of a tensor that nothing admits (O38) -/

/-- A CLOSE of the running step whose tensor admits no remote write is refused (R353). -/
theorem qFrameClose_refused {s : State} {fr : QFrame} (hin : s.frameIn qClose fr = true) (hgroup : (s.linked fr).groupClose fr = false)
    (hlocal : (s.linked fr).localRole fr.h = true) (hstep : (s.linked fr).inStep fr.h false = true)
    (hbars : (s.linked fr).lets qClose fr.h = false) :
    exec (.qFrameClose fr) s = .next (((s.linked fr).refuse fr.h false false).freeFrame fr) := by
  refine congrArg Host.Outcome.next ((receive_in hin).trans ?_)
  rw [handleData_local (by simp [hgroup]) hlocal, State.takeData, byStep_now hstep, hbars]
  rfl

/-- A running step without a folio, with Quill port 0 up: its channel open, role 0 held here. -/
def folioless : State :=
  { State.reset with
    regs := [(0xC, 2), (0x300004, 1), (0x480000, 1)]
    run := { State.reset.run with stepOn := true }
    quill := { State.reset.quill with chans := [freshChan 0 0 0 8 8], bank0 := le 8 (2 ^ 31) } }

/-- A CLOSE to role 0 on port 0. -/
def closeFrame : QFrame :=
  { port := 0, peer := 0, group := false, fcs := true, fec := true, corrected := 0, payload := []
    h := { qver := 1, fabric := false, signal := false, nak := false, vc := false, poison := false, rsvClear := true, srcRole := 1,
           srcList := 0, dst := 0, lines := 0, fmt := 0, lseq := 0, lack := 0, step := 0, mseq := 0, dstTid := 1, arg := 0 } }

/-- Refutes O38: a CLOSE goes by the rule of its tensor as every data frame does (R353), and the clause for it does not ask for a
tensor that admits remote writes: with no folio the CLOSE is refused, and its message is not noted. -/
theorem not_dataFramesAreTaken : ¬ Obligations.DataFramesAreTaken := by
  intro h
  obtain ⟨-, -, -, -, hclose, -⟩ := h
  have hin : folioless.frameIn qClose closeFrame = true := by decide +kernel
  have hgroup : (folioless.linked closeFrame).groupClose closeFrame = false := by decide +kernel
  have hlocal : (folioless.linked closeFrame).localRole closeFrame.h = true := by decide +kernel
  have hstep : (folioless.linked closeFrame).inStep closeFrame.h false = true := by decide +kernel
  have hsays := hclose folioless closeFrame hin hgroup hlocal hstep
  rw [qFrameClose_refused hin hgroup hlocal hstep (by decide +kernel)] at hsays
  have hrx := congrArg (fun t : State => t.quill.rx.length) (Host.Outcome.next.inj hsays)
  exact absurd hrx (by decide +kernel)

/-! ## Delivery, reports and reads (R350, R351, R355) -/

section
variable {s u v : State} {role list dst mseq lines sem : Nat} {g : Bool} {m : RxMsg}

/-- A complete message whose turn it is, and that did not come by the fabric's own completion. -/
theorem deliver_complete (hmsg : s.rxMsg role list dst g mseq = some m) (hclose : m.close = some (lines, sem, true))
    (hlines : m.lines = lines) (hfabric : m.fabric = false) (hturn : s.nextDelivery role list dst g = mseq) (hon : s.run.stepOn = true)
    (hu : u = s.mapQuill (fun q =>
        { q with rx := q.rx.filter (fun x => !x.is role list dst g mseq),
                 delivered := (role, list, dst, g, mseq + 1) :: q.delivered.filter fun x =>
                   !(x.1 == role && x.2.1 == list && x.2.2.1 == dst && x.2.2.2.1 == g) }))
    (hv : v = (u.signal sem 2).sendReport role list dst g mseq (u.signal sem 2).step 1) :
    s.deliver role list dst g mseq = if v.quill.rx.length = 4095 then v.releaseHeld else v := by
  have hcomplete : m.complete = true := by simp [RxMsg.complete, hclose, hlines]
  simp only [State.deliver, hmsg, hcomplete, hturn, hfabric, hon, hclose, ne_eq, not_true_eq_false, decide_false, Bool.not_true,
    Bool.false_and, Bool.or_self, Bool.false_eq_true, if_false, ← hu, ← hv]

theorem deliver_waits (hbars : s.nextDelivery role list dst g ≠ mseq ∨ s.run.stepOn = false ∨ s.rxMsg role list dst g mseq = none) :
    s.deliver role list dst g mseq = s := by
  unfold State.deliver
  split
  · rfl
  · next m hmsg =>
    refine if_pos ?_
    rcases hbars with h | h | h
    · simp [h]
    · simp [h]
    · simp [h] at hmsg

/-- A LATE report of a message of the running step (R351, Table 12.8). -/
theorem takeReport_late {h : QHdr} (hon : s.run.stepOn = true) (hsent : s.quill.sent.any (reported s h) = true) (hlate : bits h.arg 7 0 = 3) :
    s.takeReport h = (((s.mapQuill fun q => { q with sent := q.sent.map fun m => if reported s h m then { m with left := 0 } else m }
      ).voidStep 0x0207 (0x30 + h.srcList) 0).noteRefused h 0x0207).quillChecks := by
  have hgo : ¬((!s.run.stepOn || !(s.quill.sent.any (reported s h))) = true) := by simp [hon, hsent]
  have hkind : ¬(3 ≤ 2) := by decide
  rw [State.takeReport, if_neg hgo]
  simp only [hlate, if_neg hkind, if_true]

theorem receive_local {t : Nat} {fr : QFrame} {take : State → State} (hin : s.frameIn t fr = true)
    (hlocal : (s.linked fr).localRole fr.h = true) :
    (s.receive t fr fun s => s.toRole t fr fun s => (take s, false)) = (take (s.linked fr)).freeFrame fr := by
  rw [receive_in hin, toRole_local hlocal]
  rfl

end

/-- Settles O40: delivery by the turn of its stream, and each frame to its role here. -/
theorem deliveryReportsAndReads : Obligations.DeliveryReportsAndReads :=
  ⟨fun _ _ _ _ _ _ _ _ _ hmsg hclose hlines hfabric hturn hon => ⟨_, rfl, _, rfl,
      congrArg Host.Outcome.next (deliver_complete hmsg hclose hlines hfabric hturn hon rfl rfl)⟩,
    fun _ _ _ _ _ _ hbars => congrArg Host.Outcome.next (deliver_waits hbars),
    fun _ _ hin hlocal => congrArg Host.Outcome.next (receive_local hin hlocal), fun _ _ => takeReport_late,
    fun _ _ hin hlocal => congrArg Host.Outcome.next (receive_local hin hlocal),
    fun _ _ hin hlocal => congrArg Host.Outcome.next (receive_local hin hlocal)⟩

/-! ## PFC while a port is paused (O36) -/

/-- A port that is paused already counts no further pause (R339, Table 9.3). -/
theorem pfcFrame_paused {s : State} {p prio quanta : Nat} (hup : s.portUp p = true) (hswitched : s.switched = true)
    (hprio : prio = s.get QFB_SWITCHED_PFC_PRIO) (hquanta : quanta ≠ 0) (hspeed : s.get (QPT_STATUS_SPEED p) ≠ 1)
    (hpaused : s.time < (s.qport p).pausedUntil) :
    exec (.pfcFrame p prio quanta) s = .next (s.onPort p fun x => { x with pausedUntil := s.time + quanta * 512 / 800 }) := by
  refine congrArg Host.Outcome.next ((if_neg (by simp [hup])).trans ((if_neg (by simp [hswitched])).trans
    ((if_neg (not_not_intro hprio)).trans ((if_neg hquanta).trans ((if_pos (decide_eq_true hpaused)).trans ?_)))))
  rw [if_neg hspeed]

/-- Quill port 0 of a switched fabric up and paused for one more nanosecond, counter 0 counting Q_PFC_PAUSE. -/
def pausedPort : State :=
  { State.reset with
    regs := [(0x40000, 1), (0x40100, 0x4B3), (0x300004, 1), (0x480000, 3)]
    quill := { State.reset.quill with ports := [{ QPort.reset with pausedUntil := State.reset.time + 1 }] } }

/-- Refutes O36: its clause for a PFC frame counts Q_PFC_PAUSE for every frame with quanta, and a port that is paused already has
entered no pause, so that the event does not count again (R327). -/
theorem not_linkTimersAcksAndBadFrames : ¬ Obligations.LinkTimersAcksAndBadFrames := by
  intro h
  obtain ⟨-, -, -, -, -, hpfc, -⟩ := h
  have hup : pausedPort.portUp 0 = true := by decide +kernel
  have hswitched : pausedPort.switched = true := by decide +kernel
  have hspeed : pausedPort.get (QPT_STATUS_SPEED 0) ≠ 1 := by decide +kernel
  have hsays := hpfc pausedPort 0 _ 1 hup hswitched rfl Nat.one_ne_zero hspeed
  rw [pfcFrame_paused hup hswitched rfl Nat.one_ne_zero hspeed (by decide +kernel)] at hsays
  have hcounts := congrArg (fun t : State => t.get (CNT_VAL_LO_VALUE_LO 0)) (Host.Outcome.next.inj hsays)
  exact absurd hcounts (by decide +kernel)

end Sys2Proof.Proofs
end

section
/-! PROOFS. The handover of a dead channel, RIDE frames at the partner, and what a GASP leaves (O37, O57, O58). -/
namespace Sys2Proof.Proofs
open Sys2Proof Sys2Proof.Machine

/-! ## HANDOVER and GASP_TIMEOUT (R347, R398) -/

section
variable {s r t u : State} {p peer m last : Nat}

theorem handover_eq (hr : (if s.portUp p then s.farDown p peer else s) = r) : exec (.handover ⟨p, peer⟩ last) s = .next
    ((r.quill.handover.filter (r.handed p peer)).foldl (fun s x => (afterLast last x).foldl (fun s f => s.handOn p x.2.1 f) s)
      (r.mapQuill fun q => { q with handover := q.handover.filter fun x => !r.handed p peer x })).quillChecks := by
  subst hr
  rfl

/-- No dead channel answers the report: nothing goes on. -/
theorem handover_none (hr : (if s.portUp p then s.farDown p peer else s) = r) (hnone : r.quill.handover.any (r.handed p peer) = false) :
    exec (.handover ⟨p, peer⟩ last) s = .next r.quillChecks := by
  have hall : ∀ x ∈ r.quill.handover, r.handed p peer x = false := by simpa using hnone
  have hrest : r.quill.handover.filter (fun x => !r.handed p peer x) = r.quill.handover :=
    List.filter_eq_self.2 fun x hx => by rw [hall x hx]; rfl
  have hgone : r.quill.handover.filter (r.handed p peer) = [] := List.filter_eq_nil_iff.2 fun x hx => by simp [hall x hx]
  rw [handover_eq hr, hgone, List.foldl_nil]
  simp only [State.mapQuill, hrest]

theorem farDown_reports {c : Chan} {ms : List Nat} (hchan : s.chan p peer = some c) (hheirs : s.heirs p = m :: ms)
    (ht : (s.mapQuill fun q => { q with chans := q.chans.filter fun x => !(x.port == c.port && x.peer == c.peer) }).noteChans p = t) :
    s.farDown p peer = (t.sendHandover c m).mapQuill fun q => { q with handover := q.handover ++ [(p, c.peer, c.unacked, c.waiting)] } := by
  subst ht
  simp only [State.farDown, hchan, hheirs]

theorem handOn_lost {f : TxFrame} (hheirs : s.heirs p = []) : s.handOn p peer f = s := by
  rw [State.handOn, hheirs]
  rfl

theorem handOn_one {f : TxFrame} (hheirs : s.heirs p = [m]) (hchan : (s.chan m peer).isSome = true) :
    s.handOn p peer f = (s.countAt 0xAD (portInst m) 1).offer m peer { f with sentAt := 0 } := by
  have hkeep : [m].filter (fun m => (s.chan m peer).isSome) = [m] := List.filter_eq_self.2 fun x hx => by
    rw [List.mem_singleton.1 hx]
    exact hchan
  rw [State.handOn, hheirs, hkeep]
  rfl

/-- The one dead channel that waits answers the report. -/
theorem handover_one {q : Nat} {sent waiting : List TxFrame} (hdown : s.portUp p = false)
    (hone : s.quill.handover = [(p, q, sent, waiting)]) (hpeer : s.switched = false ∨ q = peer) (hu : u = s.mapQuill fun q => { q with handover := [] }) :
    exec (.handover ⟨p, peer⟩ last) s = .next
      ((afterLast last (p, q, sent, waiting)).foldl (fun s f => s.handOn p q f) u).quillChecks := by
  have hhanded : s.handed p peer (p, q, sent, waiting) = true := by
    rcases hpeer with h | h <;> simp [State.handed, h]
  have hgone : s.quill.handover.filter (s.handed p peer) = [(p, q, sent, waiting)] := by
    rw [hone]
    exact List.filter_eq_self.2 fun x hx => by rw [List.mem_singleton.1 hx, hhanded]
  have hrest : s.quill.handover.filter (fun x => !s.handed p peer x) = [] := by
    rw [hone]
    exact List.filter_eq_nil_iff.2 fun x hx => by simp [List.mem_singleton.1 hx, hhanded]
  rw [handover_eq (if_neg (by simp [hdown])), hgone, hu]
  simp only [State.mapQuill, hrest, List.foldl_cons, List.foldl_nil]

theorem ackCovers_iff {lack n : Nat} : ackCovers lack n = true ↔
    0 < (lack + 2 ^ 32 - n % 2 ^ 32) % 2 ^ 32 ∧ (lack + 2 ^ 32 - n % 2 ^ 32) % 2 ^ 32 < 2 ^ 31 := by
  unfold ackCovers
  exact decide_eq_true_iff

/-- The report covers a frame with the peer's last LSEQ and not the one after it. -/
theorem afterLast_two {a b : TxFrame} (hlast : last < 2 ^ 30) (ha : a.h.lseq = last) (hb : b.h.lseq = last + 1) :
    afterLast last (p, peer, [a, b], []) = [b] := by
  have hcovered : ackCovers ((last + 1) % 2 ^ 32) a.h.lseq = true := ackCovers_iff.2 (by omega)
  have hkept : ackCovers ((last + 1) % 2 ^ 32) b.h.lseq = false := Bool.eq_false_iff.2 fun h => by
    have hcovers := ackCovers_iff.1 h
    omega
  unfold afterLast
  dsimp only
  rw [List.filter_cons_of_neg (by rw [hcovered]; decide), List.filter_cons_of_pos (by rw [hkept]; rfl), List.filter_nil, List.append_nil]

end

/-- Settles O37: the handover by the dead channels that answer, the timeout by its time. -/
theorem handoverAndGaspTimeoutComplete : Obligations.HandoverAndGaspTimeoutComplete := by
  refine ⟨fun _ _ _ _ _ => handover_eq, fun _ _ _ _ _ => handover_none, fun _ _ _ _ _ _ _ => farDown_reports, ?lost, ?survives, ?ends,
    ?early, fun s b hnone => ?_⟩
  case lost =>
    intro s p peer q last sent waiting hdown hone hpeer hheirs
    rw [handover_one hdown hone hpeer rfl]
    have hstay (l : List TxFrame) : l.foldl (fun s f => s.handOn p q f) (s.mapQuill fun q => { q with handover := [] }) =
        s.mapQuill fun q => { q with handover := [] } := by
      induction l with
      | nil => rfl
      | cons f l ih => rw [List.foldl_cons, handOn_lost hheirs, ih]
    rw [hstay]
  case survives =>
    intro s u p peer m last a b hu hdown hone hheirs hchan hlast ha hb
    rw [handover_one hdown hone (.inr rfl) hu, afterLast_two hlast ha hb, List.foldl_cons, List.foldl_nil, handOn_one hheirs hchan]
  case ends =>
    intro s t b hgasp hends
    refine ⟨_, rfl, ?_⟩
    change Host.Outcome.next _ = _
    simp only [hgasp, if_pos hends]
    rfl
  case early =>
    intro s t hgasp hearly
    have hnot : ¬(false = true ∨ t + 10000000000 ≤ s.time) := by simpa using hearly
    change Host.Outcome.next _ = _
    simp only [hgasp, if_neg hnot]
  change Host.Outcome.next _ = _
  simp only [hnone]

/-! ## RIDE frames in stream order (R383, R387) -/

section
variable {s g : State} {fr gr : QFrame} {kind n : Nat} {take : State → State}

/-- A PAIR, a GASP, and a frame whose turn it is are taken at once, and what waited for them after. -/
theorem rideInOrder_now (hnow : gr.h.dstTid = 0xFF00 ∨ gr.h.dstTid = 0xFF06 ∨ g.inTurn gr = true) :
    g.rideInOrder gr = ((g.turned gr).takeRide gr).rideOn gr := by
  refine if_pos ?_
  rcases hnow with h | h | h
  · rw [h]; rfl
  · rw [h]; rfl
  · change (_ || g.inTurn gr) = true
    rw [h, Bool.or_true]

theorem rideInOrder_later (hkind : gr.h.dstTid ≠ 0xFF00 ∧ gr.h.dstTid ≠ 0xFF06) (hturn : g.rideTurn gr.h.srcRole = some n)
    (hother : n ≠ gr.h.mseq) : g.rideInOrder gr =
      if mseqBefore n gr.h.mseq then g.mapSvl fun v => { v with rideHeld := v.rideHeld ++ [gr] } else g := by
  simp only [State.rideInOrder, hturn, beq_eq_false_iff_ne.2 hkind.1, beq_eq_false_iff_ne.2 hkind.2, beq_eq_false_iff_ne.2 hother.symm,
    Bool.or_self, Bool.false_eq_true, if_false]

/-- A RIDE frame for a role held here, once the link has taken it. -/
theorem rideRx_local (hgr : gr = rideFrame fr kind) (hg : g = s.linked gr) (hin : s.frameIn qRide gr = true)
    (hlocal : g.localRole fr.h = true) : s.rideRx fr kind = (g.rideInOrder gr).freeFrame gr := by
  subst hgr hg
  exact receive_local (take := fun s => s.rideInOrder (rideFrame fr kind)) hin hlocal

theorem ride_now (hgr : gr = rideFrame fr kind) (hg : g = s.linked gr) (hin : s.frameIn qRide gr = true) (hlocal : g.localRole fr.h = true)
    (hnow : kind = 0xFF00 ∨ kind = 0xFF06 ∨ g.inTurn gr = true) :
    s.rideRx fr kind = (((g.turned gr).takeRide gr).rideOn gr).freeFrame gr := by
  rw [rideRx_local hgr hg hin hlocal, rideInOrder_now]
  rw [hgr] at hnow ⊢
  exact hnow

/-! ## Who may send what (R376, R398) -/

theorem localRole_of_wardFrame (hgr : gr = rideFrame fr kind) (hward : g.wardFrame gr = true) : g.localRole fr.h = true := by
  subst hgr
  simp only [State.wardFrame, Bool.and_eq_true] at hward
  exact hward.1.1.1.1

theorem fromWard_taken (hward : g.wardFrame gr = true) : ((g.turned gr).fromWard gr take).1 = (take (g.turned gr)).syncHead.settle := by
  obtain ⟨⟨⟨⟨-, hrole⟩, hon⟩, hen⟩, hfollow⟩ : (((g.localRole gr.h = true ∧ g.wardRole = some gr.h.srcRole) ∧
      g.on SVL_CTRL_ENABLE = true) ∧ g.on SVL_CTRL_WARD_EN = true) ∧ g.get SVL_STATUS_WARD_FOLLOW ≠ 4 := by
    simpa [State.wardFrame] using hward
  have hbars : ¬((!(g.turned gr).on SVL_CTRL_ENABLE || !(g.turned gr).on SVL_CTRL_WARD_EN) = true) := by
    change ¬((!g.on SVL_CTRL_ENABLE || !g.on SVL_CTRL_WARD_EN) = true)
    simp [hon, hen]
  rw [State.fromWard, if_neg (not_not_intro (show (g.turned gr).wardRole = _ from hrole)), if_neg hbars,
    if_neg (show (g.turned gr).get SVL_STATUS_WARD_FOLLOW ≠ 4 from hfollow)]

theorem fromWard_disabled (hrole : g.wardRole = some gr.h.srcRole) (hoff : g.on SVL_CTRL_WARD_EN = false) :
    ((g.turned gr).fromWard gr take).1 = (g.turned gr).put QFB_STATUS_REFUSED 1 := by
  have hbars : (!(g.turned gr).on SVL_CTRL_ENABLE || !(g.turned gr).on SVL_CTRL_WARD_EN) = true := by
    change (!g.on SVL_CTRL_ENABLE || !g.on SVL_CTRL_WARD_EN) = true
    simp [hoff]
  rw [State.fromWard, if_neg (not_not_intro (show (g.turned gr).wardRole = _ from hrole)), if_pos hbars]

theorem fromWard_other (hrole : g.wardRole ≠ some gr.h.srcRole) : ((g.turned gr).fromWard gr take).1 = g.turned gr := by
  rw [State.fromWard, if_pos (show (g.turned gr).wardRole ≠ _ from hrole)]

/-- A frame of the ward that is taken by its kind. -/
theorem ride_ward (hgr : gr = rideFrame fr kind) (hg : g = s.linked gr) (hin : s.frameIn qRide gr = true)
    (hward : g.wardFrame gr = true) (hnow : kind = 0xFF00 ∨ kind = 0xFF06 ∨ g.inTurn gr = true)
    (hkind : (g.turned gr).takeRide gr = ((g.turned gr).fromWard gr take).1) :
    s.rideRx fr kind = (((take (g.turned gr)).syncHead.settle).rideOn gr).freeFrame gr := by
  rw [ride_now hgr hg hin (localRole_of_wardFrame hgr hward) hnow, hkind, fromWard_taken hward]

theorem takeRide_mark (hgr : gr = rideFrame fr 0xFF05)
    (hword : ¬(g.followers.contains fr.h.srcRole = true ∧ fr.h.arg = 5 ∧ fld fr.payload 0 4 = 0xFFFFFFFF)) :
    (g.turned gr).takeRide gr = ((g.turned gr).fromWard gr fun s => s.takeMark gr).1 := by
  subst hgr
  exact if_neg hword

theorem takeRide_pair (hgr : gr = rideFrame fr 0xFF00) (hen : g.wardRole ≠ some fr.h.srcRole ∨ g.on SVL_CTRL_WARD_EN = true) :
    (g.turned gr).takeRide gr = (g.turned gr).takePair gr := by
  subst hgr
  refine if_neg ?_
  change ¬(g.wardRole = some fr.h.srcRole ∧ (!g.on SVL_CTRL_WARD_EN) = true)
  rintro ⟨hrole, hoff⟩
  rcases hen with h | h
  · exact h hrole
  · simp [h] at hoff

theorem takeRide_pairRefused (hgr : gr = rideFrame fr 0xFF00) (hrole : g.wardRole = some fr.h.srcRole)
    (hoff : g.on SVL_CTRL_WARD_EN = false) : (g.turned gr).takeRide gr = (g.turned gr).put QFB_STATUS_REFUSED 1 := by
  subst hgr
  refine if_pos ?_
  change g.wardRole = some fr.h.srcRole ∧ (!g.on SVL_CTRL_WARD_EN) = true
  exact ⟨hrole, by rw [hoff]; rfl⟩

theorem takeRide_copy (hgr : gr = rideFrame fr 0xFF02) :
    (g.turned gr).takeRide gr = ((g.turned gr).fromWard gr fun s => s.takeCopy gr).1 := by
  subst hgr
  rfl

end

/-- Settles O57: a frame by its turn in the stream, and its kind by the ward's rights. -/
theorem rideFramesOfTheWard : Obligations.RideFramesOfTheWard := by
  refine ⟨?map, ?copy, ?echo, ?input, ?mark, ?gasp, ?pair, ?pairRefused, ?copyRefused, ?copyOther, ?copyHeld, ?copyPast⟩
  case map =>
    intro s g fr gr hgr hg hin hward hturn
    refine congrArg Host.Outcome.next (ride_ward (take := fun s => s.takeMap gr) hgr hg hin hward (.inr (.inr hturn)) ?_)
    subst hgr
    rfl
  case copy =>
    intro s g fr gr hgr hg hin hward hturn
    exact congrArg Host.Outcome.next (ride_ward (take := fun s => s.takeCopy gr) hgr hg hin hward (.inr (.inr hturn)) (takeRide_copy hgr))
  case echo =>
    intro s g fr gr hgr hg hin hward hturn
    refine congrArg Host.Outcome.next (ride_ward (take := fun s => s.takeEcho gr) hgr hg hin hward (.inr (.inr hturn)) ?_)
    subst hgr
    rfl
  case input =>
    intro s g fr gr hgr hg hin hward hturn
    refine congrArg Host.Outcome.next (ride_ward (take := fun s => s.takeInput gr) hgr hg hin hward (.inr (.inr hturn)) ?_)
    subst hgr
    rfl
  case mark =>
    intro s g fr gr hgr hg hin hward hturn hword
    exact congrArg Host.Outcome.next (ride_ward (take := fun s => s.takeMark gr) hgr hg hin hward (.inr (.inr hturn)) (takeRide_mark hgr hword))
  case gasp =>
    intro s g fr gr hgr hg hin hward
    refine congrArg Host.Outcome.next (ride_ward (take := fun s => s.takeGasp) hgr hg hin hward (.inr (.inl rfl)) ?_)
    subst hgr
    rfl
  case pair =>
    intro s g fr gr hgr hg hin hlocal hen
    refine congrArg Host.Outcome.next ((ride_now hgr hg hin hlocal (.inl rfl)).trans ?_)
    rw [takeRide_pair hgr hen]
  case pairRefused =>
    intro s g fr gr hgr hg hin hlocal hrole hoff
    refine congrArg Host.Outcome.next ((ride_now hgr hg hin hlocal (.inl rfl)).trans ?_)
    rw [takeRide_pairRefused hgr hrole hoff]
  case copyRefused =>
    intro s g fr gr hgr hg hin hlocal hrole hoff hturn
    refine congrArg Host.Outcome.next ((ride_now hgr hg hin hlocal (.inr (.inr hturn))).trans ?_)
    rw [takeRide_copy hgr, fromWard_disabled (by rw [hgr]; exact hrole) hoff]
  case copyOther =>
    intro s g fr gr hgr hg hin hlocal hrole hturn
    refine congrArg Host.Outcome.next ((ride_now hgr hg hin hlocal (.inr (.inr hturn))).trans ?_)
    rw [takeRide_copy hgr, fromWard_other (by rw [hgr]; exact hrole)]
  case copyHeld =>
    intro s g fr gr n hgr hg hin hlocal hturn hother hbefore
    refine congrArg Host.Outcome.next ((rideRx_local hgr hg hin hlocal).trans ?_)
    rw [rideInOrder_later (n := n) (by simp [hgr, rideFrame]) (by rw [hgr]; exact hturn) (by rw [hgr]; exact hother),
      if_pos (by rw [hgr]; exact hbefore)]
  case copyPast =>
    intro s g fr gr n hgr hg hin hlocal hturn hother hpast
    refine congrArg Host.Outcome.next ((rideRx_local hgr hg hin hlocal).trans ?_)
    rw [rideInOrder_later (n := n) (by simp [hgr, rideFrame]) (by rw [hgr]; exact hturn) (by rw [hgr]; exact hother),
      if_neg (by rw [hgr]; exact ne_true_of_eq_false hpast)]

/-! ## What the frames do (R387, R389, R398) -/

section
variable {s : State} {fr : QFrame}

theorem takeCopy_idle (hnot : s.following = false) : s.takeCopy fr = s := by
  unfold State.takeCopy
  split
  · exact if_pos (by rw [hnot]; rfl)
  · rfl

theorem takeEcho_idle (hnot : s.following = false) : s.takeEcho fr = s := by
  unfold State.takeEcho
  split
  · exact if_pos (by rw [hnot]; rfl)
  · rfl

theorem takeGasp_freezes (hs : s.RegsCanonical) : s.takeGasp.get SVL_STATUS_WARD_FOLLOW = 4 ∧ s.takeGasp.on SVL_STATUS_GASP_RECEIVED = true := by
  have hregs : (s.put SVL_STATUS_GASP_RECEIVED 1).RegsCanonical := put_ok hs
  constructor
  · exact get_put_same hregs (by decide) (by decide)
  · change ((s.put SVL_STATUS_GASP_RECEIVED 1).put SVL_STATUS_WARD_FOLLOW 4).on SVL_STATUS_GASP_RECEIVED = true
    rw [State.on, get_put_other hregs (by decide) (by decide) (by decide), get_put_same hs (by decide) (by decide)]
    rfl

/-- A frame of one line that lies in the image. -/
theorem imagePart_one {f : Folio} (hone : fr.h.lines = 1) (hin : 128 * fr.h.arg < shardLen f.shard) :
    imagePart f fr = [(fr.h.arg, slice fr.payload 0 128)] := by
  simp [imagePart, hone, hin]

/-- A write notes what the ward's own shard touched, and no follow. -/
theorem noteWrite_wardFollow (hs : s.RegsCanonical) (a : Nat) (dt : List Byte) (marked nib : Bool) :
    (s.noteWrite a dt marked nib).get SVL_STATUS_WARD_FOLLOW = s.get SVL_STATUS_WARD_FOLLOW := by
  unfold State.noteWrite
  split
  · rfl
  · cases hon : s.run.stepOn
    · rfl
    · exact get_put_other hs (by decide) (by decide) (by decide)

theorem hold_of_held {l : SLine} (hheld : (s.held l.addr).isSome = true) : s.hold l = s.putHeld l := by
  rw [State.hold, if_pos hheld]

theorem onStage_held (u a : Nat) (f : Stage → Stage) : (s.onStage u f).held a = s.held a := rfl

theorem onStage_get (u : Nat) (f : Stage → Stage) (x : Fld) : (s.onStage u f).get x = s.get x := rfl

theorem onStage_mem (u : Nat) (f : Stage → Stage) : (s.onStage u f).mem = s.mem := rfl

/-- A line written to a line that its slice holds, with no line open. -/
theorem lineWrite_over {a : Nat} {dt : List Byte} (hs : s.RegsCanonical) (hopen : s.sbd.openLines = []) (hheld : (s.held a).isSome = true) :
    (s.lineWrite a dt false).get SVL_STATUS_WARD_FOLLOW = s.get SVL_STATUS_WARD_FOLLOW ∧
    (s.lineWrite a dt false).held a = some ⟨a, fit 128 dt, .good, true⟩ ∧ (s.lineWrite a dt false).mem = s.mem := by
  have hclosed : s.sealLine a = s := sealLine_closed (by rw [State.openAt, hopen]; rfl)
  have hwrite : s.lineWrite a dt false = (s.clearErr a).holdWrite ⟨a, fit 128 dt, .good, true⟩ false := by
    rw [State.lineWrite, State.lineStore, hclosed]
    rfl
  have hsame : ((s.clearErr a).held a).isSome = true := hheld
  rw [hwrite]
  refine ⟨?_, holdWrite_held _ _ _, holdWrite_mem (l := ⟨a, fit 128 dt, .good, true⟩) hsame⟩
  rw [State.holdWrite, hold_of_held (l := ⟨a, fit 128 dt, .good, true⟩) hsame]
  exact noteWrite_wardFollow (s := (s.clearErr a).putHeld _) hs _ _ _ _

theorem takeCopy_line {f : Folio} (hmap : s.wardFolio = some f) (hfollow : s.following = true) (hone : fr.h.lines = 1)
    (hin : 128 * fr.h.arg < shardLen f.shard) (hclean : fr.h.poison = false) : s.takeCopy fr =
      (((s.put SVL_STATUS_SNAPSHOT_VALID 0).lineWrite (s.wardBase + 128 * fr.h.arg) (slice fr.payload 0 128) false).onStage fr.h.step
        fun g => { g with copied := g.copied + 1 }) := by
  simp only [State.takeCopy, hmap, hfollow, Bool.not_true, Bool.false_eq_true, if_false, imagePart_one hone hin, hclean, List.foldl_cons,
    List.foldl_nil, List.length_singleton]
  rfl

end

/-- Settles O58: each kind of frame by its own rule. -/
theorem whatRideFramesDo : Obligations.WhatRideFramesDo := by
  refine ⟨fun s fr hfollow => if_pos hfollow, fun s fr hnot => ⟨if_neg (by simp [hnot]), takeCopy_idle hnot, takeEcho_idle hnot⟩,
    fun s hs => ⟨rfl, (takeGasp_freezes hs).1, (takeGasp_freezes hs).2, rfl, rfl⟩, ?begins, ?level, ?copy⟩
  case begins =>
    intro s fr harg hfollow
    exact (if_pos harg).trans (if_neg hfollow)
  case level =>
    intro s fr harg hlevel
    refine (if_neg (by omega)).trans ((if_neg (by omega)).trans ((if_neg (by omega)).trans ((if_pos harg).trans (if_neg ?_))))
    exact fun h => hlevel h.1
  case copy =>
    intro s fr f hs hmap hfollow hopen hone hin hclean hheld _
    have hregs : (s.put SVL_STATUS_SNAPSHOT_VALID 0).RegsCanonical := put_ok hs
    obtain ⟨hward, hline, hmem⟩ := lineWrite_over (a := s.wardBase + 128 * fr.h.arg) (dt := slice fr.payload 0 128) hregs hopen hheld
    refine ⟨_, rfl, ?_⟩
    rw [takeCopy_line hmap hfollow hone hin hclean]
    rw [onStage_held, onStage_get, onStage_mem]
    exact ⟨hward.trans (get_put_other hs (by decide) (by decide) (by decide)), hline, hmem⟩

end Sys2Proof.Proofs
end

section
/-! PROOFS. The risk estimator and the sample intake (O59, O60). -/
namespace Sys2Proof.Proofs
open Sys2Proof Sys2Proof.Machine

/-! ## The risk estimator (R379 to R381) -/

section
variable {s : State}

theorem riskSample_off (hoff : s.power.mainOk = false ∨ s.on RSK_CTRL_ENABLE = false) : exec .riskSample s = .next s := by
  refine congrArg Host.Outcome.next (if_pos ?_)
  rcases hoff with h | h <;> simp [h]

theorem riskSample_on {u v : State} {r : Nat} (hok : s.power.mainOk = true) (hen : s.on RSK_CTRL_ENABLE = true)
    (hu : u = (List.range 8).foldl (fun u i => u.put (RSK_INPUT_X i) (s.riskInputs.getD i 0)) s)
    (hr : r = riskScore (u.get RSK_STATUS_SCORE) u.weights s.riskInputs (u.get RSK_CTRL_SHIFT))
    (hv : v = (u.put RSK_STATUS_SCORE r).put RSK_STATUS_FLOOR_WATCH u.riskFloor) :
    exec .riskSample s = .next (if v.on RSK_CTRL_FORCE_EN then v.clampLevel.watchDwell r else v.moveLevel r) := by
  have hgo : ¬((!s.power.mainOk || !s.on RSK_CTRL_ENABLE) = true) := by simp [hok, hen]
  subst hv hr hu
  exact congrArg Host.Outcome.next (if_neg hgo)

/-- The filter moves the score towards the clamped sum by a fraction of the way. -/
theorem riskScore_between {r q k : Nat} {ws xs : List Nat} (hq : q = min 65535 (List.zipWith (fun w x => w * x) ws xs).sum) :
    (r ≤ q → r ≤ riskScore r ws xs k ∧ riskScore r ws xs k ≤ q) ∧ (q ≤ r → riskScore r ws xs k ≤ r) := by
  have hscore : riskScore r ws xs k = ((r : Int) + ((q : Int) - (r : Int)) / (2 ^ k : Nat)).toNat := by rw [hq]; rfl
  have hpow : (0 : Int) < ((2 ^ k : Nat) : Int) := by exact_mod_cast Nat.two_pow_pos k
  constructor <;> intro hle
  · have hup : (0 : Int) ≤ ((q : Int) - r) / (2 ^ k : Nat) := Int.ediv_nonneg (by omega) hpow.le
    have hno : ((q : Int) - r) / (2 ^ k : Nat) ≤ (q : Int) - r := Int.ediv_le_self _ (by omega)
    omega
  · have hdown : ((q : Int) - r) / (2 ^ k : Nat) ≤ 0 := Int.ediv_nonpos_of_nonpos_of_neg (by omega) hpow
    omega

theorem clamp255_le (x : Int) : clamp255 x ≤ 255 := by
  unfold clamp255
  omega

theorem ite_clamp255_le (c : Bool) (x : Int) : (if c = true then 255 else clamp255 x) ≤ 255 := by
  cases c
  · exact clamp255_le x
  · exact Nat.le_refl 255

theorem riskInputs_le : ∀ x ∈ s.riskInputs.take 7, x ≤ 255 := by
  intro x hx
  simp only [State.riskInputs, List.take_succ_cons, List.take_zero, List.mem_cons, List.not_mem_nil, or_false] at hx
  rcases hx with h | h | h | h | h | h | h <;> rw [h]
  case inr.inr.inr.inr.inr.inl => exact ite_clamp255_le _ _
  all_goals exact clamp255_le _

end

/-- Settles O59: the filter stays between the old score and the weighted sum. -/
theorem riskSampleFilters : Obligations.RiskSampleFilters := by
  refine ⟨fun _ => riskSample_off, fun _ hok hen => ⟨_, rfl, _, rfl, _, rfl, riskSample_on hok hen rfl rfl rfl⟩, ?filter,
    fun _ => riskInputs_le⟩
  intro r ws xs k hr
  obtain ⟨hup, hdown⟩ := riskScore_between (r := r) (k := k) (ws := ws) (xs := xs) rfl
  refine ⟨?_, fun hle => (hup (by omega)).1, fun hle => hdown (by omega)⟩
  rcases Nat.le_total r (min 65535 (List.zipWith (fun w x => w * x) ws xs).sum) with hle | hle
  · exact (hup hle).2.trans (Nat.min_le_left _ _)
  · exact (hdown hle).trans hr

/-! ## Frames of the intake (R432, R433) -/

section
variable {s a : State} {port prio : Nat} {h : IntakeHdr} {pl : List Byte}

/-- A frame on a host port that is up: taken where the intake runs and the frame is one of its kind, dropped otherwise. -/
theorem intakeFrame_up {kind : Nat} {work : State → State} (hport : port < 2) (hok : s.power.mainOk = true) (hup : s.hostUp port = true)
    (ha : a = (s.hostRx port).countAt 0xC9 (hostInst port) 1) : s.intakeFrame port kind h pl work =
      if a.on INT_CTRL_ENABLE && a.jobState == jsRunning && h.kind == kind && !intakeMalformed h pl.length then
        work (a.mapIntake fun i => i.heard port a.time)
      else a.intakeDrop port := by
  subst ha
  refine if_neg ?_
  rw [hok, hup, decide_eq_false (by omega)]
  decide

theorem intakeFrame_takes {kind : Nat} {work : State → State} (hport : port < 2) (hok : s.power.mainOk = true) (hup : s.hostUp port = true)
    (ha : a = (s.hostRx port).countAt 0xC9 (hostInst port) 1) (hen : a.on INT_CTRL_ENABLE = true) (hjob : a.jobState = jsRunning)
    (hkind : h.kind = kind) (hform : intakeMalformed h pl.length = false) :
    s.intakeFrame port kind h pl work = work (a.mapIntake fun i => i.heard port a.time) :=
  (intakeFrame_up hport hok hup ha).trans (if_pos (by simp [hen, hjob, hkind, hform]))

theorem intakeFrame_drops {kind : Nat} {work : State → State} (hport : port < 2) (hok : s.power.mainOk = true) (hup : s.hostUp port = true)
    (ha : a = (s.hostRx port).countAt 0xC9 (hostInst port) 1)
    (hbars : a.on INT_CTRL_ENABLE = false ∨ a.jobState ≠ jsRunning ∨ intakeMalformed h pl.length = true) :
    s.intakeFrame port kind h pl work = a.intakeDrop port := by
  refine (intakeFrame_up hport hok hup ha).trans (if_neg ?_)
  rcases hbars with h | h | h <;> simp [h]

theorem takeFragment_ahead (hnew : (s.intake.samples.find? fun x => x.seq == h.sampleSeq) = none) (hnext : s.intakeNext ≤ h.sampleSeq)
    (hgap : s.isGap h.sampleSeq = false) (hahead : s.intakeNext + 65536 ≤ h.sampleSeq) :
    s.takeFragment port h pl = s.declare port 2 (h.sampleSeq, h.sampleSeq) := by
  have hold : ¬((decide (h.sampleSeq < s.intakeNext) || s.isGap h.sampleSeq) = true) := by simp [hgap, hnext]
  simp only [State.takeFragment, hnew, if_neg hold, if_pos hahead]

theorem takeFragment_noSpace (hnew : (s.intake.samples.find? fun x => x.seq == h.sampleSeq) = none) (hnext : s.intakeNext ≤ h.sampleSeq)
    (hgap : s.isGap h.sampleSeq = false) (hnear : h.sampleSeq < s.intakeNext + 65536) (hfull : s.intake.free < roundUp h.sampleBytes 128) :
    s.takeFragment port h pl = s.declare port 1 (h.sampleSeq, h.sampleSeq) := by
  have hold : ¬((decide (h.sampleSeq < s.intakeNext) || s.isGap h.sampleSeq) = true) := by simp [hgap, hnext]
  simp only [State.takeFragment, hnew, if_neg hold, if_neg (Nat.not_le.2 hnear), if_pos hfull]

/-! ### What a number declared absent changes -/

/-- The intake and stacked memory. -/
def intakeMem (s : State) : Intake × Mem := (s.intake, s.mem)

theorem intakeMem_sendPause (s : State) (quanta : Nat) : intakeMem (s.sendPause quanta) = intakeMem s :=
  foldl_keeps (p := intakeMem) (fun s h => by
    split
    · rw [intakeMem, countAt_intake, countAt_mem]
      rfl
    · rfl) _ _

theorem intakeMem_endPause (s : State) : intakeMem s.endPause = intakeMem s := by
  unfold State.endPause
  split
  · exact intakeMem_sendPause _ _
  · rfl

theorem setRingFree_intake (s : State) (n : Nat) : (s.setRingFree n).intake = { s.intake with free := n } ∧ (s.setRingFree n).mem = s.mem :=
  Prod.mk.inj (intakeMem_endPause ((s.mapIntake fun i => { i with free := n }).put INT_FREE_F (n / 4096)))

theorem declare_intake (s : State) (port cause : Nat) (r : Nat × Nat) :
    (s.declare port cause r).intake.gaps = s.intake.gaps ++ [r] ∧
    (s.declare port cause r).intake.samples = s.intake.samples.filter (fun x => !decide (r.1 ≤ x.seq ∧ x.seq ≤ r.2)) ∧
    (s.declare port cause r).mem = s.mem := by
  unfold State.declare State.releaseSamples
  dsimp only
  rw [raise_intake, countAt_intake, bump_intake, put_intake, raise_mem, countAt_mem, bump_mem, put_mem]
  obtain ⟨hintake, hmem⟩ := setRingFree_intake ((s.mapIntake fun i => { i with gaps := i.gaps ++ [r] }).mapIntake fun i =>
    { i with samples := i.samples.filter fun x => !decide (r.1 ≤ x.seq ∧ x.seq ≤ r.2) })
    ((s.mapIntake fun i => { i with gaps := i.gaps ++ [r] }).intake.free +
      (((s.mapIntake fun i => { i with gaps := i.gaps ++ [r] }).intake.samples.filter fun x =>
        decide (r.1 ≤ x.seq ∧ x.seq ≤ r.2)).map Sample.space).sum)
  rw [hintake, hmem]
  exact ⟨rfl, rfl, rfl⟩

end

/-! ## Pauses (R437) -/

section
variable {s : State}

theorem intakePause_begins (hok : s.power.mainOk = true) (hen : s.on INT_CTRL_ENABLE = true) (hnot : s.on INT_STATUS_PAUSED = false)
    (hlow : s.intake.free ≤ s.intakeDist) : exec .intakePause s = .next
      ((((s.put INT_STATUS_PAUSED 1).count 0xCC).sendPause 0xFFFF).mapIntake fun i =>
        { i with pausedAt := some s.time, xoffAt := s.time, pauses := i.pauses + 1, carried := 0, due := 3,
                 tail0 := s.time, tail1 := s.time }) :=
  congrArg Host.Outcome.next ((if_neg (by simp [hok, hen])).trans ((if_neg (by simp [hnot])).trans (if_pos hlow)))

theorem intakePause_idle (hnot : s.on INT_STATUS_PAUSED = false) (hroom : s.intakeDist < s.intake.free) :
    exec .intakePause s = .next s := by
  change execIntakePause s = _
  simp only [execIntakePause, hnot, Bool.false_eq_true, if_false, if_neg (Nat.not_le.2 hroom), ite_self]

theorem intakePause_renews (hok : s.power.mainOk = true) (hen : s.on INT_CTRL_ENABLE = true) (hpaused : s.on INT_STATUS_PAUSED = true)
    (hlow : s.intake.free < s.resumeLevel) (hdue : s.intake.xoffAt + 40000 ≤ s.time) :
    exec .intakePause s = .next ((s.sendPause 0xFFFF).mapIntake fun i => { i with xoffAt := s.time }) :=
  congrArg Host.Outcome.next ((if_neg (by simp [hok, hen])).trans ((if_pos hpaused).trans ((if_neg (Nat.not_le.2 hlow)).trans (if_pos hdue))))

theorem intakePause_ends (hok : s.power.mainOk = true) (hen : s.on INT_CTRL_ENABLE = true) (hpaused : s.on INT_STATUS_PAUSED = true)
    (hroom : s.resumeLevel ≤ s.intake.free) : exec .intakePause s = .next ((s.put INT_STATUS_PAUSED 0).sendPause 0) :=
  congrArg Host.Outcome.next ((if_neg (by simp [hok, hen])).trans ((if_pos hpaused).trans ((if_pos hroom).trans
    (if_pos (by rw [hpaused, decide_eq_true hroom]; rfl)))))

/-! ## Round trips and the stopping distance (R438) -/

/-- The measurement that a port's registers show. -/
def rttShown (s : State) (p : Nat) : Nat := min (((s.intake.rtt p).map Prod.snd).foldl max 0) 0xFFFFFF

theorem rttShown_lt (s : State) (p : Nat) : rttShown s p < 2 ^ 24 := by
  unfold rttShown
  omega

theorem noteRtt_eq (s : State) : s.noteRtt =
    (((s.put INT_RTT0_NS (rttShown s 0)).put INT_RTT0_VALID (b2n !(s.intake.rtt 0).isEmpty)).put INT_RTT1_NS (rttShown s 1)).put
      INT_RTT1_VALID (b2n !(s.intake.rtt 1).isEmpty) := rfl

theorem noteRtt_ns (hs : s.RegsCanonical) : s.noteRtt.get INT_RTT0_NS = rttShown s 0 ∧ s.noteRtt.get INT_RTT1_NS = rttShown s 1 := by
  have h1 := put_ok (f := INT_RTT0_NS) (v := rttShown s 0) hs
  have h2 := put_ok (f := INT_RTT0_VALID) (v := b2n !(s.intake.rtt 0).isEmpty) h1
  have h3 := put_ok (f := INT_RTT1_NS) (v := rttShown s 1) h2
  rw [noteRtt_eq]
  constructor
  · rw [get_put_other h3 (by decide) (by decide) (by decide), get_put_other h2 (by decide) (by decide) (by decide),
      get_put_other h1 (by decide) (by decide) (by decide), get_put_same hs (by decide) (by decide)]
    exact Nat.mod_eq_of_lt (rttShown_lt s 0)
  · rw [get_put_other h3 (by decide) (by decide) (by decide), get_put_same h2 (by decide) (by decide)]
    exact Nat.mod_eq_of_lt (rttShown_lt s 1)

theorem noteRtt_valid (hs : s.RegsCanonical) :
    s.noteRtt.on INT_RTT0_VALID = !(s.intake.rtt 0).isEmpty ∧ s.noteRtt.on INT_RTT1_VALID = !(s.intake.rtt 1).isEmpty := by
  have h1 := put_ok (f := INT_RTT0_NS) (v := rttShown s 0) hs
  have h2 := put_ok (f := INT_RTT0_VALID) (v := b2n !(s.intake.rtt 0).isEmpty) h1
  have h3 := put_ok (f := INT_RTT1_NS) (v := rttShown s 1) h2
  have hbit (b : Bool) : (b2n b % 2 ^ (24 + 1 - 24) == 1) = b := by cases b <;> rfl
  rw [noteRtt_eq]
  constructor
  · rw [State.on, get_put_other h3 (by decide) (by decide) (by decide), get_put_other h2 (by decide) (by decide) (by decide),
      get_put_same h1 (by decide) (by decide)]
    exact hbit _
  · rw [State.on, get_put_same h3 (by decide) (by decide)]
    exact hbit _

/-- A sample of a pause taken on a port. -/
def rttTaken (s : State) (port ns : Nat) : State :=
  (s.countAt 0xCE (hostInst port) 1).mapIntake fun i =>
    { i with rtt0 := if port = 0 then (s.intake.pauses, ns - s.get INT_PAUSE_RESP_NS) :: i.rtt 0 else i.rtt0,
             rtt1 := if port = 1 then (s.intake.pauses, ns - s.get INT_PAUSE_RESP_NS) :: i.rtt 1 else i.rtt1,
             due := i.due - 2 ^ port }

theorem intakeRttSample_takes {port t ns : Nat} (hport : port < 2) (hok : s.power.mainOk = true) (hen : s.on INT_CTRL_ENABLE = true)
    (hnot : s.on INT_STATUS_PAUSED = false) (hdue : bit (s.intake.due &&& s.intake.carried) port = true) (hat : s.intake.pausedAt = some t)
    (hquiet : s.intake.tail port + 2000 ≤ s.time) (hns : ns = s.intake.tail port - t) :
    exec (.intakeRttSample port ns) s = .next (rttTaken s port ns).noteRtt := by
  change execIntakeRttSample port ns s = _
  have hlow := decide_eq_false (Nat.not_lt.2 (Nat.le_of_lt_succ hport))
  simp only [execIntakeRttSample, hat, hok, hen, hnot, hlow, hdue, decide_eq_false (Nat.not_lt.2 hquiet), hns, ne_eq, not_true_eq_false,
    decide_false, Bool.not_true, Bool.or_self, Bool.false_eq_true, if_false]
  rfl

theorem rttTaken_ok {port ns : Nat} (hs : s.RegsCanonical) : (rttTaken s port ns).RegsCanonical := (countAt_ok_reg hs).1

theorem rttTaken_intake (port ns : Nat) : (rttTaken s port ns).intake = { s.intake with
    rtt0 := if port = 0 then (s.intake.pauses, ns - s.get INT_PAUSE_RESP_NS) :: s.intake.rtt 0 else s.intake.rtt0
    rtt1 := if port = 1 then (s.intake.pauses, ns - s.get INT_PAUSE_RESP_NS) :: s.intake.rtt 1 else s.intake.rtt1
    due := s.intake.due - 2 ^ port } := by
  unfold rttTaken State.mapIntake
  dsimp only
  rw [countAt_intake]

/-- The measurement just taken is one of the last 16 pauses. -/
theorem rttTaken_some {port ns : Nat} (hport : port = 0 ∨ port = 1) : ((rttTaken s port ns).intake.rtt port).isEmpty = false := by
  rw [rttTaken_intake]
  rcases hport with h | h <;> subst h <;> simp [Intake.rtt]

theorem noteRtt_intake (s : State) : s.noteRtt.intake = s.intake := rfl

theorem noteRtt_mem (s : State) : s.noteRtt.mem = s.mem := rfl

theorem rttTaken_mem (port ns : Nat) : (rttTaken s port ns).mem = s.mem := by
  unfold rttTaken
  rw [mapIntake_mem, countAt_mem]

/-- A field of another register reads as before, whatever the window lists. -/
theorem get_put_elsewhere {f x : Fld} {v : Nat} (hother : x.addr ≠ f.addr) : (s.put f v).get x = s.get x := by
  have hread : ∀ (m : List (Nat × Word)) (w : Word), spGet regReset (spSet regReset m f.addr w) x.addr = spGet regReset m x.addr := by
    intro m w
    induction m with
    | nil => unfold spSet; split <;> simp [spGet, hother.symm]
    | cons p m ih =>
      unfold spSet
      split
      · simp only [spGet, ih]
      · split
        · next hsame => split <;> simp [spGet, hother.symm, hsame]
        · split <;> simp [spGet, hother.symm]
  unfold State.get State.put State.reg State.setReg
  rw [hread]

theorem noteRtt_enable : s.noteRtt.on INT_CTRL_ENABLE = s.on INT_CTRL_ENABLE := by
  rw [noteRtt_eq, State.on, get_put_elsewhere (by decide), get_put_elsewhere (by decide), get_put_elsewhere (by decide),
    get_put_elsewhere (by decide)]
  rfl

theorem intakeThreshMove_eq (hok : s.power.mainOk = true) (hen : s.on INT_CTRL_ENABLE = true) : exec .intakeThreshMove s = .next
    (if (!(s.noteRtt.on INT_RTT0_VALID || s.noteRtt.on INT_RTT1_VALID)) = true then s.noteRtt
     else if max 64 (min (s.noteRtt.get INT_RING_MIB * 64) (ceilDiv (s.noteRtt.portStop 0 (s.noteRtt.get INT_RTT0_NS) +
         s.noteRtt.portStop 1 (s.noteRtt.get INT_RTT1_NS) + 9216) 4096)) = s.noteRtt.get INT_DIST_D then s.noteRtt
     else ((s.noteRtt.put INT_DIST_D (max 64 (min (s.noteRtt.get INT_RING_MIB * 64) (ceilDiv (s.noteRtt.portStop 0
       (s.noteRtt.get INT_RTT0_NS) + s.noteRtt.portStop 1 (s.noteRtt.get INT_RTT1_NS) + 9216) 4096)))).count 0xCD).endPause) := by
  have hstill : s.noteRtt.power.mainOk = true := hok
  change execIntakeThreshMove s = _
  simp only [execIntakeThreshMove, hok, hen, hstill, noteRtt_enable, Bool.and_self, if_true, Bool.not_true, Bool.false_or]

end

/-- Settles O60: frames, pauses and measurements by what the intake holds. -/
theorem intakeTakesAndPauses : Obligations.IntakeTakesAndPauses := by
  refine ⟨⟨?fragment, ?gap, ?drops, fun _ _ _ _ => takeFragment_ahead, fun _ _ _ _ => takeFragment_noSpace, ?declared⟩,
    fun _ => intakePause_begins, fun _ => intakePause_idle, fun _ => intakePause_renews, fun _ => intakePause_ends, ?rtt0, ?rtt1, ?moves, ?none⟩
  case fragment =>
    intro s port prio h pl a hport hok hup ha hen hjob hkind hform
    exact congrArg Host.Outcome.next (intakeFrame_takes hport hok hup ha hen hjob hkind hform)
  case gap =>
    intro s port prio h pl a hport hok hup ha hen hjob hkind hform
    exact congrArg Host.Outcome.next (intakeFrame_takes hport hok hup ha hen hjob hkind hform)
  case drops =>
    intro s port prio h pl a hport hok hup ha hbars
    exact ⟨congrArg Host.Outcome.next (intakeFrame_drops hport hok hup ha hbars),
      congrArg Host.Outcome.next (intakeFrame_drops hport hok hup ha hbars)⟩
  case declared =>
    intro s port r
    obtain ⟨hgaps, hsamples, hmem⟩ := declare_intake s port 1 r
    refine ⟨hgaps, fun x hx => ?_, hmem⟩
    rw [hsamples] at hx
    have hout : (!decide (r.1 ≤ x.seq ∧ x.seq ≤ r.2)) = true := (List.mem_filter.1 hx).2
    rw [Bool.not_eq_true', decide_eq_false_iff_not] at hout
    omega
  case rtt0 =>
    intro s t ns hs hok hen hnot hdue hat hquiet hns
    refine ⟨_, intakeRttSample_takes (by decide) hok hen hnot hdue hat hquiet hns, ?_⟩
    rw [(noteRtt_valid (rttTaken_ok hs)).1, (noteRtt_ns (rttTaken_ok hs)).1, rttTaken_some (.inl rfl), noteRtt_intake, noteRtt_mem,
      rttTaken_mem]
    refine ⟨rfl, ?_, ?_, rfl, rfl⟩ <;> rw [rttTaken_intake] <;> rfl
  case rtt1 =>
    intro s t ns hs hok hen hnot hdue hat hquiet hns
    refine ⟨_, intakeRttSample_takes (by decide) hok hen hnot hdue hat hquiet hns, ?_⟩
    rw [(noteRtt_valid (rttTaken_ok hs)).2, (noteRtt_ns (rttTaken_ok hs)).2, rttTaken_some (.inr rfl), noteRtt_intake, noteRtt_mem,
      rttTaken_mem]
    refine ⟨rfl, ?_, ?_, rfl, rfl⟩ <;> rw [rttTaken_intake] <;> rfl
  case moves =>
    intro s a d hok hen ha hvalid hd hother
    subst ha hd
    have hmeasured : ¬((!(s.noteRtt.on INT_RTT0_VALID || s.noteRtt.on INT_RTT1_VALID)) = true) := by
      rcases hvalid with h | h <;> simp [h]
    rw [intakeThreshMove_eq hok hen, if_neg hmeasured, if_neg hother]
  case none =>
    intro s hok hen h0 h1 hs
    obtain ⟨hvalid0, hvalid1⟩ := noteRtt_valid hs
    rw [intakeThreshMove_eq hok hen, if_pos (by rw [hvalid0, hvalid1, h0, h1]; rfl)]

end Sys2Proof.Proofs
end
